-- ==== Sys2Proof/Word.lean ====
section
/-! DEFINITION. The plain data types the OK-820's commands and state are made of: bytes and words, status
codes (Table 9.3), operand forms of the commands, and the records the chapters of the manual name.
This file holds types and their plainest helpers only; what the device does with them is in Machine/. -/

namespace Sys2Proof

/-- One byte of a space (R4: byte 0 of a structure is the lowest-addressed one). -/
abbrev Byte := BitVec 8

/-- A table from numbers to records, listed with strictly rising keys (see `Tab.sorted`). -/
abbrev Tab (α : Type) := List (Nat × α)

/-- Status codes (R234, Table 9.3). -/
inductive Status
  | done | doneEmpty | donePartialDrop
  | faultIndex | faultAccess | faultTranslation | faultPoison | faultAlign | faultSync
  | checkFail | invalidArg | unsupported | quota
  | droppedLate | abortedReset | abortedRevoked | abortedFenced
  | tierFailed | leaseLost | conflict | staleVersion | notOwner
  | linkLost | timeout | busy | internal
deriving DecidableEq, Repr

/-- The 8-bit code of a status (Table 9.3). -/
def Status.code : Status → Nat
  | .done => 0x00 | .doneEmpty => 0x01 | .donePartialDrop => 0x02
  | .faultIndex => 0x10 | .faultAccess => 0x11 | .faultTranslation => 0x12 | .faultPoison => 0x13
  | .faultAlign => 0x14 | .faultSync => 0x15
  | .checkFail => 0x20 | .invalidArg => 0x21 | .unsupported => 0x22 | .quota => 0x23
  | .droppedLate => 0x30 | .abortedReset => 0x31 | .abortedRevoked => 0x32 | .abortedFenced => 0x33
  | .tierFailed => 0x40 | .leaseLost => 0x41 | .conflict => 0x42 | .staleVersion => 0x43 | .notOwner => 0x44
  | .linkLost => 0x50 | .timeout => 0x51 | .busy => 0x60 | .internal => 0x7F

/-- Completed statuses: nothing went wrong. -/
def Status.ok : Status → Bool
  | .done | .doneEmpty | .donePartialDrop => true
  | _ => false

/-- Where an access meets an uncorrectable error of on-chip storage (R505): a scratchpad line by its scratchpad offset,
a cached copy of a store line, a tally word, or the i-th full/empty waiter record. -/
inductive SramErr
  | spad (off : Nat)
  | copy (line : Nat)
  | tally (word : Nat)
  | waiter (i : Nat)
deriving DecidableEq, Repr

/-- What the reader of a line observes of its codeword (Table 3.5); the check symbols themselves are not held. `sram`: the
codeword is clean and the access meets an error of on-chip storage, in the bank (cell, number) named where it lies in one;
with no place the bank passes 16 corrected errors in 24 h (Table 19.6). -/
inductive LineObs
  | clean
  | corrected
  | uncorrectable
  | sram (err : Option SramErr) (bank : Option (Nat × Nat))
deriving DecidableEq, Repr

/-- An address as a requester forms it: a store address (R26) or a virtual address (R36). -/
inductive Addr
  | sa (a : BitVec 64)
  | va (v : BitVec 57)
deriving DecidableEq, Repr

/-- A store address taken apart (Table 2.1). -/
structure Sa where
  space : Nat
  dev : Nat
  off : Nat
deriving DecidableEq, Repr

/-- The fields of a store address (Table 2.1). -/
def Sa.of (a : BitVec 64) : Sa :=
  { space := (a.extractLsb' 60 4).toNat, dev := (a.extractLsb' 48 12).toNat, off := (a.extractLsb' 0 48).toNat }

/-- A store address put together (Table 2.1). -/
def Sa.bits (x : Sa) : BitVec 64 :=
  BitVec.ofNat 4 x.space ++ BitVec.ofNat 12 x.dev ++ BitVec.ofNat 48 x.off

/-- Atomic operations (R117). -/
inductive AtomOp
  | add | and | or | xor | swap | mins | maxs | minu | maxu | fadd32 | fadd64 | cas
deriving DecidableEq, Repr

/-- Tally operations (Table 5.3). -/
inductive TallyOp | add | sub | read | waitGe | waitEq | monitor
deriving DecidableEq, Repr

/-- Full/empty operations (Table 5.7). -/
inductive FeOp | writeEf | readFe | readFf | writeXf
deriving DecidableEq, Repr

/-- A general or vector register of a thread. -/
inductive RegId
  | r (n : Nat)
  | v (n : Nat)
deriving DecidableEq, Repr

/-- Width and extension of a scalar load (opcodes 0x10 to 0x14, Table 7.4). -/
inductive LoadKind | d8u | d16u | d32u | d32s | d64 | vec
deriving DecidableEq, Repr

/-- Who sent a request and how its answer travels (Table 4.2). -/
inductive Who
  | thread (t : Nat) (rd : RegId) (k : LoadKind)
  | port (p tag : Nat)
  | host (tag : Nat)
  | hostPosted (id : Nat)
  | stream (p id : Nat)
  | batch (p id rec : Nat)
  | engine (u : Nat)
  | migration
deriving DecidableEq, Repr

/-- What a request to a store line asks (R110, R117 to R121, R152). -/
inductive ReqOp
  | rdNc                                              -- read without caching (R121)
  | rdS | rdM | upgM                                  -- reads and upgrades of caching agents (R110)
  | wrCached                                          -- a store of a caching thread (R110)
  | wrInv                                             -- an invalidating write (R120)
  | atomic (f : AtomOp) (width : Nat) (x y : Nat)     -- operand x; compare value y (R117, R118)
  | fe (f : FeOp) (timeout : Nat)                     -- full/empty operation (R152)
deriving DecidableEq, Repr

/-- A request on its way to a home: requester, context, store offset, operation, bytes to write or to read. -/
structure Req where
  who : Who
  ctx : Nat
  off : Nat
  op : ReqOp
  len : Nat
  data : List Byte := []
  /-- The bytes of `data` a partial write lands (empty: all of them). -/
  mask : List Bool := []
  /-- The writer marks its data as poisoned (R69). -/
  poison : Bool := false
  /-- Request number, unique; orders the accesses of one thread. -/
  id : Nat := 0
deriving DecidableEq, Repr

/-- An operation on a lower tier: unit `u` of a managed block's fetch, a block's eviction write, or a read of
placed data. -/
inductive TierOp
  | fetch (block unit : Nat)
  | evict (block : Nat)
  | read (id : Nat)
deriving DecidableEq, Repr

/-- Message opcodes on an Ehryn link (Tables 13.6 and 14.4), and a chunk of stream data. -/
inductive MsgKind
  | rdS | rdM | upgM | wb | evict | rdNc | wrLine | wrPart | syncUpd | syncRd | syncWait | feOp
  | snpInv | snpShr | rspData | rspAck | rspSnp | rspFault | rspSync
  | openStream | pull | close | poisonLines | beacon | ack | final | abandon | bcnResult
  | batch | batchResult | batchDone | chunk | depot
deriving DecidableEq, Repr

/-- A message on an Ehryn link: the header of Table 13.5 and its slots (`args` numbers, `data` bytes). -/
structure Msg where
  kind : MsgKind
  tag : Nat := 0
  ctx : Nat := 0
  sa : BitVec 64 := 0
  status : Nat := 0
  grant : Bool := false
  poison : Bool := false
  args : List Nat := []
  data : List Byte := []
deriving DecidableEq, Repr

/-- Kinds of unit (Table 1.6). -/
inductive UnitKind | core | matrix | porter | assay | port | dma
deriving DecidableEq, Repr

/-- KIND of a unit in a UNIT field (Table 1.6). -/
def UnitKind.code : UnitKind → Nat
  | .core => 1 | .matrix => 2 | .porter => 3 | .assay => 4 | .port => 5 | .dma => 6

/-- Vector arithmetic (opcode 0x22, R183); FUNC numbers are not given (log 12). -/
inductive VArith | add | sub | mul | fma | min | max
deriving DecidableEq, Repr

/-- Vector conversion to TYPE and broadcast of a general register (opcode 0x23, R183). -/
inductive VConvert | fromFp32 | toFp32 | toInt32 | broadcast
deriving DecidableEq, Repr

/-- Lane reduction and dot product (opcode 0x24, R183). -/
inductive VReduce | sum | min | max | dot
deriving DecidableEq, Repr

/-- What the check lane finds on an attempt (R241 to R248); `selection`: the second selection datapath of an Assay
engine disagrees (R331). -/
inductive Lane | pass | fail | selection
deriving DecidableEq, Repr

/-- What shadow recheck did on the last attempt (R254 to R256): chosen tiles that agreed, tiles with no other unit,
and whether one disagreed (the unit it ran on is the first candidate). -/
structure ShadowObs where
  agreed : Nat := 0
  skipped : Nat := 0
  disagreed : Bool := false
deriving DecidableEq, Repr

/-! ### Depot (11_depot_attention.md) -/

/-- States of a home record (Table 11.3). -/
inductive HomeSt | held | released | taking | lost
deriving DecidableEq, Repr

/-- A home record (Table 11.3); `left` is EXPIRY in microseconds. -/
structure HomeRec where
  epoch : Nat
  owner : Nat
  ownerPart : Nat
  st : HomeSt
  taker : Nat := 0
  takerPart : Nat := 0
  left : Nat
deriving DecidableEq, Repr

/-- What a member asks of a key's home. -/
inductive DepKind | renew | open | release | acquire | commit | abandon | close | resolve
deriving DecidableEq, Repr

/-- A Depot message to a key's home (R284, R287): the member addressed, the sender, its MAPGEN and parameter digest,
and the sender's role for the key (0 none, 1 OWNER, 2 RELEASED, 3 TAKING, 4 LOST). -/
structure DepMsg where
  part : Nat
  depot : Nat
  dev : Nat
  sender : Nat
  mapgen : Nat
  digest : Nat
  key : Nat
  epoch : Nat := 0
  role : Nat := 0
deriving DecidableEq, Repr

/-- A home's answer: granted at an epoch, refused with a status, the record found, or no answer. -/
inductive HomeAns
  | granted (epoch : Nat)
  | refused (st : Status)
  | found (r : Option HomeRec)
  | unreachable
deriving DecidableEq, Repr

/-- A Depot command's place: a mailbox of the member, with the answer of a home on another device, or the home of a key
that receives a member's request at a port. -/
inductive DepSide
  | command (mb : Nat) (ans : HomeAns)
  | request (port : Nat) (m : DepMsg)
deriving DecidableEq, Repr

/-- A page of a lading as the taker of a hand-off copied it (R295). -/
structure PageCopy where
  tokens : Nat
  digest : Nat
  data : List Byte
  sums : List Byte
deriving DecidableEq, Repr

/-- The end of a hand-off copy at the taker (committed length and pages by layer; not `okay` on a fault or LINK_LOST),
or its abandonment as the home learns it. -/
inductive CopyEnd
  | taker (part depot key : Nat) (okay : Bool) (layers : List (Nat × List PageCopy))
  | home (port : Nat) (m : DepMsg)
deriving DecidableEq, Repr

/-- What an Assay engine observes of an index while it searches: sketch pages, list pages, and slots whose vector or norm
read as uncorrectable or mismatched, and sketch pages on failed targets (Table 12.7). -/
structure AsyObs where
  pages : List Nat := []
  lists : List Nat := []
  slots : List Nat := []
  failed : List Nat := []
deriving DecidableEq, Repr

/-- What an outbound stream carries: a leg of a caravan, or a Serai batch (R358, R374). -/
inductive OutUse
  | leg (car leg : Nat)
  | batch (id : Nat)
deriving DecidableEq, Repr

/-! ### Bring-up and self-repair (19_bringup_repair.md) -/

/-- What a self-test tests (Table 19.7): a unit in the encoding of R21, or an SRAM bank of a cell. -/
inductive TestUnit
  | phys (unit : Nat)
  | bank (cell bank : Nat)
deriving DecidableEq, Repr

/-- What the census finds on a flash target (R73, Table 3.6): its ID and parameter page read good, it offers NV-LPDDR4 and
trains; main and spare bytes of a page, pages of an erase block, LUNs, planes, erase blocks of a LUN, unique ID. -/
structure TargetPage where
  good : Bool
  main : Nat
  spare : Nat
  pages : Nat
  luns : Nat
  planes : Nat
  blocks : Nat
  uid : Nat
deriving DecidableEq, Repr

/-! ### Power (20_clocks_power_thermal.md) -/

/-- What one cell's loop measures in an interval (R498): the highest step in MHz at which its power stays within its logic
share (0: none), and its power in 0.1 W. -/
structure DvfsObs where
  fit : Nat
  power : Nat
deriving DecidableEq, Repr

/-- A PMP frame as it arrives at management port A (0) or B (1) (Table 18.11); `good`: its tag verifies. -/
structure PmpFrame where
  port : Nat
  good : Bool
  session : Nat
  seq : Nat
  frag : Nat := 0
  frags : Nat := 1
  msg : Nat := 0
  payload : List Byte := []
deriving DecidableEq, Repr

/-! ### Edge ports (13_edge_ports.md) -/

/-- An arriving flit (Table 13.4) and what the receiver's checks of it find: CRC, GCM tag, FEC codewords corrected and
uncorrectable, corrected symbols by physical lane. -/
structure Flit where
  crc : Bool
  tag : Bool
  ftype : Nat
  cclass : Nat
  sptag : Nat
  seq : Nat
  ack : Nat
  credits : Nat := 0
  corrected : Nat := 0
  uncorrectable : Nat := 0
  symbols : List Nat := []
deriving DecidableEq, Repr

end Sys2Proof
end

