-- ==== Sys2Proof/Syntax.lean ====
section
/-! DEFINITION. The commands of the OK-820: one constructor per row of spec/opcode_table.json, in the table's
order, each with the operands that say which object the row names and what comes from outside. -/

namespace Sys2Proof

/-- The commands of the block, one per row of the opcode table. -/
inductive Instr
  -- Translation (02)
  | requestAdmit (ing tag ctx : Nat) (addr : Addr) (op : ReqOp) (len : Nat) (data : List Byte)
  | mirrorWalkDone (miss : Nat)
  | genReread (miss : Nat)
  | missPost (miss : Nat)
  | pendingMissFreed
  | xltResp (missId : BitVec 32) (result : BitVec 8)
  | rewalkDone (miss : Nat)
  | missTimeout (miss : Nat)
  | xltInvRange (ctx : Nat) (gen : BitVec 32)
  | xltInvCtx (ctx : Nat) (gen : BitVec 32)
  | xltInvAll
  | xltInvRejected
  | invalidationComplete
  | xltCommit (gen : BitVec 32)
  | xltCommitErrClear
  | xltMqHead (head : Nat)
  -- Store and homes (03, 04)
  | homeAccess (i : Nat) (obs : LineObs)
  | idleEviction (part : Nat)
  | fetchUnitLanded (block unit retried : Nat) (bad : List Nat)
  | evictionWriteDone (block : Nat)
  | evictionWriteFail (block : Nat)
  | shootdownComplete (block : Nat)
  | flashBufferProgram (unit : Nat)
  | flashProgramFail (ch target eraseBlock : Nat)
  | flashTimeout (op : TierOp)
  | hostTimeout (op : TierOp)
  | hostReadCompletion (op : TierOp) (okay : Bool) (bad marked : List Nat)
  | garbageCollection (ch moved : Nat) (erased : List Nat)
  | wearLevelling (ch eraseBlock : Nat)
  | hbmPatrolScrub (stack row line : Nat) (obs : LineObs) (progress : BitVec 32)
  | rowSpare (stack row : Nat)
  | flashPatrol (ch retried : Nat) (weak : Bool)
  | snoopTimeout (line : Nat)
  | beaconRelease (port stream : Nat)
  | beaconHoldExpiry (port stream : Nat)
  | hostWrite (id : Nat)
  -- Sync timers (05)
  | waitTimeout (i : Nat)
  | waitPoll (i : Nat)
  | feWaitTimeout (i : Nat)
  -- Stage (06)
  | pulse (edge width : Nat)
  | windowClose
  | periodReport (part : Nat)
  | entryStart (part entry : Nat)
  | entryDeadline (part entry : Nat)
  | ptmRefresh (master : BitVec 64)
  | stgCommit (gen : BitVec 32)
  | stgCommitErrClear
  -- Drover instructions (07)
  | integerOp (t : Nat) (w : BitVec 32)
  | movk (t : Nat) (w : BitVec 32)
  | mfts (t : Nat) (w : BitVec 32)
  | branch (t : Nat) (w : BitVec 32)
  | jal (t : Nat) (w : BitVec 32)
  | jalr (t : Nat) (w : BitVec 32)
  | loadOp (t : Nat) (w : BitVec 32)
  | storeOp (t : Nat) (w : BitVec 32)
  | vld (t : Nat) (w : BitVec 32)
  | vst (t : Nat) (w : BitVec 32)
  | vgather (t : Nat) (w : BitVec 32)
  | vscatter (t : Nat) (w : BitVec 32)
  | atomicOp (t : Nat) (w : BitVec 32) (f : AtomOp)
  | tallyAdd (t : Nat) (w : BitVec 32)
  | tallySub (t : Nat) (w : BitVec 32)
  | tallyRead (t : Nat) (w : BitVec 32)
  | waitGe (t : Nat) (w : BitVec 32)
  | waitEq (t : Nat) (w : BitVec 32)
  | monitor (t : Nat) (w : BitVec 32)
  | writeEf (t : Nat) (w : BitVec 32)
  | readFe (t : Nat) (w : BitVec 32)
  | readFf (t : Nat) (w : BitVec 32)
  | writeXf (t : Nat) (w : BitVec 32)
  | flushRange (t : Nat) (w : BitVec 32)
  | isync (t : Nat) (w : BitVec 32)
  | issueOp (t : Nat) (w : BitVec 32)
  | launchOp (t : Nat) (w : BitVec 32)
  | haltOp (t : Nat) (w : BitVec 32)
  | yieldOp (t : Nat) (w : BitVec 32)
  | vectorArith (t : Nat) (w : BitVec 32) (f : VArith)
  | vectorConvert (t : Nat) (w : BitVec 32) (f : VConvert)
  | vectorReduce (t : Nat) (w : BitVec 32) (f : VReduce)
  | groupStart (core : Nat)
  | groupEnd (group : Nat)
  | unitRebind (kind : UnitKind) (logical : Nat)
  -- Matrix (08)
  | matmul (unit : Nat)
  | expertFfn (unit : Nat)
  | attend (unit : Nat) (lane : Lane)
  | operationComplete (kind : UnitKind) (unit : Nat) (lane : Lane) (shadow : ShadowObs)
  -- Porter (10)
  | gather (unit : Nat)
  | scatterAdd (unit : Nat)
  | moveRows (unit : Nat)
  | rowUpdate (unit : Nat) (lane : Lane)
  | moveSnapshotWritten (move : Nat)
  | moveReplay (move : Nat)
  | moveCommit (move : Nat)
  -- Assay (12)
  | scan (unit : Nat) (obs : AsyObs)
  | walk (unit : Nat) (obs : AsyObs)
  | rerank (unit : Nat) (obs : AsyObs)
  | repairQueueWork (part index : Nat)
  | sweep (part index : Nat)
  -- Depot (11)
  | leaseRenewalSend (part depot key : Nat)
  | leaseRenewal (port : Nat) (m : DepMsg)
  | renewalAnswer (part depot key : Nat) (ans : HomeAns)
  | leaseEnd (part depot key : Nat)
  | homeExpiry (part depot key : Nat)
  | lostHoldExpiry (part depot key : Nat)
  | handoffCopyDone (x : CopyEnd)
  | handoffCommit (port : Nat) (m : DepMsg)
  | commitAck (part depot key : Nat) (ans : HomeAns)
  | sourceDiscard (part depot key : Nat)
  | resolve (part depot key : Nat)
  | resolveAnswer (part depot key : Nat) (ans : HomeAns)
  | homeRecordsReceived (part depot : Nat) (rs : List (Nat × HomeRec))
  | endMarker (part depot slot : Nat)
  | recordsAcknowledged (part depot slot : Nat)
  | heldRequestTimeout (part depot i : Nat)
  -- Edge ports (13)
  | partnerDetect (p lanes : Nat)
  | detectTimeout (p : Nat)
  | eqDone (p : Nat) (good : List Nat)
  | eqTimeout (p : Nat)
  | alignDone (p : Nat)
  | alignTimeout (p : Nat)
  | linkAuthDone (p : Nat) (okay : Bool)
  | authTimeout (p : Nat)
  | configDone (p partner sptag : Nat) (coherent : Bool)
  | configTimeout (p : Nat)
  | recoverDone (p : Nat) (good : List Nat)
  | recoverTimeout (p : Nat)
  | laneSerWindow (p : Nat)
  | clockRecoveryLoss (p lane : Nat)
  | substitute (p lane : Nat)
  | remapAnswer (p seq ans : Nat)
  | remapTimeout (p : Nat)
  | spareEqDone (p : Nat)
  | flitReceive (p : Nat) (f : Flit)
  | retry (p seq : Nat)
  | keyupdate (p : Nat) (own : Bool)
  | flitAckSend (p : Nat)
  | rdS (p tag ctx : Nat) (addr : Addr)
  | rdM (p tag ctx : Nat) (addr : Addr)
  | upgM (p tag ctx : Nat) (addr : Addr)
  | wb (p tag ctx : Nat) (addr : Addr) (data : List Byte)
  | evict (p tag ctx : Nat) (addr : Addr)
  | rdNc (p tag ctx : Nat) (addr : Addr)
  | wrLine (p tag ctx : Nat) (addr : Addr) (data : List Byte)
  | wrPart (p tag ctx : Nat) (addr : Addr) (data : List Byte) (mask : BitVec 64)
  | syncUpd (p tag ctx : Nat) (sa opnd : BitVec 64) (sub : Bool)
  | syncRd (p tag ctx : Nat) (sa : BitVec 64)
  | syncWait (p tag ctx : Nat) (sa opnd : BitVec 64) (timeout : BitVec 32) (kind : Nat)
  | feOp (p tag ctx : Nat) (sa : BitVec 64) (f : FeOp) (timeout : BitVec 32) (data : List Byte)
  | snpInv (p line : Nat)
  | snpShr (p line : Nat)
  | rspData (p tag : Nat) (data : List Byte) (poison : Bool)
  | rspAck (p tag : Nat)
  | rspSnp (p line : Nat) (data : Option (List Byte)) (poison : Bool)
  | rspFault (p tag status : Nat)
  | rspSync (p tag status : Nat) (word : BitVec 64)
  | electricalFence (p : Nat)
  -- Caravans and Serai (14)
  | caravanStart (kind : UnitKind) (unit id : Nat) (host : Option (List Byte))
  | openStream (p : Nat) (m : Msg)
  | pull (p : Nat) (m : Msg)
  | dataFlit (p stream chunk : Nat) (data : List Byte) (lane : Lane)
  | close (p : Nat) (m : Msg)
  | poison (p : Nat) (m : Msg)
  | beacon (p : Nat) (m : Msg)
  | ack (p : Nat) (m : Msg)
  | legClose (p stream : Nat) (lane : Lane)
  | final (p : Nat) (m : Msg)
  | abandon (p : Nat) (m : Msg)
  | bcnResult (p : Nat) (m : Msg)
  | batch (p : Nat) (m : Msg)
  | batchResult (p : Nat) (m : Msg)
  | batchDone (p stream : Nat) (status : Option Nat)
  | ackTimeout (u : OutUse)
  | streamIdleFree (p stream : Nat)
  | fenceDone (car : Nat)
  | seraiWindowExpiry (batch : Nat)
  | bar4Read (tag off len : Nat)
  | bar4Write (off : Nat) (data : List Byte) (poison : Bool)
  | winSeg (half n : Nat) (v : BitVec 64)
  | registerWrite (half off size v : Nat)
  | dbSq (mb tail : Nat)
  | dbCq (mb head : Nat)
  | doorbellWake (mb : Nat)
  | commandFetch (mb : Nat) (bytes : List Byte) (block : Option (List Byte)) (poison : Bool)
  | mbxCommit (gen : BitVec 32)
  | mbxCommitErrClear
  | mbxHeartbeat
  | mbxWdogExpiry (mb : Nat)
  | hostLinkDown (half : Nat)
  | hostLinkUp (half : Nat)
  | perstAssert (width : Nat)
  | resetNAssert (width : Nat)
  | hotReset (half : Nat) (bifur : Bool)
  | idGet (mb : Nat)
  | resGet (mb : Nat)
  | partCreate (mb : Nat)
  | partDestroy (mb : Nat)
  | cellScrubDone (cell : Nat)
  | partGet (mb : Nat)
  | partQuotaSet (mb : Nat)
  | mbxSet (mb : Nat)
  | evqSet (mb : Nat)
  | alloc (mb : Nat)
  | free (mb : Nat)
  | pin (mb : Nat)
  | unpin (mb : Nat)
  | gsetWrite (mb : Nat)
  | protSet (mb : Nat)
  | extentCreate (mb : Nat) (pages : List Nat)
  | extentRevoke (mb : Nat)
  | revocationDrainEnd (ext : Nat)
  | extentDestroy (mb : Nat)
  | evictReserveSet (mb : Nat)
  | tierTimeoutsSet (mb : Nat)
  | windowBind (mb : Nat)
  | windowUnbind (mb : Nat)
  | regionOpen (mb : Nat)
  | regionClose (mb : Nat)
  | regionBegin (mb : Nat)
  | regionPublish (mb : Nat)
  | regionAbort (mb : Nat)
  | regionCloseAll (mb : Nat)
  | ctxCreate (mb : Nat)
  | ctxSet (mb : Nat)
  | ctxDestroy (mb : Nat)
  | tlbInvalidateRange (mb : Nat)
  | tlbInvalidateCtx (mb : Nat)
  | tlbInvalidateAll (mb : Nat)
  | stageConfig (mb : Nat)
  | tollCommit (mb : Nat)
  | tollGet (mb : Nat)
  | itinLoad (mb : Nat)
  | itinStart (mb : Nat)
  | itinStop (mb : Nat)
  | tallyInit (mb : Nat)
  | stageGet (mb : Nat)
  | launchCmd (mb : Nat)
  | issueCmd (mb : Nat)
  | depotCreate (mb : Nat)
  | depotMapSet (mb : Nat)
  | depotOpen (x : DepSide)
  | depotRelease (x : DepSide)
  | depotAcquire (x : DepSide)
  | depotClose (x : DepSide)
  | depotDestroy (mb : Nat)
  | depotGet (mb : Nat)
  | indexCreate (mb : Nat)
  | indexDestroy (mb : Nat)
  | indexInsert (mb : Nat)
  | indexDelete (mb : Nat)
  | indexLink (mb : Nat)
  | indexPublish (mb : Nat)
  | indexHold (mb : Nat)
  | indexRelease (mb : Nat)
  | indexState (mb : Nat)
  | storeSet (mb : Nat)
  | routeSet (mb : Nat)
  | portConfig (mb : Nat)
  | portDisable (mb : Nat)
  | portEnable (mb : Nat)
  | portFence (mb : Nat)
  | portUnfence (mb : Nat)
  | syncMode (mb : Nat)
  | fabricTimers (mb : Nat)
  | frbTableLoad (mb : Nat)
  | frbTableFree (mb : Nat)
  | frbStreamSet (mb : Nat)
  | frbStreamFree (mb : Nat)
  | frbStreamClear (mb : Nat)
  | attest (mb : Nat)
  | waybillKeySeal (mb : Nat)
  | fwStage (mb : Nat)
  | keyslotAlloc (mb : Nat)
  | keyslotRetire (mb : Nat)
  | checkSet (mb : Nat)
  | shadowMaxSet (mb : Nat)
  | selftest (mb : Nat)
  | testGet (mb : Nat)
  | quarantineLift (mb : Nat)
  | ledgerRead (mb : Nat)
  | scrubSet (mb : Nat)
  | mbxWdogSet (mb : Nat)
  | powerEnvelope (mb : Nat)
  | cellFreqPin (mb : Nat)
  | clkoutSet (mb : Nat)
  | powerGet (mb : Nat)
  | dbgUnlock (mb : Nat)
  | dbgDump (mb : Nat)
  | dbgLock (mb : Nat)
  | fuseReadDone (agree parity : Bool)
  | bootImageVerify (fail : Option Nat) (svn : BitVec 32)
  | imageBroadcast (fails : List Nat)
  | stackWaveStart (w : Nat)
  | stackTrainingDone (stack : Nat) (okay : Bool)
  | cellReady (cell : Nat)
  | portCalibrated (p : Nat) (okay : Bool)
  | mgmtPortReady (port : Nat)
  | censusTarget (ch target : Nat) (t : Option TargetPage)
  | enrolScanDone (ch : Nat) (bad : List Nat)
  | backgroundErase (ch : Nat) (erased : List Nat)
  | ledgerMerge (held : List Nat)
  | ledgerWrite (ok : List Nat)
  | ledgerRetry (ok : List Nat)
  | ledgerCompact (ok : List Nat)
  | selftestRun (unit : TestUnit)
  | selftestDone (unit : TestUnit) (fail : Option Nat)
  | selftestStarved (unit : TestUnit)
  | clockLoss (source : Nat)
  | clockRestart (source : Nat)
  | dvfsInterval (cells : List DvfsObs) (pkg logic stks : Nat)
  | sensorRead (cells tiles stks : List Nat)
  | railFault (rail ns : Nat) (silent : Bool)
  | vauxLoss
  | coolInlet (value : BitVec 16)
  | coolFlow (value : BitVec 16)
  | coolantStale
  | fatalError (cause loc : Nat)
  | eventSignal (part : Nat)
  | rasCommit (gen : BitVec 32)
  | rasCommitErrClear
  | rasQHead (head : Nat)
  | hello (port keyIdx : Nat) (payload : List Byte)
  | auth (port : Nat) (block : List Byte)
  | cmd (f : PmpFrame)
  | image (f : PmpFrame)
  | keepalive (f : PmpFrame)
  | fullReset (f : PmpFrame) (bifur : Bool)
  | pmpClose (f : PmpFrame)
  | enrol (port slot hash usage serial : Nat) (block : List Byte)
  | handshakeTimeout (port : Nat)
  | sessionTimeout (session : Nat)
  | fragmentTimeout (session : Nat)
  | idcode
  | samplePreload (pins next : BitVec 2944)
  | extest (pins next : BitVec 2944)
  | clamp
  | highz
  | extestPulse (pins next : BitVec 2944)
  | extestTrain (pins next : BitVec 2944)
  | bypass
  | resetNRelease (bifur : Bool)
  | perstRelease (bifur : Bool)
  | vauxInRegulation (sa : Nat)
  | fecLockLoss (p : Nat)
  | mgmtLinkDown (port : Nat)
  | mgmtLinkUp (port : Nat)
  | configSpaceAccess (tag : Nat) (power : Option Bool)
  | coreUncorrectableFault (core : Nat)
  | vcoreOvercurrent (overI : Bool)
  | testLogicReset
  | flashReadDone (id retried : Nat) (bad : Bool)
  | ptmContextExpiry
deriving DecidableEq, Repr

end Sys2Proof
end

