-- ==== Sys2Proof/Config.lean ====
section
/-! DEFINITION. What one implementation fixes and the spec leaves open: the free values (no body, so that no
proof can use a particular one), the cryptographic functions and fused keys, and the fused contents. -/

namespace Sys2Proof.Config

/-- Free values, drawn in order by a counter of the state (log 3). -/
opaque freeNat : Nat → Nat

/-- Free values that depend on operands: a tag naming the operation and the operands' numbers (log 3). -/
opaque freeOf : Nat → List Nat → Nat

/-- SHA-384 (FIPS 180-4) of a byte string (log 4). -/
opaque sha384Bits : List Byte → BitVec 384
/-- The digest as a number. -/
def sha384 (b : List Byte) : Nat := (sha384Bits b).toNat

/-- KMAC128 (SP 800-185) under a key, over a byte string, customised by a byte string, to the given bits (log 4). -/
opaque kmac128Bits : (key : Nat) → (data custom : List Byte) → (bits : Nat) → BitVec bits
/-- The tag as a number. -/
def kmac128 (key : Nat) (data custom : List Byte) (bits : Nat) : Nat := (kmac128Bits key data custom bits).toNat

/-- Whether both signatures of a message (Ed25519 and ML-DSA-65) verify under the named key (log 4). -/
opaque sigOk : (key : Nat) → (msg sig : List Byte) → Bool

/-- The signatures the device makes under its attestation key (log 4). -/
opaque sign : (msg : List Byte) → List Byte

/-- Keys derived from the fused roots: purpose code and context numbers (R445, R446; log 4). -/
opaque derive : (purpose : Nat) → (context : List Nat) → Nat

/-- Sealing (authenticated encryption) of a message under a public key (R453; log 4). -/
opaque sealUnder : (key nonce : Nat) → (msg : List Byte) → List Byte

/-- Whether owner sealing keys are well formed: no low-order X25519 point, an ML-KEM-768 key that passes its input check
(R452; log 4). -/
opaque sealKeysOk : List Byte → Bool

/-- Contents of the fuse arrays: serial number (log 5). -/
opaque fusedSerialBits : BitVec 64
def fusedSerial : Nat := fusedSerialBits.toNat
/-- Manufacturing repair map: bad Drover core slots of a cell and bad matrix slots of a tile, as masks (R477; log 5). -/
opaque fusedBadCores : Nat → Nat
opaque fusedBadMatrix : Nat → Nat
/-- Physical lanes of an edge port failed at test, as a mask (R477); a port with two is fused off (log 5). -/
opaque fusedBadLanes : Nat → Nat
/-- Fused values of the anti-rollback counters, 0 to 64 each (R456; log 5). -/
opaque fusedCounterOf : Nat → Fin 65
def fusedCounter (n : Nat) : Nat := (fusedCounterOf n).val
/-- Fused operator key slots 0-3: key hash × 4 + usage bits ([0] MGMT, [1] TABLES), 0 where blank (Table 18.9; log 5). -/
opaque fusedSlotBits : Nat → BitVec 386
def fusedSlot (k : Nat) : Nat := (fusedSlotBits k).toNat
/-- Public-key hashes held in the boot ROM for classes IZ_FW, IZ_DEBUG and IZ_CA, and the device certificate's (Table
18.9; log 5). -/
opaque keyHashBits : Nat → BitVec 384
def keyHash (k : Nat) : Nat := (keyHashBits k).toNat

end Sys2Proof.Config
end

