-- ==== Sys2Proof/Machine/State.lean ====
section
/-! DEFINITION. The state of the OK-820 as plain data, chapter by chapter, and the state right after reset.
Every field's default value is its value after a full device reset with nothing fused or written (log 1); fields
that survive a full device reset are named where `Machine/Reset.lean` keeps them. -/

namespace Sys2Proof.Machine

/-- What the device sends outside; the newest stands first in `State.outs` (log 2). -/
inductive Out
  | msix (vector : Nat)                                        -- an MSI-X message (R401)
  | hostWr (addr : Nat) (data : List Byte)                     -- a DMA write to host memory
  | hostBlk (ext block : Nat) (epoch : BitVec 32)              -- a managed block written to an extent (R83)
  | hostRd (ext off : Nat)                                     -- a DMA read of host memory
  | cpl (tag : Nat) (st : Nat) (poison : Bool) (data : List Byte)  -- a PCIe completion: 0 success, 1 UR, 2 RRS, 4 CA
  | link (port : Nat) (msg : Msg)                              -- an Ehryn message of Table 13.5 or 14.4
  | ctl (port : Nat) (code : Nat) (value : Nat)                -- a control flit (Table 13.4)
  | pmp (session : Nat) (kind : Nat) (data : List Byte)        -- a PMP frame (R458)
  | pin (name : String) (level : Nat)                          -- an output pin (R521)
  | i3c (addr value : Nat)                                     -- an I3C transfer the device starts
deriving DecidableEq, Repr
/-! ### Translation (02_address_spaces.md) -/

/-- A context record (R32, Table 2.3). -/
structure Ctx where
  part : Nat
  keyslot : Nat
  ingress : BitVec 10
  translate : Bool
  mirrorHdr : Nat
  root : Nat
  lastGen : BitVec 32
deriving DecidableEq, Repr

/-- A TLB entry (R43, R44): `tlb` 0-7 edge-port ingress, 8 host-port ingress, 16+t tile t; `level` 1 to 3;
`merged` covers 16 pages; `page` is the first VA page number, `target` the first store offset. -/
structure TlbEnt where
  tlb : Nat
  ctx : Nat
  gen : BitVec 32
  level : Nat
  merged : Bool
  page : Nat
  target : Nat
  write : Bool
deriving DecidableEq, Repr

/-- States of a pending miss (Table 2.9); DONE and FAULT end it. -/
inductive MissSt | walk | post | wait | rewalk
deriving DecidableEq, Repr

/-- A request waiting for the translation of its virtual address, with its page offset in `req.off`. -/
structure VReq where
  req : Req
  ingress : Nat
  page : Nat
  write : Bool
  since : Nat
deriving DecidableEq, Repr

/-- A pending miss (R49 to R51). -/
structure Miss where
  ctx : Nat
  page : Nat
  ingress : Nat
  st : MissSt
  since : Nat
  reqs : List VReq
  missId : Option (BitVec 32) := none
  /-- GEN as the walk first read it (R42). -/
  genFirst : BitVec 32
  genLast : BitVec 32
  oddReads : Nat := 0
  repeated : Bool := false
  stale : Bool := false
  malformed : Bool := false
  odd : Bool := false
deriving DecidableEq, Repr

/-- A started invalidation (R46, R47, R57): scope 0 range, 1 context, 2 all; `waits` are the requests translated
by removed entries that are not yet ordered; `mb` the mailbox that issued it, none for XLT_INV_CTL. -/
structure Inv where
  scope : Nat
  ctx : Nat
  gen : BitVec 32
  page : Nat
  pages : Nat
  waits : List Nat
  started : Bool
  mb : Option Nat
deriving DecidableEq, Repr

/-- The running or shadow values of the miss-path group (R56, Table 2.14). -/
structure XltCfg where
  enable : Bool := false
  vector : Nat := 0
  timeout : Nat := 0x032
  mqBase : Nat := 0
  mqLog : Nat := 6
deriving DecidableEq, Repr

/-- The XLT block (R30 to R57). -/
structure Xlt where
  ctxs : Tab Ctx := []
  tlb : List TlbEnt := []
  misses : Tab Miss := []
  nextMiss : Nat := 0
  /-- Requests held at their ingress for a free miss entry (R49), oldest first. -/
  held : List VReq := []
  missId : BitVec 32 := 0
  shadow : XltCfg := {}
  run : XltCfg := {}
  gen : BitVec 32 := 0
  err : Bool := false
  mqTail : Nat := 0
  mqHead : Nat := 0
  invVa : BitVec 64 := 0
  invLen : Nat := 0
  invs : List Inv := []
  invStatus : Nat := 0
  invDrop : Bool := false
  mirrorStale : Bool := false
deriving DecidableEq, Repr
/-! ### The store (03_store_tiers.md) -/

/-- Class and tier of an allocation (R58). -/
inductive Tier | managed | hbm | flash | host
deriving DecidableEq, Repr

/-- A shared region (R130 to R136): contents of window w, block b are content block `map (w*nblk+b)`, the region's
own block b where unlisted. `winVer` gives the version a read window 0-15 holds; `work` the working windows. -/
structure Work where
  ctx : Nat
  base : Nat
  isSealed : Bool
  copied : List Nat
deriving DecidableEq, Repr

structure Region where
  version : Nat := 1
  winVer : Tab Nat := [(0, 1)]
  map : Tab Nat := []
  work : Tab Work := []
  opens : List (Nat × Nat) := []
  /-- Contexts whose open or working view was ended for them, by window (R135). -/
  barred : List (Nat × Nat) := []
  /-- Content blocks of copies, with the stack or channel they are charged to (R133). -/
  charged : Tab Nat := []
deriving DecidableEq, Repr

/-- An allocation (R58 to R65, R71, R130), keyed by its store offset. -/
structure Alloc where
  size : Nat
  tier : Tier
  cells : List Nat
  sync : Bool := false
  /-- Blocks pinned by the PIN flag or a pin command (R90). -/
  pins : List Nat := []
  near : List Nat := []
  ctx : Nat
  part : Nat
  ext : Option Nat := none
  /-- Offset of the allocation in its extent. -/
  extOff : Nat := 0
  region : Option Region := none
deriving DecidableEq, Repr

/-- A protection record (Table 2.10) of one 4 KiB store page. -/
structure Prot where
  owner : Nat
  isSealed : Bool
  gset : Nat
deriving DecidableEq, Repr

/-- A grant (Table 2.11). -/
structure Grant where
  valid : Bool
  w : Bool
  r : Bool
  ctx : Nat
deriving DecidableEq, Repr

/-- States of a managed block (Table 3.9); a block without a record is UNMAT. -/
inductive BlockSt | hbm | evicting | lower | fetching | failed
deriving DecidableEq, Repr

/-- A lower-tier place: flash channel (with target) or host extent. -/
inductive Place
  | flash (ch : Nat) (targets : List Nat)
  | host (ext : Nat)
deriving DecidableEq, Repr

/-- The record of a managed block (R87 to R96). `waitSince` is set while it waits for a frame (FRAME_WAIT);
`landed` lists landed units; `first` the unit transferred first; `issued` when its reads or writes were issued. -/
structure Block where
  alloc : Nat
  st : BlockSt
  frame : Option Nat := none
  age : Nat := 0
  touched : Bool := false
  pinned : Bool := false
  lower : Option Place := none
  lowerValid : Bool := false
  epoch : BitVec 32 := 0
  first : Nat := 0
  landed : List Nat := []
  issued : Nat := 0
  waitSince : Option Nat := none
  waiters : List (Req × Nat) := []
deriving DecidableEq, Repr

/-- A frame not yet reusable after a location switch (R95). -/
structure Shoot where
  block : Nat
  cell : Nat
  since : Nat
deriving DecidableEq, Repr

/-- A host-backed extent (R81, R82). -/
structure Extent where
  part : Nat
  size : Nat
  pages : List Nat
  huge : Bool
  cell : Nat
  backing : Bool
  ctx : Nat
  keyslot : Nat
  failed : Bool := false
  draining : Bool := false
  retired : Bool := false
deriving DecidableEq, Repr

/-- One flash channel (R72 to R79, R99, R106); `toRow` counts timeouts in a row by target, `wear` lists erase counts of the erase
blocks the commands have named. -/
structure Flash where
  admitted : BitVec 16 := 0
  failedT : BitVec 16 := 0
  censusDone : Bool := false
  censusFail : Bool := false
  geometry : Option (Nat × Nat × Nat × Nat) := none
  /-- Good raw and usable capacity in 64 KiB units (R76). -/
  good : Nat := 0
  usable : Nat := 0
  /-- Erased units of 16 KiB, and units in an erase block. -/
  erased : Nat := 0
  perBlock : Nat := 1
  toRow : Tab Nat := []
  wear : Tab Nat := []
  threshold : Tab Nat := []
  bad : Nat := 0
  gcUnits : Nat := 0
deriving DecidableEq, Repr

/-- A read of placed data on a lower tier in progress. -/
structure TierRead where
  id : Nat
  place : Place
  req : Req
  since : Nat
deriving DecidableEq, Repr

/-- A unit of placed FLASH data in the write buffer (R75). -/
structure BufUnit where
  since : Nat
  lines : List Nat
deriving DecidableEq, Repr

/-- One HBM stack (R62 to R64, R102, Table 3.13). -/
structure Stack where
  ready : Bool := false
  failed : Bool := false
  attempts : Nat := 0
  srf : Bool := false
  hotref : Bool := false
  spared : Nat := 0
  retired : Nat := 0
  temp : Int := 0
  passes : Nat := 0
  progress : Nat := 0
  /-- Correction streak by row, in passes (R102). -/
  rows : Tab Nat := []
deriving DecidableEq, Repr

/-- The store (SPACE 0x0): contents by content address, line metadata, allocations and tiers. -/
structure Store where
  mem : Tab Byte := []
  poison : Tab Unit := []
  fe : Tab Nat := []
  key : Tab Nat := []
  spad : Tab Byte := []
  spadPoison : Tab Unit := []
  allocs : Tab Alloc := []
  prot : Tab Prot := []
  gsets : Tab (List Grant) := []
  exts : Tab Extent := []
  blocks : Tab Block := []
  /-- Next content block number for copies of region blocks; above every store offset's block. -/
  nextCopy : Nat := 2 ^ 32
  /-- Blocks waiting for a frame, oldest first (R89). -/
  frameQ : List Nat := []
  /-- Blocks shadowed under PUBLISH_AT_END, with the operation (R172). -/
  shadow : Tab Nat := []
  shoot : List Shoot := []
  flash : Vector Flash 20 := Vector.replicate 20 {}
  reads : List TierRead := []
  nextRead : Nat := 0
  buf : Tab BufUnit := []
  stks : Vector Stack 20 := Vector.replicate 20 {}
  /-- Nanoseconds (R99, R100). -/
  flashTimeout : Nat := 20000000
  hostTimeout : Nat := 2000000
  scrubHours : Nat := 24
  retryMax : Nat := 8
  hostDownSince : Option Nat := none
deriving DecidableEq, Repr
/-! ### Coherence (04_memory_model_coherence.md) -/

/-- A directory entry (Table 4.3): `m` set when held in M by requester port `owner`; else `sharers` hold S.
`stamp` orders entries by use (R111). -/
structure DirEnt where
  m : Bool
  owner : Nat
  sharers : BitVec 28
  stamp : Nat
deriving DecidableEq, Repr

/-- A dirty line in a cell's caches. -/
structure Dirty where
  data : List Byte
  poison : Bool
deriving DecidableEq, Repr

/-- A request between its ingress or issuing agent and its home; `tr` names the (context, page) it was
translated by (R46). -/
structure Fly where
  req : Req
  tr : Option (Nat × Nat)
deriving DecidableEq, Repr

/-- A snoop an edge port's coherent agent has not answered (R127), with the requests that wait on it. -/
structure Snoop where
  line : Nat
  port : Nat
  inv : Bool
  since : Nat
  reqs : List Req
deriving DecidableEq, Repr

/-- What a host write held at the port for ordering will do (R122). -/
structure HeldWr where
  id : Nat
  ctx : Nat
  sa : BitVec 64
  data : List Byte
  poison : Bool
deriving DecidableEq, Repr

/-- Coherence state: directory, dirty lines, requests in flight, snoops, posted host writes. -/
structure Coh where
  dir : Tab DirEnt := []
  dirty : Tab Dirty := []
  fly : List Fly := []
  nextReq : Nat := 1
  stamp : Nat := 0
  snoops : List Snoop := []
  /-- Posted host writes not yet acknowledged (R122). -/
  posted : List Nat := []
  /-- Posted writes to sync space or sync lines held for the writes in `posted` before them. -/
  heldWr : List (HeldWr × List Nat) := []
deriving DecidableEq, Repr

/-! ### Sync (05_synchronisation.md) -/

/-- Who waits: a thread with its result register, or a remote requester behind a port. -/
inductive Waiter
  | thread (t : Nat) (rd : RegId)
  | remote (p tag : Nat)
deriving DecidableEq, Repr

/-- A waiter of a tally word (R140, R145, R146); `poll`: it found no record and polls. -/
structure TWait where
  word : Nat
  op : TallyOp
  operand : BitVec 64
  timeout : Nat
  since : Nat
  ctx : Nat
  who : Waiter
  poll : Bool
deriving DecidableEq, Repr

/-- A queued full/empty operation (R153). -/
structure FWait where
  line : Nat
  op : FeOp
  data : List Byte
  poison : Bool
  timeout : Nat
  since : Nat
  ctx : Nat
  who : Waiter
deriving DecidableEq, Repr

structure Sync where
  words : Tab (BitVec 64) := []
  waiters : List TWait := []
  feq : List FWait := []
  feMode : Bool := false
  /-- BEACON_HOLD in nanoseconds (R125). -/
  beaconHold : Nat := 1000000
deriving DecidableEq, Repr

/-! ### Drover threads (07_drover_threads.md) -/

inductive ThreadSt | running | parked | halted | faulted | stopped
deriving DecidableEq, Repr

/-- A thread context in use (R178, R190). `pend` lists destination registers of requests outstanding;
`out` counts its outstanding requests (R180). -/
structure Thread where
  regs : Vector (BitVec 64) 32 := Vector.replicate 32 0
  vecs : Vector (BitVec 512) 16 := Vector.replicate 16 0
  rp : BitVec 32 := 0
  vp : BitVec 16 := 0
  ts : BitVec 8 := 0
  pc : BitVec 64 := 0
  ctx : Nat := 0
  group : Nat := 0
  st : ThreadSt := .running
  pend : List RegId := []
  out : Nat := 0
  insn : BitVec 32 := 0
  /-- Requests numbered below this belong to an earlier thread of the same number. -/
  born : Nat := 0
  /-- PC and instruction word of each request outstanding, by request number; 0 for a parked sync operation. -/
  log : Tab (BitVec 64 × BitVec 32) := []
deriving DecidableEq, Repr

inductive GroupSt | queued | running | ending
deriving DecidableEq, Repr

/-- A thread group (R189, R194). `desc` is the descriptor as read, `entry` the itinerary entry it belongs to. -/
structure Group where
  st : GroupSt
  core : Nat
  phys : Nat
  part : Nat
  index : Nat
  /-- Store offset of the descriptor. -/
  off : Nat
  desc : List Byte
  entry : Option Nat
  threads : List Nat := []
  halted : Nat := 0
  faulted : Nat := 0
  firstFault : Option Status := none
  poisoned : Bool := false
  stored : Bool := false
  /-- Set where the ending is decided before the threads ran (DONE_EMPTY, UNSUPPORTED). -/
  forced : Option Status := none
deriving DecidableEq, Repr

structure Drover where
  threads : Tab Thread := []
  groups : Tab Group := []
  nextGroup : Nat := 0
  /-- Physical slot bound to a logical core, where not slot (core mod 16) (R22). -/
  slot : Tab Nat := []
  due : List Nat := []
  unbound : List Nat := []
deriving DecidableEq, Repr
/-! ### Stage and itinerary (06_stage_itinerary.md) -/

inductive StgSt | off | acquire | locked | flywheel | lost
deriving DecidableEq, Repr

/-- Values of STG_CTL and STG_PERIOD (Tables 6.10, 6.11). -/
structure StgCfg where
  enable : Bool := false
  outmode : Nat := 1
  flywheel : Nat := 8
  vector : Nat := 0
  window : Nat := 0x00A
  nominal : Nat := 0
deriving DecidableEq, Repr

/-- An itinerary entry (Table 6.3). -/
structure Entry where
  deadline : Nat
  start : Nat
  valid : Bool
  publish : Bool
  rate : Nat
  slot : Nat
  cells : Nat
  sub : Nat
  ukind : Nat
  opkind : Nat
  opref : Nat
  depFirst : Nat
  depCount : Nat
  ralFirst : Nat
  ralCount : Nat
deriving DecidableEq, Repr

/-- A dependency record (R169). -/
inductive Dep
  | tallyGe (sync : Nat) (value : Nat)
  | caravanDone (off : Nat)
deriving DecidableEq, Repr

/-- A checked itinerary (R167 to R169): re-alignment records as (sync offset, planned value). -/
structure Itin where
  entries : List Entry
  deps : List Dep
  rals : List (Nat × Nat)
  /-- Stage number the load named (R167). -/
  stage : Option Nat
  /-- TOLL_DIGEST as 48 bytes, little-endian (Table 6.2), and the SHA-384 of the image (R457). -/
  digest : Nat := 0
  image : Nat := 0
deriving DecidableEq, Repr

/-- What became of a due entry in the running period (R170). -/
inductive EntSt | due | started | ended | dropped
deriving DecidableEq, Repr

/-- Drift summary (Table 5.8a). -/
structure Drift where
  words : Nat := 0
  nonzero : Nat := 0
  maxDrift : Int := 0
  maxSa : Nat := 0
  absSum : Nat := 0
  sat : Nat := 0
  und : Nat := 0
  mis : Nat := 0
deriving DecidableEq, Repr

/-- A period report not yet written (R513). -/
structure Report where
  stage : Nat
  flags : Nat
  due : Nat
  started : Nat
  delayed : Nat
  dropped : Nat
  firstDrop : Nat
  estimate : Nat
  drift : Drift
  maxEntry : Nat
  /-- Counter deltas of the period by BAR0 offset. -/
  deltas : Tab Nat
  chkFail : Nat
  retryOk : Nat
  evDrop : Nat
  since : Nat
deriving DecidableEq, Repr

/-- A partition's itineraries and its running period. -/
structure ItinSt where
  run : Option Itin := none
  pending : Option Itin := none
  held : Option Itin := none
  isHeld : Bool := false
  startReq : Bool := false
  stopReq : Bool := false
  ents : Tab EntSt := []
  delayed : Nat := 0
  started : Nat := 0
  /-- Caravans issued in the period and acknowledged, by first descriptor (R169). -/
  carDone : List Nat := []
  base : Tab Nat := []
  chkFail : Nat := 0
  retryOk : Nat := 0
  evDrop : Nat := 0
  reports : List Report := []
deriving DecidableEq, Repr

/-- The Stage unit. `date` is the date of the last boundary, or of the last pulse in ACQUIRE, in units of
10 ns / 840: every date T + k·E is exact in them, since E is a sum of 10 ns units over at most 8 (R159, R161). -/
structure Stage where
  st : StgSt := .off
  date : Nat := 0
  seen : Bool := false
  good : Nat := 0
  missed : Nat := 0
  intervals : List Nat := []
  lastFly : Bool := false
  shadow : StgCfg := {}
  run : StgCfg := {}
  /-- Values in force from the next boundary (R164). -/
  next : StgCfg := {}
  gen : BitVec 32 := 0
  err : Bool := false
  stage : BitVec 48 := 0
  lastRej : Nat := 0
  ptmSeq : BitVec 32 := 0
  ptmStage : BitVec 48 := 0
  ptmHost : BitVec 64 := 0
  /-- PTM context: time of the last refresh and the offset from device to master time. -/
  ptm : Option (Nat × Int) := none
  ptmValid : Bool := false
  toll : Tab Nat := []
  tollNext : Option (Tab Nat) := none
  itin : Tab ItinSt := []
deriving DecidableEq, Repr
/-! ### Engines (08 to 12) and result checking (09) -/

/-- What an operation waits for or does next. -/
inductive OpSt | queued | running | stalled | moving
deriving DecidableEq, Repr

/-- One output of an operation: SA bits, bytes, poison. -/
structure OpOut where
  sa : Nat
  data : List Byte
  poison : Bool
deriving DecidableEq, Repr

/-- How an operation's result is checked (R241 to R249). -/
inductive CheckKind | none | exact | integer | float
deriving DecidableEq, Repr

/-- A row update an operation has still to apply (R264, R270): manifest row, location, FP32 addends, the map entry's
store offset (0: no map) and the SEQ the operation read. -/
structure RowUpd where
  row : Nat
  loc : Nat
  vals : List Nat
  poison : Bool
  ent : Nat := 0
  seq : Nat := 0
  /-- Descriptor of the operation that issued it. -/
  desc : List Byte := []
deriving DecidableEq, Repr

/-- States of a row move; IDLE has no record (Table 10.10). -/
inductive MoveSt | copying | replay | commit | forward
deriving DecidableEq, Repr

/-- A move record (R281): the operation and list position, the row and its map entry, source, destination, the snapshot,
the log of updates to replay and the updates held at the source home (with the operations that issued them). -/
structure RowMove where
  id : Nat
  op : Nat
  item : Nat
  st : MoveSt
  row : Nat
  ent : Nat
  seq : Nat
  src : Nat
  dst : Nat
  rb : Nat
  snap : List Byte
  poison : Bool
  log : List (Nat × RowUpd) := []
  held : List (Nat × RowUpd) := []
deriving DecidableEq, Repr

/-- An engine operation, queued or running (R197, R202, R213). `phys` is the physical unit of the attempt; `slot` of
`n` is its place in an itinerary entry's mask; `entry` the itinerary entry it belongs to; `core` the issuing core. -/
structure EngOp where
  id : Nat
  kind : UnitKind
  unit : Nat
  phys : Nat := 0
  part : Nat
  ctx : Nat := 0
  sa : Nat
  slot : Nat := 0
  n : Nat := 1
  entry : Option Nat := none
  core : Option Nat := none
  publish : Bool := false
  st : OpSt := .queued
  desc : List Byte := []
  total : Nat := 0
  status : Status := .done
  processed : Nat := 0
  dropped : Nat := 0
  inDig : Nat := 0
  outs : List OpOut := []
  check : CheckKind := .none
  nonfinite : Bool := false
  poisoned : Bool := false
  partialOut : Bool := false
  retries : Nat := 0
  tried : List Nat := []
  shadowed : Bool := false
  suspect : Bool := false
  /-- Row updates of SCATTER_ADD not yet issued; rows read and written, by manifest row or list position; results of
  MOVE_ROWS by list position; map entries read with their SEQ. -/
  rows : List RowUpd := []
  rowsDone : Tab (List Byte × List Byte) := []
  results : Tab Nat := []
  scan : List (Nat × Nat) := []
  /-- MACs of a matrix operation, weight bytes. -/
  macs : Nat := 0
  wbytes : Nat := 0
  /-- Index and version an Assay operation holds (R320). -/
  hold : Option (Nat × Nat) := none
  /-- An ATTEND that waits for its key's resolution (R297). -/
  resolving : Bool := false
  /-- The append of an ATTEND is committed (R305). -/
  appended : Bool := false
  /-- WORK of the operation: its contents after the operation are not stated (R268, R327, R328). -/
  work : Option (Nat × Nat) := none
  /-- Physical matrix unit of a RERANK's last attempt (R331). -/
  mx : Option Nat := none
deriving DecidableEq, Repr

/-- One physical unit's check history (R257) and service state (R461). -/
structure UnitRec where
  ended : Nat := 0
  fails : List Nat := []
  quarantined : Bool := false
  failed : Bool := false
  /-- Fused off at manufacture, or its image did not load (R468, R477). -/
  off : Bool := false
  /-- Out of service for a self-test (R461, R482). -/
  testing : Bool := false
  lastTest : Nat := 0
  /-- SELFTEST_STARVED was raised for the test now due (R480). -/
  starved : Bool := false
  passed : Bool := false
deriving DecidableEq, Repr

structure Eng where
  ops : Tab EngOp := []
  nextOp : Nat := 0
  moves : List RowMove := []
  nextMove : Nat := 0
  /-- Physical units, by KIND × 4096 + INDEX (Table 1.6); SRAM banks by 65536 + 2048 × cell + bank. -/
  units : Tab UnitRec := []
  /-- Physical slot bound to a logical matrix unit, where not its own (R22); 15 unbound. -/
  mslot : Tab Nat := []
  /-- Porter and Assay engines unbound (Table 9.6), by KIND × 4096 + number. -/
  unbound : List Nat := []
  /-- Matrix units due for rebinding between two operations (R22). -/
  due : List Nat := []
deriving DecidableEq, Repr
/-! ### Caravans and Serai (14_caravans_serai.md), FRB (15_compression.md) -/

/-- A beacon held for its caravan's earlier writes (R124): target SA, operand, count, when it arrived. -/
structure Beacon where
  target : Nat
  opnd : Nat
  count : Nat
  since : Nat
deriving DecidableEq, Repr

/-- A landing stream at a port (R358 to R361); port 8 stands for the PCIe DMA engine, whose legs land on this device.
`car` and `leg` say which leg of the sender's caravans it carries; `chunks` are the bytes received, `blocks` FRB blocks
as decoded (empty: damaged), `done` the destination lines written, with `out` their bytes. -/
structure Stream where
  ctx : Nat := 0
  part : Nat := 0
  dev : Nat := 0
  epoch : Nat := 0
  car : Nat := 0
  leg : Nat := 0
  kind : Nat := 0
  flags : Nat := 0
  len : Nat := 0
  elem : Nat := 0
  stride : Nat := 0
  dst : Nat := 0
  chunks : Tab (List Byte) := []
  blocks : Tab (List Byte) := []
  disagree : Bool := false
  poison : List Nat := []
  done : List Nat := []
  out : Tab (List Byte) := []
  landed : Nat := 0
  faulted : Nat := 0
  waiting : Nat := 0
  fault : Option Status := none
  /-- Byte count, IN_DIGEST and expected digest of CLOSE. -/
  close : Option (Nat × Nat × Nat) := none
  abandoned : Option Status := none
  /-- The status of its FINAL, once the leg has closed. -/
  closed : Option Status := none
  bcn : Option Beacon := none
  since : Nat := 0
deriving DecidableEq, Repr

/-- Legs of an arriving caravan that have closed: lines written and the leg's status (R361). -/
structure LandCar where
  legs : Tab (Nat × Status) := []
  /-- Legs with a mismatch that their source sends no more. -/
  dead : List Nat := []
deriving DecidableEq, Repr

/-- A Serai batch being performed at its far port (R374): results by record (status, poison, data), how many records
there are, the return stream, the context, and RTYPEs in record order. -/
structure Batch where
  results : Tab (Nat × Bool × List Byte) := []
  count : Nat := 0
  ret : Nat := 0
  ctx : Nat := 0
  ended : Option Status := none
  since : Nat := 0
deriving DecidableEq, Repr

inductive LegSt | waiting | sent | final | written
deriving DecidableEq, Repr

/-- A leg that its carrier has read (R353). `bcn` is what became of its beacon; `event` the ending of Table 14.5 that
took it, with its time and STG_NOW then. -/
structure Leg where
  off : Nat
  desc : List Byte
  total : Nat
  st : LegSt := .waiting
  stream : Nat := 0
  count : Nat := 0
  inDig : Nat := 0
  outDig : Nat := 0
  residual : Nat := 0
  bound : Nat := 0
  landed : Nat := 0
  faulted : Nat := 0
  status : Status := .done
  checked : Bool := false
  poisoned : Bool := false
  retries : Nat := 0
  bcn : Option Status := none
  since : Nat := 0
  event : Option (Nat × Nat) := none
deriving DecidableEq, Repr

/-- A caravan that its carrier has started (R352): `id` is its place in queue order; `next` the store offset of the leg
to read next (0: none); a FENCE waits for `covers` (R363), of which `bad` did not end DONE. -/
structure Caravan where
  id : Nat
  kind : UnitKind
  unit : Nat
  part : Nat
  ctx : Nat
  fclass : Nat
  first : Nat
  next : Nat
  legs : List Leg := []
  stop : Bool := false
  lines : Nat := 0
  covers : List Nat := []
  nCover : Nat := 0
  bad : Nat := 0
  /-- A covered caravan's worst ending, for fences. -/
  failed : Bool := false
deriving DecidableEq, Repr

/-- One record of a Serai batch: a thread's request and the SA it names. -/
structure SerRec where
  req : Req
  sa : Nat
deriving DecidableEq, Repr

/-- A Serai batch at the sender (R372 to R375): open until it is sent on `stream`; `got` results have come back. -/
structure SerBatch where
  id : Nat
  port : Nat
  dev : Nat
  part : Nat
  ctx : Nat
  since : Nat
  recs : List SerRec := []
  sent : Option (Nat × Nat) := none
  got : Nat := 0
deriving DecidableEq, Repr

/-- A route table entry (R371). -/
structure Route where
  stages : Nat
  port : Nat
deriving DecidableEq, Repr

/-- An FRB table set (Table 15.1): code width, codebook and scaling table as FP32 bits, the whole image. -/
structure FrbTable where
  w : Nat
  cb : List Nat
  scale : List Nat
  image : List Byte
deriving DecidableEq, Repr

/-- An FRB stream record (Table 15.2); `base` and `resid` are store offsets, of the source and the residual. -/
structure FrbStream where
  port : Nat
  sfmt : Nat
  table : Nat
  base : Nat
  length : Nat
  ef : Bool
  resid : Option Nat
deriving DecidableEq, Repr

structure Car where
  routes : Tab Route := []
  streams : Tab Stream := []
  land : Tab LandCar := []
  batches : Tab Batch := []
  cars : Tab Caravan := []
  /-- Outbound streams by port × 8192 + identifier. -/
  outs : Tab OutUse := []
  ser : List SerBatch := []
  nextSer : Nat := 0
  /-- Nanoseconds (R364). -/
  ackTimeout : Nat := 5000000
  /-- Table sets by partition × 2^32 + TABLE_ID, streams by partition × 64 + STREAM (R379, R381). -/
  tables : Tab FrbTable := []
  frb : Tab FrbStream := []
deriving DecidableEq, Repr
/-! ### The Depot (11_depot_attention.md) -/

/-- Parameters of a Depot (Table 11.1); lengths in the table's units. -/
structure DepParams where
  hkv : Nat
  d : Nat
  kfmt : Nat
  layers : Nat
  pool : Nat
  cells : List Nat
  lease : Nat
  handoff : Nat
  lostHold : Nat
deriving DecidableEq, Repr

/-- Roles of a lease record (Table 11.4). -/
inductive Role | owner | released | taking | lost
deriving DecidableEq, Repr

/-- A lading entry (Table 11.2). -/
structure LadEnt where
  page : Nat
  sums : Nat
  digest : Nat
  tokens : Nat
  cell : Nat
deriving DecidableEq, Repr

/-- A lease record (R292, R293): `acked` is when the last acknowledged renewal was sent, `since` when the role was
entered or the commit last sent; `releasing` holds a DEPOT_RELEASE that waits for running operations. -/
structure Lease where
  role : Role
  epoch : Nat
  acked : Nat
  sent : Option Nat := none
  nextRenew : Nat
  since : Nat
  layers : Tab (List LadEnt) := []
  lens : Tab Nat := []
  src : Nat × Nat := (0, 0)
  committing : Bool := false
  cmd : Option (Nat × List Byte) := none
  releasing : Option HomeAns := none
deriving DecidableEq, Repr

/-- A home record with the time its EXPIRY was last set (Table 11.3). -/
structure HomeEnt where
  r : HomeRec
  set : Nat
deriving DecidableEq, Repr

/-- A slot in SENDING or RECEIVING, and the member at the other end (Table 11.6). -/
structure SlotMove where
  sending : Bool
  dev : Nat
  part : Nat
deriving DecidableEq, Repr

/-- A request held for a slot in motion or a newer MAPGEN (R299); `port` where it came from another device. -/
structure DepHeld where
  kind : DepKind
  port : Option Nat
  m : DepMsg
  since : Nat
deriving DecidableEq, Repr

/-- A Depot member (R284 to R301). `used` lists what the pool holds, by store offset; `map` the slots' 4 B words. -/
structure Member where
  depot : Nat
  part : Nat
  params : DepParams
  digest : Nat
  base : Nat
  used : Tab Nat := []
  mapgen : Nat := 0
  map : List Nat := []
  leases : Tab Lease := []
  homes : Tab HomeEnt := []
  moving : Tab SlotMove := []
  held : List DepHeld := []
  /-- Keys being resolved, with when the query was sent. -/
  resolving : Tab Nat := []
deriving DecidableEq, Repr

structure DepotSt where
  /-- Members by partition × 2^32 + DEPOT_ID. -/
  members : Tab Member := []
  /-- Outcomes of appends by (partition, entry, descriptor), while units of the operation run (R305). -/
  appends : List (Nat × Option Nat × Nat × Status) := []
deriving DecidableEq, Repr

/-! ### Search indexes (12_assay_search.md) -/

/-- A slot that is not empty (Table 12.3), with its neighbour list. -/
structure IdxSlot where
  node : Nat
  ins : Nat
  del : Nat
  sketch : List Byte
  list : List Nat
deriving DecidableEq, Repr

/-- An index (R315 to R320). `parts` are its placed allocations; `repq` the repair queue as (list slot, dead target);
`swept` the channels the running sweep has done and `freeing` the slots it frees when it completes. -/
structure Index where
  part : Nat
  num : Nat
  sbits : Nat
  dim : Nat
  vfmt : Nat
  ip : Bool
  vflash : Bool
  channels : List Nat
  cells : List Nat
  cap : Nat
  degree : Nat
  parts : List Nat
  version : Nat := 1
  holds : List Nat := []
  slots : Tab IdxSlot := []
  vecs : Tab (List Byte) := []
  norms : Tab Nat := []
  repq : List (Nat × Nat) := []
  sweeping : Bool := false
  swept : List Nat := []
  freeing : List Nat := []
  sweeps : Nat := 0
deriving DecidableEq, Repr

/-! ### Repair ledger and bring-up (19_bringup_repair.md) -/

/-- A ledger entry (Table 19.3); `seq` 0 while it waits to be written. -/
structure LedEnt where
  seq : Nat := 0
  type : Nat
  cause : Nat
  unit : Nat := 0
  cell : Nat := 0xFF
  target : Nat := 0xFF
  logical : Nat := 0xFFFF
  epoch : Nat := 0
  object : Nat := 0
  detail : Nat := 0
deriving DecidableEq, Repr

/-- A ledger write that no channel has taken yet, with the mailbox command it completes (R474). -/
structure LedWrite where
  ent : LedEnt
  since : Nat
  mb : Option Nat
deriving DecidableEq, Repr

/-- A self-test (R480 to R482, R436): state 0 queued, 1 running, 2 pass, 3 fail. -/
structure SelfTest where
  id : Nat
  unit : TestUnit
  state : Nat := 0
  detail : Nat := 0
  /-- Asked for by SELFTEST; else one of the daily tests. -/
  mgmt : Bool
  since : Nat
  started : Nat := 0
  /-- The command's entry, until its ASYNC record is posted. -/
  cmd : List Byte := []
deriving DecidableEq, Repr

/-- PHASE of ID_BOOT (Table 19.8). -/
inductive BootPhase | fuse | rom | broadcast | train | run | halt | fuseFail
deriving DecidableEq, Repr

/-- What bring-up has reached (R465 to R472). `ref` is the time of the reference; the READY and FAILED bits are those of
Tables 19.8 and 19.9 that no other part of the state holds. -/
structure Boot where
  phase : BootPhase := .fuse
  perst : Bool := true
  resetN : Bool := true
  ref : Nat := 0
  fuseTries : Nat := 0
  fused : Bool := false
  fallback : Bool := false
  slot : Nat := 0
  haltCheck : Nat := 0
  svn : Nat := 0
  cp : Bool := false
  mb0 : Bool := false
  stage : Bool := false
  xlt : Bool := false
  mgmt : BitVec 2 := 0
  ports : BitVec 8 := 0
  portsFailed : BitVec 8 := 0
  cells : BitVec 20 := 0
  cellsFailed : BitVec 20 := 0
  ledger : Bool := false
  waves : List Nat := []
  /-- Targets censused so far by channel, targets whose factory marks are being scanned (R472), and physical units whose
  image failed (R468). -/
  census : Tab Nat := []
  scan : Tab TargetPage := []
  imageFail : List Nat := []
deriving DecidableEq, Repr

structure Rep where
  ledger : List LedEnt := []
  seq : Nat := 1
  writes : List LedWrite := []
  fail : Bool := false
  /-- Channels holding a current copy (ID_LEDGER). -/
  copies : BitVec 20 := 0
  /-- Reset epoch (R414). -/
  epoch : Nat := 0
  boot : Boot := {}
  tests : List SelfTest := []
  nextTest : Nat := 1
  /-- Anti-rollback counters raised in the field (R456), by counter; the fused value where unlisted. -/
  counters : Tab Nat := []
  /-- Operator key slots written in the field (R456). -/
  operator : Tab Nat := []
  /-- Preferred boot slot, and the images held by the boot flash slots as (SVN, digest) (R467). -/
  preferred : Nat := 0
  images : Tab (Nat × Nat) := []
  /-- SRAM banks of 64 KiB retired by cell (R479). -/
  banks : Tab Nat := []
deriving DecidableEq, Repr
/-! ### Edge ports (13_edge_ports.md) -/

inductive PortSt | disabled | detect | eq | align | auth | config | active | recover | fenced | down
deriving DecidableEq, Repr

/-- What this device waits for under a TAG of a link (R345, R347, R372): a thread's load, store or full/empty
operation, a thread's tally operation, or an engine's completion tally. -/
inductive Remote
  | thread (r : Req) (sa : Nat)
  | sync (t : Nat) (rd : RegId) (sa : Nat)
  | tally (part desc opid unit : Nat)
deriving DecidableEq, Repr

/-- PORT_CFG (Table 13.9). -/
structure PortCfg where
  enable : Bool := false
  remapEn : Bool := false
  coherent : Bool := false
  /-- LANE_SER_MAX is serMant × 10^-serExp; both 0 stand for the default of 1 × 10^-4 (R337, Table 13.9). -/
  serExp : Nat := 0
  serMant : Nat := 0
  sptag : Nat := 0
  modAddr : Nat := 0
  wavelength : Nat := 0
deriving DecidableEq, Repr

/-- An edge port (R336 to R351). `lanes` maps logical lanes 0-8 to physical ones; `since` is when the state was entered;
credits are slots by class (Table 13.7); `replay` holds the flits not yet acknowledged, one message each. -/
structure Port where
  st : PortSt := .disabled
  cfg : PortCfg := {}
  width : Nat := 0
  lanes : List Nat := [0, 1, 2, 3, 4, 5, 6, 7, 8]
  failed : BitVec 9 := 0
  spareUsed : Bool := false
  since : Nat := 0
  cause : Nat := 0
  psptag : Nat := 0
  partner : Nat := 0
  coherent : Bool := false
  fenceLog : Bool := false
  fenceElec : Bool := false
  /-- When the logical fence was set (R350). -/
  fenceAt : Nat := 0
  /-- RECOVER needs EQ: a lane failed. -/
  needEq : Bool := false
  /-- Failures of physical lanes with their times, and lanes never used again (R479). -/
  laneLog : List (Nat × Nat) := []
  dead : BitVec 9 := 0
  /-- Symbol errors by physical lane in the running 1 ms window, and when it began (R337). -/
  win : List Nat := List.replicate 9 0
  winAt : Nat := 0
  /-- A working logical lane whose SUBSTITUTE awaits the partner (R340). -/
  subst : Option Nat := none
  remapPend : Bool := false
  remapSeq : Nat := 0
  remapTries : Nat := 0
  remapAt : Nat := 0
  /-- The failed physical lane being moved, and whether it is being equalised (R341). -/
  remapLane : Nat := 0
  remapEq : Bool := false
  txSeq : BitVec 20 := 0
  replay : List (BitVec 20 × Msg) := []
  txq : List Msg := []
  credits : List Nat := [2048, 2048, 1024, 16384]
  rxSeq : BitVec 20 := 0
  rxCount : Nat := 0
  retrySent : Bool := false
  retrySeq : BitVec 20 := 0
  retries : Nat := 0
  /-- Slots of arrived messages whose credits are not yet returned, by class. -/
  rxHeld : List Nat := [0, 0, 0, 0]
  badTags : List Nat := []
  /-- Keys in force so far, and flits sent under the key (R343). -/
  keys : Nat := 0
  nonce : Nat := 0
  tags : Tab Remote := []
  tagq : List (Remote × Msg) := []
  /-- PORT_SER_CFG: SERAI_WINDOW in 10 ns units and SERAI_BYTES in KiB (Table 14.7). -/
  serWindow : Nat := 100
  serBytes : Nat := 64
deriving DecidableEq, Repr

/-! ### Clocks and power (20_clocks_power_thermal.md) -/

/-- CLKOUT_CFGn (Table 20.10). -/
structure ClkOut where
  en : Bool := false
  spread : Nat := 0
  rate : Nat := 0
deriving DecidableEq, Repr

/-- The CLK block (R485 to R489): sources 0-4 stable, ever lost, and the time each lost source was lost; the last gap as
(source, µs). -/
structure Clk where
  stable : BitVec 5 := 0
  loss : BitVec 5 := 0
  lostAt : Tab Nat := []
  lastLoss : Nat × Nat := (0, 0)
  out : Vector ClkOut 2 := Vector.replicate 2 {}
deriving DecidableEq, Repr

/-- One cell's loop (R498, Table 20.12): current and pinned MHz, CAUSE, power in 0.1 W, junction in °C, a thermal limit
in force, issue throttled. -/
structure PwrCell where
  cur : Nat := 0
  pin : Nat := 0
  cause : Nat := 0
  power : Nat := 0
  tj : Nat := 0
  hot : Bool := false
  throttle : Bool := false
deriving DecidableEq, Repr

/-- The PWR block, rails and the coolant (R491 to R502). -/
structure Pwr where
  fmax : Nat := 2700
  fmin : Nat := 1200
  logic : Nat := 960
  stack : Nat := 640
  cells : Vector PwrCell 20 := Vector.replicate 20 {}
  tileHot : BitVec 4 := 0
  tileTj : List Nat := [0, 0, 0, 0]
  /-- Stacks at half activation rate (Table 20.8). -/
  stkThr : List Nat := []
  pkgW : Nat := 0
  logicW : Nat := 0
  stackW : Nat := 0
  /-- The coolant values as last written since reset (R500). -/
  inlet : Option Nat := none
  flow : Option Nat := none
  /-- When the board controller last wrote a coolant value. -/
  coolAt : Nat := 0
  stale : Bool := false
  coolFault : Bool := false
  /-- Consecutive good coolant updates since a fault. -/
  good : Nat := 0
  /-- VCORE over its current or droop limit: clocks stretched. -/
  overI : Bool := false
  /-- VCORE set-point in mV; 0 until the CP sets it. -/
  vcore : Nat := 0
  /-- The trip latch: cause and rail (Table 20.9). -/
  trip : Option (Nat × Nat) := none
  vaux : Bool := true
  /-- I3C_SA as sampled, and when the target begins answering (R521, R525). -/
  i3cSa : Nat := 0
  i3cAt : Nat := 0
deriving DecidableEq, Repr

/-- The test access port (R526 to R528): the instruction register and the 2,944 boundary cells. -/
structure Tap where
  ir : Nat := 0x01
  boundary : BitVec 2944 := 0
deriving DecidableEq, Repr
/-! ### Partitions' queues and the RAS queue (21_errors_ras.md) -/

/-- A partition's event queue (R510, R511). `sa` is none until the first EVQ_SET. -/
structure Evq where
  sa : Option Nat := none
  log2 : Nat := 0
  vector : Nat := 0
  tail : BitVec 32 := 0
  seq : BitVec 32 := 0
  dropped : Nat := 0
  lastSignal : Option Nat := none
  unsignalled : Bool := false
deriving DecidableEq, Repr

/-- Values of RAS_Q_BASE and RAS_Q_CFG (Table 21.10). -/
structure RasCfg where
  enable : Bool := false
  vector : Nat := 0
  base : Nat := 0
  log2 : Nat := 6
deriving DecidableEq, Repr

/-- The RAS block (R504, R512, R517). -/
structure Ras where
  shadow : RasCfg := {}
  run : RasCfg := {}
  gen : BitVec 32 := 0
  err : Bool := false
  tail : Nat := 0
  head : Nat := 0
  seq : BitVec 32 := 0
  dropped : Nat := 0
  /-- FATAL cause 1-4 and tile or cell, once a fatal error happened. -/
  fatal : Option (Nat × Nat) := none
  /-- State splits in force: (unit field, logical, management state, data-path state) (R461). -/
  splits : List (Nat × Bool × Nat × Nat) := []
  dbgUnlocked : Bool := false
  dbgSvn : Nat := 0
deriving DecidableEq, Repr

/-! ### Partitions, keys and management (17, 18) -/

/-- A live partition (R424, R439). -/
structure Part where
  cells : List Nat
  q : Nat
  retryLimit : Nat
  ownerCtx : Nat
  creation : Nat
  sealKeys : List Byte
  waybillKey : Nat
  hostTierKey : Nat
  shadowMax : Nat := 10
  shadowN : Nat := 10
  /-- EVICT_RESERVE, where set; the default is Q/256 (R89). -/
  evictReserve : Option Nat := none
  gen : BitVec 32 := 0
  evq : Evq := {}
deriving DecidableEq, Repr

/-- Key slot states (Table 18.4). -/
inductive KeySt | free | issued | draining | retired
deriving DecidableEq, Repr

structure KeySlot where
  st : KeySt := .free
  part : Nat := 0
  issues : Nat := 0
  key : Nat := 0
deriving DecidableEq, Repr

/-- A revocation in its drain time (R449, R450). -/
structure Revoke where
  ext : Nat
  slot : Nat
  part : Nat
  mb : Nat
  ends : Nat
  poisoned : Bool := false
deriving DecidableEq, Repr

structure Parts where
  live : Tab Part := []
  keys : Vector KeySlot 64 := Vector.replicate 64 {}
  /-- Cells being scrubbed (R443). -/
  scrubbing : List Nat := []
  /-- CREATION count (R446). -/
  creations : Nat := 0
  revokes : List Revoke := []
  /-- This device's number, unassigned 0xFFF, and the assigned devices (R27, R434). -/
  devNo : Nat := 0xFFF
  assigned : List Nat := []
  /-- Generations of the objects of R533 other than partitions, by object code. -/
  gens : Tab (BitVec 32) := []
  /-- Objects configured on MB21 (R463). -/
  mgmtOwned : List Nat := []
deriving DecidableEq, Repr

/-- A PMP session (R459, R460). -/
structure Session where
  port : Nat
  key : Nat
  lastFrame : Nat
  /-- Highest SEQ accepted, the SEQs accepted within 1,024 of it, and frames sent. -/
  rxSeq : Nat := 0
  seen : List Nat := []
  txSeq : Nat := 0
  /-- Fragments of the message being received, its number and type. -/
  frags : Tab (List Byte) := []
  fragTotal : Nat := 0
  fragSince : Nat := 0
  fragMsg : Nat := 0
deriving DecidableEq, Repr
/-! ### Host port, mailboxes and PMP (16, 17, 18) -/

/-- Values of MBX_CFG, MBX_SQ_BASE and MBX_CQ_BASE (Table 16.15). -/
structure MbxCfg where
  enable : Bool := false
  sqLog : Nat := 0
  cqLog : Nat := 0
  vector : Nat := 0
  novec : Bool := false
  sqBase : Nat := 0
  cqBase : Nat := 0
deriving DecidableEq, Repr

/-- A command a mailbox runs: entry, argument bytes (R415), when it started, the PMP session of an MB21 command, and
MBX_SET's or EVQ_SET's work left for after the completion (R426, R510). -/
structure Cmd where
  entry : List Byte
  args : List Byte
  since : Nat
  session : Nat := 0
deriving DecidableEq, Repr

/-- A mailbox (R402 to R411). Tallies are sync SAs, 0 for none. -/
structure Mbx where
  cfg : MbxCfg := {}
  shadow : MbxCfg := {}
  gen : BitVec 32 := 0
  err : Bool := false
  dbTally : Nat := 0
  cqTally : Nat := 0
  sqTail : Nat := 0
  cqHead : Nat := 0
  consumed : Nat := 0
  cqTail : Nat := 0
  phase : Bool := true
  overrun : Bool := false
  wedged : Bool := false
  hostwait : Bool := false
  run : Option Cmd := none
  /-- A completion kept for the link (HOSTWAIT), and whether its vector is signalled. -/
  held : Option (List Byte × Bool) := none
deriving DecidableEq, Repr

/-- A BAR4 segment (Table 16.5); `by` is the mailbox that bound it (R428). -/
structure WinSeg where
  ctx : Nat := 0
  base : Nat := 0
  space : Nat := 0
  bound : Bool := false
  binder : Nat := 0
deriving DecidableEq, Repr

structure HostPort where
  linkUp : Bool := false
  linkUp1 : Bool := false
  /-- BIFUR as sampled at the end of the last reset (R394). -/
  bifur : Bool := false
  /-- Power state D3hot (R393). -/
  d3hot : Bool := false
  /-- MSI-X table as 64-bit words (R401); an unlisted entry is masked, as PCIe resets it. -/
  msix : Tab Nat := []
  pba : List Nat := []
  segs : Vector WinSeg 16 := Vector.replicate 16 {}
  mbx : Vector Mbx 22 := Vector.replicate 22 {}
  /-- Mailbox the CP last started a command from (R407). -/
  lastMb : Nat := 20
  wdog : Nat := 1000000
deriving DecidableEq, Repr

structure Pmp where
  sessions : Tab Session := []
  nextSession : Nat := 1
  /-- Handshakes in progress: port, operator KEYIDX, transcript, when begun (R459). -/
  shakes : List (Nat × Nat × List Byte × Nat) := []
  /-- HELLO frames of the running second, by port. -/
  hellos : Tab (List Nat) := []
  /-- MB21 messages not yet taken: session, entry and block (R460). -/
  mq : List (Nat × List Byte) := []
  /-- Image bytes received for FW_STAGE, by session. -/
  image : Tab (List Byte) := []
  /-- Management port links A and B (R495). -/
  links : BitVec 2 := 0
deriving DecidableEq, Repr
/-! ### The whole machine -/

/-- Who raises a fault: nothing. Every command of the table has an effect in every state (log 7), so the type is
empty. -/
inductive Fault
deriving DecidableEq, Repr

/-- Why a command is refused. -/
inductive Refusal
  /-- Raised by an arm of `exec` whose command has no meaning yet. Safe: the machine stops. -/
  | notModelled (mnemonic : String)
deriving DecidableEq, Repr

/-- The state of the OK-820. -/
structure State where
  /-- Commands waiting, first in, first out. -/
  pending : List Instr := []
  /-- Nanoseconds of REFCLK_SYS since reset; stands while the data path is halted. -/
  now : Nat := 0
  /-- Nanoseconds of wall time. -/
  wall : Nat := 0
  /-- The data path is halted: FATAL, loss of REFCLK_SYS, or a trip (R487, R499, R504). -/
  halted : Bool := false
  /-- The model's own counter of free values drawn (log 3). -/
  fresh : Nat := 0
  outs : List Out := []
  /-- Counters by BAR0 offset (R515); an unlisted counter reads 0. -/
  csr : Tab Nat := []
  xlt : Xlt := {}
  store : Store := {}
  coh : Coh := {}
  sync : Sync := {}
  drv : Drover := {}
  stg : Stage := {}
  eng : Eng := {}
  dep : DepotSt := {}
  /-- Indexes by partition × 64 + number (R315). -/
  idx : Tab Index := []
  car : Car := {}
  ports : Vector Port 8 := Vector.replicate 8 {}
  clk : Clk := {}
  pwr : Pwr := {}
  tap : Tap := {}
  rep : Rep := {}
  parts : Parts := {}
  ras : Ras := {}
  host : HostPort := {}
  pmp : Pmp := {}
deriving DecidableEq, Repr

/-- The machine right after reset: RESET_N asserted, nothing fetched, trained or configured (R465, R528). -/
def State.reset : State := {}

end Sys2Proof.Machine
end

