-- ==== Sys2Proof/Machine/Ops.lean ====
section
/-! DEFINITION. The named operations every meaning is written over: tables, bytes, memory, counters, free values,
what is sent outside, event records, and the answers to requests. -/

namespace Sys2Proof.Machine

open Sys2Proof

/-! ### Tables and bytes -/

/-- The record under a key. -/
def tget {α : Type} (k : Nat) : Tab α → Option α
  | [] => none
  | (k', v) :: t => if k = k' then some v else tget k t

/-- The record under a key, or a default. -/
def tgetD {α : Type} (t : Tab α) (k : Nat) (d : α) : α := (tget k t).getD d

/-- The table with a record put under a key, keys kept rising. -/
def tput {α : Type} (k : Nat) (v : α) : Tab α → Tab α
  | [] => [(k, v)]
  | (k', v') :: t =>
    if k < k' then (k, v) :: (k', v') :: t
    else if k = k' then (k, v) :: t
    else (k', v') :: tput k v t

/-- The table without a key. -/
def tdel {α : Type} (k : Nat) : Tab α → Tab α
  | [] => []
  | (k', v') :: t => if k = k' then tdel k t else (k', v') :: tdel k t

/-- The table with a function applied to the record under a key, if there is one. -/
def tupd {α : Type} (k : Nat) (f : α → α) (t : Tab α) : Tab α :=
  match tget k t with
  | some v => tput k (f v) t
  | none => t

/-- Keys strictly rising: the canonical form of a table. -/
def tsorted {α : Type} : Tab α → Bool
  | [] => true
  | [_] => true
  | (k, _) :: (k', v') :: t => decide (k < k') && tsorted ((k', v') :: t)

/-- The least number at or above `a` not below it that fails to be a key, searched over `n` numbers. -/
def tfree {α : Type} (t : Tab α) : Nat → Nat → Option Nat
  | _, 0 => none
  | a, n + 1 => if (tget a t).isNone then some a else tfree t (a + 1) n

/-- The numbers from `a`, `n` of them. -/
def span (a n : Nat) : List Nat := (List.range n).map (a + ·)

/-- A little-endian number (R4). -/
def leNat : List Byte → Nat
  | [] => 0
  | b :: t => b.toNat + 256 * leNat t

/-- The low `n` bytes of a number, little-endian (R4). -/
def leBytes : Nat → Nat → List Byte
  | 0, _ => []
  | n + 1, v => BitVec.ofNat 8 v :: leBytes n (v / 256)

/-- The field of `n` bytes at byte `o` of a structure. -/
def fld (l : List Byte) (o n : Nat) : Nat := leNat ((l.drop o).take n)

/-- Bits [hi:lo] of a number. -/
def bitsOf (v hi lo : Nat) : Nat := v / 2 ^ lo % 2 ^ (hi + 1 - lo)

/-- Bit `i` of a number as a flag. -/
def bit (v i : Nat) : Bool := v / 2 ^ i % 2 == 1

/-- A flag as a number. -/
def b2n (b : Bool) : Nat := if b then 1 else 0

/-- The list with element `i` removed. -/
def dropAt {α : Type} (i : Nat) (l : List α) : List α := l.take i ++ l.drop (i + 1)

/-- A byte list cut or zero-filled to `n` bytes (R7). -/
def padTo (n : Nat) (l : List Byte) : List Byte := (l ++ List.replicate (n - l.length) 0).take n

/-- Every byte from `o` on, `n` of them, is zero (R5). -/
def zeroAt (l : List Byte) (o n : Nat) : Bool := ((l.drop o).take n).all (· == 0)

/-! ### Free values, counters, what is sent outside -/

/-- Draw a fresh free value (log 3). -/
def draw (s : State) : Nat × State := (Config.freeNat s.fresh, { s with fresh := s.fresh + 1 })

/-- Add to a saturating 64-bit counter (R515). -/
def cnt (a n : Nat) (s : State) : State :=
  { s with csr := tput a (min (tgetD s.csr a 0 + n) (2 ^ 64 - 1)) s.csr }

/-! ### Sending -/

/-- Credit class of a message (Tables 13.6, 13.7): 0 C-REQ, 1 C-RSP, 2 C-SNP, 3 B. -/
def msgClass : MsgKind → Nat
  | .rdS | .rdM | .upgM | .wb | .evict | .rdNc | .wrLine | .wrPart | .syncUpd | .syncRd | .syncWait | .feOp => 0
  | .rspData | .rspAck | .rspSnp | .rspFault | .rspSync => 1
  | .snpInv | .snpShr => 2
  | _ => 3

/-- 16 B slots a message takes (Tables 13.6 and 14.4); a data flit takes all 14 of its own, a Depot message 64 B. -/
def msgSlots (m : Msg) : Nat :=
  match m.kind with
  | .wb | .wrLine | .rspData => 5
  | .wrPart | .feOp => 6
  | .syncUpd | .syncWait | .rspSync | .close | .poisonLines | .ack | .batchResult => 2
  | .openStream | .pull | .beacon | .final | .batch => 3
  | .rspSnp => if m.data.isEmpty then 1 else 5
  | .chunk => 14
  | .depot => 4
  | _ => 1

/-- A port's record. -/
def port (s : State) (p : Nat) : Port := s.ports.getD p {}

/-- Change a port. -/
def updPort (p : Nat) (f : Port → Port) (s : State) : State :=
  { s with ports := s.ports.setIfInBounds p (f (port s p)) }

/-- Offset of a per-port register (R351). -/
def portReg (p o : Nat) : Nat := 0x200000 + p * 0x10000 + o

/-- What goes outside, as it goes. -/
def put (o : Out) (s : State) : State := { s with outs := o :: s.outs }

/-- Send the queued messages of a port that credits and the replay buffer of 1,024 flits allow, one message a flit
(R342, R348); a message waits only behind messages of its own class. -/
def pumpGo (p : Nat) : List Msg → List Nat → List Msg → State → State
  | [], _, kept, s => updPort p (fun x => { x with txq := kept }) s
  | m :: t, stuck, kept, s =>
    let x := port s p
    let c := msgClass m.kind
    if stuck.contains c || x.credits.getD c 0 < msgSlots m || 1024 ≤ x.replay.length || 2 ^ 32 ≤ x.nonce + 1 then
      pumpGo p t (c :: stuck) (kept ++ [m]) s
    else
      let s := updPort p (fun x => { x with
        txSeq := x.txSeq + 1, nonce := x.nonce + 1, replay := x.replay ++ [(x.txSeq, m)]
        credits := x.credits.set c (x.credits.getD c 0 - msgSlots m) }) s
      pumpGo p t stuck kept (put (.link p m) (cnt (portReg p 0x18) 1 s))

/-- Send what a port may. -/
def pump (p : Nat) (s : State) : State := pumpGo p (port s p).txq [] [] s

/-- Count a frame sent on a PMP session, which closes before its sequence reaches 2^32 (R459). -/
def pmpSent (n : Nat) (s : State) : State :=
  match tget n s.pmp.sessions with
  | none => s
  | some x =>
    let t := if 2 ^ 32 - 1 ≤ x.txSeq + 1 then tdel n s.pmp.sessions else tput n { x with txSeq := x.txSeq + 1 } s.pmp.sessions
    { s with pmp := { s.pmp with sessions := t } }

/-- Send something outside; a message for a link waits in its port's queue for credits (R348) and is lost where the link
is not ACTIVE (R339). -/
def emit (o : Out) (s : State) : State :=
  match o with
  | .link p m =>
    if (port s p).st = .active then pump p (updPort p (fun x => { x with txq := x.txq ++ [m] }) s) else s
  | .pmp n _ _ => put o (pmpSent n s)
  | o => put o s

/-- Send a request under a TAG of the link; with all 4,096 tags in use it waits (R347). -/
def sendTag (p : Nat) (u : Remote) (m : Msg) (s : State) : State :=
  match tfree (port s p).tags 0 4096 with
  | some t => emit (.link p { m with tag := t }) (updPort p (fun x => { x with tags := tput t u x.tags }) s)
  | none => updPort p (fun x => { x with tagq := x.tagq ++ [(u, m)] }) s

/-- Offset of a per-cell register (R105). -/
def cellReg (c o : Nat) : Nat := 0x100000 + c * 0x10000 + o
/-- Offset of a per-flash-channel register (R106). -/
def fchReg (c o : Nat) : Nat := 0x300000 + c * 0x4000 + o

/-! ### Partitions and contexts -/

/-- A live context (R30): contexts 0 and 1 belong to the device and to MB0's administration. -/
def ctxOf (s : State) (c : Nat) : Option Ctx := tget c s.xlt.ctxs

/-- The partition of a context. -/
def ctxPart (s : State) (c : Nat) : Option Nat := (ctxOf s c).map Ctx.part

/-- A live partition. -/
def partOf (s : State) (p : Nat) : Option Part := tget p s.parts.live

/-- Cells of a partition. -/
def partCells (s : State) (p : Nat) : List Nat := ((partOf s p).map Part.cells).getD []

/-- The partition that owns a cell. -/
def cellPart (s : State) (c : Nat) : Option Nat :=
  (s.parts.live.find? (fun x => x.2.cells.contains c)).map Prod.fst

/-- Key slot of a context; the device's own data uses slot 0 only in name (log 9). -/
def keyOf (s : State) (c : Nat) : Nat := ((ctxOf s c).map Ctx.keyslot).getD 64

/-- Change a live partition's record. -/
def updPart (p : Nat) (f : Part → Part) (s : State) : State :=
  { s with parts := { s.parts with live := tupd p f s.parts.live } }

/-- The device's own number written into reported addresses (R27). -/
def ownSa (s : State) (space off : Nat) : BitVec 64 := Sa.bits { space := space, dev := s.parts.devNo, off := off }

/-- DEVICE names this device (R27). -/
def isOwn (s : State) (d : Nat) : Bool := d == 0xFFF || d == s.parts.devNo

/-! ### Store contents -/

/-- A byte of content memory; an unlisted byte reads as zero (R60). -/
def byteAt (m : Tab Byte) (a : Nat) : Byte := tgetD m a 0

/-- Put a byte, keeping the canonical form: a zero is unlisted. -/
def putByte (a : Nat) (v : Byte) (m : Tab Byte) : Tab Byte := if v = 0 then tdel a m else tput a v m

/-- The canonical form of a memory: keys rising, no zero listed. -/
def memWf (m : Tab Byte) : Bool := tsorted m && m.all (fun c => c.2 != 0)

/-- `n` bytes from address `a`. -/
def bytesAt (m : Tab Byte) (a n : Nat) : List Byte := (span a n).map (byteAt m)

/-- Write bytes at an address. -/
def putBytes (a : Nat) : List Byte → Tab Byte → Tab Byte
  | [], m => m
  | b :: t, m => putBytes (a + 1) t (putByte a b m)

/-- Write the bytes a mask selects. -/
def putMasked (a : Nat) : List (Byte × Bool) → Tab Byte → Tab Byte
  | [], m => m
  | (b, k) :: t, m => putMasked (a + 1) t (if k then putByte a b m else m)

/-- Remove every listed byte of a range (scrub, R443): it reads as zero again. -/
def zeroRange (a n : Nat) (m : Tab Byte) : Tab Byte := m.filter (fun c => !(decide (a ≤ c.1) && decide (c.1 < a + n)))

/-- The allocation that covers a store offset, with its base. -/
def allocAt (s : State) (off : Nat) : Option (Nat × Alloc) :=
  s.store.allocs.find? (fun x =>
    decide (x.1 ≤ off) && decide (off < x.1 + x.2.size * (if x.2.region.isSome then 24 else 1)))

/-- Blocks of 64 KiB in a size. -/
def nblk (size : Nat) : Nat := size / 65536

/-- The content block of a store offset: its own block, or for a shared region the block the window holds (R133). -/
def contentBlock (s : State) (off : Nat) : Nat :=
  match allocAt s off with
  | some (base, al) =>
    match al.region with
    | some r =>
      let i := (off - base) / 65536
      let n := nblk al.size
      tgetD r.map i (base / 65536 + i % n)
    | none => off / 65536
  | none => off / 65536

/-- The content address of a store offset. -/
def content (s : State) (off : Nat) : Nat := contentBlock s off * 65536 + off % 65536

/-- Bytes of the home's copy at a store offset, not crossing a block. -/
def homeBytes (s : State) (off n : Nat) : List Byte := bytesAt s.store.mem (content s off) n

/-- Bytes of the homes' copies of a range of the store. -/
def storeBytes (s : State) (off n : Nat) : List Byte :=
  (span off n).map (fun a => byteAt s.store.mem (content s a))

/-- Whether the home's copy of the line at an offset is marked POISON (Table 3.4). -/
def poisoned (s : State) (off : Nat) : Bool := (tget (content s off / 64) s.store.poison).isSome

/-- Set or clear the POISON mark of a line. -/
def setPoison (off : Nat) (p : Bool) (s : State) : State :=
  let l := content s off / 64
  { s with store := { s.store with
      poison := if p then tput l () s.store.poison else tdel l s.store.poison } }

/-- The protection record of the page of a store offset (R53): written records, else the allocation's owner. -/
def protAt (s : State) (off : Nat) : Option Prot :=
  match tget (off / 4096) s.store.prot with
  | some p => some p
  | none => (allocAt s off).map (fun x => { owner := x.2.ctx, isSealed := false, gset := 0 })

/-- The key slot the home encrypts a line of this offset under: the owner's KEYSLOT (R70). -/
def keyAt (s : State) (off : Nat) : Nat := ((protAt s off).map (fun p => keyOf s p.owner)).getD 64

/-- Write bytes within one line of the home's copy, with the poison rule of R69 and the key of the owner (R70). -/
def landLine (off : Nat) (data : List Byte) (mask : List Bool) (p : Bool) (s : State) : State :=
  let a := content s off
  let l := a / 64
  let full := decide (data.length = 64) && mask.all id && decide (off % 64 = 0)
  let mem := if mask.isEmpty then putBytes a data s.store.mem else putMasked a (data.zip mask) s.store.mem
  let poi := if p then tput l () s.store.poison else if full then tdel l s.store.poison else s.store.poison
  { s with store := { s.store with mem := mem, poison := poi, key := tput l (keyAt s off) s.store.key } }

/-- The record of the managed block at a store offset. -/
def blockAt (s : State) (off : Nat) : Option Block := tget (contentBlock s off) s.store.blocks

/-- The home cell of a store line (R15, R61). -/
def homeCell (s : State) (off : Nat) : Nat :=
  match allocAt s off with
  | none => 0
  | some (base, al) =>
    let i := (off - base) / 65536 % nblk al.size
    let nominal := al.cells.getD (i % al.cells.length) 0
    match al.tier with
    | .hbm | .flash => nominal
    | .host => (al.ext.bind (fun e => (tget e s.store.exts).map Extent.cell)).getD nominal
    | .managed =>
      match blockAt s off with
      | none => nominal
      | some b =>
        match b.st, b.frame, b.lower with
        | .hbm, some c, _ => c
        | .evicting, some c, _ => c
        | _, _, some (.flash ch _) => ch
        | _, _, some (.host e) => ((tget e s.store.exts).map Extent.cell).getD nominal
        | _, some c, none => c
        | _, none, none => nominal

/-! ### Toll slots (R174, R175) -/

/-- A partition holds a slot of a row of the toll-slot table (Table 6.7); an unlisted byte is 0xFF. -/
def holdsSlot (s : State) (p row : Nat) : Bool := s.stg.toll.any (fun x => x.1 / 256 = row && x.2 = p)

/-- The crossing that joins two tiles (Table 6.7). -/
def crossing (a b : Nat) : Nat :=
  match min a b, max a b with
  | 0, 1 => 0 | 0, 2 => 1 | 0, 3 => 2 | 1, 2 => 3 | 1, 3 => 4 | _, _ => 5

/-- A partition's request and its answer may travel between two tiles (R175). -/
def crossOk (s : State) (p a b : Nat) : Bool :=
  a = b || (holdsSlot s p (9 + 2 * crossing a b) && holdsSlot s p (10 + 2 * crossing a b))

/-- The tile a requester sits in, where the manual places it: 5 cells a tile, ports 2t and 2t+1 (R15, chapter 13). -/
def whoTile : Who → Option Nat
  | .thread t _ _ => some (t / 1024 / 5)
  | .port p _ => some (p / 2)
  | .stream p _ => if p < 8 then some (p / 2) else none
  | .batch p _ _ => if p < 8 then some (p / 2) else none
  | _ => none

/-- A request of a context may cross to a home (R175); device-own traffic always may. -/
def mayCross (s : State) (w : Who) (ctx off : Nat) : Bool :=
  match whoTile w, ctxPart s ctx with
  | some t, some p => crossOk s p t (homeCell s off / 5)
  | _, _ => true

/-! ### Directory (04_memory_model_coherence.md) -/

/-- Edge ports whose coherent agent holds a copy of a line. -/
def agentsOf (e : DirEnt) : List Nat :=
  if e.m then (if 0x40 ≤ e.owner && e.owner < 0x48 then [e.owner - 0x40] else [])
  else (List.range 8).filter (fun p => e.sharers.getLsbD (20 + p))

/-- Cells whose caches hold a copy of a line. -/
def cellsOf (e : DirEnt) : List Nat :=
  if e.m then (if e.owner < 20 then [e.owner] else [])
  else (List.range 20).filter (fun c => e.sharers.getLsbD c)

/-- Write a cell's dirty copy of a line back to the home (R113, R120). -/
def writeBack (line : Nat) (s : State) : State :=
  match tget line s.coh.dirty with
  | none => s
  | some d =>
    let s := landLine (line * 64) d.data [] d.poison s
    { s with coh := { s.coh with dirty := tdel line s.coh.dirty } }

/-- Drop every copy of a line from the directory, dirty data with it. -/
def dropCopies (line : Nat) (s : State) : State :=
  { s with coh := { s.coh with dir := tdel line s.coh.dir, dirty := tdel line s.coh.dirty } }

/-- Ask the agents of ports for their copy of a line, parking a request on the answers (R127). -/
def snoop (line : Nat) (ports : List Nat) (inv : Bool) (r : Req) (s : State) : State :=
  ports.foldl (fun s p =>
    let known := s.coh.snoops.any (fun x => x.line = line && x.port = p)
    let s := if known then s else
      emit (.link p { kind := if inv then .snpInv else .snpShr, sa := ownSa s 0 (line * 64) })
        { s with coh := { s.coh with snoops := s.coh.snoops ++
          [{ line := line, port := p, inv := inv, since := s.now, reqs := [] }] } }
    { s with coh := { s.coh with snoops := s.coh.snoops.map (fun x =>
      if x.line = line && x.port = p && p = ports.headD 0 then { x with reqs := x.reqs ++ [r] } else x) } }) s

/-- Land an invalidating write within one line (R120): cached copies go first, a partial write merges into the dirty
copy, and a copy of an edge port's agent is snooped before the write lands. -/
def landInv (r : Req) (s : State) : State :=
  let line := r.off / 64
  match tget line s.coh.dir with
  | none => landLine r.off r.data r.mask r.poison s
  | some e =>
    if agentsOf e != [] then snoop line (agentsOf e) true r s
    else
      let full := decide (r.data.length = 64) && r.mask.all id
      let s := if full then s else writeBack line s
      landLine r.off r.data r.mask r.poison (cnt (cellReg (homeCell s r.off) 0x510) 1 (dropCopies line s))

/-- Cut a range into pieces that lie in one 64 B line each: (offset, data). -/
def lineCut : Nat → Nat → List Byte → List (Nat × List Byte)
  | 0, _, _ => []
  | k + 1, off, d =>
    if d.isEmpty then []
    else
      let n := 64 - off % 64
      (off, d.take n) :: lineCut k (off + n) (d.drop n)

/-- The pieces of a range, one per line touched. -/
def lines (off : Nat) (d : List Byte) : List (Nat × List Byte) := lineCut (d.length + 1) off d

/-- Line offsets (multiples of 64) a byte range touches. -/
def linesOf (off n : Nat) : List Nat :=
  if n = 0 then [] else (span (off / 64) ((off + n - 1) / 64 - off / 64 + 1)).map (· * 64)

/-! ### Time -/

/-- E in units of 10 ns / 840 (R159); 0 while no interval is held. -/
def est840 (g : Stage) : Nat :=
  if g.intervals.isEmpty then 0 else g.intervals.sum * (840 / g.intervals.length)

/-- Nanoseconds in units of 10 ns / 840. -/
def t840 (ns : Nat) : Nat := ns * 84

/-- The phase (R166). -/
def phase (s : State) : Nat :=
  match s.stg.st with
  | .off | .acquire => 0
  | .lost => 65535
  | .locked | .flywheel =>
    let e := est840 s.stg
    if e = 0 then 0 else min 65535 (65536 * (t840 s.now - s.stg.date) / e)

/-- STG_NOW (R166): phase above the stage number. -/
def stgNow (s : State) : Nat := phase s * 2 ^ 48 + s.stg.stage.toNat

/-- The clocks reach a time: a timed event is its timer's expiry, so it happens no earlier (log 8). -/
def reach (t : Nat) (s : State) : State := { s with now := max s.now t, wall := s.wall + (t - s.now) }

/-- A timed event of the data path at its due time; nothing while the data path is halted (R487, R504). -/
def timer (due : Nat) (f : State → State) (s : State) : State := if s.halted then s else f (reach due s)

/-- The wall clock reaches a time. -/
def reachWall (t : Nat) (s : State) : State :=
  { s with wall := max s.wall t, now := if s.halted then s.now else s.now + (t - s.wall) }

/-! ### Interrupts -/

/-- Vector control of an MSI-X entry: masked (R401); an unlisted entry is masked, as PCIe resets it (log 18). -/
def msixMasked (s : State) (v : Nat) : Bool := bit (tgetD s.host.msix (2 * v + 1) (2 ^ 32)) 32

/-- Signal a vector: an MSI-X message, or a pending bit while the entry is masked (R401). -/
def msi (v : Nat) (s : State) : State :=
  if msixMasked s v then
    if s.host.pba.contains v then s else { s with host := { s.host with pba := v :: s.host.pba } }
  else emit (.msix v) s

/-- What the data path does: nothing while it is halted (R487, R499, R504). -/
def dp (f : State → State) (s : State) : State := if s.halted then s else f s

/-- REFCLK_SYS is lost and its domains have not restarted (R487). -/
def sysLost (s : State) : Bool := (tget 1 s.clk.lostAt).isSome

/-- The CP runs: firmware is up, XTAL_IN is present, and the device has not tripped (R467, R487, R499). -/
def cpRuns (s : State) : Bool := s.rep.boot.cp && (tget 0 s.clk.lostAt).isNone && s.pwr.trip.isNone

/-- A BAR access is decoded: not in D3hot (R393), and not while REFCLK_SYS is lost or the device has tripped (R488,
R499). -/
def barWrite (f : State → State) (s : State) : State :=
  if s.host.d3hot || sysLost s || s.pwr.trip.isSome then s else f s

/-! ### Event records (21_errors_ras.md) -/

/-- An event record (Table 21.3). -/
def record (s : State) (kind cls part seq : Nat) (payload : List Byte) : List Byte :=
  leBytes 2 kind ++ leBytes 1 cls ++ leBytes 1 part ++ leBytes 4 seq ++ leBytes 8 (stgNow s) ++ padTo 48 payload

/-- Send a record to every open PMP session (R512). -/
def pmpEvent (rcd : List Byte) (s : State) : State :=
  s.pmp.sessions.foldl (fun s x => emit (.pmp x.1 0x12 rcd) s) s

/-- The RAS ring has room for one record (R512, R534). -/
def rasRoom (s : State) : Bool :=
  s.ras.run.enable && s.host.linkUp && (s.ras.tail + 1) % 2 ^ s.ras.run.log2 != s.ras.head

/-- Write a record to the RAS ring: record, tail, vector (R512). -/
def rasWrite (rcd : List Byte) (s : State) : State :=
  let s := emit (.hostWr (s.ras.run.base + s.ras.tail * 64) rcd) s
  let s := { s with ras := { s.ras with tail := (s.ras.tail + 1) % 2 ^ s.ras.run.log2 } }
  msi s.ras.run.vector (cnt 0x60030 1 s)

/-- Write the LOST record of the RAS queue once room returns (R511, R512). -/
def rasLost (s : State) : State :=
  if s.ras.dropped = 0 || !rasRoom s then s
  else
    let rcd := record s 0x0F01 0 0xFF s.ras.seq.toNat (leBytes 4 s.ras.dropped)
    let s := { s with ras := { s.ras with seq := s.ras.seq + 1, dropped := 0 } }
    pmpEvent rcd (rasWrite rcd s)

/-- Post a record on the RAS queue (R509, R512). -/
def rasPost (kind cls part : Nat) (payload : List Byte) (s : State) : State :=
  let s := rasLost s
  let rcd := record s kind cls part s.ras.seq.toNat payload
  let s := { s with ras := { s.ras with seq := s.ras.seq + 1 } }
  let s := pmpEvent rcd s
  if s.ras.dropped = 0 && rasRoom s then rasWrite rcd s
  else cnt 0x60038 1 { s with ras := { s.ras with dropped := s.ras.dropped + 1 } }

/-- Entries of a partition's event queue between TAIL and HEAD (R510); HEAD is read from the control line. -/
def evqUsed (s : State) (q : Evq) : Nat :=
  match q.sa with
  | none => 0
  | some off => (q.tail - BitVec.ofNat 32 (leNat (storeBytes s (off + 64 * 2 ^ q.log2 + 8) 4))).toNat

/-- A partition's event queue has room for `n` records. -/
def evqRoom (s : State) (q : Evq) (n : Nat) : Bool := q.sa.isSome && decide (evqUsed s q + n ≤ 2 ^ q.log2)

/-- Land bytes of the device's own writes at their homes (CTX 0x0000, no protection check, R52). -/
def devWrite (off : Nat) (d : List Byte) (s : State) : State :=
  (lines off d).foldl (fun s x => landInv
    { who := .migration, ctx := 0, off := x.1, op := .wrInv, len := x.2.length, data := x.2 } s) s

/-- Signal a partition queue's vector, at most once per 1 µs (R510). -/
def evqSignal (p : Nat) (s : State) : State :=
  match partOf s p with
  | none => s
  | some r =>
    let recent := match r.evq.lastSignal with
      | some t => decide (s.now < t + 1000)
      | none => false
    if recent then updPart p (fun r => { r with evq := { r.evq with unsignalled := true } }) s
    else msi r.evq.vector
      (updPart p (fun r => { r with evq := { r.evq with lastSignal := some s.now, unsignalled := false } }) s)

/-- Write one record at the tail of a partition's queue (R510, steps 1 to 3). -/
def evqWrite (p : Nat) (rcd : List Byte) (s : State) : State :=
  match partOf s p with
  | none => s
  | some r =>
    match r.evq.sa with
    | none => s
    | some off =>
      let n := 2 ^ r.evq.log2
      let s := devWrite (off + 64 * (r.evq.tail.toNat % n)) rcd s
      let s := devWrite (off + 64 * n) (leBytes 4 (r.evq.tail + 1).toNat) s
      evqSignal p (updPart p (fun r => { r with evq := { r.evq with tail := r.evq.tail + 1 } }) s)

/-- Write the LOST record of a partition's queue once it has room (R511). -/
def evqLost (p : Nat) (s : State) : State :=
  match partOf s p with
  | none => s
  | some r =>
    if r.evq.dropped = 0 || !evqRoom s r.evq 1 then s
    else
      let rcd := record s 0x0F01 0 p r.evq.seq.toNat (leBytes 4 r.evq.dropped)
      evqWrite p rcd (updPart p (fun r =>
        { r with evq := { r.evq with seq := r.evq.seq + 1, dropped := 0 } }) s)

/-- Count a dropped record of a partition, also in the running period (R511, Table 21.5). -/
def evqDrop (p n : Nat) (s : State) : State :=
  let s := cnt (0x60100 + 8 * p) n s
  let s := { s with stg := { s.stg with
    itin := tupd p (fun (t : ItinSt) => { t with evDrop := t.evDrop + n }) s.stg.itin } }
  updPart p (fun r => { r with evq :=
    { r.evq with dropped := r.evq.dropped + n, seq := r.evq.seq + BitVec.ofNat 32 n } }) s

/-- Post a record on a partition's event queue (R509 to R511). -/
def evqPost (p kind cls : Nat) (payload : List Byte) (s : State) : State :=
  let s := evqLost p s
  match partOf s p with
  | none => s
  | some r =>
    if r.evq.dropped = 0 && evqRoom s r.evq 1 then
      let rcd := record s kind cls p r.evq.seq.toNat payload
      evqWrite p rcd (updPart p (fun r => { r with evq := { r.evq with seq := r.evq.seq + 1 } }) s)
    else evqDrop p 1 s

/-- A MEMORY record (KIND 0x1001): SUB, address, context/extent/port, count. -/
def evMemory (sub : Nat) (addr : Nat) (who count : Nat) (cls : Nat) (s : State) : State :=
  rasPost 0x1001 cls 0xFF (leBytes 8 addr ++ leBytes 2 sub ++ leBytes 2 who ++ leBytes 4 count) s

/-- A UNIT record (KIND 0x1002). -/
def evUnit (sub unit logical cell : Nat) (s : State) : State :=
  rasPost 0x1002 3 0xFF
    (leBytes 2 unit ++ leBytes 2 logical ++ leBytes 1 cell ++ leBytes 3 0 ++ leBytes 1 sub) s

/-- A FLASH record (KIND 0x1003). -/
def evFlash (sub ch target eb : Nat) (s : State) : State :=
  rasPost 0x1003 3 0xFF (leBytes 1 ch ++ leBytes 1 target ++ leBytes 6 0 ++ leBytes 8 eb ++ leBytes 1 sub) s

/-- A PORT record (KIND 0x1004). -/
def evPort (sub port lane partner : Nat) (s : State) : State :=
  rasPost 0x1004 3 0xFF (leBytes 1 port ++ leBytes 1 lane ++ leBytes 2 partner ++ leBytes 4 0 ++ leBytes 1 sub) s

/-- A PLATFORM record (KIND 0x1006). -/
def evPlatform (sub source value : Nat) (s : State) : State :=
  rasPost 0x1006 3 0xFF (leBytes 1 sub ++ leBytes 1 source ++ leBytes 6 0 ++ leBytes 8 value) s

/-- Queue a repair entry for the ledger (R473, R474). -/
def ledgerAdd (e : LedEnt) (mb : Option Nat) (s : State) : State :=
  { s with rep := { s.rep with writes := s.rep.writes ++
      [{ ent := { e with epoch := s.rep.epoch }, since := s.wall, mb := mb }] } }

/-- An input value refused by a rule with no counter of its own (R514). -/
def inputRefused (s : State) : State := cnt 0x60040 1 s

end Sys2Proof.Machine
end

