-- ==== Sys2Proof/Machine/Numeric.lean ====
section
/-! DEFINITION. Numbers: the formats of Table 8.2 as exact dyadic values, rounding and conversion (R205 to R211), and
the CRCs of the device (R238). -/

namespace Sys2Proof.Machine

open Sys2Proof

/-! ### CRC-64 and CRC-32C -/

/-- One bit step of a reflected CRC. -/
def crcBit (poly v : Nat) : Nat := if v % 2 = 1 then (v / 2) ^^^ poly else v / 2

/-- One byte of a reflected CRC. -/
def crcByte (poly v : Nat) (b : Byte) : Nat :=
  (List.range 8).foldl (fun v _ => crcBit poly v) (v ^^^ b.toNat)

/-- CRC-64 over ECMA-182, reflected (R238); zero over an empty input. -/
def crc64 (l : List Byte) : Nat :=
  (l.foldl (crcByte 0xC96C5795D7870F42) (2 ^ 64 - 1)) ^^^ (2 ^ 64 - 1)

/-- CRC-32C, reflected. -/
def crc32c (l : List Byte) : Nat := (l.foldl (crcByte 0x82F63B78) (2 ^ 32 - 1)) ^^^ (2 ^ 32 - 1)

/-! ### Exact values -/

/-- A floating-point value: NaN, an infinity, or sign, significand and power of two. -/
inductive Fv
  | nan
  | inf (neg : Bool)
  | fin (neg : Bool) (m : Nat) (e : Int)
deriving DecidableEq, Repr

/-- Finite. -/
def Fv.isFin : Fv → Bool
  | .fin _ _ _ => true
  | _ => false

/-- Zero. -/
def Fv.isZero : Fv → Bool
  | .fin _ 0 _ => true
  | _ => false

def Fv.zero : Fv := .fin false 0 0
def Fv.one : Fv := .fin false 1 0

/-- The exact product; infinity times zero is NaN (R208, IEEE 754-2019). -/
def Fv.mul : Fv → Fv → Fv
  | .nan, _ => .nan
  | _, .nan => .nan
  | .inf a, .inf b => .inf (a != b)
  | .inf a, .fin b m _ => if m = 0 then .nan else .inf (a != b)
  | .fin a m _, .inf b => if m = 0 then .nan else .inf (a != b)
  | .fin a m e, .fin b n f => .fin (a != b) (m * n) (e + f)

/-- The exact sum; opposite infinities give NaN. -/
def Fv.add : Fv → Fv → Fv
  | .nan, _ => .nan
  | _, .nan => .nan
  | .inf a, .inf b => if a = b then .inf a else .nan
  | .inf a, .fin _ _ _ => .inf a
  | .fin _ _ _, .inf b => .inf b
  | .fin a m e, .fin b n f =>
    let q := min e f
    let x : Int := (if a then -1 else 1) * (m * 2 ^ (e - q).toNat : Nat)
    let y : Int := (if b then -1 else 1) * (n * 2 ^ (f - q).toNat : Nat)
    let z := x + y
    if z = 0 then .fin (a && b) 0 q else .fin (decide (z < 0)) z.natAbs q

/-- Negation. -/
def Fv.neg : Fv → Fv
  | .nan => .nan
  | .inf a => .inf (!a)
  | .fin a m e => .fin (!a) m e

/-- `a < b` for values that are not NaN. -/
def Fv.lt (a b : Fv) : Bool :=
  match a, b with
  | .nan, _ => false
  | _, .nan => false
  | .inf x, .inf y => x && !y
  | .inf x, .fin _ _ _ => x
  | .fin _ _ _, .inf y => !y
  | a, b => match Fv.add a (Fv.neg b) with
    | .fin n m _ => n && m != 0
    | _ => false

/-- A format: bits, significand precision, exponent of its smallest subnormal, largest finite as m and e, whether it
has infinities, whether it has NaN. -/
structure Fmt where
  bits : Nat
  p : Nat
  emin : Int
  maxM : Nat
  maxE : Int
  hasInf : Bool
  hasNan : Bool
deriving DecidableEq, Repr

def fp64 : Fmt := { bits := 64, p := 53, emin := -1074, maxM := 2 ^ 53 - 1, maxE := 971, hasInf := true, hasNan := true }
def fp32 : Fmt := { bits := 32, p := 24, emin := -149, maxM := 2 ^ 24 - 1, maxE := 104, hasInf := true, hasNan := true }
def bf16 : Fmt := { bits := 16, p := 8, emin := -133, maxM := 255, maxE := 120, hasInf := true, hasNan := true }
def fp16 : Fmt := { bits := 16, p := 11, emin := -24, maxM := 2047, maxE := 5, hasInf := true, hasNan := true }
def e4m3 : Fmt := { bits := 8, p := 4, emin := -9, maxM := 14, maxE := 5, hasInf := false, hasNan := true }
def e5m2 : Fmt := { bits := 8, p := 3, emin := -16, maxM := 7, maxE := 13, hasInf := true, hasNan := true }
def e3m2 : Fmt := { bits := 6, p := 3, emin := -4, maxM := 7, maxE := 2, hasInf := false, hasNan := false }
def e2m3 : Fmt := { bits := 6, p := 4, emin := -3, maxM := 15, maxE := -1, hasInf := false, hasNan := false }
def e2m1 : Fmt := { bits := 4, p := 2, emin := -1, maxM := 3, maxE := 1, hasInf := false, hasNan := false }

/-- The element format of a code of Table 8.2 (0x00 to 0x09). -/
def fmtOf : Nat → Option Fmt
  | 0x00 => some fp32 | 0x01 => some bf16 | 0x02 => some fp16 | 0x03 => some e4m3 | 0x04 => some e5m2
  | 0x05 => some e4m3 | 0x06 => some e5m2 | 0x07 => some e3m2 | 0x08 => some e2m3 | 0x09 => some e2m1
  | _ => none

/-- Bits of an element of a format code (Table 8.2). -/
def fmtBits : Nat → Nat
  | 0x0A => 8 | 0x0B => 8 | 0x0C => 4 | 0x0D => 1 | 0x0E => 32
  | c => ((fmtOf c).map Fmt.bits).getD 8

/-- The format takes MX scales (R207). -/
def isMx (c : Nat) : Bool := decide (5 ≤ c) && decide (c ≤ 0x0A)
/-- Integer pair formats, and BIN. -/
def isInt (c : Nat) : Bool := c = 0x0B || c = 0x0C

/-- Fields of an element's bits. -/
def Fmt.decode (f : Fmt) (b : Nat) : Fv :=
  let neg := bit b (f.bits - 1)
  let mant := b % 2 ^ (f.p - 1)
  let ex := b / 2 ^ (f.p - 1) % 2 ^ (f.bits - f.p)
  let top := 2 ^ (f.bits - f.p) - 1
  if f.hasInf && ex = top then (if mant = 0 then .inf neg else .nan)
  else if !f.hasInf && f.hasNan && ex = top && mant = 2 ^ (f.p - 1) - 1 then .nan
  else if ex = 0 then .fin neg mant f.emin
  else .fin neg (mant + 2 ^ (f.p - 1)) (f.emin + ex - 1)

/-- Bits in a number. -/
def bitLen (n : Nat) : Nat := if n = 0 then 0 else Nat.log2 n + 1

/-- Round a positive dyadic to a precision with exponent at least `emin`, exponent unbounded above; `up d k` decides
whether the discarded part d of 2^k rounds up, given the kept significand. -/
def roundWith (p : Nat) (emin : Int) (up : (kept d k : Nat) → Bool) (m : Nat) (e : Int) : Nat × Int :=
  let q := max (e + bitLen m - p) emin
  if q ≤ e then (m * 2 ^ (e - q).toNat, q)
  else
    let k := (q - e).toNat
    let kept := m / 2 ^ k
    let r := if up kept (m % 2 ^ k) k then kept + 1 else kept
    if r = 2 ^ p then (2 ^ (p - 1), q + 1) else (r, q)

/-- Round to nearest, ties to even. -/
def upRne (kept d k : Nat) : Bool :=
  decide (2 ^ k < 2 * d) || (2 * d = 2 ^ k && kept % 2 = 1)

/-- Stochastic rounding with draw `r` (R211): the top 16 bits of the discarded magnitude above r round up. -/
def upStoch (r : Nat) (_kept d k : Nat) : Bool := decide (r < d * 65536 / 2 ^ k)

/-- Round a value to a format with the exponent unbounded above. -/
def Fmt.round (f : Fmt) (up : Nat → Nat → Nat → Bool) : Fv → Fv
  | .fin n m e =>
    if m = 0 then .fin n 0 f.emin
    else let x := roundWith f.p f.emin up m e; .fin n x.1 x.2
  | v => v

/-- A value's magnitude exceeds the largest finite value. -/
def Fmt.overI (f : Fmt) : Fv → Bool
  | .fin _ m e => Fv.lt (.fin false f.maxM f.maxE) (.fin false m e)
  | _ => false

/-- IEEE arithmetic result in a format with infinities: rounded to nearest even, overflow to infinity. -/
def Fmt.near (f : Fmt) (v : Fv) : Fv :=
  let r := f.round upRne v
  match r with
  | .fin n _ _ => if f.overI r then .inf n else r
  | r => r

/-- A NaN's bits: which NaN is not stated, a free value (log 14). -/
def Fmt.nanBits (f : Fmt) : Nat :=
  let top := (2 ^ (f.bits - f.p) - 1) * 2 ^ (f.p - 1)
  if f.hasInf then top + 1 + Config.freeOf 104 [f.bits, f.p] % (2 ^ (f.p - 1) - 1)
  else top + 2 ^ (f.p - 1) - 1

/-- The bits of a rounded value (R210): `sat` saturates, else overflow gives infinity, or NaN in a format without. -/
def Fmt.encode (f : Fmt) (sat : Bool) (v : Fv) : Nat :=
  let sign := fun (n : Bool) => if n then 2 ^ (f.bits - 1) else 0
  let infBits := (2 ^ (f.bits - f.p) - 1) * 2 ^ (f.p - 1)
  let pack := fun (m : Nat) (e : Int) =>
    if m < 2 ^ (f.p - 1) then m else (e - f.emin + 1).toNat * 2 ^ (f.p - 1) + (m - 2 ^ (f.p - 1))
  match v with
  | .nan => f.nanBits
  | .inf n => if f.hasInf then sign n + infBits else f.nanBits
  | .fin n m e =>
    if f.overI v then
      if sat then sign n + pack f.maxM f.maxE
      else if f.hasInf then sign n + infBits else f.nanBits
    else sign n + pack m e

/-- FP32 bits of a value, rounded to nearest even. -/
def toF32 (v : Fv) : Nat := fp32.encode false (fp32.near v)
/-- The value of FP32 bits. -/
def ofF32 (b : Nat) : Fv := fp32.decode b

/-- Rounded FP32 sum and product (R208, R215). -/
def add32 (a b : Fv) : Fv := fp32.near (Fv.add a b)
def mul32 (a b : Fv) : Fv := fp32.near (Fv.mul a b)

/-- A value divided by a positive integer, exact but for a sticky last bit below any format's precision (R269). -/
def Fv.divNat (v : Fv) (c : Nat) : Fv :=
  match v with
  | .fin sg m e =>
    let q := m * 2 ^ 64 / c
    .fin sg (2 * q + (if m * 2 ^ 64 % c = 0 then 0 else 1)) (e - 65)
  | x => x

/-- Element-wise maximum: any NaN gives NaN, +0 counts as greater than -0 (R269). -/
def Fv.maxi (a b : Fv) : Fv :=
  match a, b with
  | .nan, _ => .nan
  | _, .nan => .nan
  | a, b =>
    if Fv.lt a b then b else if Fv.lt b a then a
    else match a with
      | .fin true 0 _ => b
      | _ => a

/-- Two's complement value of `w` bits. -/
def sInt (w b : Nat) : Int := if b % 2 ^ w < 2 ^ (w - 1) then (b % 2 ^ w : Nat) else (b % 2 ^ w : Nat) - (2 ^ w : Nat)

/-- The integer as an exact value. -/
def ofInt (i : Int) : Fv := .fin (decide (i < 0)) i.natAbs 0

/-- Bits of element `k` of a packed row (R206). -/
def elemBits (row : List Byte) (w k : Nat) : Nat :=
  leNat ((row.drop (k * w / 8)).take ((k * w % 8 + w + 7) / 8)) / 2 ^ (k * w % 8) % 2 ^ w

/-- The scale of an E8M0 byte (R205). -/
def e8m0 (b : Nat) : Fv := if b = 255 then .nan else .fin false 1 ((b : Int) - 127)

/-- The exact value of element `k` of a packed row of a format code, with its scale byte (R205 to R208). -/
def elemVal (code : Nat) (row : List Byte) (scale : Option (List Byte)) (k : Nat) : Fv :=
  let b := elemBits row (fmtBits code) k
  let raw := match code with
    | 0x0A => Fv.mul (ofInt (sInt 8 b)) (.fin false 1 (-6))
    | 0x0B => ofInt (sInt 8 b)
    | 0x0C => ofInt (sInt 4 b)
    | 0x0D => ofInt b
    | 0x0E => ofInt (sInt 32 b)
    | c => ((fmtOf c).map (fun f => f.decode b)).getD .nan
  match scale with
  | none => raw
  | some sc => Fv.mul raw (e8m0 ((sc.getD (k / 32) 0).toNat))

/-- A list in the order a free choice of the device gives (R201, R208). -/
def freeOrder {α : Type} (seed : List Nat) : Nat → List α → List α
  | 0, l => l
  | n + 1, l =>
    match l with
    | [] => []
    | x :: t =>
      let i := Config.freeOf 101 (n :: seed) % (x :: t).length
      ((x :: t).getD i x) :: freeOrder seed n (dropAt i (x :: t))

/-- Sum into an FP32 accumulator, each addition rounded, in a free order (R208). -/
def sumFree (seed : List Nat) (l : List Fv) : Fv :=
  (freeOrder seed l.length l).foldl add32 Fv.zero

/-- Exact sums of groups of 32 consecutive products (R208). -/
def groups32 : Nat → List Fv → List Fv
  | 0, _ => []
  | n + 1, l => if l.isEmpty then [] else (l.take 32).foldl Fv.add Fv.zero :: groups32 n (l.drop 32)

/-- One accumulator of a floating-point pair (R208). -/
def accumulate (seed : List Nat) (narrow : Bool) (prods : List Fv) : Fv :=
  sumFree seed (if narrow then groups32 prods.length prods else prods)

/-- Activations (Table 8.5): NONE and RELU are exact; the others are free within the table's error (log 15). -/
def activation (act : Nat) (v : Fv) : Fv :=
  match act with
  | 0 => v
  | 1 => if Fv.lt v Fv.zero then Fv.zero else v
  | _ => match v with
    | .nan => .nan
    | v => ofF32 (Config.freeOf 103 [act, toF32 v] % 2 ^ 32)

/-- Output conversion of an FP32 value to a format code (R210, R211). -/
def convertOut (code : Nat) (sat stoch : Bool) (r : Nat) (v : Fv) : Nat :=
  match fmtOf code with
  | some f => f.encode sat (f.round (if stoch then upStoch r else upRne) v)
  | none => 0

end Sys2Proof.Machine
end

