-- ==== Sys2Proof/Machine/Frb.lean ====
section
/-! DEFINITION. The FRB codec (15_compression.md): table sets, encoding of a block with error feedback, decoding. -/

namespace Sys2Proof.Machine

open Sys2Proof

/-- A FP32 quotient rounded once; the divisor is finite and not zero (R385). -/
def frbDiv (a b : Fv) : Fv :=
  match a, b with
  | .fin x m e, .fin y n f =>
    if n = 0 then .nan
    else
      let q := m * 2 ^ 160 / n
      fp32.near (.fin (x != y) (2 * q + (if m * 2 ^ 160 % n = 0 then 0 else 1)) (e - f - 161))
  | _, _ => .nan

/-- The magnitude of a value. -/
def frbAbs : Fv → Fv
  | .fin _ m e => .fin false m e
  | .inf _ => .inf false
  | .nan => .nan

/-- Values strictly ascending. -/
def ascending : List Fv → Bool
  | a :: b :: t => Fv.lt a b && ascending (b :: t)
  | _ => true

/-- Bytes of a table set of code width `w` before its signature block (Table 15.1). -/
def frbLen (w : Nat) : Nat := 64 + 4 * 2 ^ w + 1024

/-- The table set of an image, where its fields are those of Table 15.1. -/
def frbParse (img : List Byte) : Option (Nat × FrbTable) :=
  let w := fld img 8 1
  let id := fld img 4 4
  if fld img 0 4 != 0x31425246 || id = 0 || id = 0xFFFFFFFF || !(w = 2 || w = 4 || w = 8) || img.length != frbLen w
      || !zeroAt img 9 55 then none
  else
    let cb := (List.range (2 ^ w)).map (fun i => fld img (64 + 4 * i) 4)
    let sc := (List.range 256).map (fun i => fld img (64 + 4 * 2 ^ w + 4 * i) 4)
    let cbv := cb.map ofF32
    let scv := sc.map ofF32
    if cbv.all (fun v => v.isFin && !Fv.lt Fv.one (frbAbs v)) && ascending cbv
        && scv.all (fun v => v.isFin && Fv.lt Fv.zero v) && ascending scv
    then some (id, { w := w, cb := cb, scale := sc, image := img }) else none

/-- Format of a source format code (Table 15.2). -/
def frbFmt (sfmt : Nat) : Fmt := if sfmt = 1 then bf16 else fp32
/-- Element size. -/
def frbEs (sfmt : Nat) : Nat := if sfmt = 1 then 2 else 4
/-- Bytes of a block (R384). -/
def frbC (w : Nat) : Nat := 8 + 32 * w

/-- The index of the codebook entry nearest a value; the lower on a tie. -/
def frbNearest (cb : List Fv) (t : Fv) : Nat :=
  let dist := fun (i : Nat) => frbAbs (Fv.add (cb.getD i Fv.zero) t.neg)
  (List.range cb.length).foldl (fun b i => if Fv.lt (dist i) (dist b) then i else b) 0

/-- The decoded value of a code (R385). -/
def frbValue (t : FrbTable) (sfmt sel c : Nat) : Fv :=
  (frbFmt sfmt).near (Fv.mul (ofF32 (t.cb.getD c 0)) (ofF32 (t.scale.getD sel 0)))

/-- A block's bytes from its fields (Table 15.3). -/
def frbBytes (w sel flags k : Nat) (codes : List Nat) : List Byte :=
  let head := leBytes 1 sel ++ leBytes 1 flags ++ leBytes 2 (k % 65536)
  let body := leBytes (32 * w) ((codes.zip (List.range 256)).foldl (fun a c => a + c.1 * 2 ^ (w * c.2)) 0)
  head ++ leBytes 4 (crc32c (head ++ body)) ++ body

/-- What encoding a block gives: its bytes, the residuals after it as FP32 bits, and whether it was NONFIN. -/
structure FrbOut where
  bytes : List Byte
  resid : List Nat
  nonfin : Bool
deriving DecidableEq, Repr

/-- Encode block `k` of up to 256 values with their residuals (R385, R386). The SEL and CODES of a block with a value
that is not finite are free: no value is read from them. -/
def frbEncode (t : FrbTable) (sfmt k : Nat) (ef poison : Bool) (xs rs : List Fv) (seed : List Nat) : FrbOut :=
  let cb := t.cb.map ofF32
  let sc := t.scale.map ofF32
  let ys := List.zipWith add32 xs rs
  let nonfin := !ys.all Fv.isFin
  if nonfin then
    { bytes := frbBytes t.w (Config.freeOf 150 (k :: seed) % 256) (b2n poison + 2) k
        ((List.range 256).map (fun j => Config.freeOf 151 (k :: j :: seed) % 2 ^ t.w))
      resid := xs.map (fun _ => 0), nonfin := true }
  else
    let m := ys.foldl (fun a y => if Fv.lt a (frbAbs y) then frbAbs y else a) Fv.zero
    let s := ((List.range 256).find? (fun i => !Fv.lt (sc.getD i Fv.zero) m)).getD 255
    let lo := cb.headD Fv.zero
    let hi := cb.getD (cb.length - 1) Fv.zero
    let clamp := fun (v : Fv) => if Fv.lt v lo then lo else if Fv.lt hi v then hi else v
    let cs := ys.map (fun y => frbNearest cb (clamp (frbDiv y (sc.getD s Fv.one))))
    let pad := List.replicate (256 - cs.length) (frbNearest cb Fv.zero)
    let res := List.zipWith (fun y c => if ef then toF32 (add32 y (frbValue t sfmt s c).neg) else 0) ys cs
    { bytes := frbBytes t.w s (b2n poison) k (cs ++ pad)
      resid := if poison then res.map (fun _ => 0) else res, nonfin := false }

/-- Decode a block: its POISON mark and the bytes of its 256 values; none where it is damaged (R389). -/
def frbDecode (t : FrbTable) (sfmt k : Nat) (b : List Byte) : Option (Bool × List Byte) :=
  let fl := fld b 1 1
  let c := frbC t.w
  let crc := crc32c (b.take 4 ++ (b.take c).drop 8)
  if fld b 2 2 != k % 65536 || 4 ≤ fl || fld b 4 4 != crc || b.length < c then none
  else
    let codes := leNat ((b.take c).drop 8)
    let f := frbFmt sfmt
    let val := fun (j : Nat) =>
      if bit fl 1 then f.nanBits
      else f.encode false (frbValue t sfmt (fld b 0 1) (codes / 2 ^ (t.w * j) % 2 ^ t.w))
    some (bit fl 0, (List.range 256).flatMap (fun j => leBytes (frbEs sfmt) (val j)))

end Sys2Proof.Machine
end

