-- ==== Sys2Proof/Machine/Flags.lean ====
section
/-! DEFINITION. Flag computations: the fields and sticky flags of a tally word (Tables 5.1 to 5.3), the conditions of
waits, the FE state after a change (R153) and the FLAGS byte of a waybill (Table 9.2). -/

namespace Sys2Proof.Machine

open Sys2Proof

/-- COUNT saturates here (Table 5.1). -/
def countMax : Nat := 2 ^ 48 - 1

/-- EPOCH of a tally word or operand. -/
def tEpoch (w : BitVec 64) : Nat := (w.extractLsb' 52 12).toNat
/-- COUNT of a tally word; VALUE of an operand. -/
def tCount (w : BitVec 64) : Nat := (w.extractLsb' 0 48).toNat
def tSat (w : BitVec 64) : Bool := w.getLsbD 51
def tUnd (w : BitVec 64) : Bool := w.getLsbD 50
def tMis (w : BitVec 64) : Bool := w.getLsbD 49
/-- NOCHK of an operand (Table 5.2). -/
def tNochk (w : BitVec 64) : Bool := w.getLsbD 51
/-- The operand's reserved bits [50:48] are zero (R139). -/
def tRsvdZero (w : BitVec 64) : Bool := w.extractLsb' 48 3 == 0

/-- A tally word from its fields (Table 5.1). -/
def tWord (epoch : Nat) (sat und mis : Bool) (count : Nat) : BitVec 64 :=
  BitVec.ofNat 64 (epoch % 4096 * 2 ^ 52 + b2n sat * 2 ^ 51 + b2n und * 2 ^ 50 + b2n mis * 2 ^ 49 + count % 2 ^ 48)

/-- The word with a new COUNT. -/
def tSet (w : BitVec 64) (count : Nat) : BitVec 64 := tWord (tEpoch w) (tSat w) (tUnd w) (tMis w) count

/-- The operation is misused (R141); reserved bits of an operand count as a non-matching EPOCH (R139). -/
def misused (w opnd : BitVec 64) : Bool :=
  !tRsvdZero opnd || (!tNochk opnd && tEpoch w != tEpoch opnd)

/-- A flag an update sets, where it does. -/
inductive TFlag | sat | und | mis
deriving DecidableEq, Repr

/-- SUB of a SYNC event (Table 21.4). -/
def TFlag.sub : TFlag → Nat
  | .sat => 1 | .und => 2 | .mis => 3

/-- The flag stands in a word. -/
def TFlag.on (f : TFlag) (w : BitVec 64) : Bool :=
  match f with
  | .sat => tSat w | .und => tUnd w | .mis => tMis w

/-- The word with a flag set. -/
def TFlag.set (f : TFlag) (w : BitVec 64) : BitVec 64 :=
  match f with
  | .sat => tWord (tEpoch w) true (tUnd w) (tMis w) (tCount w)
  | .und => tWord (tEpoch w) (tSat w) true (tMis w) (tCount w)
  | .mis => tWord (tEpoch w) (tSat w) (tUnd w) true (tCount w)

/-- TALLY_ADD and TALLY_SUB on a word (Table 5.3, R141, R144): the new word and the flag the operation hits. -/
def tallyUpdate (sub : Bool) (w opnd : BitVec 64) : BitVec 64 × Option TFlag :=
  if misused w opnd then (TFlag.mis.set w, some .mis)
  else if sub then
    if tCount w < tCount opnd then (TFlag.und.set (tSet w 0), some .und)
    else (tSet w (tCount w - tCount opnd), none)
  else if countMax < tCount w + tCount opnd then (TFlag.sat.set (tSet w countMax), some .sat)
  else (tSet w (tCount w + tCount opnd), none)

/-- The condition of a wait on a word (Table 5.3, R142). -/
def waitHolds (op : TallyOp) (w opnd : BitVec 64) : Bool :=
  match op with
  | .waitGe => decide (tCount opnd ≤ tCount w)
  | .waitEq => tCount w == tCount opnd
  | .monitor => w != opnd
  | _ => true

/-- A wait compares EPOCH (R140, R141): WAIT_GE and WAIT_EQ do, MONITOR does not. -/
def waitChecks (op : TallyOp) : Bool :=
  match op with
  | .waitGe | .waitEq => true
  | _ => false

/-- FE states (Table 3.4). -/
def feEmpty : Nat := 0
def feFull : Nat := 1
def feFullWaiters : Nat := 2

/-- The state of a sync line from its fullness and whether a WRITE_EF is queued (R153). -/
def feState (full efQueued : Bool) : Nat := if full then (if efQueued then feFullWaiters else feFull) else feEmpty

/-- FLAGS of a waybill (Table 9.2). -/
structure WFlags where
  checked : Bool := false
  shadowed : Bool := false
  suspect : Bool := false
  late : Bool := false
  partialOut : Bool := false
  poisoned : Bool := false
  retried : Bool := false
deriving DecidableEq, Repr

/-- The FLAGS byte (Table 9.2). -/
def WFlags.byte (f : WFlags) : Nat :=
  b2n f.checked + 2 * b2n f.shadowed + 4 * b2n f.suspect + 8 * b2n f.late + 16 * b2n f.partialOut
    + 32 * b2n f.poisoned + 64 * b2n f.retried

end Sys2Proof.Machine
end

