-- ==== Sys2Proof/Machine/Answer.lean ====
section
/-! DEFINITION. Registers of threads, faults of threads (R198), answers to requests, and the operations on tally words
with their waiters (R138 to R149). -/

namespace Sys2Proof.Machine

open Sys2Proof

/-! ### Threads -/

/-- A thread context in use. -/
def thr (s : State) (t : Nat) : Option Thread := tget t s.drv.threads

/-- Change a thread. -/
def updThr (t : Nat) (f : Thread → Thread) (s : State) : State :=
  { s with drv := { s.drv with threads := tupd t f s.drv.threads } }

/-- Change a thread group. -/
def updGrp (g : Nat) (f : Group → Group) (s : State) : State :=
  { s with drv := { s.drv with groups := tupd g f s.drv.groups } }

/-- Write a register with its poison bit; r0 discards writes (Table 7.1, R188). -/
def Thread.write (x : Thread) (r : RegId) (v : Nat) (p : Bool) : Thread :=
  match r with
  | .r n =>
    if n = 0 then x
    else { x with regs := x.regs.setIfInBounds n (BitVec.ofNat 64 v),
                  rp := if p then x.rp ||| (1#32 <<< n) else x.rp &&& ~~~(1#32 <<< n) }
  | .v n => { x with vecs := x.vecs.setIfInBounds n (BitVec.ofNat 512 v),
                     vp := if p then x.vp ||| (1#16 <<< n) else x.vp &&& ~~~(1#16 <<< n) }

/-- Read a register; r0 reads as zero (Table 7.1). -/
def Thread.read (x : Thread) (r : RegId) : Nat :=
  match r with
  | .r n => if n = 0 then 0 else (x.regs.getD n 0).toNat
  | .v n => (x.vecs.getD n 0).toNat

/-- A register's poison bit (R188). -/
def Thread.pois (x : Thread) (r : RegId) : Bool :=
  match r with
  | .r n => n != 0 && x.rp.getLsbD n
  | .v n => x.vp.getLsbD n

/-- One outstanding request of a thread has returned (R180). -/
def Thread.returned (x : Thread) (r : RegId) : Thread := { x with pend := x.pend.erase r, out := x.out - 1 }

/-- STOP_ON_FAULT and WAYBILL of a group's descriptor (Table 7.6). -/
def Group.stopOnFault (g : Group) : Bool := bit (fld g.desc 7 1) 0
def Group.wantsWaybill (g : Group) : Bool := bit (fld g.desc 7 1) 1
/-- The cell of a group's core. -/
def Group.cell (g : Group) : Nat := g.core / 16

/-- A number no thread has: thread numbers end at 20,479 (R178). -/
def noThread : Nat := 20480

/-- A request belongs to a thread that has ended, whose number another thread may have taken. -/
def staleReq (x : Thread) (r : Req) : Bool := decide (r.id < x.born)

/-- The parked waits of a thread are withdrawn (R194); those at another device answer to no thread. -/
def withdraw (t : Nat) (s : State) : State :=
  let gone := fun (u : Remote) => match u with
    | .sync v rd sa => if v = t then Remote.sync noThread rd sa else u
    | _ => u
  let s := { s with ports := s.ports.map (fun (x : Port) =>
    { x with
      tags := x.tags.map (fun (y : Nat × Remote) => (y.1, gone y.2))
      tagq := x.tagq.map (fun (y : Remote × Msg) => (gone y.1, y.2)) }) }
  { s with sync := { s.sync with
      waiters := s.sync.waiters.filter (fun w => match w.who with | .thread u _ => u != t | _ => true)
      feq := s.sync.feq.filter (fun w => match w.who with | .thread u _ => u != t | _ => true) } }

/-- Stop a thread that is still running or parked: it issues nothing more (R194). -/
def stopThread (t : Nat) (s : State) : State :=
  match thr s t with
  | none => s
  | some x =>
    if x.st = .running || x.st = .parked then
      updGrp x.group (fun g => { g with faulted := g.faulted + 1 })
        (withdraw t (updThr t (fun x => { x with st := .stopped, pend := [] }) s))
    else s

/-- A group whose every thread has ended moves to ENDING (Table 7.8). -/
def groupCheck (g : Nat) (s : State) : State :=
  match tget g s.drv.groups with
  | none => s
  | some x =>
    if x.st = .running && decide (x.threads.length ≤ x.halted + x.faulted)
    then updGrp g (fun x => { x with st := .ending }) s else s

/-- A thread faults: it stops, its record is posted, and with STOP_ON_FAULT the group's other threads stop
(R198, Table 7.11). -/
def faultThread (t : Nat) (st : Status) (sa : Nat) (fetch : Bool) (s : State) : State :=
  match thr s t with
  | none => s
  | some x =>
    if x.st = .halted || x.st = .faulted || x.st = .stopped then s
    else
      match tget x.group s.drv.groups with
      | none => s
      | some g =>
        let rcd := leBytes 1 st.code ++ leBytes 1 (t % 64) ++ leBytes 2 t ++ g.desc.take 4 ++ leBytes 8 x.pc.toNat
          ++ leBytes 8 sa ++ leBytes 4 (if fetch then 0 else x.insn.toNat) ++ leBytes 2 x.ctx ++ leBytes 1 g.index
          ++ leBytes 1 0
        let s := withdraw t (updThr t (fun x => { x with st := .faulted, pend := [] }) s)
        let s := updGrp x.group (fun g => { g with
          faulted := g.faulted + 1
          firstFault := if g.firstFault.isNone then some st else g.firstFault
          poisoned := g.poisoned || st = .faultPoison }) s
        let s := cnt (cellReg g.cell 0x730) 1 (evqPost g.part 0x0101 1 rcd s)
        let s := if g.stopOnFault then g.threads.foldl (fun s u => stopThread u s) s else s
        groupCheck x.group s

/-- A thread faults for a request it issued earlier: the record names the instruction that issued it (R375). -/
def faultReq (t id : Nat) (st : Status) (sa : Nat) (s : State) : State :=
  let back := fun (x : Thread) => match tget id x.log with
    | some (pc, w) => { x with pc := pc, insn := w }
    | none => x
  match thr s t with
  | none => s
  | some x => if x.st = .running || x.st = .parked then faultThread t st sa false (updThr t back s) else s

/-! ### Answers -/

/-- The value a load of a kind leaves in its register. -/
def loadValue (k : LoadKind) (d : List Byte) : Nat :=
  match k with
  | .d8u => leNat (d.take 1)
  | .d16u => leNat (d.take 2)
  | .d32u => leNat (d.take 4)
  | .d32s => ((BitVec.ofNat 32 (leNat (d.take 4))).signExtend 64).toNat
  | .d64 => leNat (d.take 8)
  | .vec => leNat (d.take 64)

/-- A line write of a stream was acknowledged by its home or faulted (R361). -/
def streamLine (p id : Nat) (st : Status) (s : State) : State :=
  match tget (p * 8192 + id) s.car.streams with
  | none => s
  | some x =>
    let y := if st.ok then { x with landed := x.landed + 1, waiting := x.waiting - 1 }
      else { x with faulted := x.faulted + 1, waiting := x.waiting - 1,
                    fault := if x.fault.isNone then some st else x.fault }
    { s with car := { s.car with streams := tput (p * 8192 + id) y s.car.streams } }

/-- A record of a Serai batch has been performed (R374). -/
def batchRecord (p id i : Nat) (st : Status) (data : List Byte) (poison : Bool) (s : State) : State :=
  match tget (p * 8192 + id) s.car.batches with
  | none => s
  | some x =>
    let y := { x with results := tput i (st.code, poison, data) x.results }
    { s with car := { s.car with batches := tput (p * 8192 + id) y s.car.batches } }

/-- The outcome of a sync or full/empty instruction of a thread: word to rd, code to TS, the thread goes on (R187). -/
def threadSync (t : Nat) (rd : RegId) (st : Status) (v : Option Nat) (p : Bool) (s : State) : State :=
  updThr t (fun x =>
    if x.st = .running || x.st = .parked then
      let x := { x with ts := BitVec.ofNat 8 st.code, st := .running }
      let x := match v with
        | some v => x.write rd v p
        | none => x
      x.returned rd
    else x) s

/-- Statuses that a full/empty instruction reports in TS; any other faults the thread (R187). -/
def feOutcome : Status → Bool
  | .done | .timeout | .faultSync | .linkLost | .busy => true
  | _ => false

/-- Answer a request (R33, R55, R185, R345, Table 16.6). -/
def deliver (r : Req) (st : Status) (data : List Byte) (poison grant : Bool) (s : State) : State :=
  match r.who with
  | .thread t rd k =>
    match thr s t with
    | none => s
    | some x =>
      if staleReq x r then s
      else if x.st = .running || x.st = .parked then
        match r.op with
        | .fe f _ =>
          if feOutcome st then
            let v := if st.ok && (f = .readFe || f = .readFf) then some (leNat data) else none
            threadSync t rd st v poison s
          else faultReq t r.id st (ownSa s 0 r.off).toNat s
        | .wrCached =>
          if st.ok then
            updGrp x.group (fun g => { g with stored := true, poisoned := g.poisoned || r.poison })
              (updThr t (fun x => x.returned rd) s)
          else faultReq t r.id st (ownSa s 0 r.off).toNat (updThr t (fun x => x.returned rd) s)
        | .atomic _ w _ _ =>
          if st.ok then
            match w, rd with
            | 16, .r n => updThr t (fun x =>
                let x := (x.write (.r n) (leNat (data.take 8)) poison).write (.r (n + 1)) (leNat (data.drop 8)) poison
                { x with pend := (x.pend.erase rd).erase (.r (n + 1)), out := x.out - 1 }) s
            | _, _ => updThr t (fun x => (x.write rd (leNat data) poison).returned rd) s
          else faultReq t r.id st (ownSa s 0 r.off).toNat s
        | _ =>
          if st.ok then updThr t (fun x => (x.write rd (loadValue k data) poison).returned rd) s
          else faultReq t r.id st (ownSa s 0 r.off).toNat s
      else if r.op = .wrCached && st.ok then updGrp x.group (fun g => { g with stored := true }) s
      else s
  | .port p tag =>
    let own := s.parts.devNo
    let m : Msg := { kind := .rspAck, tag := tag, ctx := r.ctx, status := st.code, args := [own] }
    if st.ok then
      match r.op with
      | .rdS | .rdM | .rdNc => emit (.link p { m with kind := .rspData, grant := grant, poison := poison, data := data }) s
      | .fe .readFe _ | .fe .readFf _ => emit (.link p { m with kind := .rspData, poison := poison, data := data }) s
      | _ => emit (.link p m) s
    else emit (.link p { m with kind := .rspFault }) s
  | .host tag =>
    emit (.cpl tag (if st.ok then 0 else 4) poison (if st.ok then data else []))
      (if st.ok || st = .tierFailed then s else cnt 0x80080 1 s)
  | .hostPosted id =>
    { s with coh := { s.coh with
        posted := s.coh.posted.erase id
        heldWr := s.coh.heldWr.map (fun x => (x.1, x.2.erase id)) } }
  | .stream p id => streamLine p id st s
  | .batch p id i => batchRecord p id i st data poison s
  | .engine _ => s
  | .migration => s

/-! ### Tally words -/

/-- The tally word of a sync offset: number cell × 32768 + word. -/
def tallyAt (s : State) (w : Nat) : BitVec 64 := tgetD s.sync.words w 0

/-- Write a tally word; an unlisted word reads as zero (R138). -/
def setTally (w : Nat) (v : BitVec 64) (s : State) : State :=
  { s with sync := { s.sync with words := if v = 0 then tdel w s.sync.words else tput w v s.sync.words } }

/-- A SYNC event of a tally word or line (Table 21.4). -/
def evSync (sub sa ctx word : Nat) (cell : Nat) (s : State) : State :=
  match cellPart s cell with
  | none => s
  | some p => evqPost p 0x0201 1
      (leBytes 8 sa ++ leBytes 2 sub ++ leBytes 2 ctx ++ leBytes 4 0 ++ leBytes 8 word) s

/-- End a wait with a status and the word as it stands (R145). -/
def endWait (w : TWait) (st : Status) (s : State) : State :=
  let s := if st = .timeout then cnt (cellReg (w.word / 32768) 0x628) 1 s else s
  let v := (tallyAt s w.word).toNat
  match w.who with
  | .thread t rd => threadSync t rd st (some v) false s
  | .remote p tag => emit (.link p
      { kind := .rspSync, tag := tag, ctx := w.ctx, status := st.code, args := [v] }) s

/-- Wake every parked waiter of a word whose condition holds (R147). -/
def wake (word : Nat) (s : State) : State :=
  let v := tallyAt s word
  let hit := fun (w : TWait) => w.word = word && !w.poll && waitHolds w.op v w.operand
  let ws := s.sync.waiters
  let s := { s with sync := { s.sync with waiters := ws.filter (fun w => !hit w) } }
  (ws.filter hit).foldl (fun s w => endWait w .done s) s

/-- The counter of a flag (Table 5.10). -/
def TFlag.reg : TFlag → Nat
  | .sat => 0x610 | .und => 0x618 | .mis => 0x620

/-- Apply TALLY_ADD or TALLY_SUB at the home: the word, its flags, counters, events and waiters (R140 to R144). -/
def tallyApply (sub : Bool) (word : Nat) (opnd : BitVec 64) (ctx : Nat) (s : State) : State :=
  let old := tallyAt s word
  let res := tallyUpdate sub old opnd
  let cell := word / 32768
  let s := setTally word res.1 s
  let s := match res.2 with
    | none => cnt (cellReg cell 0x608) 1 s
    | some f =>
      let s := cnt (cellReg cell f.reg) 1 (if f = .mis then s else cnt (cellReg cell 0x608) 1 s)
      if f.on old then s
      else evSync f.sub (ownSa s 2 (word * 8)).toNat ctx res.1.toNat cell s
  if res.2 = some .mis || tCount opnd = 0 then s else wake word s

/-- Whether an update with this operand would be refused as misused (R149). -/
def tallyRefused (s : State) (word : Nat) (opnd : BitVec 64) : Bool := misused (tallyAt s word) opnd

/-- Tally waiter records in use at a cell (Table 5.11). -/
def waitersAt (s : State) (c : Nat) : List TWait := s.sync.waiters.filter (fun w => w.word / 32768 = c && !w.poll)

/-- A waiter is the cell's own thread. -/
def localWaiter (c : Nat) (w : TWait) : Bool :=
  match w.who with
  | .thread t _ => t / 1024 = c
  | .remote _ _ => false

/-- First evaluation of a wait: misuse, an immediate end, or a waiter that parks or polls (R141, R144 to R146). -/
def waitStart (op : TallyOp) (word : Nat) (opnd : BitVec 64) (timeout ctx : Nat) (who : Waiter) (s : State) : State :=
  let v := tallyAt s word
  let cell := word / 32768
  let w : TWait := { word := word, op := op, operand := opnd, timeout := timeout, since := s.now, ctx := ctx,
                     who := who, poll := false }
  if waitChecks op && misused v opnd then
    let s := setTally word (TFlag.mis.set v) s
    let s := cnt (cellReg cell 0x620) 1 s
    let s := if tMis v then s
      else evSync 3 (ownSa s 2 (word * 8)).toNat ctx (TFlag.mis.set v).toNat cell s
    endWait w .faultSync s
  else if waitHolds op v opnd then endWait w .done s
  else if timeout = 0 then endWait w .timeout s
  else
    let parked := waitersAt s cell
    let loc := (parked.filter (localWaiter cell)).length
    let rem := parked.length - loc
    let room := if localWaiter cell w then true else decide (rem < 3072) && decide (parked.length < 4096)
    let s := if room then s else cnt (cellReg cell 0x638) 1 s
    { s with sync := { s.sync with waiters := s.sync.waiters ++ [{ w with poll := !room }] } }

end Sys2Proof.Machine
end

