-- ==== Sys2Proof/Machine/Home.lean ====
section
/-! DEFINITION. The home agent: protection (R52 to R55), managed blocks in motion (R87 to R96), the line's coherence
(R109 to R121), full/empty lines (R152, R153) and the service of one request. -/

namespace Sys2Proof.Machine

open Sys2Proof

/-! ### Protection -/

/-- A context's access under the protection record of a page (R52, R54). -/
def permits (s : State) (ctx off : Nat) (w : Bool) : Bool :=
  if ctx = 0 then true
  else match protAt s off with
    | none => false
    | some p =>
      let gs := match ctxPart s p.owner with
        | some pt => if p.gset = 0 then [] else tgetD s.store.gsets (pt * 4096 + p.gset) []
        | none => []
      let named := p.owner = ctx || gs.any (fun g => g.valid && g.ctx = ctx && (if w then g.w else g.r))
      named && !(w && p.isSealed)

/-- The window rules of a shared region (R131, R132, R134, R135). -/
def regionPermits (s : State) (ctx off : Nat) (w : Bool) : Bool :=
  match allocAt s off with
  | none => false
  | some (base, al) =>
    match al.region with
    | none => true
    | some r =>
      let win := (off - base) / al.size
      if r.barred.contains (ctx, win) then false
      else if win < 16 then (tget win r.winVer).isSome && !w
      else match tget win r.work with
        | none => false
        | some k => !w || (k.ctx = ctx && !k.isSealed)

/-- A key slot is being revoked or gone (Table 18.4). -/
def slotRevoked (s : State) (k : Nat) : Bool :=
  match s.parts.keys[k]? with
  | some x => x.st = .draining || x.st = .retired
  | none => false

/-- An extent is DRAINING or retired. -/
def extRevoked (s : State) (e : Nat) : Bool :=
  match tget e s.store.exts with
  | some x => x.draining || x.retired
  | none => true

/-- A line lies in a revocation's scope (R70, R449, R450): by its KEY, by its extent, or by its block's lower copy. -/
def revoked (s : State) (off : Nat) : Bool :=
  let byKey := match tget (content s off / 64) s.store.key with
    | some k => slotRevoked s k
    | none => false
  let byExt := match allocAt s off with
    | some (_, al) => match al.ext with
      | some e => extRevoked s e
      | none => false
    | none => false
  let byLower := match (blockAt s off).bind Block.lower with
    | some (.host e) => extRevoked s e
    | _ => false
  byKey || byExt || byLower

/-- The checks of Table 2.12 made at the store map and the home, in table order. -/
def homeCheck (s : State) (ctx off : Nat) (w : Bool) : Option Status :=
  if (allocAt s off).isNone then some .faultAccess
  else if ctx != 0 && revoked s off then some .abortedRevoked
  else if !permits s ctx off w || (ctx != 0 && !regionPermits s ctx off w) then some .faultAccess
  else none

/-! ### Frames and quota -/

/-- Frames of a stack (R64). -/
def stackFrames : Nat := 999424

/-- Blocks of an allocation that fall to list entry `i` of `n` (R65). -/
def share (blocks n i : Nat) : Nat := if n = 0 then 0 else (blocks + n - 1 - i) / n

/-- Placed frames or units of an allocation in a cell. -/
def allocShare (al : Alloc) (c : Nat) : Nat :=
  ((List.range al.cells.length).filter (fun i => al.cells.getD i 20 = c)).map
    (fun i => share (nblk al.size) al.cells.length i) |>.sum

/-- Copies of a region's blocks charged to a cell (R133). -/
def chargedAt (al : Alloc) (c : Nat) : Nat :=
  match al.region with
  | some r => (r.charged.filter (fun x => x.2 = c)).length
  | none => 0

/-- Placed frames of a stack. -/
def placedFrames (s : State) (c : Nat) : Nat :=
  (s.store.allocs.map (fun x => if x.2.tier = .hbm then allocShare x.2 c + chargedAt x.2 c else 0)).sum

/-- The partition of a managed block. -/
def blockPart (s : State) (b : Block) : Nat := ((tget b.alloc s.store.allocs).map Alloc.part).getD 20

/-- Managed frames of a stack. -/
def managedFrames (s : State) (c : Nat) : Nat :=
  (s.store.blocks.filter (fun x => x.2.frame = some c)).length

/-- Frames of a stack that a location switch still holds (R95). -/
def shootFrames (s : State) (c : Nat) : Nat := (s.store.shoot.filter (fun x => x.cell = c)).length

/-- Free frames of a stack. -/
def freeFrames (s : State) (c : Nat) : Nat :=
  stackFrames - (s.store.stks.getD c {}).retired - placedFrames s c - managedFrames s c - shootFrames s c

/-- Resident managed frames of a partition's pool (R85). -/
def poolUsed (s : State) (p : Nat) : Nat :=
  (s.store.blocks.filter (fun x => x.2.frame.isSome && blockPart s x.2 = p)).length
    + (s.store.shoot.filter (fun x => cellPart s x.cell = some p)).length

/-- A block counts as pinned: by command, or because its backing extent failed (R90). -/
def isPinned (s : State) (b : Block) : Bool :=
  b.pinned || match b.lower with
    | some (.host e) => ((tget e s.store.exts).map Extent.failed).getD true
    | _ => false

/-- Pinned frames of a partition. -/
def pinnedFrames (s : State) (p : Nat) : Nat :=
  (s.store.blocks.filter (fun x => isPinned s x.2 && blockPart s x.2 = p)).length

/-- The first of some cells for which a test holds. -/
def firstCell (cs : List Nat) (f : Nat → Bool) : Option Nat := cs.find? f

/-- The cell with the largest measure, the first winning a tie; none where every measure is 0. -/
def bestCell (cs : List Nat) (f : Nat → Nat) : Option Nat :=
  cs.foldl (fun o c => match o with
    | none => if 0 < f c then some c else none
    | some d => if f d < f c then some c else some d) none

/-- The stack a frame is taken in (R91): preferred cells, the home cell, then the stack with most free frames. -/
def frameCell (s : State) (al : Alloc) (home : Nat) : Option Nat :=
  match firstCell (al.near ++ [home]) (fun c => decide (0 < freeFrames s c)) with
  | some c => some c
  | none => bestCell (partCells s al.part) (freeFrames s)

/-- Change a managed block's record. -/
def updBlock (b : Nat) (f : Block → Block) (s : State) : State :=
  { s with store := { s.store with blocks := tupd b f s.store.blocks } }

/-- Lower copies of managed blocks on a flash channel. -/
def lowerOn (s : State) (ch : Nat) : Nat :=
  (s.store.blocks.filter (fun x => match x.2.lower with | some (.flash c _) => c = ch | _ => false)).length

/-- Lower copies on an extent. -/
def lowerExt (s : State) (e : Nat) : Nat :=
  (s.store.blocks.filter (fun x => x.2.lower = some (.host e))).length

/-- Placed FLASH share of a channel. -/
def placedFlash (s : State) (ch : Nat) : Nat :=
  (s.store.allocs.map (fun x => if x.2.tier = .flash then allocShare x.2 ch + chargedAt x.2 ch else 0)).sum

/-- Free backing of a channel in blocks (R76, R86). -/
def flashRoom (s : State) (ch : Nat) : Nat :=
  let f := s.store.flash.getD ch {}
  if f.censusDone then f.usable - placedFlash s ch - lowerOn s ch else 0

/-- Free backing of a BACKING extent in blocks. -/
def extRoom (s : State) (e : Nat) : Nat :=
  match tget e s.store.exts with
  | some x => if x.backing && !x.failed && !x.draining && !x.retired then nblk x.size - lowerExt s e else 0
  | none => 0

/-- Targets of a channel that take writes. -/
def targets (s : State) (ch : Nat) : List Nat :=
  let f := s.store.flash.getD ch {}
  (List.range 16).filter (fun t => f.admitted.getLsbD t && !f.failedT.getLsbD t)

/-- Four targets, different wherever the channel has four (R75); which ones is free. -/
def pickTargets (s : State) (ch : Nat) : List Nat × State :=
  let ts := targets s ch
  let d := draw s
  let k := if ts.isEmpty then 0 else d.1 % ts.length
  ((List.range 4).map (fun i => ts.getD ((k + i) % (if ts.isEmpty then 1 else ts.length)) 0), d.2)

/-- Where an eviction writes (R91): preferred cells' channels, the channel of the block's cell, else the channel or
extent with most free reserve. -/
def evictPlace (s : State) (al : Alloc) (home : Nat) : Option Place × State :=
  let ok := fun c => decide (0 < flashRoom s c) && cellPart s c = some al.part && !(targets s c).isEmpty
  match firstCell (al.near ++ [home]) ok with
  | some c => let t := pickTargets s c; (some (.flash c t.1), t.2)
  | none =>
    let chs := (partCells s al.part).filter ok
    let exs := (s.store.exts.filter (fun x => x.2.part = al.part)).map Prod.fst
    match bestCell chs (flashRoom s), bestCell exs (extRoom s) with
    | some c, some e =>
      if flashRoom s c < extRoom s e then (some (.host e), s)
      else let t := pickTargets s c; (some (.flash c t.1), t.2)
    | some c, none => let t := pickTargets s c; (some (.flash c t.1), t.2)
    | none, some e => (some (.host e), s)
    | none, none => (none, s)

/-! ### Blocks in motion -/

/-- Lines of a content block that the directory lists, by store line (the block is not of a shared region, or its
window lines are those listed). -/
def blockLines (s : State) (b : Nat) : List Nat :=
  (s.coh.dir.map Prod.fst).filter (fun l => contentBlock s (l * 64) = b)

/-- Recall every M copy of a block's lines held in cells, and ask agents for theirs (R94). -/
def recallBlock (b : Nat) (s : State) : State :=
  (blockLines s b).foldl (fun s l =>
    match tget l s.coh.dir with
    | none => s
    | some e =>
      if e.m then
        if agentsOf e = [] then
          let s := writeBack l s
          { s with coh := { s.coh with dir := tdel l s.coh.dir } }
        else snoop l (agentsOf e) true
          { who := .migration, ctx := 0, off := l * 64, op := .rdNc, len := 64 } s
      else s) s

/-- Invalidate every copy of a block's lines (location switch, R94, R95). -/
def invalBlock (b : Nat) (s : State) : State :=
  (blockLines s b).foldl (fun s l =>
    match tget l s.coh.dir with
    | none => s
    | some e =>
      let s := (agentsOf e).foldl (fun s p => emit (.link p { kind := .snpInv, sa := ownSa s 0 (l * 64) }) s) s
      dropCopies l (writeBack l s)) s

/-- The block moves to LOWER: location switch, its frame held until the shootdown completes (R94, R95). -/
def toLower (b : Nat) (s : State) : State :=
  match tget b s.store.blocks with
  | none => s
  | some x =>
    let s := invalBlock b s
    let c := x.frame.getD 0
    let s := cnt (cellReg c 0x428) 1 s
    let s := updBlock b (fun x => { x with st := .lower, frame := none, lowerValid := true, landed := [] }) s
    { s with store := { s.store with shoot := s.store.shoot ++ [{ block := b, cell := c, since := s.now }] } }

/-- Begin the eviction of a block (R94): a clean block with a valid lower copy moves at once. -/
def startEvict (b : Nat) (s : State) : State :=
  match tget b s.store.blocks with
  | none => s
  | some x =>
    match tget x.alloc s.store.allocs with
    | none => s
    | some al =>
      let s := recallBlock b (updBlock b (fun x => { x with st := .evicting, issued := s.now }) s)
      let dirtyNow := match tget b s.store.blocks with
        | some y => !y.lowerValid
        | none => true
      if !dirtyNow then toLower b s
      else
        let pl := evictPlace s al (x.frame.getD 0)
        updBlock b (fun x => { x with lower := pl.1 }) pl.2

/-- Ages order the picker (R88): greatest age, then clean with a valid lower copy, then lowest store offset. -/
def pickBetter (x y : Nat × Block) : Bool :=
  if x.2.age != y.2.age then decide (y.2.age < x.2.age)
  else if x.2.lowerValid != y.2.lowerValid then x.2.lowerValid
  else decide (x.1 < y.1)

/-- Blocks the picker may choose: resident, unpinned, not in motion, of the partition, with some place to go. -/
def pickable (s : State) (p : Nat) (x : Nat × Block) : Bool :=
  x.2.st = .hbm && !isPinned s x.2 && blockPart s x.2 = p

/-- The picker's choice in a partition among blocks a test admits (R88). -/
def pick (s : State) (p : Nat) (f : Block → Bool) : Option (Nat × Block) :=
  s.store.blocks.foldl (fun o x =>
    if pickable s p x && f x.2 then match o with
      | none => some x
      | some y => if pickBetter x y then some x else some y
    else o) none

/-- Partition `p` has somewhere to evict to (R86). -/
def hasBacking (s : State) (p : Nat) : Bool :=
  (partCells s p).any (fun c => (s.store.flash.getD c {}).censusDone && decide (0 < (s.store.flash.getD c {}).usable))
    || s.store.exts.any (fun x => x.2.part = p && x.2.backing && !x.2.failed)

/-- Pick and begin one eviction in a partition (R88, R89), counting contention (R92). -/
def evictOne (p home : Nat) (s : State) : State :=
  if !hasBacking s p then s
  else match pick s p (fun _ => true) with
    | none => cnt (cellReg home 0x440) 1 s
    | some (b, x) =>
      let passed := (s.store.blocks.filter (fun y =>
        blockPart s y.2 = p && y.2.st = .hbm && isPinned s y.2 && decide (x.age < y.2.age))).length
      startEvict b (cnt (cellReg home 0x440) passed s)

/-- Take a frame for a block if the pool and a stack have one (R85, R91). -/
def takeFrame (b : Nat) (al : Alloc) (home : Nat) (s : State) : Option State :=
  match partOf s al.part with
  | none => none
  | some pt =>
    if pt.q ≤ poolUsed s al.part then none
    else (frameCell s al home).map (fun c => updBlock b (fun x => { x with frame := some c, waitSince := none }) s)

/-- Reads issued on a channel or the host link stall their access under the causes of Table 3.10. -/
def stallIssue (pl : Place) (home : Nat) (s : State) : State :=
  match pl with
  | .flash ch _ =>
    let busy := s.store.reads.any (fun r => match r.place with | .flash c _ => c = ch | _ => false)
      || s.store.blocks.any (fun x => (x.2.st = .fetching || x.2.st = .evicting) && x.2.waitSince.isNone
          && match x.2.lower with | some (.flash c _) => c = ch | _ => false)
    cnt (cellReg home 0x488) 1 (if busy then cnt (cellReg home 0x490) 1 s else s)
  | .host e =>
    if s.host.linkUp then cnt (cellReg home 0x4A0) 1 (emit (.hostRd e 0) s) else cnt (cellReg home 0x4A8) 1 s

/-- Issue the reads of a fetch whose frame is held (Table 3.9, R96). -/
def issueFetch (b : Nat) (s : State) : State :=
  match tget b s.store.blocks with
  | none => s
  | some x =>
    let home := match x.lower with
      | some (.flash ch _) => ch
      | some (.host e) => ((tget e s.store.exts).map Extent.cell).getD 0
      | none => 0
    let s := match x.lower with
      | some pl => stallIssue pl home s
      | none => s
    updBlock b (fun x => { x with issued := s.now }) s

/-- A block of allocation `al` needs a frame: it takes one, or waits in FRAME_WAIT while the picker evicts (R89). -/
def wantFrame (b : Nat) (al : Alloc) (home : Nat) (s : State) : State × Bool :=
  match takeFrame b al home s with
  | some s => (s, true)
  | none =>
    let s := cnt (cellReg home 0x480) 1 s
    let s := updBlock b (fun x => { x with waitSince := some s.now }) s
    let s := { s with store := { s.store with frameQ := s.store.frameQ ++ [b] } }
    (evictOne al.part home s, false)

/-- The store offset's unit (16 KiB) within its block. -/
def unitOf (off : Nat) : Nat := off % 65536 / 16384

/-- An access to a managed block (Table 3.9): served now, ended, or parked with the block. -/
inductive Gate
  | go
  | stop (st : Status)
  | parked
deriving DecidableEq, Repr

/-- The operation needs the block writable: a write, atomic, full/empty operation, or a read that grants M. -/
def needsBlock : ReqOp → Bool
  | .rdNc | .rdS => false
  | _ => true

/-- Park a request with its block. -/
def parkAt (b : Nat) (r : Req) (s : State) : State :=
  updBlock b (fun x => { x with waiters := x.waiters ++ [(r, s.now)] }) s

/-- Managed blocks under an access (Table 3.9): what happens to the block, and whether the request goes on. -/
def blockGate (r : Req) (al : Alloc) (nominal : Nat) (s : State) : Gate × State :=
  let b := contentBlock s r.off
  let home := homeCell s r.off
  match tget b s.store.blocks with
  | none =>
    if needsBlock r.op then
      let base := ((allocAt s r.off).map Prod.fst).getD 0
      let s := { s with store := { s.store with
        blocks := tput b { alloc := base, st := .hbm, touched := decide (r.ctx ≠ 0), pinned := al.pins.contains ((r.off - base) / 65536) } s.store.blocks } }
      match wantFrame b al nominal s with
      | (s, true) => (.go, s)
      | (s, false) => (.parked, parkAt b r s)
    else (.go, s)
  | some x =>
    match x.st with
    | .failed => (.stop .tierFailed, s)
    | .hbm =>
      if x.frame.isNone then (.parked, parkAt b r s)
      else
        (.go, updBlock b (fun x => { x with
          touched := x.touched || r.ctx != 0
          lowerValid := x.lowerValid && !needsBlock r.op }) s)
    | .evicting =>
      if needsBlock r.op then
        (.go, cnt (cellReg home 0x438) 1 (updBlock b (fun x => { x with
          st := .hbm, touched := true, lowerValid := false, lower := none }) s))
      else (.go, updBlock b (fun x => { x with touched := x.touched || r.ctx != 0 }) s)
    | .lower =>
      let s := updBlock b (fun x => { x with st := .fetching, first := unitOf r.off, landed := [] }) s
      match wantFrame b al home s with
      | (s, true) => (.parked, parkAt b r (issueFetch b s))
      | (s, false) => (.parked, parkAt b r s)
    | .fetching =>
      if x.landed.contains (unitOf r.off) then
        (.go, updBlock b (fun x => { x with
          touched := x.touched || r.ctx != 0, lowerValid := x.lowerValid && !needsBlock r.op }) s)
      else (.parked, parkAt b r s)

/-! ### Placed data on lower tiers -/

/-- Park a request on a read of placed data of a lower tier (R98). -/
def parkRead (pl : Place) (r : Req) (s : State) : State :=
  let s := stallIssue pl (homeCell s r.off) s
  { s with store := { s.store with
      reads := s.store.reads ++ [{ id := s.store.nextRead, place := pl, req := r, since := s.now }]
      nextRead := s.store.nextRead + 1 } }

/-- GC_STATE of a channel (Table 3.8): free space is erased capacity over usable capacity. -/
def gcState (f : Flash) : Nat :=
  let u := f.usable * 4
  if u = 0 then 0
  else if u ≤ f.erased * 10 then 0
  else if u ≤ f.erased * 50 then 1
  else if u ≤ f.erased * 200 then 2
  else 3

/-- Change a flash channel. -/
def updFlash (ch : Nat) (f : Flash → Flash) (s : State) : State :=
  { s with store := { s.store with flash := s.store.flash.setIfInBounds ch (f (s.store.flash.getD ch {})) } }

/-- The unit of a content address, and its line in the unit. -/
def unitKey (s : State) (off : Nat) : Nat := content s off / 16384
def unitLine (s : State) (off : Nat) : Nat := content s off % 16384 / 64

/-- Host address of a byte of an extent (R81). -/
def hostAddr (x : Extent) (o : Nat) : Nat :=
  let pg := if x.huge then 2097152 else 4096
  x.pages.getD (o / pg) 0 + o % pg

/-- Placed data under an access: HBM goes on; FLASH reads come from the write buffer or a flash read, FLASH writes
merge in the buffer; HOST reads and writes cross PCIe (R58, R75, R83, R99, R100). -/
def placedGate (r : Req) (base : Nat) (al : Alloc) (s : State) : Gate × State :=
  match al.tier with
  | .flash =>
    let ch := homeCell s r.off
    let u := unitKey s r.off
    let buffered := match tget u s.store.buf with
      | some x => x.lines.contains (unitLine s r.off)
      | none => false
    let dead := (targets s ch).isEmpty
    if needsBlock r.op then
      if gcState (s.store.flash.getD ch {}) = 3 then (.parked, parkRead (.flash ch []) r s)
      else
        let x := tgetD s.store.buf u { since := s.now, lines := [] }
        let x := if x.lines.contains (unitLine s r.off) then x else { x with lines := x.lines ++ [unitLine s r.off] }
        (.go, { s with store := { s.store with buf := tput u x s.store.buf } })
    else if buffered then (.go, s)
    else if dead then (.stop .tierFailed, s)
    else (.parked, parkRead (.flash ch []) r s)
  | .host =>
    match al.ext.bind (fun e => (tget e s.store.exts).map (fun x => (e, x))) with
    | none => (.stop .tierFailed, s)
    | some (e, x) =>
      if x.failed then (.stop .tierFailed, s)
      else if needsBlock r.op && s.host.linkUp then
        (.go, emit (.hostWr (hostAddr x (al.extOff + (r.off - base))) r.data) s)
      else (.parked, parkRead (.host e) r s)
  | _ => (.go, s)

/-! ### The line: reads, coherence, full/empty -/

/-- What the home observes reading a line (R68, Table 3.5). -/
def lineRead (off : Nat) (obs : LineObs) (s : State) : State :=
  let c := homeCell s off
  match obs with
  | .clean | .sram _ _ => s
  | .corrected => cnt (cellReg c 0x410) 1 s
  | .uncorrectable =>
    evMemory 0 (ownSa s 0 (off / 64 * 64)).toNat 0 1 2 (cnt (cellReg c 0x418) 1 (setPoison off true s))

/-- Directory entries a home holds (R111). -/
def homeEntries (s : State) (c : Nat) : List (Nat × DirEnt) :=
  s.coh.dir.filter (fun x => homeCell s (x.1 * 64) = c)

/-- Entries of a home's directory and its overflow segment (R111). -/
def dirCapacity : Nat := 2097152 + 104857

/-- The least recently used entry. -/
def lru (l : List (Nat × DirEnt)) : Option (Nat × DirEnt) :=
  l.foldl (fun o x => match o with
    | none => some x
    | some y => if x.2.stamp < y.2.stamp then some x else some y) none

/-- Recall one entry of a full directory: write back, invalidate, count (R111). -/
def dirRoom (c : Nat) (s : State) : State :=
  if (homeEntries s c).length < dirCapacity then s
  else match lru (homeEntries s c) with
    | none => s
    | some (l, e) =>
      let s := (agentsOf e).foldl (fun s p => emit (.link p { kind := .snpInv, sa := ownSa s 0 (l * 64) }) s) s
      cnt (cellReg c 0x508) 1 (dropCopies l (writeBack l s))

/-- Put a directory entry, making room where it is new. -/
def putDir (l : Nat) (e : DirEnt) (s : State) : State :=
  let s := if (tget l s.coh.dir).isNone then dirRoom (homeCell s (l * 64)) s else s
  { s with coh := { s.coh with dir := tput l { e with stamp := s.coh.stamp } s.coh.dir, stamp := s.coh.stamp + 1 } }

/-- Requester port number of a caching requester: the thread's cell, or the edge port (Table 4.2). -/
def cacheNo : Who → Option Nat
  | .thread t _ _ => some (t / 1024)
  | .port p _ => some (0x40 + p)
  | _ => none

/-- Sharer bit of a requester port number (Table 4.3). -/
def sharerBit (n : Nat) : BitVec 28 := 1#28 <<< (if n < 20 then n else n - 0x40 + 20)

/-- Copies that must be asked back from agents before a caching or writing request is performed. -/
def blockers (s : State) (r : Req) (l : Nat) : List Nat :=
  match tget l s.coh.dir with
  | none => []
  | some e =>
    let mine := match r.who with
      | .port p _ => p
      | _ => 8
    match r.op with
    | .rdNc | .fe _ _ => []
    | .rdS => if e.m then (agentsOf e).erase mine else []
    | _ => (agentsOf e).erase mine

/-- A coherent reader's bytes within one line: a cell's dirty copy, else the home's. -/
def cohBytes (s : State) (off n : Nat) : List Byte :=
  match tget (off / 64) s.coh.dirty with
  | some d => (d.data.drop (off % 64)).take n
  | none => homeBytes s off n

/-- Poison as a coherent reader sees it. -/
def cohPoison (s : State) (off : Nat) : Bool :=
  match tget (off / 64) s.coh.dirty with
  | some d => d.poison
  | none => poisoned s off

/-- Gain S for a caching requester: another M holder writes back and keeps S (R110). -/
def gainS (n l : Nat) (s : State) : State :=
  match tget l s.coh.dir with
  | none => putDir l { m := false, owner := 0, sharers := sharerBit n, stamp := 0 } s
  | some e =>
    if e.m then
      if e.owner = n then s
      else putDir l { m := false, owner := 0, sharers := sharerBit n ||| sharerBit e.owner, stamp := 0 } (writeBack l s)
    else putDir l { e with sharers := e.sharers ||| sharerBit n } s

/-- Gain M for a caching requester: every other copy goes, a dirty one being written back (R110). -/
def gainM (n l : Nat) (s : State) : State :=
  let s := match tget l s.coh.dir with
    | some e => if e.m && e.owner = n then s else writeBack l s
    | none => s
  putDir l { m := true, owner := n, sharers := 0, stamp := 0 } s

/-- Store into a line held in M by a cell (R69, R188). -/
def dirtyWrite (off : Nat) (d : List Byte) (p : Bool) (s : State) : State :=
  let l := off / 64
  let old := cohBytes s (l * 64) 64
  let new := old.take (off % 64) ++ d ++ old.drop (off % 64 + d.length)
  let pn := p || (if d.length = 64 then false else cohPoison s off)
  { s with coh := { s.coh with dirty := tput l { data := new, poison := pn } s.coh.dirty } }

/-- The line belongs to an allocation made with the SYNC flag (R71). -/
def isSyncLine (s : State) (off : Nat) : Bool := ((allocAt s off).map (fun x => x.2.sync)).getD false

/-- Write a line's FE bits; EMPTY is unlisted. -/
def setFe (off v : Nat) (s : State) : State :=
  let l := content s off / 64
  { s with store := { s.store with fe := if v = 0 then tdel l s.store.fe else tput l v s.store.fe } }

/-- A line's FE bits. -/
def feOf (s : State) (off : Nat) : Nat := tgetD s.store.fe (content s off / 64) 0

/-- Waiters of a sync line, in order. -/
def feQueue (s : State) (off : Nat) : List FWait := s.sync.feq.filter (fun w => w.line = off / 64)

/-- A WRITE_EF waits on the line. -/
def efQueued (s : State) (off : Nat) : Bool := (feQueue s off).any (fun w => w.op = .writeEf)

/-- A queued operation's condition holds at a fullness (Table 5.7). -/
def feReady (op : FeOp) (full : Bool) : Bool :=
  match op with
  | .writeEf => !full
  | .readFe | .readFf => full
  | .writeXf => true

/-- End a full/empty waiter. -/
def endFe (w : FWait) (st : Status) (data : List Byte) (p : Bool) (s : State) : State :=
  let who : Who := match w.who with
    | .thread t rd => .thread t rd .vec
    | .remote po tag => .port po tag
  deliver { who := who, ctx := w.ctx, off := w.line * 64, op := .fe w.op w.timeout, len := 64 } st data p false s

/-- Perform one full/empty operation whose condition holds; the new fullness is returned. -/
def fePerform (w : FWait) (full : Bool) (s : State) : State × Bool :=
  let off := w.line * 64
  match w.op with
  | .writeEf | .writeXf => (endFe w .done [] false (landLine off w.data [] w.poison s), true)
  | .readFe => (endFe w .done (homeBytes s off 64) (poisoned s off) s, false)
  | .readFf => (endFe w .done (homeBytes s off 64) (poisoned s off) s, full)

/-- Remove the first waiter of a line. -/
def dropFirst (l : Nat) : List FWait → List FWait
  | [] => []
  | w :: t => if w.line = l then t else w :: dropFirst l t

/-- Serve the queue of a line from its head while the head's condition holds (R153). -/
def feServe : Nat → Nat → Bool → State → State
  | 0, off, full, s => setFe off (feState full (efQueued s off)) s
  | n + 1, off, full, s =>
    match feQueue s off with
    | [] => setFe off (feState full false) s
    | w :: _ =>
      if feReady w.op full then
        let s := { s with sync := { s.sync with feq := dropFirst (off / 64) s.sync.feq } }
        let x := fePerform w full s
        feServe n off x.2 x.1
      else setFe off (feState full (efQueued s off)) s

/-- Full/empty waiter records of a home (R153). -/
def feqAt (s : State) (c : Nat) : Nat := (s.sync.feq.filter (fun w => homeCell s (w.line * 64) = c)).length

/-- A waiter for a request's answer. -/
def waiterOf : Who → Waiter
  | .thread t rd _ => .thread t rd
  | .port p tag => .remote p tag
  | _ => .remote 8 0

/-- A full/empty operation at its home (Table 5.7, R144, R153). -/
def feOp (f : FeOp) (timeout : Nat) (r : Req) (s : State) : State :=
  let off := r.off / 64 * 64
  let w : FWait := { line := off / 64, op := f, data := r.data, poison := r.poison, timeout := timeout,
                     since := s.now, ctx := r.ctx, who := waiterOf r.who }
  let st := feOf s off
  if !isSyncLine s off then deliver r .faultSync [] false false s
  else if st = 3 then
    deliver r .faultSync [] false false (evMemory 8 (ownSa s 0 off).toNat r.ctx 1 1 s)
  else
    let full := st != feEmpty
    if feReady f full then
      let x := fePerform w full s
      feServe s.sync.feq.length off x.2 x.1
    else if timeout = 0 then deliver r .timeout [] false false s
    else if 16384 ≤ feqAt s (homeCell s off) then
      deliver r .busy [] false false (cnt (cellReg (homeCell s off) 0x648) 1 s)
    else
      let s := { s with sync := { s.sync with feq := s.sync.feq ++ [w] } }
      setFe off (feState full (efQueued s off)) s

/-- A full-line invalidating write of a sync line acts as WRITE_XF (R152). -/
def feFullWrite (r : Req) (s : State) : State :=
  let off := r.off / 64 * 64
  let wasEmpty := feOf s off = feEmpty
  let s := deliver r .done [] false false (landInv r s)
  if wasEmpty then feServe s.sync.feq.length off true s else s

/-- The value an atomic leaves (R117); floating-point addition is a free function of its operands (log 6). -/
def atomicNew (f : AtomOp) (old x y : Nat) (w : Nat) : Nat :=
  let m : Nat := 2 ^ (8 * w)
  let sgn := fun (v : Nat) => if v < m / 2 then (v : Int) else (v : Int) - m
  match f with
  | .add => (old + x) % m
  | .and => old &&& x
  | .or => old ||| x
  | .xor => old ^^^ x
  | .swap => x
  | .mins => if sgn x < sgn old then x else old
  | .maxs => if sgn old < sgn x then x else old
  | .minu => min old x
  | .maxu => max old x
  | .fadd32 => Config.freeOf 1 [old % 2 ^ 32, x % 2 ^ 32] % 2 ^ 32 + old / 2 ^ 32 * 2 ^ 32
  | .fadd64 => Config.freeOf 2 [old, x] % 2 ^ 64
  | .cas => if old = y then x else old

/-- Perform a request whose data is at its home and whose blockers are gone. -/
def perform (r : Req) (s : State) : State :=
  let ls := (linesOf r.off r.len).map (· / 64)
  let sync := isSyncLine s r.off
  match r.op with
  | .rdNc =>
    deliver r .done (storeBytes s r.off r.len) ((linesOf r.off r.len).any (poisoned s)) false s
  | .rdS =>
    if sync then deliver r .done (storeBytes s r.off r.len) (poisoned s r.off) false s
    else match cacheNo r.who with
      | none => deliver r .done (storeBytes s r.off r.len) (poisoned s r.off) false s
      | some n =>
        let s := ls.foldl (fun s l => gainS n l s) s
        let d := (lines r.off (List.replicate r.len 0)).flatMap (fun x => cohBytes s x.1 x.2.length)
        deliver r .done d ((linesOf r.off r.len).any (cohPoison s)) false s
  | .rdM | .upgM =>
    if sync then deliver r .faultSync [] false false s
    else match cacheNo r.who with
      | none => deliver r .faultAccess [] false false s
      | some n =>
        let s := gainM n (r.off / 64) s
        deliver r .done (homeBytes s (r.off / 64 * 64) 64) (poisoned s r.off) true s
  | .wrCached =>
    if sync then deliver r .faultSync [] false false s
    else match cacheNo r.who with
      | none => deliver r .faultAccess [] false false s
      | some n =>
        let s := ls.foldl (fun s l => gainM n l s) s
        let s := (lines r.off r.data).foldl (fun s x => dirtyWrite x.1 x.2 r.poison s) s
        deliver r .done [] false false s
  | .atomic f w x y =>
    if sync then deliver r .faultSync [] false false s
    else match cacheNo r.who with
      | none => deliver r .faultAccess [] false false s
      | some n =>
        let s := gainM n (r.off / 64) s
        let old := cohBytes s r.off w
        let p := cohPoison s r.off
        let s := dirtyWrite r.off (leBytes w (atomicNew f (leNat old) x y w)) r.poison s
        deliver r .done old p false s
  | .wrInv =>
    if sync then
      if r.data.length = 64 && r.mask.all id then feFullWrite r s
      else deliver r .faultSync [] false false s
    else deliver r .done [] false false (landInv r s)
  | .fe f t => feOp f t r s

/-- The first write to a block of a working view copies the block at its home (R133); false where the copy cannot be
charged. -/
def copyOnWrite (off : Nat) (s : State) : State × Bool :=
  match allocAt s off with
  | none => (s, true)
  | some (base, al) =>
    match al.region with
    | none => (s, true)
    | some r =>
      let win := (off - base) / al.size
      let n := nblk al.size
      let i := (off - base) / 65536
      match tget win r.work with
      | none => (s, true)
      | some k =>
        if k.copied.contains (i % n) then (s, true)
        else
          let old := tgetD r.map i (base / 65536 + i % n)
          let new := s.store.nextCopy
          let cell := al.cells.getD (i % n % al.cells.length) 0
          let q := ((partOf s al.part).map Part.q).getD 0
          let placed := ((partCells s al.part).map (placedFrames s)).sum
          let room := match al.tier with
            | .hbm => decide (placed + q < (partCells s al.part).length * stackFrames) && decide (0 < freeFrames s cell)
            | .flash => decide (0 < flashRoom s cell)
            | .managed => hasBacking s al.part
                || decide ((s.store.blocks.filter (fun x => blockPart s x.2 = al.part)).length < q)
            | .host => match al.ext.bind (fun e => tget e s.store.exts) with
              | some x => decide (al.extOff + al.size + r.charged.length * 65536 < x.size)
              | none => false
          if !room then (s, false)
          else
            let mem := putBytes (new * 65536) (bytesAt s.store.mem (old * 65536) 65536) s.store.mem
            let poi := (span 0 1024).foldl (fun (t : Tab Unit) j =>
              if (tget (old * 1024 + j) t).isSome then tput (new * 1024 + j) () t else t) s.store.poison
            let r' := { r with
              map := tput i new r.map
              work := tput win { k with copied := k.copied ++ [i % n] } r.work
              charged := tput new cell r.charged }
            ({ s with store := { s.store with
                mem := mem, poison := poi, nextCopy := new + 1
                allocs := tput base { al with region := some r' } s.store.allocs } }, true)

/-- Serve one request at its home: checks, block state, other agents' copies, then the operation (R52 to R55, R93,
R109). -/
def serve (r : Req) (obs : LineObs) (s : State) : State :=
  let w := needsBlock r.op
  match homeCheck s r.ctx r.off w with
  | some st => deliver r st [] false false s
  | none =>
    match homeCheck s r.ctx (r.off + (r.len - 1)) w with
    | some st => deliver r st [] false false s
    | none =>
      if !mayCross s r.who r.ctx r.off then deliver r .quota [] false false s
      else if w && (tget (contentBlock s r.off) s.store.shadow).isSome && r.ctx != 0 then
        deliver r .conflict [] false false s
      else
        match (if w then copyOnWrite r.off s else (s, true)) with
        | (s, false) => deliver r .quota [] false false s
        | (s, true) =>
          match allocAt s r.off with
          | none => deliver r .faultAccess [] false false s
          | some (base, al) =>
            let nominal := al.cells.getD ((r.off - base) / 65536 % nblk al.size % al.cells.length) 0
            match (if al.tier = .managed then blockGate r al nominal s else placedGate r base al s) with
            | (.stop st, s) => deliver r st [] false false s
            | (.parked, s) => s
            | (.go, s) =>
              let bl := ((linesOf r.off r.len).map (fun o => (o / 64, blockers s r (o / 64)))).filter (fun x => x.2 != [])
              match bl with
              | (l, ps) :: _ => snoop l ps (r.op != .rdS) r s
              | [] => perform r (lineRead r.off obs s)

/-- Serve a list of requests in order. -/
def serveAll (rs : List Req) (s : State) : State := rs.foldl (fun s r => serve r .clean s) s

/-- Requests parked with a block that a test admits leave it and are served; their stall time is counted (R98). -/
def unpark (b : Nat) (f : Req → Bool) (s : State) : State :=
  match tget b s.store.blocks with
  | none => s
  | some x =>
    let go := x.waiters.filter (fun w => f w.1)
    let s := updBlock b (fun x => { x with waiters := x.waiters.filter (fun w => !f w.1) }) s
    let s := go.foldl (fun s w => cnt (cellReg (homeCell s w.1.off) 0x4B0) ((s.now - w.2) / 10) s) s
    serveAll (go.map Prod.fst) s

/-- A frame was freed: the oldest waiting block of the partition takes one (R89). -/
def frameFreed (s : State) : State :=
  let tryOne := fun (s : State) (b : Nat) =>
    match tget b s.store.blocks with
    | none => { s with store := { s.store with frameQ := s.store.frameQ.erase b } }
    | some x =>
      match tget x.alloc s.store.allocs with
      | none => { s with store := { s.store with frameQ := s.store.frameQ.erase b } }
      | some al =>
        let home := match x.lower with
          | some (.flash ch _) => ch
          | _ => al.cells.headD 0
        match takeFrame b al home s with
        | none => s
        | some s =>
          let s := { s with store := { s.store with frameQ := s.store.frameQ.erase b } }
          if x.st = .fetching then issueFetch b s else unpark b (fun _ => true) s
  s.store.frameQ.foldl tryOne s

end Sys2Proof.Machine
end

