-- ==== Sys2Proof/Machine/Translation.lean ====
section
/-! DEFINITION. The translation rows: admission (R33 to R36), TLBs and walks (R37 to R45), invalidations (R46, R47,
R57), misses (R48 to R51) and the XLT registers (R56). -/

namespace Sys2Proof.Machine

open Sys2Proof

/-- Change the XLT block. -/
def updXlt (f : Xlt → Xlt) (s : State) : State := { s with xlt := f s.xlt }

/-- Change a pending miss. -/
def updMiss (m : Nat) (f : Miss → Miss) (s : State) : State := updXlt (fun x => { x with misses := tupd m f x.misses }) s

/-- Who an ingress answers: an edge port's tag or the host's read tag (R33). -/
def ingressWho (ing tag : Nat) : Who := if ing < 8 then .port ing tag else .host tag

/-- Put a request on its way to its home (R35: its context is carried unchanged); `tr` as in `Fly`. -/
def launchReq (r : Req) (tr : Option (Nat × Nat)) (s : State) : State :=
  { s with coh := { s.coh with
      fly := s.coh.fly ++ [{ req := { r with id := s.coh.nextReq }, tr := tr }]
      nextReq := s.coh.nextReq + 1 } }

/-- The context is live and admits an ingress (R33; R30 for the device's own contexts). -/
def admits (s : State) (ctx ing : Nat) : Bool :=
  match ctxOf s ctx with
  | some c => c.ingress.getLsbD ing && !slotRevoked s c.keyslot
  | none => ctx = 1 && ing = 8

/-- A device number is assigned in the store (Table 2.12). -/
def devKnown (s : State) (d : Nat) : Bool := isOwn s d || s.parts.assigned.contains d

/-- A sync or scratchpad offset fits Table 2.2, for a cell of a partition. -/
def syncLayout (off : Nat) : Bool := decide (off < 2 ^ 23) && decide (off / 2 ^ 18 < 20)
def spadLayout (off : Nat) : Bool := decide (off < 2 ^ 31) && decide (off / 2 ^ 26 < 20)

/-- Checks of Table 2.12 on a store address at an outside ingress. -/
def ingressCheck (s : State) (x : Sa) (ctx ing : Nat) : Option Status :=
  if 3 < x.space then some .faultAccess
  else if !devKnown s x.dev then some .faultAccess
  else if !isOwn s x.dev then some .faultAccess
  else if x.space = 1 || x.space = 3 then some .faultAccess
  else if x.space = 2 && !(syncLayout x.off && ((ctxPart s ctx).map (fun p => (partCells s p).contains (x.off / 2 ^ 18))).getD false)
    then some .faultAccess
  else if x.space = 2 && x.off % 8 != 0 then some .faultAlign
  else if !admits s ctx ing then some .faultAccess
  else none

/-- The VA pages a TLB entry covers: its first page and how many. -/
def TlbEnt.pages (e : TlbEnt) : Nat := 512 ^ (e.level - 1) * (if e.merged then 16 else 1)

/-- The entry translates a page of a context. -/
def TlbEnt.covers (e : TlbEnt) (ctx page : Nat) : Bool :=
  e.ctx = ctx && decide (e.page ≤ page) && decide (page < e.page + e.pages)

/-- The tile whose TLB an ingress uses (R43). -/
def ingressTile (ing : Nat) : Nat := if ing < 8 then ing / 2 else 0

/-- Look a page up in the ingress TLB, then in its tile's (R43). -/
def tlbFind (s : State) (ing ctx page : Nat) : Option TlbEnt :=
  match s.xlt.tlb.find? (fun e => e.tlb = ing && e.covers ctx page) with
  | some e => some e
  | none => s.xlt.tlb.find? (fun e => e.tlb = 16 + ingressTile ing && e.covers ctx page)

/-- The store offset an entry gives a page. -/
def TlbEnt.offset (e : TlbEnt) (page : Nat) : Nat := e.target + (page - e.page) * 4096

/-- A translated request proceeds to its home, or fails on the entry's WRITE bit (R45). -/
def proceed (v : VReq) (off : Nat) (wr : Bool) (s : State) : State :=
  if v.write && !wr then deliver v.req .faultAccess [] false false s
  else launchReq { v.req with off := off + v.req.off } (some (v.req.ctx, v.page)) s

/-- Put a TLB entry, evicting a free choice where the TLB is full (R43; its replacement is free, log 11). -/
def tlbPut (e : TlbEnt) (s : State) : State :=
  let cap := if e.tlb < 16 then 1024 else 16384
  let mine := s.xlt.tlb.filter (fun x => x.tlb = e.tlb)
  if mine.length < cap then updXlt (fun x => { x with tlb := e :: x.tlb }) s
  else
    let d := draw s
    let victim := mine.getD (d.1 % cap) e
    updXlt (fun x => { x with tlb := e :: x.tlb.erase victim }) d.2

/-! ### The mirror walk -/

/-- A table or header of the mirror may be walked: placed data in tier HBM owned by CTX 0x0001 (R39). -/
def mirrorOk (s : State) (off : Nat) : Bool :=
  match allocAt s off with
  | some (_, al) => al.tier = .hbm && al.ctx = 1
  | none => false

/-- A mirror entry of 8 B; a poisoned entry reads as malformed (R38, R507). -/
def mirrorEntry (s : State) (off : Nat) : BitVec 64 := BitVec.ofNat 64 (leNat (storeBytes s off 8))

def meValid (e : BitVec 64) : Bool := e.getLsbD 0
def meLeaf (e : BitVec 64) : Bool := e.getLsbD 1
def meWrite (e : BitVec 64) : Bool := e.getLsbD 2
/-- TARGET as a store offset (Table 2.5). -/
def meTarget (e : BitVec 64) : Nat := (e.extractLsb' 12 36).toNat * 4096

/-- A valid entry is malformed (R39). -/
def malformed (s : State) (e : BitVec 64) (level off : Nat) : Bool :=
  e.extractLsb' 48 16 != 0 || e.extractLsb' 3 9 != 0
    || (meLeaf e && level = 4) || (!meLeaf e && level = 1)
    || (meLeaf e && level = 3 && meTarget e % 2 ^ 30 != 0)
    || (meLeaf e && level = 2 && meTarget e % 2 ^ 21 != 0)
    || (!meLeaf e && !mirrorOk s (meTarget e))
    || poisoned s off

/-- What a walk finds. -/
inductive WalkRes
  | leaf (level : Nat) (entryOff : Nat) (e : BitVec 64)
  | none
  | malformed
deriving DecidableEq, Repr

/-- Walk from a level's table down (R37); `page` is the VA page number. -/
def walkFrom (s : State) (page : Nat) : Nat → Nat → WalkRes
  | 0, _ => .none
  | l + 1, table =>
    let idx := if l = 3 then page / 512 ^ 3 % 262144 else page / 512 ^ l % 512
    let off := table + idx * 8
    let e := mirrorEntry s off
    if !meValid e then .none
    else if malformed s e (l + 1) off then .malformed
    else if meLeaf e then .leaf (l + 1) off e
    else walkFrom s page l (meTarget e)

/-- GEN of a context's mirror header (R40). -/
def mirrorGen (s : State) (c : Ctx) : BitVec 32 := BitVec.ofNat 32 (leNat (storeBytes s c.mirrorHdr 4))

/-- `a` is older than `b` in serial-number arithmetic modulo 2^32 (RFC 1982). -/
def older (a b : BitVec 32) : Bool := a != b && decide ((b - a).toNat < 2 ^ 31)

/-- The TLB entry a fill makes: merged where the aligned group of 16 allows it (R44). -/
def fillEntry (s : State) (ctx : Nat) (gen : BitVec 32) (page level off : Nat) (e : BitVec 64) (tlb : Nat) : TlbEnt :=
  let per := 512 ^ (level - 1)
  let idx := off / 8 % 16
  let base := off - idx * 8
  let grp := (List.range 16).map (fun i => mirrorEntry s (base + i * 8))
  let first := grp.headD 0
  let size := per * 4096
  let ok := (grp.zip (List.range 16)).all (fun x =>
      meValid x.1 && meLeaf x.1 && !malformed s x.1 level (base + x.2 * 8) && meWrite x.1 == meWrite first
      && meTarget x.1 == meTarget first + x.2 * size)
    && meTarget first % (16 * size) == 0
  let p0 := page / per * per
  if ok then { tlb := tlb, ctx := ctx, gen := gen, level := level, merged := true,
               page := p0 - idx * per, target := meTarget first, write := meWrite first }
  else { tlb := tlb, ctx := ctx, gen := gen, level := level, merged := false,
         page := p0, target := meTarget e, write := meWrite e }

/-- Drop a miss and hand a free entry to the oldest request held at its ingress (R49): the entry frees; the request is
posted by PENDING_MISS_FREED. -/
def dropMiss (m : Nat) (s : State) : State := updXlt (fun x => { x with misses := tdel m x.misses }) s

/-- End a miss with a fault for every joined request (Table 2.9). -/
def missFault (m : Nat) (st : Status) (s : State) : State :=
  match tget m s.xlt.misses with
  | none => s
  | some x => x.reqs.foldl (fun s v => deliver v.req st [] false false s) (dropMiss m s)

/-- End a miss with a usable leaf: fill the TLBs, and the joined requests proceed (Table 2.9, R44). -/
def missDone (m level off : Nat) (e : BitVec 64) (gen : BitVec 32) (s : State) : State :=
  match tget m s.xlt.misses with
  | none => s
  | some x =>
    let mk := fun (tlb : Nat) => fillEntry s x.ctx gen x.page level off e tlb
    let ent := mk x.ingress
    let s := tlbPut ent (tlbPut (mk (16 + ingressTile x.ingress)) (dropMiss m s))
    x.reqs.foldl (fun s v => proceed v (ent.offset v.page) ent.write s) s

/-- The timer of a miss has run out (R51). -/
def missExpired (s : State) (x : Miss) : Bool := decide (x.since + s.xlt.run.timeout * 10000 ≤ s.now)

/-- Count a pending miss's step to POST, or its end where the host path is off or its timer has run out (Table 2.9). -/
def missToPost (m : Nat) (s : State) : State :=
  match tget m s.xlt.misses with
  | none => s
  | some x =>
    if !s.xlt.run.enable || s.xlt.run.timeout = 0 || missExpired s x then missFault m .faultTranslation s
    else updMiss m (fun x => { x with st := .post }) s

/-- Begin a miss for a request: the walker reads GEN first (R42, R49). -/
def startMiss (v : VReq) (s : State) : State :=
  match ctxOf s v.req.ctx with
  | none => deliver v.req .faultAccess [] false false s
  | some c =>
    let g := mirrorGen s c
    updXlt (fun x => { x with
      misses := tput x.nextMiss { ctx := v.req.ctx, page := v.page, ingress := v.ingress, st := .walk,
                                  since := v.since, reqs := [v], genFirst := g, genLast := g } x.misses
      nextMiss := x.nextMiss + 1 }) s

/-- Translate a virtual request: a TLB hit proceeds, a pending miss of the page is joined, else a miss begins or waits
at the ingress (R43, R45, R49). -/
def translate (v : VReq) (s : State) : State :=
  match tlbFind s v.ingress v.req.ctx v.page with
  | some e => proceed v (e.offset v.page) e.write s
  | none =>
    match s.xlt.misses.find? (fun x => x.2.ctx = v.req.ctx && x.2.page = v.page) with
    | some (m, _) => updMiss m (fun x => { x with reqs := x.reqs ++ [v] }) s
    | none =>
      if s.xlt.misses.length < 1024 then startMiss v s
      else updXlt (fun x => { x with held := x.held ++ [v] }) s

/-- Admission fails: FAULT_ACCESS on the response path, counted (R33). -/
def admitFail (r : Req) (st : Status) (s : State) : State := cnt 0x70078 1 (deliver r st [] false false s)

/-- A request arrives at an ingress: admission, addressing, translation, forwarding (R33, R36, R55). -/
def admitReq (ing : Nat) (r : Req) (addr : Addr) (s : State) : State :=
  match addr with
  | .sa a =>
    let x := Sa.of a
    match ingressCheck s x r.ctx ing with
    | some st => if admits s r.ctx ing then deliver r st [] false false s else admitFail r st s
    | none => if x.space = 0 then launchReq { r with off := x.off } none s else deliver r .faultAccess [] false false s
  | .va v =>
    let ok := admits s r.ctx ing && ((ctxOf s r.ctx).map Ctx.translate).getD false
    if !ok then admitFail r .faultAccess s
    else translate { req := { r with off := v.toNat % 4096 }, ingress := ing, page := v.toNat / 4096,
                     write := needsBlock r.op, since := s.now } s

/-- REQUEST_ADMIT (R33). -/
def execRequestAdmit (ing tag ctx : Nat) (addr : Addr) (op : ReqOp) (len : Nat) (data : List Byte) (s : State) :
    Host.Outcome State Fault Refusal :=
  .next (dp (fun s => if ing < 9 then
    admitReq ing { who := ingressWho ing tag, ctx := ctx, off := 0, op := op, len := len, data := data } addr s else s) s)

/-! ### Walks and misses -/

/-- A walk ends (Table 2.6): GEN unchanged and usable, stale, odd, or changed; then the leaf found or not. -/
def walkDone (m : Nat) (s : State) : State :=
  match tget m s.xlt.misses with
  | none => s
  | some x =>
    if x.st != .walk then s
    else match ctxOf s x.ctx with
      | none => missFault m .faultAccess s
      | some c =>
        let g := mirrorGen s c
        if !mirrorOk s c.mirrorHdr || poisoned s c.mirrorHdr then
          missToPost m (evMemory 5 0 x.ctx 1 1 (updMiss m (fun x => { x with malformed := true, genLast := g }) s))
        else if x.genFirst.getLsbD 0 then s
        else if g != x.genFirst then
          if x.repeated then missToPost m (updMiss m (fun x => { x with genLast := g }) s)
          else updMiss m (fun x => { x with repeated := true, genFirst := g, genLast := g }) s
        else if older g c.lastGen then
          let s := evMemory 6 0 x.ctx 1 1 (updXlt (fun x => { x with mirrorStale := true }) s)
          missToPost m (updMiss m (fun x => { x with stale := true, genLast := g }) s)
        else match walkFrom s x.page 4 c.root with
          | .leaf l off e => missDone m l off e g s
          | .none => missToPost m (updMiss m (fun x => { x with genLast := g }) s)
          | .malformed =>
            missToPost m (evMemory 5 0 x.ctx 1 1 (updMiss m (fun x => { x with malformed := true, genLast := g }) s))

/-- MIRROR_WALK_DONE (R42). -/
def execMirrorWalkDone (miss : Nat) (s : State) : Host.Outcome State Fault Refusal := .next (dp (fun s => walkDone miss s) s)

/-- The walker reads an odd GEN again, at most 8 times (Table 2.6). -/
def genReread (m : Nat) (s : State) : State :=
  match tget m s.xlt.misses with
  | none => s
  | some x =>
    if x.st != .walk || !x.genFirst.getLsbD 0 then s
    else match ctxOf s x.ctx with
      | none => missFault m .faultAccess s
      | some c =>
        let g := mirrorGen s c
        if !g.getLsbD 0 then updMiss m (fun x => { x with genFirst := g, genLast := g, oddReads := 0 }) s
        else if x.oddReads + 1 < 8 then
          updMiss m (fun x => { x with genFirst := g, genLast := g, oddReads := x.oddReads + 1 }) s
        else missToPost m (updMiss m (fun x => { x with odd := true, genLast := g }) s)

/-- GEN_REREAD (R42). -/
def execGenReread (miss : Nat) (s : State) : Host.Outcome State Fault Refusal := .next (dp (fun s => genReread miss s) s)

/-- The translation-miss message (Table 2.8). -/
def missMessage (id : BitVec 32) (x : Miss) : List Byte :=
  let wr := x.reqs.any VReq.write
  leBytes 4 id.toNat ++ leBytes 2 x.ctx ++ leBytes 1 x.ingress
    ++ leBytes 1 (b2n wr + 2 * b2n x.stale + 4 * b2n x.malformed + 8 * b2n x.odd)
    ++ leBytes 8 (x.page * 4096) ++ leBytes 4 x.genLast.toNat ++ leBytes 4 x.reqs.length ++ leBytes 8 0

/-- The miss ring has room (R48, R534). -/
def missRoom (s : State) : Bool := (s.xlt.mqTail + 1) % 2 ^ s.xlt.run.mqLog != s.xlt.mqHead

/-- Post a miss: message, tail, vector (R48, Table 2.9). -/
def missPost (m : Nat) (s : State) : State :=
  match tget m s.xlt.misses with
  | none => s
  | some x =>
    if x.st != .post || !missRoom s || !s.host.linkUp then s
    else
      let id := s.xlt.missId
      let s := emit (.hostWr (s.xlt.run.mqBase + s.xlt.mqTail * 32) (missMessage id x)) s
      let s := updMiss m (fun x => { x with st := .wait, missId := some id }) s
      let s := updXlt (fun x => { x with missId := id + 1, mqTail := (x.mqTail + 1) % 2 ^ x.run.mqLog }) s
      msi s.xlt.run.vector (cnt 0x70068 1 s)

/-- MISS_POST (R48). -/
def execMissPost (miss : Nat) (s : State) : Host.Outcome State Fault Refusal := .next (dp (fun s => missPost miss s) s)

/-- PENDING_MISS_FREED (R49): the oldest request held at its ingress takes a freed entry. -/
def execPendingMissFreed (s : State) : Host.Outcome State Fault Refusal :=
  .next (dp (fun s => match s.xlt.held with
    | [] => s
    | v :: t =>
      if s.xlt.misses.length < 1024 then translate v (updXlt (fun x => { x with held := t }) s) else s) s)

/-- The driver answers a miss (R50). -/
def xltResp (id : BitVec 32) (result : BitVec 8) (s : State) : State :=
  match s.xlt.misses.find? (fun x => x.2.st = .wait && x.2.missId = some id) with
  | none => cnt 0x70070 1 s
  | some (m, _) =>
    if result = 0x00 then
      match (tget m s.xlt.misses).bind (fun x => ctxOf s x.ctx) with
      | some c =>
        let g := mirrorGen s c
        updMiss m (fun x => { x with st := .rewalk, genFirst := g, genLast := g, repeated := false }) s
      | none => missFault m .faultAccess s
    else if result = 0x11 then missFault m .faultAccess s
    else if result = 0x12 then missFault m .faultTranslation s
    else cnt 0x70070 1 s

/-- XLT_RESP (R50). -/
def execXltResp (missId : BitVec 32) (result : BitVec 8) (s : State) : Host.Outcome State Fault Refusal :=
  .next (barWrite (fun s => xltResp missId result s) s)

/-- The re-walk after MAPPED ends (Table 2.9). -/
def rewalkDone (m : Nat) (s : State) : State :=
  match tget m s.xlt.misses with
  | none => s
  | some x =>
    if x.st != .rewalk then s
    else match ctxOf s x.ctx with
      | none => missFault m .faultAccess s
      | some c =>
        let g := mirrorGen s c
        if !mirrorOk s c.mirrorHdr || g.getLsbD 0 || older g c.lastGen || g != x.genFirst
        then missFault m .faultTranslation s
        else match walkFrom s x.page 4 c.root with
          | .leaf l off e => missDone m l off e g s
          | _ => missFault m .faultTranslation s

/-- REWALK_DONE (R51). -/
def execRewalkDone (miss : Nat) (s : State) : Host.Outcome State Fault Refusal := .next (dp (fun s => rewalkDone miss s) s)

/-- MISS_TIMEOUT (R51): POST, WAIT and REWALK end; a walk runs to its end. -/
def execMissTimeout (miss : Nat) (s : State) : Host.Outcome State Fault Refusal :=
  .next (dp (fun s => match tget miss s.xlt.misses with
    | none => s
    | some x =>
      if x.st = .walk then s
      else timer (x.since + s.xlt.run.timeout * 10000) (missFault miss .faultTranslation) s) s)

/-! ### Invalidations -/

/-- Requests in flight that a removed entry translated. -/
def flightsOf (s : State) (hit : Nat → Nat → Bool) : List Nat :=
  (s.coh.fly.filter (fun f => match f.tr with | some (c, p) => hit c p | none => false)).map (fun f => f.req.id)

/-- Remove the TLB entries of an invalidation's scope (R46). -/
def tlbRemove (i : Inv) (s : State) : State :=
  let hitE := fun (e : TlbEnt) =>
    if i.scope = 2 then true
    else if i.scope = 1 then e.ctx = i.ctx
    else e.ctx = i.ctx && decide (e.page < i.page + i.pages) && decide (i.page < e.page + e.pages)
  updXlt (fun x => { x with tlb := x.tlb.filter (fun e => !hitE e) }) s

/-- Start an invalidation: remove its entries and note the requests it waits for (R46). -/
def invBegin (i : Inv) (s : State) : State :=
  let waits := flightsOf s (fun c p =>
    if i.scope = 2 then true else if i.scope = 1 then c = i.ctx
    else c = i.ctx && decide (i.page ≤ p) && decide (p < i.page + i.pages))
  let s := tlbRemove i s
  updXlt (fun x => { x with invs := x.invs ++ [{ i with waits := waits, started := true }] }) s

/-- A register-started invalidation is in progress: XLT_INV_STATUS.BUSY. -/
def invBusy (s : State) : Bool := s.xlt.invs.any (fun i => i.mb.isNone)

/-- The GEN of an invalidation of SCOPE 0 or 1 is odd or not newer than LAST_GEN (R47). -/
def invGenBad (c : Ctx) (gen : BitVec 32) : Bool := gen.getLsbD 0 || !older c.lastGen gen

/-- Set LAST_GEN of a context. -/
def setLastGen (ctx : Nat) (gen : BitVec 32) (s : State) : State :=
  updXlt (fun x => { x with ctxs := tupd ctx (fun c => { c with lastGen := gen }) x.ctxs }) s

/-- The register-started invalidation ends with a status (Table 2.13). -/
def invStatus (st : Status) (s : State) : State := updXlt (fun x => { x with invStatus := st.code }) s

/-- A write to XLT_INV_CTL (R46, R47, R57). -/
def invWrite (scope ctx : Nat) (gen : BitVec 32) (s : State) : State :=
  if invBusy s then updXlt (fun x => { x with invDrop := true }) s
  else
    let i : Inv := { scope := scope, ctx := ctx, gen := gen, page := (s.xlt.invVa.extractLsb' 12 45).toNat,
                     pages := s.xlt.invLen, waits := [], started := false, mb := none }
    if scope = 2 then invBegin i s
    else match ctxOf s ctx with
      | none => invStatus .invalidArg s
      | some c =>
        if invGenBad c gen then invStatus .invalidArg s
        else if scope = 0 && s.xlt.invLen = 0 then invStatus .doneEmpty (setLastGen ctx gen s)
        else invBegin i s

/-- XLT_INV_RANGE (R46). -/
def execXltInvRange (ctx : Nat) (gen : BitVec 32) (s : State) : Host.Outcome State Fault Refusal :=
  .next (barWrite (fun s => invWrite 0 ctx gen s) s)
/-- XLT_INV_CTX (R46). -/
def execXltInvCtx (ctx : Nat) (gen : BitVec 32) (s : State) : Host.Outcome State Fault Refusal :=
  .next (barWrite (fun s => invWrite 1 ctx gen s) s)
/-- XLT_INV_ALL (R47). -/
def execXltInvAll (s : State) : Host.Outcome State Fault Refusal := .next (barWrite (fun s => invWrite 2 0 0 s) s)
/-- XLT_INV_REJECTED (R56): SCOPE 3. -/
def execXltInvRejected (s : State) : Host.Outcome State Fault Refusal :=
  .next (barWrite (fun s => if invBusy s then updXlt (fun x => { x with invDrop := true }) s else invStatus .invalidArg s) s)

/-! ### XLT registers -/

/-- Range checks of the shadow values (R56, Table 2.14). -/
def xltCfgOk (c : XltCfg) : Bool := decide (c.timeout ≤ 1000) && decide (6 ≤ c.mqLog) && decide (c.mqLog ≤ 12)

/-- A commit of the miss-path group (R462, R535). -/
def xltCommit (gen : BitVec 32) (s : State) : State :=
  let x := s.xlt
  if s.parts.mgmtOwned.contains 0x70000 || gen != x.gen + 1 || !xltCfgOk x.shadow then
    updXlt (fun x => { x with err := true }) s
  else
    let restart := x.shadow.mqBase != x.run.mqBase || x.shadow.mqLog != x.run.mqLog || (x.shadow.enable && !x.run.enable)
    updXlt (fun x => { x with
      run := x.shadow, gen := gen
      mqTail := if restart then 0 else x.mqTail
      mqHead := if restart then 0 else x.mqHead }) s

/-- XLT_COMMIT (R462). -/
def execXltCommit (gen : BitVec 32) (s : State) : Host.Outcome State Fault Refusal := .next (barWrite (fun s => xltCommit gen s) s)
/-- XLT_COMMIT_ERR_CLEAR (R462). -/
def execXltCommitErrClear (s : State) : Host.Outcome State Fault Refusal :=
  .next (barWrite (fun s => updXlt (fun x => { x with err := false }) s) s)
/-- XLT_MQ_HEAD (R48): [11:0] the next entry the driver reads. -/
def execXltMqHead (head : Nat) (s : State) : Host.Outcome State Fault Refusal :=
  .next (barWrite (fun s => updXlt (fun x => { x with mqHead := head % 4096 }) s) s)

end Sys2Proof.Machine
end

