-- ==== Sys2Proof/Machine/Tiers.lean ====
section
/-! DEFINITION. The store rows: requests at their homes (R52, R109), evictions and fetches (R88 to R96), flash (R72 to
R79, R99, R103, R104), host extents (R82 to R84, R100), HBM scrub (R102), lost agents (R127), posted host writes
(R122). -/

namespace Sys2Proof.Machine

open Sys2Proof

/-- Phases of a due entry cover the present phase. -/
def entryNow (s : State) (e : Entry) : Bool :=
  e.valid && decide (s.stg.stage.toNat % 2 ^ e.rate = e.slot) && decide (e.start ≤ phase s) && decide (phase s ≤ e.deadline)

/-- The present phase lies in an idle window of a cell: no itinerary entry of its partition names the cell's flash
channel or Assay engine (R78). -/
def idleWindow (s : State) (c : Nat) : Bool :=
  match (cellPart s c).bind (fun p => (tget p s.stg.itin).bind ItinSt.run) with
  | none => true
  | some it => !it.entries.any (fun e => e.ukind = 4 && bit e.cells c && entryNow s e)

/-- EVICT_RESERVE of a partition (R89). -/
def evictReserve (p : Part) : Nat := p.evictReserve.getD (p.q / 256)

/-- The picker chooses again for a partition whose frame wait has no eviction under way (R89). -/
def repick (p : Nat) (s : State) : State :=
  let waiting := s.store.frameQ.any (fun b => match tget b s.store.blocks with
    | some x => blockPart s x = p
    | none => false)
  let moving := s.store.blocks.any (fun x => x.2.st = .evicting && blockPart s x.2 = p)
    || s.store.shoot.any (fun x => cellPart s x.cell = some p)
  if waiting && !moving then evictOne p (((partCells s p)).headD 0) s else s

/-- A request leaves flight: it has reached its home and is ordered there (R46). -/
def ordered (id : Nat) (s : State) : State :=
  updXlt (fun x => { x with invs := x.invs.map (fun i => { i with waits := i.waits.erase id }) }) s

/-- Two requests of one thread touch a common line. -/
def sameThreadLine (a b : Req) : Bool :=
  match a.who, b.who with
  | .thread t _ _, .thread u _ _ => t = u && (linesOf a.off a.len).any (fun l => (linesOf b.off b.len).contains l)
  | _, _ => false

/-- A bank is retired (Table 19.6); its contents move to a bank of the highest cache way. -/
def bankRetire (cause c b : Nat) (s : State) : State :=
  let s := { s with rep := { s.rep with banks := tput c (tgetD s.rep.banks c 0 + 1) s.rep.banks } }
  ledgerAdd { type := 0x07, cause := cause, cell := c, object := b } none s

/-- A tally word lost to an error: EPOCH 0 with its three flags set, its waiters ended, an event posted (R505). -/
def tallyLost (word : Nat) (s : State) : State :=
  let s := setTally word 0x000E000000000000 s
  let gone := s.sync.waiters.filter (fun w => w.word = word)
  let s := { s with sync := { s.sync with waiters := s.sync.waiters.filter (fun w => w.word != word) } }
  let s := gone.foldl (fun s w => endWait w .faultSync s) s
  evSync 5 (ownSa s 2 (word * 8)).toNat 0 (tallyAt s word).toNat (word / 32768) s

/-- The i-th full/empty waiter is removed with TIMEOUT and the line's state recomputed (R152, R505). -/
def feDropWaiter (i : Nat) (w : FWait) (s : State) : State :=
  let s := { s with sync := { s.sync with feq := dropAt i s.sync.feq } }
  let off := w.line * 64
  let s := feServe s.sync.feq.length off (feOf s off != feEmpty) s
  endFe w .timeout [] false (cnt (cellReg (homeCell s off) 0x628) 1 s)

/-- Contain an error of on-chip storage (R505); a clean copy is read again from its home, which changes nothing. -/
def sramError (e : SramErr) (s : State) : State :=
  match e with
  | .spad off => { s with store := { s.store with spadPoison := tput (off / 64) () s.store.spadPoison } }
  | .copy line =>
    match tget line s.coh.dirty with
    | none => s
    | some d => dropCopies line (landLine (line * 64) d.data [] true s)
  | .tally word => tallyLost word s
  | .waiter i =>
    match s.sync.feq[i]? with
    | none => s
    | some w => feDropWaiter i w s

/-- What an access meets in on-chip storage: the error is contained and its bank retired (R479, R505). -/
def sramMet (obs : LineObs) (s : State) : State :=
  match obs with
  | .sram e b =>
    let s := match e with
      | some e => sramError e s
      | none => s
    match b with
    | some (c, n) => bankRetire (if e.isSome then 2 else 3) c n s
    | none => s
  | _ => s

/-- Serve the i-th request in flight; one that follows another of its thread to the same line waits (R112). -/
def homeAccess (i : Nat) (obs : LineObs) (s : State) : State :=
  match s.coh.fly[i]? with
  | none => s
  | some f =>
    if (s.coh.fly.take i).any (fun g => sameThreadLine g.req f.req) then s
    else
      let s := sramMet obs { s with coh := { s.coh with fly := dropAt i s.coh.fly } }
      let p := ((allocAt s f.req.off).map (fun x => x.2.part)).getD 20
      repick p (serve f.req obs (ordered f.req.id s))

/-- HOME_ACCESS (R52). -/
def execHomeAccess (i : Nat) (obs : LineObs) (s : State) : Host.Outcome State Fault Refusal := .next (dp (fun s => homeAccess i obs s) s)

/-- One eviction towards EVICT_RESERVE in an idle window (R89). -/
def idleEviction (p : Nat) (s : State) : State :=
  match partOf s p with
  | none => s
  | some pt =>
    if (partCells s p).all (idleWindow s) && decide (pt.q < poolUsed s p + evictReserve pt) then
      evictOne p (pt.cells.headD 0) s
    else s

/-- IDLE_EVICTION (R89). -/
def execIdleEviction (part : Nat) (s : State) : Host.Outcome State Fault Refusal := .next (dp (fun s => idleEviction part s) s)

/-! ### Fetches -/

/-- Mark the lines of a content address range poisoned. -/
def poisonContent (ls : List Nat) (s : State) : State :=
  { s with store := { s.store with poison := ls.foldl (fun t l => tput l () t) s.store.poison } }

/-- The unit that lands next: the one holding the first requested line, then ascending, wrapping (R96). -/
def nextUnit (x : Block) : Nat := (x.first + x.landed.length) % 4

/-- A unit of a fetch lands: its waiting requests proceed; the fourth switches the block to HBM (R96, Table 3.9). -/
def landUnit (b unit : Nat) (s : State) : State :=
  let s := updBlock b (fun x => { x with landed := x.landed ++ [unit] }) s
  let s := match tget b s.store.blocks with
    | some x =>
      if x.landed.length = 4 then
        cnt (cellReg (x.frame.getD 0) 0x430) 1
          (updBlock b (fun x => { x with st := .hbm, age := 0, touched := true, landed := [] }) s)
      else s
    | none => s
  unpark b (fun r => unitOf r.off = unit || ((tget b s.store.blocks).map (fun x => decide (x.st = .hbm))).getD false) s

/-- Read retries of a flash unit: counters, the erase block's threshold, the envelope (R104). -/
def flashRetry (ch target retried : Nat) (s : State) : State :=
  if retried = 0 then s
  else
    let s := cnt (fchReg ch 0x20) retried s
    let s := if s.store.retryMax < retried then cnt (fchReg ch 0x48) 1 s else s
    updFlash ch (fun f => { f with threshold := tput target (tgetD f.threshold target 0 + retried) f.threshold }) s

/-- An operation of a target completed: its timeouts in a row end (R99). -/
def targetAlive (ch target : Nat) (s : State) : State := updFlash ch (fun f => { f with toRow := tdel target f.toRow }) s

/-- One unit of a flash fetch lands; `bad` are its uncorrectable codewords 0-3 (R77, R96). -/
def fetchUnitLanded (b unit retried : Nat) (bad : List Nat) (s : State) : State :=
  match tget b s.store.blocks with
  | none => s
  | some x =>
    match x.lower with
    | some (.flash ch ts) =>
      if x.st != .fetching || x.waitSince.isSome || unit != nextUnit x then s
      else
        let t := ts.getD unit 0
        let bad := (List.range 4).filter bad.contains
        let s := targetAlive ch t (flashRetry ch t retried (cnt (fchReg ch 0x18) 1 s))
        let s := if 0 < retried then cnt (cellReg ch 0x498) 1 s else s
        let s := cnt (fchReg ch 0x28) bad.length s
        let s := poisonContent (bad.flatMap (fun k => span (b * 1024 + unit * 256 + k * 64) 64)) s
        landUnit b unit s
    | _ => s

/-- FETCH_UNIT_LANDED (R96). -/
def execFetchUnitLanded (block unit retried : Nat) (bad : List Nat) (s : State) : Host.Outcome State Fault Refusal :=
  .next (dp (fun s => fetchUnitLanded block unit retried bad s) s)

/-! ### Evictions -/

/-- No cached M copy of a block's lines is left (R94). -/
def noOwners (s : State) (b : Nat) : Bool :=
  (blockLines s b).all (fun l => match tget l s.coh.dir with | some e => !e.m | none => true)

/-- Consume erased units of a channel. -/
def programUnits (ch n : Nat) (s : State) : State := updFlash ch (fun f => { f with erased := f.erased - n }) s

/-- The lower copy of an evicting block is written and verified (R94, R95). -/
def evictionWriteDone (b : Nat) (s : State) : State :=
  match tget b s.store.blocks with
  | none => s
  | some x =>
    if x.st != .evicting || !noOwners s b then s
    else match x.lower with
      | some (.flash ch _) =>
        if gcState (s.store.flash.getD ch {}) = 3 then s
        else toLower b (programUnits ch 4 s)
      | some (.host e) =>
        if !s.host.linkUp then s
        else
          let ep := x.epoch + 1
          toLower b (emit (.hostBlk e b ep) (updBlock b (fun x => { x with epoch := ep }) s))
      | none => s

/-- EVICTION_WRITE_DONE (R94). -/
def execEvictionWriteDone (block : Nat) (s : State) : Host.Outcome State Fault Refusal := .next (dp (fun s => evictionWriteDone block s) s)

/-- A lower-tier write of an eviction fails: the block is in HBM again (Table 3.9). -/
def evictionWriteFail (b : Nat) (s : State) : State :=
  match tget b s.store.blocks with
  | none => s
  | some x =>
    if x.st != .evicting then s
    else
      let s := updBlock b (fun x => { x with st := .hbm, lower := none, lowerValid := false }) s
      repick (blockPart s x) (evMemory 7 (b * 65536) 0 1 3 s)

/-- EVICTION_WRITE_FAIL (R93). -/
def execEvictionWriteFail (block : Nat) (s : State) : Host.Outcome State Fault Refusal := .next (dp (fun s => evictionWriteFail block s) s)

/-- Every tile has acknowledged a block's shootdown: its old frame is free (R95). -/
def shootdownComplete (b : Nat) (s : State) : State :=
  if s.store.shoot.any (fun x => x.block = b) then
    frameFreed { s with store := { s.store with shoot := s.store.shoot.filter (fun x => x.block != b) } }
  else s

/-- SHOOTDOWN_COMPLETE (R95). -/
def execShootdownComplete (block : Nat) (s : State) : Host.Outcome State Fault Refusal := .next (dp (fun s => shootdownComplete block s) s)

/-! ### Flash writes, failures and upkeep -/

/-- Channel of a unit of placed FLASH data. -/
def unitChannel (s : State) (u : Nat) : Nat := homeCell s (u * 16384)

/-- FLASH_BUFFER_PROGRAM (R75): when the unit is full, or 1 ms after its first buffered write. -/
def execFlashBufferProgram (unit : Nat) (s : State) : Host.Outcome State Fault Refusal :=
  .next (dp (fun s => match tget unit s.store.buf with
    | none => s
    | some x =>
      let go := fun (s : State) => programUnits (unitChannel s unit) 1
        { s with store := { s.store with buf := tdel unit s.store.buf } }
      if x.lines.length = 256 then go s else timer (x.since + 1000000) go s) s)

/-- A program or erase fails: the erase block is retired (R79). -/
def flashProgramFail (ch target eb : Nat) (s : State) : State :=
  if ch < 20 && target < 16 && (s.store.flash.getD ch {}).admitted.getLsbD target then
    let s := cnt (fchReg ch 0x50) 1 (updFlash ch (fun f => { f with bad := f.bad + 1, erased := f.erased - f.perBlock }) s)
    ledgerAdd { type := 0x08, cause := 4, cell := ch, target := target, object := eb } none (evFlash 2 ch target eb s)
  else s

/-- FLASH_PROGRAM_FAIL (R79). -/
def execFlashProgramFail (ch target eraseBlock : Nat) (s : State) : Host.Outcome State Fault Refusal :=
  .next (dp (fun s => flashProgramFail ch target eraseBlock s) s)

/-- A block becomes FAILED: joined requests end with TIER_FAILED, its frame is returned (Table 3.9). -/
def failBlock (b : Nat) (s : State) : State :=
  match tget b s.store.blocks with
  | none => s
  | some x =>
    let s := updBlock b (fun x => { x with st := .failed, frame := none, waitSince := none, waiters := [], landed := [] }) s
    let s := { s with store := { s.store with frameQ := s.store.frameQ.erase b } }
    let s := x.waiters.foldl (fun s w => deliver w.1 .tierFailed [] false false
      (cnt (cellReg (homeCell s w.1.off) 0x4B0) ((s.now - w.2) / 10) s)) s
    frameFreed s

/-- Fail every block whose only copy lies on a lost place (R99, R100). -/
def failOnly (lost : Place → Bool) (s : State) : State :=
  (s.store.blocks.filter (fun x => (x.2.st = .lower || x.2.st = .fetching)
      && match x.2.lower with | some p => lost p | none => false)).foldl
    (fun s x => failBlock x.1 s) s

/-- A timeout of a target; the third in a row fails it (R99). -/
def targetTimeout (ch target : Nat) (s : State) : State :=
  let s := cnt (fchReg ch 0x30) 1 s
  let n := tgetD (s.store.flash.getD ch {}).toRow target 0 + 1
  let s := updFlash ch (fun f => { f with toRow := tput target n f.toRow }) s
  if n < 3 then s
  else
    let s := updFlash ch (fun f => { f with failedT := f.failedT ||| (1#16 <<< target) }) s
    let s := ledgerAdd { type := 0x09, cause := 5, cell := ch, target := target } none (evFlash 1 ch target 0 s)
    failOnly (fun p => match p with | .flash c ts => c = ch && ts.contains target | .host _ => false) s

/-- Remove a read of placed data. -/
def dropRead (id : Nat) (s : State) : State :=
  { s with store := { s.store with reads := s.store.reads.filter (fun r => r.id != id) } }

/-- A read of placed data in progress. -/
def tierRead (s : State) (id : Nat) : Option TierRead := s.store.reads.find? (fun r => r.id = id)

/-- Stall time of a read of placed data (R98). -/
def readStall (r : TierRead) (s : State) : State := cnt (cellReg (homeCell s r.req.off) 0x4B0) ((s.now - r.since) / 10) s

/-- A flash operation passes FLASH_TIMEOUT (R99). -/
def flashTimeout (op : TierOp) (s : State) : State :=
  let late := fun (t : Nat) (f : State → State) => timer (t + s.store.flashTimeout) f s
  match op with
  | .fetch b unit =>
    match tget b s.store.blocks with
    | some x =>
      match x.lower with
      | some (.flash ch ts) =>
        if x.st = .fetching && x.waitSince.isNone && !x.landed.contains unit
        then late x.issued (fun s => targetTimeout ch (ts.getD unit 0) (failBlock b s)) else s
      | _ => s
    | none => s
  | .evict b =>
    match tget b s.store.blocks with
    | some x =>
      match x.lower with
      | some (.flash ch ts) =>
        if x.st = .evicting then late x.issued (fun s => targetTimeout ch (ts.headD 0) (evictionWriteFail b s)) else s
      | _ => s
    | none => s
  | .read id =>
    match tierRead s id with
    | some r =>
      match r.place with
      | .flash ch _ =>
        late r.since (fun s =>
          let d := draw s
          let ts := targets s ch
          targetTimeout ch (ts.getD (d.1 % (if ts.isEmpty then 1 else ts.length)) 0)
            (deliver r.req .tierFailed [] false false (readStall r (dropRead id d.2))))
      | .host _ => s
    | none => s

/-- FLASH_TIMEOUT (R99). -/
def execFlashTimeout (op : TierOp) (s : State) : Host.Outcome State Fault Refusal := .next (dp (fun s => flashTimeout op s) s)

/-- A flash read of placed data finishes: served from HBM's side with its lines, poisoned if uncorrectable (R77). -/
def flashReadDone (id retried : Nat) (bad : Bool) (s : State) : State :=
  match tierRead s id with
  | some r =>
    match r.place with
    | .flash ch _ =>
      if needsBlock r.req.op then s
      else
        let s := flashRetry ch 0 retried (cnt (fchReg ch 0x18) 1 (readStall r (dropRead id s)))
        let s := if 0 < retried then cnt (cellReg ch 0x498) 1 s else s
        let s := if bad then
            cnt (fchReg ch 0x28) 1 (poisonContent (span (content s r.req.off / 4096 * 64) 64) s) else s
        perform r.req s
    | .host _ => s
  | none => s

/-- FLASH_READ_DONE (R77). -/
def execFlashReadDone (id retried : Nat) (bad : Bool) (s : State) : Host.Outcome State Fault Refusal :=
  .next (dp (fun s => flashReadDone id retried bad s) s)

/-- Serve the writes that waited while a channel was CRITICAL (Table 3.8). -/
def releaseWrites (ch : Nat) (s : State) : State :=
  if gcState (s.store.flash.getD ch {}) = 3 then s
  else
    let mine := fun (r : TierRead) => needsBlock r.req.op && match r.place with | .flash c _ => c = ch | _ => false
    let rs := s.store.reads.filter mine
    let s := { s with store := { s.store with reads := s.store.reads.filter (fun r => !mine r) } }
    rs.foldl (fun s r => serve r.req .clean (readStall r s)) s

/-- Garbage collection on a channel: units moved and the erase blocks erased (R78). -/
def garbageCollection (ch moved : Nat) (blocks : List Nat) (s : State) : State :=
  let f := s.store.flash.getD ch {}
  let g := gcState f
  if 20 ≤ ch || g = 0 || (g = 1 && !idleWindow s ch) then s
  else
    let s := updFlash ch (fun f => { f with
      erased := min (f.good * 4) (f.erased + blocks.length * f.perBlock)
      wear := blocks.foldl (fun w b => tput b (tgetD w b 0 + 1) w) f.wear
      gcUnits := f.gcUnits + moved }) s
    releaseWrites ch (cnt (fchReg ch 0x38) moved s)

/-- GARBAGE_COLLECTION (R78). -/
def execGarbageCollection (ch moved : Nat) (erased : List Nat) (s : State) : Host.Outcome State Fault Refusal :=
  .next (dp (fun s => garbageCollection ch moved erased s) s)

/-- Spread of erase counts on a channel (R79). -/
def wearSpread (f : Flash) : Nat :=
  let ws := f.wear.map Prod.snd
  ws.foldl max 0 - ws.foldl min (ws.headD 0)

/-- WEAR_LEVELLING (R79). -/
def execWearLevelling (ch eraseBlock : Nat) (s : State) : Host.Outcome State Fault Refusal :=
  .next (dp (fun s => 
    let f := s.store.flash.getD ch {}
    if ch < 20 && decide (256 < wearSpread f) && idleWindow s ch && (tget eraseBlock f.wear).isSome then
      cnt (fchReg ch 0x38) 1 (updFlash ch (fun f => { f with gcUnits := f.gcUnits + 1 }) s)
    else s) s)

/-- FLASH_PATROL (R103): a unit is read, and rewritten elsewhere if it needed retry or was weak. -/
def execFlashPatrol (ch retried : Nat) (weak : Bool) (s : State) : Host.Outcome State Fault Refusal :=
  .next (dp (fun s => 
    if ch < 20 && (s.store.flash.getD ch {}).censusDone then
      let s := flashRetry ch 0 retried (cnt (fchReg ch 0x18) 1 s)
      if weak || decide (0 < retried) then programUnits ch 1 s else s
    else s) s)

/-! ### Host tier -/

/-- A host extent fails: blocks whose only copy it holds become FAILED (R100). -/
def failExtent (e : Nat) (s : State) : State :=
  let s := { s with store := { s.store with exts := tupd e (fun x => { x with failed := true }) s.store.exts } }
  let rs := s.store.reads.filter (fun r => r.place = .host e)
  let s := { s with store := { s.store with reads := s.store.reads.filter (fun r => r.place != .host e) } }
  let s := rs.foldl (fun s r => deliver r.req .tierFailed [] false false (readStall r s)) s
  failOnly (fun p => p = .host e) s

/-- The moment a host access's HOST_TIMEOUT counts from: its issue, or the link's loss (R100). -/
def hostFrom (s : State) (t : Nat) : Nat :=
  match s.store.hostDownSince with
  | some d => max t d
  | none => t

/-- A host-tier access has no completion within HOST_TIMEOUT (R100). -/
def hostTimeout (op : TierOp) (s : State) : State :=
  let late := fun (t : Nat) (f : State → State) => timer (hostFrom s t + s.store.hostTimeout) f s
  match op with
  | .fetch b _ =>
    match tget b s.store.blocks with
    | some x =>
      match x.lower with
      | some (.host e) =>
        if x.st = .fetching && x.waitSince.isNone then late x.issued (fun s => failExtent e (failBlock b s)) else s
      | _ => s
    | none => s
  | .evict b =>
    match tget b s.store.blocks with
    | some x =>
      match x.lower with
      | some (.host e) =>
        if x.st = .evicting then late x.issued (fun s => failExtent e (evictionWriteFail b s)) else s
      | _ => s
    | none => s
  | .read id =>
    match tierRead s id with
    | some r =>
      match r.place with
      | .host e => late r.since (failExtent e)
      | .flash _ _ => s
    | none => s

/-- HOST_TIMEOUT (R100). -/
def execHostTimeout (op : TierOp) (s : State) : Host.Outcome State Fault Refusal := .next (dp (fun s => hostTimeout op s) s)

/-- Lines of a host read whose tags mismatch are poisoned, counted and reported; lines whose tag is the complement are
poisoned only (R84, R507). -/
def hostTags (e cell : Nat) (bad marked : List Nat) (s : State) : State :=
  let s := poisonContent (bad ++ marked) s
  if bad.isEmpty then s
  else evMemory 1 0 e bad.length 2 (cnt (cellReg cell 0x448) bad.length s)

/-- A host-tier read completion returns (R82, R84, R100); `okay` false is a UR, CA or poisoned completion. -/
def hostReadCompletion (op : TierOp) (okay : Bool) (bad marked : List Nat) (s : State) : State :=
  match op with
  | .fetch b unit =>
    match tget b s.store.blocks with
    | some x =>
      match x.lower with
      | some (.host e) =>
        if x.st != .fetching || x.waitSince.isSome || unit != nextUnit x || !s.host.linkUp then s
        else if !okay then failExtent e (failBlock b s)
        else
          let cell := ((tget e s.store.exts).map Extent.cell).getD 0
          let at_ := fun (l : List Nat) => (l.filter (· < 256)).map (fun k => b * 1024 + unit * 256 + k)
          landUnit b unit (hostTags e cell (at_ bad) (at_ marked) s)
      | _ => s
    | none => s
  | .read id =>
    match tierRead s id with
    | some r =>
      match r.place with
      | .host e =>
        if !s.host.linkUp then s
        else if !okay then failExtent e s
        else
          let s := readStall r (dropRead id s)
          if needsBlock r.req.op then serve r.req .clean s
          else
            let l := content s r.req.off / 64
            perform r.req (hostTags e (homeCell s r.req.off) (if bad.isEmpty then [] else [l])
              (if marked.isEmpty then [] else [l]) s)
      | .flash _ _ => s
    | none => s
  | .evict _ => s

/-- HOST_READ_COMPLETION (R82). -/
def execHostReadCompletion (op : TierOp) (okay : Bool) (bad marked : List Nat) (s : State) :
    Host.Outcome State Fault Refusal := .next (dp (fun s => hostReadCompletion op okay bad marked s) s)

/-! ### HBM scrub -/

/-- Change a stack. -/
def updStack (c : Nat) (f : Stack → Stack) (s : State) : State :=
  { s with store := { s.store with stks := s.store.stks.setIfInBounds c (f (s.store.stks.getD c {})) } }

/-- Correction streak of a row: (last pass, passes in a row), packed as pass × 4 + streak (R102). -/
def rowStreak (st : Stack) (row : Nat) : Nat := tgetD st.rows row 0 % 4

/-- The patrol scrub reads one line and rewrites it corrected; three passes in a row mark its row (R68, R102). -/
def hbmPatrolScrub (c row line : Nat) (obs : LineObs) (progress : BitVec 32) (s : State) : State :=
  if 20 ≤ c || !(s.store.stks.getD c {}).ready then s
  else
    let st := s.store.stks.getD c {}
    let s := if homeCell s (line * 64) = c then lineRead (line * 64) obs s else s
    let s := if obs = .corrected then
        let old := tgetD st.rows row 0
        let streak := if old = 0 then 1
          else if old / 4 = st.passes then old % 4
          else if old / 4 + 1 = st.passes then min 3 (old % 4 + 1) else 1
        updStack c (fun x => { x with rows := tput row (st.passes * 4 + streak) x.rows }) s
      else s
    let wrapped := decide (progress.toNat < st.progress)
    updStack c (fun x => { x with progress := progress.toNat, passes := x.passes + b2n wrapped }) s

/-- HBM_PATROL_SCRUB (R102). -/
def execHbmPatrolScrub (stack row line : Nat) (obs : LineObs) (progress : BitVec 32) (s : State) :
    Host.Outcome State Fault Refusal := .next (dp (fun s => hbmPatrolScrub stack row line obs progress s) s)

/-- Spare rows of a stack and the frames a row holds parts of: not stated, free values (log 13). -/
def spareRows (c : Nat) : Nat := Config.freeOf 21 [c]
def rowFrames (c row : Nat) : Nat := Config.freeOf 22 [c, row]

/-- A row that needed correction in three passes is spared, or its frames are retired (R102). -/
def rowSpare (c row : Nat) (s : State) : State :=
  let st := s.store.stks.getD c {}
  if 20 ≤ c || rowStreak st row < 3 || !idleWindow s c then s
  else
    let s := updStack c (fun x => { x with rows := tdel row x.rows }) s
    if st.spared < spareRows c then
      ledgerAdd { type := 0x05, cause := 3, cell := c, object := row } none
        (updStack c (fun x => { x with spared := x.spared + 1 }) s)
    else
      let n := rowFrames c row
      ledgerAdd { type := 0x06, cause := 3, cell := c, object := row } none
        (evMemory 4 row c n 3 (updStack c (fun x => { x with retired := x.retired + n }) s))

/-- ROW_SPARE (R102). -/
def execRowSpare (stack row : Nat) (s : State) : Host.Outcome State Fault Refusal := .next (dp (fun s => rowSpare stack row s) s)

/-! ### Coherent agents and posted host writes -/

/-- Every copy a port's agent holds is lost (R127): S copies are dropped, M lines are poisoned at their homes, waiting
requests end with LINK_LOST, and one event names the port and the lines. -/
def agentLost (p : Nat) (s : State) : State :=
  let mine := s.coh.dir.filter (fun x => (agentsOf x.2).contains p)
  let ms := mine.filter (fun x => x.2.m)
  let s := mine.foldl (fun s x =>
    let l := x.1
    if x.2.m then
      cnt (cellReg (homeCell s (l * 64)) 0x528) 1
        (setPoison (l * 64) true { s with coh := { s.coh with dir := tdel l s.coh.dir } })
    else
      let sh := x.2.sharers &&& ~~~(sharerBit (0x40 + p))
      { s with coh := { s.coh with dir := if sh = 0 then tdel l s.coh.dir else tput l { x.2 with sharers := sh } s.coh.dir } }) s
  let waits := s.coh.snoops.filter (fun x => x.port = p)
  let s := { s with coh := { s.coh with snoops := s.coh.snoops.filter (fun x => x.port != p) } }
  let s := (waits.flatMap Snoop.reqs).foldl (fun s r => deliver r .linkLost [] false false s) s
  if ms.isEmpty then s else evMemory 3 0 p ms.length 2 s

/-- Land a posted host write (R122, R148): sync space takes TALLY_ADD of 8 aligned bytes and drops the rest. A write
refused at a home is counted once (Table 16.6). -/
def landPosted (w : HeldWr) (s : State) : State :=
  let x := Sa.of w.sa
  let r : Req := { who := .hostPosted w.id, ctx := w.ctx, off := x.off, op := .wrInv, len := w.data.length,
                   data := w.data, poison := w.poison }
  if x.space = 2 then
    let s := if w.data.length = 8 && x.off % 8 = 0 && syncLayout x.off then
        tallyApply false (x.off / 8) (BitVec.ofNat 64 (leNat w.data)) w.ctx s
      else cnt (cellReg (x.off / 2 ^ 18 % 20) 0x650) 1 s
    deliver r .done [] false false s
  else
    let refused := (lines x.off w.data).any (fun y => (homeCheck s w.ctx y.1 true).isSome)
    (lines x.off w.data).foldl (fun s y => serve { r with off := y.1, len := y.2.length, data := y.2 } .clean s)
      (if refused then cnt 0x80080 1 s else s)

/-- A posted write lands once the rules of R122 let it: sync targets wait for every earlier posted write. -/
def hostWrite (id : Nat) (s : State) : State :=
  match s.coh.heldWr.find? (fun x => x.1.id = id) with
  | none => s
  | some (w, earlier) =>
    let x := Sa.of w.sa
    let sync := x.space = 2 || isSyncLine s x.off
    if sync && earlier != [] then s
    else landPosted w { s with coh := { s.coh with heldWr := s.coh.heldWr.filter (fun x => x.1.id != id) } }

/-- HOST_WRITE (R122). -/
def execHostWrite (id : Nat) (s : State) : Host.Outcome State Fault Refusal := .next (dp (fun s => hostWrite id s) s)

end Sys2Proof.Machine
end

