-- ==== Sys2Proof/Machine/SyncOps.lean ====
section
/-! DEFINITION. The sync timer rows (R145, R146, R152) and the re-alignment of tally words at a boundary (R154 to
R156). -/

namespace Sys2Proof.Machine

open Sys2Proof

/-- Remove the i-th tally waiter. -/
def dropWaiter (i : Nat) (s : State) : State :=
  { s with sync := { s.sync with waiters := dropAt i s.sync.waiters } }

/-- WAIT_TIMEOUT (R145): the timeout of the i-th waiter expires. -/
def execWaitTimeout (i : Nat) (s : State) : Host.Outcome State Fault Refusal :=
  .next (dp (fun s => match s.sync.waiters[i]? with
    | none => s
    | some w => timer (w.since + w.timeout * 10) (fun s => endWait w .timeout (dropWaiter i s)) s) s)

/-- WAIT_POLL (R146): a polling waiter reads its word. -/
def execWaitPoll (i : Nat) (s : State) : Host.Outcome State Fault Refusal :=
  .next (dp (fun s => match s.sync.waiters[i]? with
    | none => s
    | some w =>
      if w.poll && waitHolds w.op (tallyAt s w.word) w.operand then endWait w .done (dropWaiter i s) else s) s)

/-- FE_WAIT_TIMEOUT (R152): the i-th full/empty waiter is removed with TIMEOUT and the line's state recomputed. -/
def execFeWaitTimeout (i : Nat) (s : State) : Host.Outcome State Fault Refusal :=
  .next (dp (fun s => match s.sync.feq[i]? with
    | none => s
    | some w => timer (w.since + w.timeout * 10) (feDropWaiter i w) s) s)

/-! ### Re-alignment -/

/-- Drift of a word against its planned value; a saturated count is taken as 2^48 - 1 (R154, R156). -/
def driftOf (w : BitVec 64) (planned : Nat) : Int :=
  (if tSat w then (countMax : Int) else (tCount w : Int)) - (planned : Int)

/-- Add one word to a drift summary (Table 5.8a). -/
def driftAdd (d : Drift) (w : BitVec 64) (planned sa : Nat) : Drift :=
  let v := driftOf w planned
  let better := decide (d.maxDrift.natAbs < v.natAbs) || (v != 0 && decide (v.natAbs = d.maxDrift.natAbs) && decide (sa < d.maxSa))
  { words := d.words + 1
    nonzero := d.nonzero + b2n (v != 0)
    maxDrift := if better then v else d.maxDrift
    maxSa := if better then sa else d.maxSa
    absSum := min (2 ^ 64 - 1) (d.absSum + v.natAbs)
    sat := d.sat + b2n (tSat w)
    und := d.und + b2n (tUnd w)
    mis := d.mis + b2n (tMis w) }

/-- The drift of a list of words as they stand (R156), each word once. -/
def driftList (s : State) (rals : List (Nat × Nat)) : Drift :=
  (rals.foldl (fun (acc : Drift × List Nat) x =>
    if acc.2.contains x.1 then acc
    else (driftAdd acc.1 (tallyAt s (x.1 / 8)) x.2 (ownSa s 2 x.1).toNat, x.1 :: acc.2)) ({}, [])).1

/-- Re-align one word (R154, R155): COUNT planned, flags clear, EPOCH advanced; waiters that check the epoch end. -/
def realignWord (off planned : Nat) (s : State) : State :=
  let word := off / 8
  let w := tallyAt s word
  let s := setTally word (tWord (tEpoch w + 1) false false false planned) s
  let ends := fun (x : TWait) => x.word = word && waitChecks x.op && !tNochk x.operand
  let gone := s.sync.waiters.filter ends
  let s := { s with sync := { s.sync with waiters := s.sync.waiters.filter (fun x => !ends x) } }
  let s := gone.foldl (fun s x => endWait x .faultSync (cnt (cellReg (word / 32768) 0x630) 1 s)) s
  wake word s

/-- Re-align every listed word, each once (R154). -/
def realignAll (rals : List (Nat × Nat)) (s : State) : State :=
  (rals.foldl (fun (acc : State × List Nat) x =>
    if acc.2.contains x.1 then acc else (realignWord x.1 x.2 acc.1, x.1 :: acc.2)) (s, [])).1

end Sys2Proof.Machine
end

