-- ==== Sys2Proof/Machine/Waybill.lean ====
section
/-! DEFINITION. Waybills (R230 to R240), completion tallies (R149), unit fields (R21) and the bulk accesses of
engines to store and scratchpad. -/

namespace Sys2Proof.Machine

open Sys2Proof

/-! ### Units -/

/-- Physical slot bound to a logical matrix unit; 15 when unbound (Table 8.11). -/
def mxuSlot (s : State) (m : Nat) : Nat := tgetD s.eng.mslot m (m % 10)
/-- Physical slot bound to a logical core; 31 when unbound. -/
def coreSlot (s : State) (c : Nat) : Nat := if s.drv.unbound.contains c then 31 else tgetD s.drv.slot c (c % 16)

/-- INDEX of the physical unit bound to a logical one (Table 1.6). -/
def physOf (s : State) (k : UnitKind) (u : Nat) : Nat :=
  match k with
  | .core => 17 * (u / 16) + coreSlot s u
  | .matrix => 11 * (u / 10) + mxuSlot s u
  | _ => u

/-- The logical unit has no unit to run on (R24). -/
def unitUnbound (s : State) (k : UnitKind) (u : Nat) : Bool :=
  match k with
  | .core => s.drv.unbound.contains u
  | .matrix => mxuSlot s u = 15
  | .porter | .assay => s.eng.unbound.contains (k.code * 4096 + u)
  | _ => false

/-- UNIT field (R21). -/
def unitField (k : UnitKind) (phys : Nat) : Nat := k.code * 4096 + phys % 4096

/-- Cell of a cell-bound logical unit. -/
def unitCell (k : UnitKind) (u : Nat) : Option Nat :=
  match k with
  | .core => some (u / 16)
  | .matrix => some (u / 2)
  | .porter | .assay => some u
  | _ => none

/-! ### Waybills -/

/-- What a waybill says, beside what the machine adds (Table 9.1). -/
structure Way where
  opid : Nat
  op : Nat
  status : Status
  flags : WFlags
  unit : Nat
  inDig : Nat := 0
  outDig : Nat := 0
  residual : Nat := 0
  bound : Nat := 0
  processed : Nat := 0
  dropped : Nat := 0
  ctx : Nat
  part : Nat
  retries : Nat := 0
  /-- STG_NOW of an earlier moment, where the waybill records one (R364). -/
  stage : Option Nat := none
deriving DecidableEq, Repr

/-- A saturating 32-bit field. -/
def sat32 (n : Nat) : Nat := min n (2 ^ 32 - 1)

/-- The customisation string of MAC64: the ASCII bytes of OK820 WAYBILL (R236). -/
def macCustom : List Byte := [0x4F, 0x4B, 0x38, 0x32, 0x30, 0x20, 0x57, 0x41, 0x59, 0x42, 0x49, 0x4C, 0x4C]

/-- Bytes 0-55 of a waybill (Table 9.1). -/
def wayBody (s : State) (w : Way) : List Byte :=
  leBytes 4 w.opid ++ leBytes 1 w.status.code ++ leBytes 1 w.flags.byte ++ leBytes 2 w.unit ++ leBytes 8 (w.stage.getD (stgNow s))
    ++ leBytes 8 w.inDig ++ leBytes 8 w.outDig ++ leBytes 4 w.residual ++ leBytes 4 w.bound
    ++ leBytes 4 (sat32 w.processed) ++ leBytes 4 (sat32 w.dropped) ++ leBytes 2 w.ctx ++ leBytes 1 w.part
    ++ leBytes 1 w.retries ++ leBytes 4 0

/-- The whole waybill with its MAC (R236). -/
def wayBytes (s : State) (w : Way) : List Byte :=
  let b := wayBody s w
  b ++ leBytes 8 (Config.kmac128 (((partOf s w.part).map Part.waybillKey).getD 0) b macCustom 64)

/-- Write a waybill as one full-line invalidating write at its home; false where the home refuses it (R232). -/
def wayWrite (off : Nat) (w : Way) (s : State) : State × Bool :=
  match homeCheck s w.ctx off true with
  | some _ => (s, false)
  | none =>
    let r : Req := { who := .migration, ctx := w.ctx, off := off, op := .wrInv, len := 64, data := wayBytes s w }
    (serve r .clean s, true)

/-- An ENGINE event (Table 21.4). -/
def evEngine (p desc opid unit status cause : Nat) (s : State) : State :=
  evqPost p 0x0102 1 (leBytes 8 desc ++ leBytes 4 opid ++ leBytes 2 unit ++ leBytes 1 status ++ leBytes 1 cause) s

/-- A completion TALLY's address check (R149, Table 2.12). -/
def tallyCheck (s : State) (ctx : Nat) (sa : Nat) : Option Status :=
  if sa = 0 then none
  else
    let x := Sa.of (BitVec.ofNat 64 sa)
    if x.space != 2 || !devKnown s x.dev then some .faultAccess
    else if isOwn s x.dev && !(syncLayout x.off
        && ((ctxPart s ctx).map (fun p => (partCells s p).contains (x.off / 2 ^ 18))).getD false) then some .faultAccess
    else if !isOwn s x.dev && !syncLayout x.off then some .faultAccess
    else if x.off % 8 != 0 then some .faultAlign
    else none

/-- A port is ACTIVE (Table 13.2). -/
def portActive (s : State) (p : Nat) : Bool := (port s p).st = .active

/-- The port towards another device, if a route stands and its port is ACTIVE (R371). -/
def routePort (s : State) (dev : Nat) : Option Nat :=
  match tget dev s.car.routes with
  | some r => if portActive s r.port then some r.port else none
  | none => none

/-- Apply a completion tally: local words at once, remote ones as SYNC_UPD; a refusal posts an ENGINE event with
cause 3 (R149). -/
def completionTally (sa : Nat) (opnd : Nat) (ctx p desc opid unit : Nat) (s : State) : State :=
  if sa = 0 then s
  else
    let x := Sa.of (BitVec.ofNat 64 sa)
    let o := BitVec.ofNat 64 opnd
    if isOwn s x.dev then
      let refused := tallyRefused s (x.off / 8) o
      let s := tallyApply false (x.off / 8) o ctx s
      if refused then evEngine p desc opid unit Status.faultSync.code 3 s else s
    else match routePort s x.dev with
      | some po => sendTag po (.tally p desc opid unit)
        { kind := .syncUpd, ctx := ctx, sa := BitVec.ofNat 64 sa, args := [opnd, 0] } s
      | none => evEngine p desc opid unit Status.linkLost.code 3 s

/-! ### Bulk accesses -/

/-- What a bulk access meets. -/
inductive Bulk
  | ok
  | stop (st : Status)
  | wait
deriving DecidableEq, Repr

/-- Make the managed blocks of a range accessible (Table 3.9): fetches start, first writes take frames. -/
def prepareBlock (ctx off : Nat) (w : Bool) (s : State) : Bulk × State :=
  match allocAt s off with
  | none => (.stop .faultAccess, s)
  | some (base, al) =>
    let nominal := al.cells.getD ((off - base) / 65536 % nblk al.size % al.cells.length) 0
    let r : Req := { who := .migration, ctx := ctx, off := off, op := if w then .wrInv else .rdNc, len := 1 }
    match al.tier with
    | .managed =>
      match blockGate r al nominal s with
      | (.go, s) => (.ok, s)
      | (.stop st, s) => (.stop st, s)
      | (.parked, s) => (.wait, s)
    | .host =>
      match al.ext.bind (fun e => tget e s.store.exts) with
      | some x => if x.failed then (.stop .tierFailed, s) else if s.host.linkUp then (.ok, s) else (.wait, s)
      | none => (.stop .tierFailed, s)
    | .flash => if (targets s (homeCell s off)).isEmpty then (.stop .tierFailed, s) else (.ok, s)
    | .hbm => (.ok, s)

/-- Offsets at which a range meets its 64 KiB blocks. -/
def blockStarts (off n : Nat) : List Nat :=
  if n = 0 then [] else (span (off / 65536) ((off + n - 1) / 65536 - off / 65536 + 1)).map (fun b => max off (b * 65536))

/-- A store range for an engine under a context: checks of every page, then its blocks (R52, R98). -/
def bulkStore (ctx off n : Nat) (w : Bool) (s : State) : Bulk × State :=
  let pages := if n = 0 then [] else
    (span (off / 4096) ((off + n - 1) / 4096 - off / 4096 + 1)).map (fun p => max off (p * 4096))
  match pages.findSome? (fun o => homeCheck s ctx o w) with
  | some st => (.stop st, s)
  | none =>
    (blockStarts off n).foldl (fun acc o =>
      match acc.1 with
      | .stop _ => acc
      | b =>
        if w && (tget (contentBlock acc.2 o) acc.2.store.shadow).isSome then (.stop .conflict, acc.2)
        else match prepareBlock ctx o w acc.2 with
          | (.ok, s) => (b, s)
          | x => x) (Bulk.ok, s)

/-- Bytes of a cell's scratchpad: ways 0 to 11 of 4 MiB; retired banks come out of the four cache ways first (R440,
R479). -/
def spadBytes (s : State) (c : Nat) : Nat := min 768 (1024 - tgetD s.rep.banks c 0) * 65536

/-- A scratchpad range lies in cells of a partition and below their ways (Table 2.2). -/
def spadOk (s : State) (p off n : Nat) : Bool :=
  let c := off / 2 ^ 26
  spadLayout off && (partCells s p).contains c && decide (off % 2 ^ 26 + n ≤ spadBytes s c)

/-- Write scratchpad bytes with their poison marks (R188). -/
def spadWrite (off : Nat) (d : List Byte) (p : Bool) (s : State) : State :=
  let ls := (linesOf off d.length).map (· / 64)
  let full := fun (l : Nat) => decide (off ≤ l * 64) && decide (l * 64 + 64 ≤ off + d.length)
  let poi := ls.foldl (fun t l => if p then tput l () t else if full l then tdel l t else t) s.store.spadPoison
  { s with store := { s.store with spad := putBytes off d s.store.spad, spadPoison := poi } }

/-- A range of store or scratchpad that an engine reads or writes, by SA. -/
def bulk (ctx p sa n : Nat) (w : Bool) (s : State) : Bulk × State :=
  let x := Sa.of (BitVec.ofNat 64 sa)
  if x.space = 1 then (if spadOk s p x.off n then .ok else .stop .faultAccess, s)
  else if x.space = 0 then bulkStore ctx x.off n w s
  else (.stop .faultAccess, s)

/-- Several ranges, the first failure deciding. -/
def bulkAll (ctx p : Nat) (rs : List (Nat × Nat × Bool)) (s : State) : Bulk × State :=
  rs.foldl (fun acc r =>
    match acc.1 with
    | .stop _ => acc
    | b => match bulk ctx p r.1 r.2.1 r.2.2 acc.2 with
      | (.ok, s) => (b, s)
      | x => x) (Bulk.ok, s)

/-- Bytes of a range by SA, as a reader without caches sees them (R121). -/
def rangeBytes (s : State) (sa n : Nat) : List Byte :=
  let x := Sa.of (BitVec.ofNat 64 sa)
  if x.space = 1 then bytesAt s.store.spad x.off n else storeBytes s x.off n

/-- Any line of a range is poisoned. -/
def rangePoison (s : State) (sa n : Nat) : Bool :=
  let x := Sa.of (BitVec.ofNat 64 sa)
  (linesOf x.off n).any (fun o => if x.space = 1 then (tget (o / 64) s.store.spadPoison).isSome else poisoned s o)

/-- Land one output (R213): scratchpad bytes, or invalidating writes at their homes. -/
def landOut (ctx : Nat) (o : OpOut) (s : State) : State :=
  let x := Sa.of (BitVec.ofNat 64 o.sa)
  if x.space = 1 then spadWrite x.off o.data o.poison s
  else (lines x.off o.data).foldl (fun s y => serve
    { who := .migration, ctx := ctx, off := y.1, op := .wrInv, len := y.2.length, data := y.2, poison := o.poison }
    .clean s) s

/-- Write dirty lines of a range back from a cell's caches; they stay in S (R113). -/
def flushCell (c off n : Nat) (s : State) : State :=
  let hit := fun (l : Nat) => decide (0 < n) && decide (off < l * 64 + 64) && decide (l * 64 < off + n)
  let mine := s.coh.dir.filter (fun x => hit x.1 && x.2.m && x.2.owner = c)
  mine.foldl (fun s x => putDir x.1 { m := false, owner := 0, sharers := sharerBit c, stamp := 0 } (writeBack x.1 s)) s

end Sys2Proof.Machine
end

