-- ==== Sys2Proof/Machine/Engine.lean ====
section
/-! DEFINITION. The life of an engine operation: its queue (R197, R202), validation of a header (Table 8.3), its
ending (R213), check failures, retry, shadow recheck and quarantine (R250 to R257), publication (R172) and drops
(R171). -/

namespace Sys2Proof.Machine

open Sys2Proof

/-! ### Queues -/

/-- Change an operation. -/
def updOp (i : Nat) (f : EngOp → EngOp) (s : State) : State :=
  { s with eng := { s.eng with ops := tupd i f s.eng.ops } }

/-- Remove an operation. -/
def delOp (i : Nat) (s : State) : State := { s with eng := { s.eng with ops := tdel i s.eng.ops } }

/-- Operations of a unit, oldest first. -/
def unitOps (s : State) (k : UnitKind) (u : Nat) : List EngOp :=
  (s.eng.ops.map Prod.snd).filter (fun o => o.kind = k && o.unit = u)

/-- The operation a unit runs. -/
def runningOp (s : State) (k : UnitKind) (u : Nat) : Option EngOp :=
  (unitOps s k u).find? (fun o => o.st != .queued)

/-- The next queued operation of a unit. -/
def headOp (s : State) (k : UnitKind) (u : Nat) : Option EngOp :=
  (unitOps s k u).find? (fun o => o.st = .queued)

/-- Descriptors a partition has queued at a unit (Table 7.10). -/
def queuedAt (s : State) (k : UnitKind) (u p : Nat) : Nat :=
  ((unitOps s k u).filter (fun o => o.st = .queued && o.part = p)).length

/-- Queue a descriptor at a unit. -/
def enqueue (k : UnitKind) (u p sa slot n : Nat) (entry core : Option Nat) (publish : Bool) (s : State) : State :=
  let o : EngOp := { id := s.eng.nextOp, kind := k, unit := u, part := p, sa := sa, slot := slot, n := n,
                     entry := entry, core := core, publish := publish }
  { s with eng := { s.eng with ops := tput s.eng.nextOp o s.eng.ops, nextOp := s.eng.nextOp + 1 } }

/-! ### Header fields (Table 8.3, shared by the engine descriptors) -/

def dOpid (d : List Byte) : Nat := fld d 0 4
def dOp (d : List Byte) : Nat := fld d 4 1
def dFlags (d : List Byte) : Nat := fld d 5 1
def dCtx (d : List Byte) : Nat := fld d 6 2
def dWaybill (d : List Byte) : Nat := fld d 8 8
def dTally (d : List Byte) : Nat := fld d 16 8
def dTallyOp (d : List Byte) : Nat := fld d 24 8

/-- WAYBILL names a store line of this device (R212). -/
def waybillOk (s : State) (d : List Byte) : Bool :=
  let x := Sa.of (BitVec.ofNat 64 (dWaybill d))
  dWaybill d != 0 && dWaybill d % 64 = 0 && x.space = 0 && isOwn s x.dev

/-- Waybill slot of an operation (R168). -/
def EngOp.wayOff (o : EngOp) : Nat := (Sa.of (BitVec.ofNat 64 (dWaybill o.desc))).off + 64 * o.slot

/-- The descriptor of an operation as read; on several Porter or Assay engines its WAYBILL is the first descriptor's
(R267), to which `wayOff` adds the slot. -/
def readDesc (s : State) (o : EngOp) : List Byte :=
  let d := storeBytes s o.sa 128
  if 1 < o.n && (o.kind = .porter || o.kind = .assay) then
    d.take 8 ++ storeBytes s (o.sa - 128 * o.slot + 8) 8 ++ d.drop 16
  else d

/-- A descriptor CTX passes R34. -/
def ctxIssues (s : State) (ctx p : Nat) : Bool :=
  match ctxOf s ctx with
  | some c => c.ingress.getLsbD 9 && c.part = p
  | none => false

/-- An operation's unit may cross to the homes of a store range (R175). -/
def opCrosses (s : State) (o : EngOp) (sa n : Nat) : Bool :=
  match unitCell o.kind o.unit with
  | none => true
  | some c =>
    let x := Sa.of (BitVec.ofNat 64 sa)
    if x.space = 1 then crossOk s o.part (c / 5) (x.off / 2 ^ 26 / 5)
    else (blockStarts x.off n).all (fun a => crossOk s o.part (c / 5) (homeCell s a / 5))

/-- Ranges an operation reads or writes by SA: a crossing without a slot ends it with QUOTA (R175), else as `bulkAll`. -/
def bulkOp (o : EngOp) (ctx : Nat) (rs : List (Nat × Nat × Bool)) (s : State) : Bulk × State :=
  if rs.all (fun r => opCrosses s o r.1 r.2.1) then bulkAll ctx o.part rs s else (.stop .quota, s)

/-- A store range by offset, as `bulkOp`. -/
def bulkOpStore (o : EngOp) (off n : Nat) (w : Bool) (s : State) : Bulk × State :=
  if opCrosses s o off n then bulkStore o.ctx off n w s else (.stop .quota, s)

/-! ### Unit records (R257, R461) -/

/-- A physical unit's record. -/
def unitRec (s : State) (k : UnitKind) (phys : Nat) : UnitRec := tgetD s.eng.units (k.code * 4096 + phys) {}

def updUnit (k : UnitKind) (phys : Nat) (f : UnitRec → UnitRec) (s : State) : State :=
  { s with eng := { s.eng with units := tput (k.code * 4096 + phys) (f (unitRec s k phys)) s.eng.units } }

/-- A physical unit may run an attempt. -/
def inService (s : State) (k : UnitKind) (phys : Nat) : Bool :=
  let r := unitRec s k phys
  !r.quarantined && !r.failed && !r.testing && !r.off

/-! ### State splits (R461, Table 18.12) -/

/-- A STATE_SPLIT record: 1 stands for in service (log 31). -/
def evSplit (unit : Nat) (logical mg dp ended : Bool) (s : State) : State :=
  rasPost 0x1005 3 0xFF (leBytes 2 (if logical then unit % 4096 else unit) ++ leBytes 1 (b2n logical) ++ leBytes 1 (b2n mg)
    ++ leBytes 1 (b2n dp) ++ leBytes 1 (b2n ended)) s

/-- A split of a unit is in force. -/
def splitOn (s : State) (unit : Nat) (logical : Bool) : Bool :=
  s.ras.splits.any (fun x => x.1 = unit && x.2.1 = logical)

/-- The data path holds out of service a unit that management holds in service: a split begins (R461, log 31). -/
def splitNote (unit : Nat) (logical mg dp : Bool) (s : State) : State :=
  if mg && !dp && !splitOn s unit logical then
    evSplit unit logical mg dp false { s with ras := { s.ras with splits := s.ras.splits ++ [(unit, logical, b2n mg, b2n dp)] } }
  else s

/-- Management issues the command that ends a unit's split (Table 18.12). -/
def splitEnd (unit : Nat) (logical mg dp : Bool) (s : State) : State :=
  if splitOn s unit logical then
    evSplit unit logical mg dp true { s with ras := { s.ras with
      splits := s.ras.splits.filter (fun x => !(x.1 = unit && x.2.1 = logical)) } }
  else s

/-- Both states of a physical unit: for management, for the data path. -/
def physStates (s : State) (k : UnitKind) (phys : Nat) : Bool × Bool :=
  let r := unitRec s k phys
  (!r.testing, !r.quarantined && !r.failed)

def splitPhys (k : UnitKind) (phys : Nat) (s : State) : State :=
  let x := physStates s k phys
  splitNote (unitField k phys) false x.1 x.2 s

/-- Both states of a logical unit. -/
def logicalStates (s : State) (k : UnitKind) (l : Nat) : Bool × Bool :=
  (((unitCell k l).bind (cellPart s)).isSome, !unitUnbound s k l)

def splitLogical (k : UnitKind) (l : Nat) (s : State) : State :=
  let x := logicalStates s k l
  splitNote (k.code * 4096 + l) true x.1 x.2 s

/-- Slot of a tile that no logical matrix unit is bound to: the spare (R22). -/
def tileSpare (s : State) (t : Nat) : Option Nat :=
  (List.range 11).find? (fun sl => !(List.range 10).any (fun i => mxuSlot s (t * 10 + i) = sl)
    && inService s .matrix (11 * t + sl))

/-- Candidate physical units for a retry, in order (Table 9.5). -/
def candidates (s : State) (o : EngOp) : List Nat :=
  match o.kind with
  | .matrix =>
    let t := o.unit / 10
    let other := if o.unit % 2 = 0 then o.unit + 1 else o.unit - 1
    ((tileSpare s t).map (fun sl => [11 * t + sl])).getD []
      ++ (if mxuSlot s other = 15 then [] else [physOf s .matrix other])
  | .porter => (partCells s o.part).filter (fun c => c != o.unit && !unitUnbound s .porter c)
  | _ => []

/-- The unit a retry takes (R251). -/
def retryUnit (s : State) (o : EngOp) : Option Nat :=
  (candidates s o).find? (fun ph => inService s o.kind ph && !o.tried.contains ph && ph != o.phys)

/-- Rebind a logical matrix unit, or make it unbound (R22, R24, Table 9.6). -/
def rebindMatrix (m cause : Nat) (s : State) : State :=
  let t := m / 10
  let old := physOf s .matrix m
  match tileSpare s t with
  | some sl =>
    let s := { s with eng := { s.eng with mslot := tput m sl s.eng.mslot, due := s.eng.due.erase m } }
    ledgerAdd { type := 0x01, cause := cause, unit := unitField .matrix (11 * t + sl), cell := t * 5, logical := m } none
      (evUnit 1 (unitField .matrix (11 * t + sl)) m (m / 2) s)
  | none =>
    let s := { s with eng := { s.eng with mslot := tput m 15 s.eng.mslot, due := s.eng.due.erase m } }
    ledgerAdd { type := 0x04, cause := cause, unit := unitField .matrix old, cell := t * 5, logical := m } none
      (splitLogical .matrix m (evUnit 2 (unitField .matrix old) m (m / 2) s))

/-- A Porter or Assay engine becomes unbound (Table 9.6). -/
def unbindEngine (k : UnitKind) (u cause : Nat) (s : State) : State :=
  let s := { s with eng := { s.eng with unbound := (k.code * 4096 + u) :: s.eng.unbound } }
  ledgerAdd { type := 0x04, cause := cause, unit := unitField k u, cell := u, logical := u } none
    (splitLogical k u (evUnit 2 (unitField k u) u u s))

/-- Logical matrix unit bound to a physical one. -/
def matrixOf (s : State) (phys : Nat) : Option Nat :=
  ((List.range 10).map (fun i => phys / 11 * 10 + i)).find? (fun m => mxuSlot s m = phys % 11)

/-- Logical core bound to a physical one. -/
def coreOf (s : State) (phys : Nat) : Option Nat :=
  ((List.range 16).map (fun i => phys / 17 * 16 + i)).find? (fun c => coreSlot s c = phys % 17)

/-- Mark a logical unit due for rebinding between two of its operations (R22, R23). -/
def markDue (k : UnitKind) (l : Nat) (s : State) : State :=
  match k with
  | .core => { s with drv := { s.drv with due := if s.drv.due.contains l then s.drv.due else l :: s.drv.due } }
  | .matrix => { s with eng := { s.eng with due := if s.eng.due.contains l then s.eng.due else l :: s.eng.due } }
  | _ => s

/-- Quarantine a physical unit (R257, R479): recorded, reported, its logical unit rebound between two operations. -/
def quarantine (k : UnitKind) (phys cell cause : Nat) (s : State) : State :=
  let s := splitPhys k phys (updUnit k phys (fun r => { r with quarantined := true, passed := false }) s)
  let s := ledgerAdd { type := 0x02, cause := cause, unit := unitField k phys, cell := cell } none
    (evUnit 0 (unitField k phys) 0xFFFF cell (cnt (cellReg cell 0x940) 1 s))
  match k with
  | .matrix => ((matrixOf s phys).map (fun m => markDue .matrix m s)).getD s
  | .core => ((coreOf s phys).map (fun c => markDue .core c s)).getD s
  | .porter | .assay => unbindEngine k phys cause s
  | _ => s

/-- One check failure of a physical unit; the third within 2^20 operations quarantines it (R257). Carriers are not
quarantined (Table 9.6). -/
def unitFailure (k : UnitKind) (phys cell : Nat) (s : State) : State :=
  let r := unitRec s k phys
  let fails := (r.fails ++ [r.ended]).drop ((r.fails ++ [r.ended]).length - 3)
  let s := updUnit k phys (fun r => { r with fails := fails }) s
  match k with
  | .port | .dma => evUnit 7 (unitField k phys) phys 0xFF s
  | _ =>
    if fails.length = 3 && decide (r.ended ≤ fails.headD 0 + 2 ^ 20) && !r.quarantined then quarantine k phys cell 0 s
    else s

/-! ### Ending -/

/-- FLAGS of an operation's waybill (Table 9.2). -/
def EngOp.flags (o : EngOp) (checked late : Bool) : WFlags :=
  { checked := checked, shadowed := o.shadowed, suspect := o.suspect || o.status = .checkFail, late := late,
    partialOut := o.partialOut, poisoned := o.poisoned, retried := decide (0 < o.retries) }

/-- RESIDUAL and BOUND of an attempt (R209, R241, R245, R248): a float check's values are free, the residual at most
the bound when the lane passed. -/
def residuals (o : EngOp) (passed : Bool) : Nat × Nat :=
  let b := Config.freeOf 110 [o.id, o.retries] % 0x7F000000
  let r := Config.freeOf 111 [o.id, o.retries]
  match o.check with
  | .none => if o.nonfinite then (0x7FC00000, 0x7FC00000) else (0, 0)
  | .exact => if passed then (0, 0) else (0x3F800000, 0)
  | .integer => if passed then (0, 0) else (1 + r % 0x7F7FFFFF, 0)
  | .float => if passed then (r % (b + 1), b) else (b + 1 + r % (0x7F800000 - b), b)

/-- Cell whose registers count an operation (R260). -/
def EngOp.cell (s : State) (o : EngOp) : Nat :=
  match unitCell o.kind o.unit with
  | some c => c
  | none => homeCell s o.wayOff

/-- Drop the itinerary entry's claim when its last operation has ended. -/
def entryEnded (p : Nat) (e : Option Nat) (s : State) : State :=
  match e with
  | none => s
  | some i =>
    let busy := s.eng.ops.any (fun x => x.2.part = p && x.2.entry = some i)
      || s.drv.groups.any (fun x => x.2.part = p && x.2.entry = some i)
    if busy then s
    else
      let up := fun (t : ItinSt) => if tget i t.ents = some .started then { t with ents := tput i .ended t.ents } else t
      { s with stg := { s.stg with itin := tupd p up s.stg.itin } }

/-- Move records in FORWARD that no live operation has read are freed (Table 10.10). -/
def sweepMoves (s : State) : State :=
  let live := fun (m : RowMove) => s.eng.ops.any (fun x => x.2.scan.contains (m.ent, m.seq))
  { s with eng := { s.eng with moves := s.eng.moves.filter (fun m => m.st != .forward || live m) } }

/-- Count an ended operation at its engine's cell (Tables 8.10, 10.11, 12.13). -/
def opEnded (o : EngOp) (s : State) : State :=
  match o.kind with
  | .matrix =>
    let s := cnt (cellReg (o.unit / 2) (0x808 + 8 * (o.unit % 2))) 1 s
    if dOp o.desc = 3 then cnt (cellReg (o.unit / 2) 0xB10) 1 s else s
  | .porter =>
    let s := cnt (cellReg o.unit 0xA08) 1 s
    if o.status = .faultIndex then cnt (cellReg o.unit 0xA38) 1 s else s
  | .assay => cnt (fchReg o.unit 0x108) 1 s
  | _ => s

/-- WORK after an operation that used it: its bytes are free (log 3). -/
def smearWork (o : EngOp) (s : State) : State :=
  match o.work with
  | some (sa, n) => landOut o.ctx { sa := sa, data := (List.range n).map (fun i => BitVec.ofNat 8 (Config.freeOf 140 [o.id, i])), poison := false } s
  | none => s

/-- Write the waybill, apply the completion tally, and let the operation go (R213, R232). -/
def finishOp (o : EngOp) (checked late tally : Bool) (outDig : Nat) (s : State) : State :=
  let rb := if late then (0, 0) else residuals o (checked || o.check = .none)
  let w : Way := { opid := dOpid o.desc, op := dOp o.desc, status := o.status, flags := o.flags checked late
                   unit := (match o.mx with | some ph => unitField .matrix ph | none => unitField o.kind o.phys), inDig := o.inDig, outDig := outDig
                   residual := rb.1, bound := rb.2, processed := o.processed, dropped := o.dropped
                   ctx := o.ctx, part := o.part, retries := o.retries }
  let s := opEnded o (sweepMoves (delOp o.id (smearWork o s)))
  let wr := wayWrite o.wayOff w s
  let desc := (ownSa s 0 o.sa).toNat
  let s := if wr.2 then
      if tally then
        completionTally (dTally o.desc) (dTallyOp o.desc) o.ctx o.part desc (dOpid o.desc) w.unit wr.1
      else wr.1
    else evEngine o.part desc (dOpid o.desc) w.unit o.status.code 2 (cnt (cellReg (o.cell s) 0x948) 1 wr.1)
  let s := updUnit o.kind o.phys (fun r => { r with ended := r.ended + 1 }) s
  entryEnded o.part o.entry s

/-- End at validation with a status (R218): no output; the waybill and the tally as for any ending. -/
def failOp (o : EngOp) (st : Status) (tallyOk : Bool) (s : State) : State :=
  let zero := st = .doneEmpty
  finishOp { o with status := st, processed := 0, dropped := if zero then 0 else o.total, check := .none }
    false false tallyOk 0 s

/-- Release what PUBLISH_AT_END shadows (R172). -/
def dropShadows (o : EngOp) (s : State) : State :=
  { s with store := { s.store with shadow := s.store.shadow.filter (fun x => x.2 != o.id) } }

/-- Counters of a matrix operation that ended (Table 8.10); MAC counts are held exactly and read in units of 2^20. -/
def matrixCounts (o : EngOp) (s : State) : State :=
  if o.kind != .matrix then s
  else
    let c := o.unit / 2
    let j := o.unit % 2
    let s := cnt (cellReg c (0x818 + 8 * j)) o.macs s
    let s := cnt (cellReg c 0x838) o.wbytes s
    let s := if o.nonfinite then cnt (cellReg c 0x840) 1 s else s
    cnt (cellReg c 0x848) (((o.outs.filter OpOut.poison).map (fun x => (linesOf x.sa x.data.length).length)).sum) s

/-- OUT_DIGEST over the outputs as written, in logical order (R239). -/
def EngOp.outDig (o : EngOp) : Nat := crc64 (o.outs.flatMap OpOut.data)

/-- Ranges the outputs of an operation are written to. -/
def EngOp.outRanges (o : EngOp) : List (Nat × Nat × Bool) := o.outs.map (fun x => (x.sa, x.data.length, true))

/-- A check failure (R250 to R253): the failing unit is counted; a permitted retry moves the operation to another unit,
else it ends with CHECK_FAIL. -/
def checkFailure (o : EngOp) (retryable : Bool) (s : State) : Option State × EngOp × State :=
  let c := o.cell s
  let s := cnt (cellReg c 0x910) 1 s
  let s := { s with stg := { s.stg with
    itin := tupd o.part (fun (t : ItinSt) => { t with chkFail := t.chkFail + 1 }) s.stg.itin } }
  let s := unitFailure o.kind o.phys c s
  let limit := ((partOf s o.part).map Part.retryLimit).getD 0
  let o := { o with tried := o.phys :: o.tried }
  match (if retryable && decide (o.retries < limit) then retryUnit s o else none) with
  | some ph => (some (updOp o.id (fun _ => { o with phys := ph, retries := o.retries + 1, st := .stalled, outs := [] }) s), o, s)
  | none => (none, o, s)

/-- The phase is at or below an operation's deadline, where it has one (R172). -/
def inTime (s : State) (o : EngOp) : Bool :=
  match o.entry with
  | none => true
  | some i =>
    match (tget o.part s.stg.itin).bind ItinSt.run with
    | some it => match it.entries[i]? with
      | some e => decide (phase s ≤ e.deadline)
      | none => true
    | none => true

/-- End an operation whose outputs have landed and whose checks are done (R213, R233). -/
def endOp (o : EngOp) (checked : Bool) (s : State) : State :=
  let c := o.cell s
  let s := dropShadows o s
  let s := matrixCounts o s
  let s := if checked then cnt (cellReg c 0x908) 1 s else s
  let s := if checked && decide (0 < o.retries) then
      let s := cnt (cellReg c 0x918) 1 s
      { s with stg := { s.stg with
        itin := tupd o.part (fun (t : ItinSt) => { t with retryOk := t.retryOk + 1 }) s.stg.itin } }
    else s
  let s := if o.status = .checkFail then cnt (cellReg c 0x920) 1 s else s
  finishOp o checked false true (if o.status = .doneEmpty then 0 else o.outDig) s

/-- Destination blocks of an operation's store outputs (R172). -/
def shadowBlocks (s : State) (o : EngOp) : List Nat :=
  (o.outs.filter (fun x => (Sa.of (BitVec.ofNat 64 x.sa)).space = 0)).foldl (fun l x =>
    let b := contentBlock s (Sa.of (BitVec.ofNat 64 x.sa)).off
    if l.contains b then l else b :: l) []

/-- Take the shadows of an operation under PUBLISH_AT_END, or end with QUOTA (R172). -/
def takeShadows (o : EngOp) (s : State) : Option State :=
  if !o.publish then some s
  else
    let bs := shadowBlocks s o
    let held := (s.store.shadow.filter (fun x => x.2 = o.id)).length
    let free := ((partCells s o.part).map (freeFrames s)).sum
    if 16384 < bs.length || free + held < bs.length then none
    else some { s with store := { s.store with shadow := bs.foldl (fun t b => tput b o.id t) s.store.shadow } }

/-- Land every output of an operation. -/
def landAll (o : EngOp) (s : State) : State := o.outs.foldl (fun s x => landOut o.ctx x s) s

/-- Land the outputs, apply the lane's and the recheck's outcome, end or retry (R172, R213, R232, R250, R254 to R256). -/
def completeOp (o : EngOp) (lane : Lane) (sh : ShadowObs) (retryable : Bool) (s : State) : State :=
  let own := dropShadows o s
  match bulkOp o o.ctx o.outRanges own with
  | (.wait, s') => { s' with store := { s'.store with shadow := s.store.shadow } }
  | (.stop st, s') =>
    let fits := fun (x : OpOut) => (bulk o.ctx o.part x.sa x.data.length true own).1 = .ok
    let kept := if o.publish then [] else o.outs.takeWhile (fun x => decide (fits x))
    let n := o.processed * kept.length / o.outs.length
    let s' := kept.foldl (fun s x => landOut o.ctx x s) s'
    endOp { o with status := st, outs := kept, processed := n, dropped := o.total - n, check := .none
                   partialOut := kept != [] } false s'
  | (.ok, s') =>
    let c := o.cell s'
    let checkedKind := o.check != .none
    let s' := cnt (cellReg c 0x928) (sh.agreed + b2n sh.disagreed) (cnt (cellReg c 0x938) sh.skipped s')
    let bad := checkedKind && (lane = .fail || sh.disagreed)
    if bad then
      let s' := if sh.disagreed && lane != .fail then
          let s' := cnt (cellReg c 0x930) 1 s'
          match retryUnit s' o with
          | some ph => unitFailure o.kind ph c s'
          | none => s'
        else s'
      let o' := if sh.disagreed && lane != .fail then { o with tried := ((retryUnit s' o).map (fun x => [x])).getD [] ++ o.tried } else o
      let s' := if o.publish then s' else landAll o s'
      match checkFailure o' retryable s' with
      | (some s, _, _) => s
      | (none, o, s) => endOp { o with status := .checkFail, suspect := true } false s
    else if o.publish && !inTime s' o then s
    else endOp { o with shadowed := decide (0 < sh.agreed) } checkedKind (landAll o s')

/-! ### Drops and aborts -/

/-- An operation is dropped by its deadline or the period's end (R170, R171, Table 6.5): its waybill says so, no tally
is applied; the destination range of a running operation is left free. -/
def dropOp (o : EngOp) (s : State) : State :=
  let d := if o.desc.isEmpty then readDesc s o else o.desc
  let o := { o with desc := d, ctx := dCtx d }
  let s := dropShadows o s
  if !waybillOk s d then delOp o.id s
  else if dOp d = 0x11 || dOp d = 0x12 then
    let n := if o.publish then 0 else if dOp d = 0x11 then
        o.rowsDone.length + (s.eng.moves.map (fun m => (m.held.filter (fun h => h.1 = o.id)).length)).sum
      else (o.results.filter (fun x => x.2 = Status.done.code)).length
    finishOp { o with status := .droppedLate, processed := n, dropped := o.total - n, check := .none
                      phys := if o.st = .queued then physOf s o.kind o.unit else o.phys
                      partialOut := decide (0 < n) } false true false 0 s
  else if o.st = .queued || o.publish || o.outs.isEmpty then
    finishOp { o with status := .droppedLate, processed := 0, dropped := o.total, check := .none
                      phys := if o.st = .queued then physOf s o.kind o.unit else o.phys } false true false 0 s
  else
    let n := Config.freeOf 106 [o.id] % (o.total + 1)
    let s := o.outs.foldl (fun s x =>
      let d := (List.range x.data.length).map (fun i => BitVec.ofNat 8 (Config.freeOf 105 [o.id, x.sa, i]))
      landOut o.ctx { x with data := d } s) s
    finishOp { o with status := .droppedLate, processed := n, dropped := o.total - n, check := .none
                      partialOut := decide (0 < n) } false true false 0 s

/-- End an operation with an abort status (R233, R450): no tally. -/
def abortOp (o : EngOp) (st : Status) (s : State) : State :=
  let d := if o.desc.isEmpty then readDesc s o else o.desc
  let s := dropShadows o s
  if !waybillOk s d then delOp o.id s
  else finishOp { o with desc := d, ctx := dCtx d, status := st, processed := 0, dropped := o.total, check := .none }
    false false false 0 s

/-- A unit takes its next descriptor: an unreadable one or a bad WAYBILL posts an ENGINE event and starts nothing
(R212); an unbound unit answers UNSUPPORTED (R24), and a unit under test waits (R480, R482); `go` validates and runs it. -/
def takeOp (k : UnitKind) (u len : Nat) (mine : Nat → Bool) (total : List Byte → Nat)
    (go : EngOp → State → State) (s : State) : State :=
  if (runningOp s k u).isSome || s.eng.due.contains u && k = .matrix || (unitRec s k (physOf s k u)).testing then s
  else match headOp s k u with
    | none => s
    | some o =>
      let bad := (linesOf o.sa len).any (fun l => poisoned s l || (allocAt s l).isNone)
      let d := readDesc s o
      let phys := physOf s k u
      let ev := fun (cause : Nat) => entryEnded o.part o.entry
        (evEngine o.part (ownSa s 0 o.sa).toNat (dOpid d) (unitField k phys) 0 cause (delOp o.id s))
      if bad then ev 0
      else if !mine (dOp d) then s
      else if !waybillOk s d then ev 1
      else
        let o := { o with desc := d, ctx := dCtx d, phys := phys, total := total d }
        if unitUnbound s k u then failOp o .unsupported true s
        else go o s

end Sys2Proof.Machine
end

