-- ==== Sys2Proof/Machine/Matrix.lean ====
section
/-! DEFINITION. Matrix units: MATMUL (R214 to R222) and EXPERT_FFN (R223 to R226): validation in the order of Table
8.6, operands as read, results, digests and poison. -/

namespace Sys2Proof.Machine

open Sys2Proof

/-- Format codes of Table 8.2. -/
def codeKnown (c : Nat) : Bool := decide (c ≤ 0x0E)

/-- Pairs of operand formats that may be multiplied (R207). -/
def pairOk (a b : Nat) : Bool :=
  (decide (a ≤ 9) && decide (b ≤ 9)) || (isInt a && isInt b) || (a = 0x0A && b = 0x0A) || (a = 0x0D && b = 0x0D)

/-- Both operands are 8 bits or narrower (R208). -/
def narrowPair (a b : Nat) : Bool := decide (fmtBits a ≤ 8) && decide (fmtBits b ≤ 8)

/-- The inner dimension suits an operand's format (Table 8.6, order 5). -/
def innerOk (c k : Nat) : Bool :=
  if isMx c then k % 32 = 0 else if c = 0x0C then k % 2 = 0 else if c = 0x0D then k % 64 = 0 else true

/-- Bytes of a packed row of `k` elements (R206). -/
def rowLen (c k : Nat) : Nat := (k * fmtBits c + 7) / 8

/-- Bytes of a scale row (R215). -/
def scaleLen (k : Nat) : Nat := 64 * ((k + 2047) / 2048)

/-- Two byte ranges overlap. -/
def overlap (a n b m : Nat) : Bool := decide (0 < n) && decide (0 < m) && decide (a < b + m) && decide (b < a + n)

/-- Check of an engine operand range that is scratchpad (Table 8.6, order 7). -/
def spadRange (s : State) (p sa n : Nat) : Bool :=
  let x := Sa.of (BitVec.ofNat 64 sa)
  x.space = 1 && isOwn s x.dev && spadOk s p x.off n

/-- A store or scratchpad operand range on this device (Table 8.6, order 7). -/
def opRange (s : State) (p sa n : Nat) : Bool :=
  let x := Sa.of (BitVec.ofNat 64 sa)
  spadRange s p sa n || (x.space = 0 && isOwn s x.dev && decide (x.off + n ≤ 2 ^ 48))

/-- The first check that fails. -/
def firstBad (l : List (Bool × Status)) : Option Status := (l.find? (fun x => x.1)).map Prod.snd

/-! ### MATMUL -/

/-- The MATMUL body (Table 8.4). -/
structure MatB where
  afmt : Nat
  bfmt : Nat
  ofmt : Nat
  act : Nat
  m : Nat
  n : Nat
  k : Nat
  alpha : Nat
  a : Nat
  b : Nat
  out : Nat
  bias : Nat
  asc : Nat
  bsc : Nat
  lda : Nat
  ldb : Nat
  ldo : Nat
  seed : Nat
deriving DecidableEq, Repr

/-- The body, with the unit's cell in every scratchpad SA under LOCAL_CELL (R220). -/
def matBody (d : List Byte) (cell : Nat) : MatB :=
  let sa := fun (o : Nat) =>
    let v := fld d o 8
    if bit (dFlags d) 1 && v != 0 && v / 2 ^ 60 = 1 then v - v / 2 ^ 26 % 32 * 2 ^ 26 + cell * 2 ^ 26 else v
  { afmt := fld d 32 1 % 32, bfmt := fld d 33 1 % 32, ofmt := fld d 34 1 % 32, act := fld d 35 1 % 16
    m := fld d 36 2, n := fld d 38 2, k := fld d 40 2, alpha := fld d 44 4
    a := sa 48, b := sa 56, out := sa 64, bias := sa 72, asc := sa 80, bsc := sa 88
    lda := fld d 96 4, ldb := fld d 100 4, ldo := fld d 104 4, seed := fld d 108 4 }

/-- Input ranges of a MATMUL. -/
def MatB.inputs (x : MatB) : List (Nat × Nat) :=
  [(x.a, (x.m - 1) * x.lda + rowLen x.afmt x.k), (x.b, (x.n - 1) * x.ldb + rowLen x.bfmt x.k)]
    ++ (if x.bias = 0 then [] else [(x.bias, 4 * x.n)])
    ++ (if x.asc = 0 then [] else [(x.asc, x.m * scaleLen x.k)])
    ++ (if x.bsc = 0 then [] else [(x.bsc, x.n * scaleLen x.k)])

/-- The output range of a MATMUL. -/
def MatB.output (x : MatB) : Nat × Nat := (x.out, (x.m - 1) * x.ldo + rowLen x.ofmt x.n)

/-- Reserved fields of a matrix descriptor's header and MATMUL body are zero (R5). -/
def matRsvd (d : List Byte) : Bool :=
  decide (dFlags d < 16) && decide (fld d 32 1 < 32) && decide (fld d 33 1 < 32) && decide (fld d 34 1 < 32)
    && decide (fld d 35 1 < 16) && zeroAt d 42 2 && zeroAt d 112 16

/-- The entry an operation belongs to names both matrix units of a cell (Table 6.4). -/
def bothUnits (s : State) (o : EngOp) : Bool :=
  match o.entry with
  | none => false
  | some i =>
    match (tget o.part s.stg.itin).bind ItinSt.run with
    | some it => ((it.entries[i]?).map (fun e => e.ukind = 2 && e.sub % 4 = 3)).getD false
    | none => false

/-- Validation of a MATMUL (Table 8.6). -/
def matCheck (o : EngOp) (s : State) : Option Status :=
  let d := o.desc
  let x := matBody d (o.unit / 2)
  let intPair := isInt x.afmt && isInt x.bfmt
  let bin := x.afmt = 0x0D && x.bfmt = 0x0D
  let exact := (intPair || bin) && x.alpha = 0x3F800000 && x.bias = 0 && x.act = 0
  let rs := x.output :: x.inputs
  let tc := tallyCheck s o.ctx (dTally d)
  firstBad
    [(!matRsvd d, .invalidArg),
     (dOp d != 1 || !codeKnown x.afmt || !codeKnown x.bfmt || !codeKnown x.ofmt || decide (6 < x.act), .unsupported),
     (!ctxIssues s o.ctx o.part, .faultAccess),
     (x.m = 0 || x.n = 0 || x.k = 0, .doneEmpty),
     (!pairOk x.afmt x.bfmt || !(decide (x.ofmt ≤ 4) || x.ofmt = 0x0E) || !(ofF32 x.alpha).isFin
        || !innerOk x.afmt x.k || !innerOk x.bfmt x.k
        || (isMx x.afmt == (x.asc == 0)) || (isMx x.bfmt == (x.bsc == 0))
        || decide (x.lda < rowLen x.afmt x.k) || decide (x.ldb < rowLen x.bfmt x.k)
        || decide (x.ldo < rowLen x.ofmt x.n)
        || (x.ofmt = 0x0E && !exact) || (bin && x.ofmt != 0x0E)
        || (bit (dFlags d) 2 && !(decide (1 ≤ x.ofmt) && decide (x.ofmt ≤ 4)))
        || (bit (dFlags d) 1 && bothUnits s o), .invalidArg),
     (rs.any (fun r => r.1 % 64 != 0) || x.lda % 64 != 0 || x.ldb % 64 != 0 || x.ldo % 64 != 0, .faultAlign),
     (rs.any (fun r => !spadRange s o.part r.1 r.2), .faultAccess),
     (tc.isSome, tc.getD .done),
     (x.inputs.any (fun r => overlap x.out x.output.2 r.1 r.2), .invalidArg)]

/-- Rows of A a unit of the mask takes: the first and how many (R220). -/
def matRows (o : EngOp) (x : MatB) : Nat × Nat :=
  if bit (dFlags o.desc) 1 then (0, x.m)
  else
    let t := (x.m + 63) / 64
    let lo := o.slot * t / o.n * 64
    (lo, min x.m ((o.slot + 1) * t / o.n * 64) - lo)

/-- FP32 value of bias entry `j`. -/
def biasVal (bias : List Byte) (j : Nat) : Fv := if bias.isEmpty then Fv.zero else ofF32 (fld bias (4 * j) 4)

/-- One output element: its output code's bits and whether everything it used was finite (R208 to R211, R215, R217). -/
def matElem (o : EngOp) (x : MatB) (i j : Nat) (arow brow : List Byte) (asc bsc : Option (List Byte))
    (bias : List Byte) : Nat × Bool :=
  if x.afmt = 0x0D then
    ((((List.range x.k).filter (fun k => elemBits arow 1 k != elemBits brow 1 k)).length) % 2 ^ 32, true)
  else if isInt x.afmt then
    let acc := ((List.range x.k).map (fun k =>
      sInt (fmtBits x.afmt) (elemBits arow (fmtBits x.afmt) k) * sInt (fmtBits x.bfmt) (elemBits brow (fmtBits x.bfmt) k))).sum
    if x.ofmt = 0x0E then ((BitVec.ofInt 32 acc).toNat, true)
    else
      let z := add32 (mul32 (ofF32 x.alpha) (fp32.near (ofInt acc))) (biasVal bias j)
      (convertOut x.ofmt (!bit (dFlags o.desc) 3) (bit (dFlags o.desc) 2) (Config.freeOf 102 [x.seed, i, j] % 65536)
        (activation x.act z), (biasVal bias j).isFin && z.isFin)
  else
    let es := (List.range x.k).map (fun k => (elemVal x.afmt arow asc k, elemVal x.bfmt brow bsc k))
    let acc := accumulate [o.id, o.retries, i, j] (narrowPair x.afmt x.bfmt) (es.map (fun e => Fv.mul e.1 e.2))
    let z := add32 (mul32 (ofF32 x.alpha) acc) (biasVal bias j)
    (convertOut x.ofmt (!bit (dFlags o.desc) 3) (bit (dFlags o.desc) 2) (Config.freeOf 102 [x.seed, i, j] % 65536)
      (activation x.act z),
     es.all (fun e => e.1.isFin && e.2.isFin) && acc.isFin && (biasVal bias j).isFin && z.isFin)

/-- Cut a row's bytes into the lines it is written in, with each line's first byte. -/
def rowLines : Nat → Nat → List Byte → List (Nat × List Byte)
  | 0, _, _ => []
  | n + 1, o, d => if d.isEmpty then [] else (o, d.take 64) :: rowLines n (o + 64) (d.drop 64)

/-- Run a MATMUL on its unit: outputs, digest, poison and finiteness (R215, R220, R221, R240, R244). -/
def matRun (o : EngOp) (s : State) : EngOp :=
  let x := matBody o.desc (o.unit / 2)
  let rows := matRows o x
  let ab := rowLen x.afmt x.k
  let bb := rowLen x.bfmt x.k
  let sl := scaleLen x.k
  let as := (List.range rows.2).map (fun i => (rows.1 + i, rangeBytes s (x.a + (rows.1 + i) * x.lda) ab,
    if x.asc = 0 then none else some (rangeBytes s (x.asc + (rows.1 + i) * sl) sl)))
  let bs := (List.range x.n).map (fun j => (j, rangeBytes s (x.b + j * x.ldb) bb,
    if x.bsc = 0 then none else some (rangeBytes s (x.bsc + j * sl) sl)))
  let bias := if x.bias = 0 then [] else rangeBytes s x.bias (4 * x.n)
  let aP := fun (i : Nat) => rangePoison s (x.a + i * x.lda) ab || (x.asc != 0 && rangePoison s (x.asc + i * sl) sl)
  let bP := fun (j : Nat) => rangePoison s (x.b + j * x.ldb) bb || (x.bsc != 0 && rangePoison s (x.bsc + j * sl) sl)
    || (x.bias != 0 && rangePoison s (x.bias + 4 * j) 4)
  let ew := fmtBits x.ofmt / 8
  let res := as.map (fun a => (a.1, bs.map (fun b => matElem o x a.1 b.1 a.2.1 b.2.1 a.2.2 b.2.2 bias)))
  let outs := res.flatMap (fun r =>
    (rowLines (r.2.length + 1) 0 (r.2.flatMap (fun e => leBytes ew e.1))).map (fun l =>
      ({ sa := x.out + r.1 * x.ldo + l.1, data := l.2,
         poison := aP r.1 || (span (l.1 / ew) (l.2.length / ew)).any bP } : OpOut)))
  let bad := (outs.filter OpOut.poison).map (fun l => l.data.length / ew) |>.sum
  let total := rows.2 * x.n
  let dig := crc64 (as.flatMap (fun a => a.2.1) ++ bs.flatMap (fun b => b.2.1) ++ bias
    ++ as.flatMap (fun a => a.2.2.getD []) ++ bs.flatMap (fun b => b.2.2.getD []))
  let fin := res.all (fun r => r.2.all (fun e => e.2))
  let left := as.any (fun a => !aP a.1) && bs.any (fun b => !bP b.1)
  { o with st := .running, outs := outs, inDig := dig, total := total, processed := total - bad, dropped := bad
           poisoned := decide (0 < bad), status := if 0 < bad then .faultPoison else .done
           nonfinite := !fin, macs := if x.afmt = 0x0D then 0 else total * x.k
           check := if !fin || !left then .none else if x.afmt = 0x0D || isInt x.afmt then .integer else .float }

/-- Start a MATMUL: validation, an empty share, or the run (R218, R220). -/
def matGo (o : EngOp) (s : State) : State :=
  let tallyOk := (tallyCheck s o.ctx (dTally o.desc)).isNone
  match matCheck o s with
  | some st => failOp o st tallyOk s
  | none =>
    if (matRows o (matBody o.desc (o.unit / 2))).2 = 0 then failOp o .doneEmpty tallyOk s
    else
      let o' := matRun o s
      match takeShadows o' s with
      | none => failOp o .quota tallyOk s
      | some s => updOp o.id (fun _ => o') s

/-- MATMUL (R215): a matrix unit takes its next descriptor, being a MATMUL or of no known OP. -/
def execMatmul (unit : Nat) (s : State) : Host.Outcome State Fault Refusal :=
  .next (dp (fun s => takeOp .matrix unit 128 (fun op => op != 2 && op != 3) (fun d => fld d 36 2 * fld d 38 2) matGo s) s)

/-! ### EXPERT_FFN -/

/-- The EXPERT_FFN body (Table 8.7). -/
structure FfnB where
  xfmt : Nat
  wfmt : Nat
  gact : Nat
  tmax : Nat
  d : Nat
  h : Nat
  x : Nat
  out : Nat
  w1 : Nat
  w3 : Nat
  w2 : Nat
  wsc : Nat
  gsc : Nat
  tsrc : Nat
  ldx : Nat
  ldo : Nat
  seed : Nat
deriving DecidableEq, Repr

def ffnBody (d : List Byte) : FfnB :=
  { xfmt := fld d 32 1 % 32, wfmt := fld d 33 1 % 32, gact := fld d 34 1 % 16, tmax := fld d 36 2, d := fld d 38 2
    h := fld d 40 2, x := fld d 48 8, out := fld d 56 8, w1 := fld d 64 8, w3 := fld d 72 8, w2 := fld d 80 8
    wsc := fld d 88 8, gsc := fld d 96 8, tsrc := fld d 104 8, ldx := fld d 112 4, ldo := fld d 116 4
    seed := fld d 120 4 }

/-- Bytes of one weight matrix. -/
def FfnB.wlen (x : FfnB) : Nat := x.h * x.d * fmtBits x.wfmt / 8
/-- Bytes of WSCALE. -/
def FfnB.sclen (x : FfnB) : Nat := 3 * (x.h * x.d / 32)
/-- Weight ranges. -/
def FfnB.weights (x : FfnB) : List (Nat × Nat) :=
  [(x.w1, x.wlen), (x.w3, x.wlen), (x.w2, x.wlen)] ++ (if x.wsc = 0 then [] else [(x.wsc, x.sclen)])
/-- Token and gate ranges of `t` tokens. -/
def FfnB.tokens (x : FfnB) (t : Nat) : List (Nat × Nat) :=
  [(x.x, (t - 1) * x.ldx + rowLen x.xfmt x.d)] ++ (if x.gsc = 0 then [] else [(x.gsc, 4 * t)])
/-- The output range. -/
def FfnB.output (x : FfnB) : Nat × Nat := (x.out, (x.tmax - 1) * x.ldo + 4 * x.d)

/-- A token count source passes Table 2.12 (R224). -/
def tsrcCheck (s : State) (ctx sa : Nat) : Option Status :=
  let x := Sa.of (BitVec.ofNat 64 sa)
  if sa != 0 && !isOwn s x.dev then some .faultAccess else tallyCheck s ctx sa

/-- COUNT at TSRC; TMAX where there is none (R224). -/
def ffnCount (s : State) (ctx : Nat) (x : FfnB) : Nat :=
  if x.tsrc = 0 || (tsrcCheck s ctx x.tsrc).isSome then x.tmax
  else tCount (tallyAt s ((Sa.of (BitVec.ofNat 64 x.tsrc)).off / 8))

/-- Placed HBM data with a cell list of the unit's cell alone (R225). -/
def placedAt (s : State) (c sa n : Nat) : Bool :=
  let x := Sa.of (BitVec.ofNat 64 sa)
  x.space = 0 && isOwn s x.dev && (match allocAt s x.off with
    | some (base, al) => al.tier = .hbm && al.cells = [c] && decide (x.off + n ≤ base + al.size)
    | none => false)

/-- Validation of an EXPERT_FFN (Table 8.6). -/
def ffnCheck (o : EngOp) (s : State) : Option Status :=
  let d := o.desc
  let x := ffnBody d
  let ins := x.tokens x.tmax ++ x.weights
  let tc := tallyCheck s o.ctx (dTally d)
  let ts := tsrcCheck s o.ctx x.tsrc
  firstBad
    [(!(decide (dFlags d < 16) && decide (fld d 32 1 < 32) && decide (fld d 33 1 < 32) && decide (fld d 34 1 < 16)
        && zeroAt d 35 1 && zeroAt d 42 6 && zeroAt d 124 4), .invalidArg),
     (!codeKnown x.xfmt || !codeKnown x.wfmt || decide (6 < x.gact), .unsupported),
     (!ctxIssues s o.ctx o.part, .faultAccess),
     (min x.tmax (ffnCount s o.ctx x) = 0 || x.d = 0 || x.h = 0, .doneEmpty),
     (!(x.xfmt = 1 || x.xfmt = 3 || x.xfmt = 4) || !(x.wfmt = 1 || (decide (3 ≤ x.wfmt) && decide (x.wfmt ≤ 9)))
        || !(decide (1 ≤ x.gact) && decide (x.gact ≤ 4)) || decide (4096 < x.tmax) || decide (16384 < x.d)
        || decide (32768 < x.h) || x.d % 64 != 0 || x.h % 64 != 0 || (isMx x.wfmt == (x.wsc == 0))
        || decide (x.ldx < rowLen x.xfmt x.d) || decide (x.ldo < 4 * x.d) || decide (1 < o.n), .invalidArg),
     ((x.output :: (x.tokens x.tmax).take 1 ++ x.weights).any (fun r => r.1 % 64 != 0) || x.ldx % 64 != 0 || x.ldo % 64 != 0,
        .faultAlign),
     ((x.output :: x.tokens x.tmax).any (fun r => !opRange s o.part r.1 r.2)
        || x.weights.any (fun r => let a := Sa.of (BitVec.ofNat 64 r.1); a.space != 0 || !isOwn s a.dev), .faultAccess),
     (ts.isSome, ts.getD .done),
     (tc.isSome, tc.getD .done),
     (ins.any (fun r => overlap x.out x.output.2 r.1 r.2), .invalidArg),
     (x.weights.any (fun r => !placedAt s (o.unit / 2) r.1 r.2), .invalidArg)]

/-- One accumulator of an EXPERT_FFN product over a weight row; finite is reported. -/
def ffnDot (seed : List Nat) (xs : List Fv) (ws : List Fv) (narrow : Bool) : Fv × Bool :=
  let acc := accumulate seed narrow (List.zipWith Fv.mul xs ws)
  (acc, acc.isFin && xs.all Fv.isFin && ws.all Fv.isFin)

/-- Weight values of one row of a matrix that starts at `sa`, scales from byte `sc` of WSCALE. -/
def ffnRow (x : FfnB) (w : List Byte) (scale : List Byte) (r len sc : Nat) : List Fv :=
  let rb := rowLen x.wfmt len
  let row := (w.drop (r * rb)).take rb
  let sr := if x.wsc = 0 then none else some ((scale.drop (sc + r * (len / 32))).take (len / 32))
  (List.range len).map (elemVal x.wfmt row sr)

/-- Run an EXPERT_FFN on `t` tokens, `count` having been asked (R221, R224 to R226, R240). -/
def ffnRun (o : EngOp) (t count : Nat) (s : State) : EngOp :=
  let x := ffnBody o.desc
  let w1 := rangeBytes s x.w1 x.wlen
  let w3 := rangeBytes s x.w3 x.wlen
  let w2 := rangeBytes s x.w2 x.wlen
  let sc := if x.wsc = 0 then [] else rangeBytes s x.wsc x.sclen
  let r1 := (List.range x.h).map (fun r => ffnRow x w1 sc r x.d 0)
  let r3 := (List.range x.h).map (fun r => ffnRow x w3 sc r x.d (x.h * x.d / 32))
  let r2 := (List.range x.d).map (fun r => ffnRow x w2 sc r x.h (2 * (x.h * x.d / 32)))
  let nar := narrowPair x.xfmt x.wfmt
  let sat := !bit (dFlags o.desc) 3
  let stoch := bit (dFlags o.desc) 2
  let wP := x.weights.any (fun r => rangePoison s r.1 r.2)
  let xrow := fun (i : Nat) => rangeBytes s (x.x + i * x.ldx) (rowLen x.xfmt x.d)
  let gv := fun (i : Nat) => if x.gsc = 0 then Fv.one else ofF32 (leNat (rangeBytes s (x.gsc + 4 * i) 4))
  let tok := fun (i : Nat) =>
    let xs := (List.range x.d).map (elemVal x.xfmt (xrow i) none)
    let p1 := (List.range x.h).map (fun r => ffnDot [o.id, o.retries, 1, i, r] xs (r1.getD r []) nar)
    let p3 := (List.range x.h).map (fun r => ffnDot [o.id, o.retries, 3, i, r] xs (r3.getD r []) nar)
    let hs := (List.zipWith (fun (a b : Fv × Bool) => mul32 (activation x.gact a.1) b.1) p1 p3).zip (List.range x.h)
    let h := hs.map (fun e => elemVal x.xfmt (leBytes 4 (convertOut x.xfmt sat stoch (Config.freeOf 102 [x.seed, i, e.2] % 65536) e.1)) none 0)
    let p2 := (List.range x.d).map (fun r => ffnDot [o.id, o.retries, 2, i, r] h (r2.getD r []) nar)
    (p2.flatMap (fun e => leBytes 4 (toF32 (mul32 e.1 (gv i)))),
      p1.all (fun e => e.2) && p3.all (fun e => e.2) && p2.all (fun e => e.2) && (gv i).isFin)
  let res := (List.range t).map (fun i => (i, tok i))
  let tP := fun (i : Nat) => wP || rangePoison s (x.x + i * x.ldx) (rowLen x.xfmt x.d)
    || (x.gsc != 0 && rangePoison s (x.gsc + 4 * i) 4)
  let outs := res.map (fun r => ({ sa := x.out + r.1 * x.ldo, data := r.2.1, poison := tP r.1 } : OpOut))
  let bad := (outs.filter OpOut.poison).length
  let fin := res.all (fun r => r.2.2)
  let dig := crc64 ((List.range t).flatMap xrow ++ w1 ++ w3 ++ w2 ++ sc
    ++ (if x.gsc = 0 then [] else rangeBytes s x.gsc (4 * t)))
  { o with st := .running, outs := outs, inDig := dig, total := t, processed := t - bad
           dropped := bad + (count - t), poisoned := decide (0 < bad)
           status := if 0 < bad then .faultPoison else if t < count then .donePartialDrop else .done
           nonfinite := !fin, macs := 3 * t * x.d * x.h, wbytes := 3 * x.wlen
           check := if !fin || bad = t then .none else .float }

/-- The FLUSH bit of an EXPERT_FFN on `t` tokens issued by a thread (R115). -/
def ffnFlush (o : EngOp) (x : FfnB) (t : Nat) (s : State) : State :=
  match o.core with
  | some c =>
    if bit (dFlags o.desc) 0 then
      (x.tokens t ++ x.weights).foldl (fun s r =>
        let a := Sa.of (BitVec.ofNat 64 r.1)
        if a.space = 0 then flushCell (c / 16) a.off r.2 s else s) s
    else s
  | none => s

/-- Read the inputs of an EXPERT_FFN and run it; a stall leaves it stalled, a refusal ends it (R225, R98). -/
def ffnAttempt (o : EngOp) (s : State) : State :=
  let x := ffnBody o.desc
  let count := ffnCount s o.ctx x
  let t := min x.tmax count
  let s := ffnFlush o x t s
  match bulkOp o o.ctx ((x.tokens t ++ x.weights).map (fun r => (r.1, r.2, false))) s with
  | (.stop st, s) => endOp { o with status := st, outs := [], processed := 0, dropped := t, check := .none } false s
  | (.wait, s) => updOp o.id (fun _ => { o with st := .stalled, total := t }) s
  | (.ok, s) =>
    let o' := ffnRun o t count s
    match takeShadows o' s with
    | none => endOp { o with status := .quota, outs := [], processed := 0, dropped := t, check := .none } false s
    | some s => updOp o.id (fun _ => o') s

/-- Start an EXPERT_FFN (R218, R225). -/
def ffnGo (o : EngOp) (s : State) : State :=
  match ffnCheck o s with
  | some st => failOp o st ((tallyCheck s o.ctx (dTally o.desc)).isNone) s
  | none => ffnAttempt o s

/-- EXPERT_FFN (R225): a matrix unit takes its next descriptor, being an EXPERT_FFN. -/
def execExpertFfn (unit : Nat) (s : State) : Host.Outcome State Fault Refusal :=
  .next (dp (fun s => takeOp .matrix unit 128 (fun op => op = 2) (fun d => fld d 36 2) ffnGo s) s)

end Sys2Proof.Machine
end

