-- ==== Sys2Proof/Machine/Porter.lean ====
section
/-! DEFINITION. Porter engines (10_porter_gather.md): table records and row maps, validation in the order of Table
10.4, the manifest, GATHER, SCATTER_ADD with its row updates, and MOVE_ROWS with its move records. -/

namespace Sys2Proof.Machine

open Sys2Proof

/-! ### Tables -/

/-- A table record (Table 10.1). -/
structure Tbl where
  base : Nat
  first : Nat
  rows : Nat
  rb : Nat
  log2 : Nat
  efmt : Nat
  map : Nat
  rsvd : Bool
deriving DecidableEq, Repr

def tblOf (d : List Byte) : Tbl :=
  { base := fld d 0 8, first := fld d 8 8, rows := fld d 16 4, rb := fld d 20 2, log2 := fld d 22 1, efmt := fld d 23 1
    map := fld d 24 8, rsvd := zeroAt d 32 32 }

def Tbl.stride (t : Tbl) : Nat := 2 ^ t.log2
def Tbl.esz (t : Tbl) : Nat := fmtBits t.efmt / 8
/-- Elements of a row. -/
def Tbl.dim (t : Tbl) : Nat := t.rb / t.esz
def saOff (sa : Nat) : Nat := (Sa.of (BitVec.ofNat 64 sa)).off

/-- An SA of the store of this device. -/
def ownStore (s : State) (sa : Nat) : Bool :=
  let x := Sa.of (BitVec.ofNat 64 sa)
  x.space = 0 && isOwn s x.dev

/-- The record is inside Table 10.1 (R12, R261). -/
def Tbl.ok (s : State) (t : Tbl) : Bool :=
  t.rsvd && decide (t.efmt ≤ 4) && decide (6 ≤ t.log2) && decide (t.log2 ≤ 12) && decide (0 < t.rows)
    && decide (4 ≤ t.rb) && decide (t.rb ≤ min 4096 t.stride) && t.rb % t.esz = 0
    && ownStore s t.base && t.base % t.stride = 0
    && (t.map = 0 || (ownStore s t.map && t.map % 64 = 0))

/-- The row an index value names (R262). -/
def Tbl.rowOf (t : Tbl) (v : Nat) : Nat := (v + 2 ^ 64 - t.first) % 2 ^ 64
/-- Store offset of a row's map entry; 0 without a map. -/
def Tbl.entOff (t : Tbl) (i : Nat) : Nat := if t.map = 0 then 0 else saOff t.map + 8 * i
/-- A row's map entry as its home holds it; zero without a map (Table 10.2). -/
def Tbl.entry (s : State) (t : Tbl) (i : Nat) : Nat := if t.map = 0 then 0 else leNat (storeBytes s (t.entOff i) 8)
def meAbsent (e : Nat) : Bool := bit e 63
def meMoving (e : Nat) : Bool := bit e 62
def meSeq (e : Nat) : Nat := bitsOf e 61 48
/-- A row's present location (R262). -/
def Tbl.loc (s : State) (t : Tbl) (i : Nat) : Nat :=
  let l := t.entry s i % 2 ^ 48
  if l = 0 then saOff t.base + i * t.stride else l
/-- An index value is bad (R262). -/
def Tbl.bad (s : State) (t : Tbl) (v : Nat) : Bool :=
  decide (t.rows ≤ t.rowOf v) || meAbsent (t.entry s (t.rowOf v))

/-! ### Descriptors -/

/-- The Porter body (Table 10.3). -/
structure PorB where
  op : Nat
  table : Nat
  idx : Nat
  count : Nat
  bags : Nat
  offs : Nat
  wts : Nat
  data : Nat
  ldd : Nat
  pool : Nat
  dfmt : Nat
  work : Nat
  seed : Nat
  flags : Nat
deriving DecidableEq, Repr

def porBody (d : List Byte) : PorB :=
  { op := dOp d, table := fld d 32 8, idx := fld d 40 8, count := fld d 48 4, bags := fld d 52 4, offs := fld d 56 8
    wts := fld d 64 8, data := fld d 72 8, ldd := fld d 80 4, pool := fld d 84 1, dfmt := fld d 85 1
    work := fld d 88 8, seed := fld d 96 4, flags := dFlags d }

/-- Bytes of one index. -/
def PorB.ib (b : PorB) : Nat := if bit b.flags 1 then 8 else 4

/-- Full element count before the manifest exists (R273): SCATTER_ADD counts its batch (log 16). -/
def porTotal (d : List Byte) : Nat :=
  let b := porBody d
  if b.op = 0x10 && b.pool != 0 then b.bags else b.count

/-- Bytes of one DATA row. -/
def PorB.rowBytes (b : PorB) (t : Tbl) : Nat :=
  if b.op = 0x10 && b.pool = 0 then t.rb else t.dim * (fmtBits b.dfmt / 8)
/-- DATA rows. -/
def PorB.nrows (b : PorB) : Nat := if b.op = 0x10 && b.pool != 0 then b.bags else b.count
/-- Bytes WORK must cover (R268). -/
def PorB.workLen (b : PorB) (t : Tbl) : Nat :=
  let acc := if b.op = 0x10 && b.pool != 0 then b.bags * t.dim * 4 else 0
  (if 65536 < b.count then 32 * b.count else 0) + (if 4 * 2 ^ 20 < acc then acc else 0)

/-- Input ranges other than the table's rows. -/
def PorB.inputs (b : PorB) : List (Nat × Nat) :=
  [(b.table, 64), (b.idx, b.count * (if b.op = 0x12 then 16 else b.ib))]
    ++ (if b.offs = 0 then [] else [(b.offs, 4 * b.bags)])
    ++ (if b.wts = 0 then [] else [(b.wts, 4 * b.count)])
/-- The DATA range. -/
def PorB.dataRange (b : PorB) (t : Tbl) : Nat × Nat := (b.data, (b.nrows - 1) * b.ldd + b.rowBytes t)

/-- The table record can be read: in store on this device, aligned, permitted and not poisoned. -/
def tblReadable (s : State) (ctx sa : Nat) : Bool :=
  ownStore s sa && sa % 64 = 0 && (homeCheck s ctx (saOff sa) false).isNone && !poisoned s (saOff sa)

/-- The output format a conversion writes: DFMT of a GATHER, EFMT of a SCATTER_ADD. -/
def PorB.outFmt (b : PorB) (t : Tbl) : Nat := if b.op = 0x10 then b.dfmt else t.efmt

/-- Fields inside Table 10.3, and the conditions of order 6. -/
def porFields (b : PorB) (t : Tbl) : Bool :=
  let common := decide (b.count ≤ 2 ^ 24) && b.idx != 0 && (b.workLen t = 0 || b.work != 0)
    && (!bit b.flags 2 || (decide (1 ≤ b.outFmt t) && decide (b.outFmt t ≤ 4)))
  if b.op = 0x10 then
    common && b.data != 0 && decide (b.rowBytes t ≤ b.ldd) && decide (b.dfmt ≤ 4)
      && (if b.pool = 0 then b.bags = 0 && b.offs = 0 && b.dfmt = t.efmt
          else decide (1 ≤ b.bags) && decide (b.bags ≤ b.count) && b.offs != 0)
      && ((b.pool = 4) == (b.wts != 0))
  else if b.op = 0x11 then
    common && b.data != 0 && decide (b.rowBytes t ≤ b.ldd) && decide (b.dfmt ≤ 4) && b.bags = 0 && b.offs = 0 && b.pool = 0
  else
    decide (b.count ≤ 256) && b.idx != 0 && b.idx / 2 ^ 60 = 0 && t.map != 0 && b.bags = 0 && b.offs = 0 && b.wts = 0
      && b.data = 0 && b.ldd = 0 && b.pool = 0 && b.dfmt = 0 && b.work = 0 && b.seed = 0

/-- Validation of a Porter descriptor (Table 10.4), the WAYBILL rule of R267 first. -/
def porCheck (o : EngOp) (s : State) : Option Status :=
  let d := o.desc
  let b := porBody d
  let t := tblOf (storeBytes s (saOff b.table) 64)
  let own := storeBytes s o.sa 128
  let tc := tallyCheck s o.ctx (dTally d)
  let rows := (t.base, t.rows * t.stride)
  let dr := b.dataRange t
  let wr := (b.work, b.workLen t)
  let outs := (if b.op = 0x12 then [] else [dr]) ++ (if b.work = 0 || wr.2 = 0 then [] else [wr])
  let ins := b.inputs ++ (if t.map = 0 then [] else [(t.map, 8 * t.rows)])
  firstBad
    [(1 < o.n && fld own 8 8 != dWaybill d + 64 * o.slot, .invalidArg),
     (!(decide (b.flags < 16) && zeroAt d 86 2 && zeroAt d 100 28), .invalidArg),
     (!(decide (0x10 ≤ b.op) && decide (b.op ≤ 0x12)) || (b.op = 0x10 && decide (4 < b.pool)) || decide (0x0E < b.dfmt),
        .unsupported),
     (!ctxIssues s o.ctx o.part, .faultAccess),
     (b.count = 0, .doneEmpty),
     (!tblReadable s o.ctx b.table || !t.ok s, .invalidArg),
     (!porFields b t, .invalidArg),
     ([b.idx, b.offs, b.wts, b.data, b.work, b.ldd].any (fun a => a % 64 != 0), .faultAlign),
     ((ins ++ outs ++ [rows]).any (fun r => !opRange s o.part r.1 r.2), .faultAccess),
     (tc.isSome, tc.getD .done),
     (b.op = 0x10 && outs.any (fun r => overlap r.1 r.2 rows.1 rows.2 || ins.any (fun i => overlap r.1 r.2 i.1 i.2)), .invalidArg),
     (b.op = 0x11 && (outs.any (fun r => overlap r.1 r.2 rows.1 rows.2) || ins.any (fun i => overlap wr.1 wr.2 i.1 i.2)), .invalidArg),
     (b.op != 0x12 && b.work != 0 && overlap dr.1 dr.2 wr.1 wr.2, .invalidArg)]

/-! ### The manifest -/

/-- The manifest: rows ascending, each with the batch positions of its occurrences (R268). -/
def manifest (rows : List Nat) : Tab (List Nat) :=
  (rows.zip (List.range rows.length)).foldl (fun t x => tput x.1 (tgetD t x.1 [] ++ [x.2]) t) []

/-- The index values of a batch. -/
def porIdx (s : State) (b : PorB) : List Nat :=
  let d := rangeBytes s b.idx (b.count * b.ib)
  (List.range b.count).map (fun p => fld d (p * b.ib) b.ib)

/-- FP32 weights of a batch; 1.0 where there are none. -/
def porWt (s : State) (b : PorB) (p : Nat) : Fv :=
  if b.wts = 0 then Fv.one else ofF32 (leNat (rangeBytes s (b.wts + 4 * p) 4))

/-- The FLUSH bit of an operation issued by a thread (R115). -/
def porFlush (o : EngOp) (b : PorB) (t : Tbl) (s : State) : State :=
  match o.core with
  | some c =>
    if bit b.flags 0 then
      (b.inputs ++ [(t.base, t.rows * t.stride)] ++ (if b.op = 0x11 then [b.dataRange t] else [])).foldl (fun s r =>
        if r.1 / 2 ^ 60 = 0 then flushCell (c / 16) (saOff r.1) r.2 s else s) s
    else s
  | none => s

/-- An operation ends before its first output with a status (Table 10.5). -/
def porStop (o : EngOp) (st : Status) (processed : Nat) (s : State) : State :=
  endOp { o with status := st, outs := [], rows := [], processed := processed, dropped := o.total, check := .none
                 poisoned := o.poisoned || st = .faultPoison } false s

/-- What the reads before the manifest find. -/
structure PorIn where
  b : PorB
  t : Tbl
  rec64 : List Byte
  idx : List Nat
  rows : List Nat
  offs : List Nat
  man : Tab (List Nat)
deriving DecidableEq, Repr

/-- Read indices, bag starts and the row map: what the operation goes on with, or the state in which it ended or stalls
(R268, R272, Table 10.5). -/
def porPrep (o : EngOp) (s : State) : Sum (PorIn × EngOp × State) State :=
  let b := porBody o.desc
  let r := storeBytes s (saOff b.table) 64
  let t := tblOf r
  let s := porFlush o b t s
  let ins := b.inputs ++ (if b.op = 0x11 then [b.dataRange t] else [])
  match bulkOp o o.ctx (ins.map (fun x => (x.1, x.2, false))) s with
  | (.stop st, s) => .inr (porStop o st 0 s)
  | (.wait, s) => .inr (updOp o.id (fun _ => { o with st := .stalled }) s)
  | (.ok, s) =>
    let idx := porIdx s b
    let rows := idx.map t.rowOf
    let man := manifest rows
    let offs := (List.range b.bags).map (fun i => leNat (rangeBytes s (b.offs + 4 * i) 4))
    let ents := (man.map Prod.fst).filter (fun i => i < t.rows)
    match bulkOp o o.ctx (if t.map = 0 then [] else ents.map (fun i => (t.map + 8 * i, 8, false))) s with
    | (.stop st, s) => .inr (porStop o st 0 s)
    | (.wait, s) => .inr (updOp o.id (fun _ => { o with st := .stalled }) s)
    | (.ok, s) =>
      let wl := b.workLen t
      let o := { o with work := if b.work = 0 || wl = 0 then none else some (b.work, wl) }
      let o := { o with scan := if t.map = 0 then [] else ents.map (fun i => (t.entOff i, meSeq (t.entry s i))) }
      let s := cnt (cellReg o.unit 0xA18) man.length (cnt (cellReg o.unit 0xA10) b.count s)
      let ordered := offs.headD 0 = 0 && (offs.zip (offs.drop 1)).all (fun x => x.1 ≤ x.2) && offs.all (fun x => x ≤ b.count)
      let poi := rangePoison s b.idx (b.count * b.ib) || (b.offs != 0 && rangePoison s b.offs (4 * b.bags))
        || (t.map != 0 && ents.any (fun i => poisoned s (t.entOff i)))
      if poi then .inr (porStop o .faultPoison 0 s)
      else if !ordered then .inr (porStop o .invalidArg 0 s)
      else match (idx.zip (List.range b.count)).find? (fun x => t.bad s x.1) with
        | some x => .inr (porStop o .faultIndex x.2 s)
        | none => .inl ({ b := b, t := t, rec64 := r, idx := idx, rows := rows, offs := offs, man := man }, o, s)

/-- Read, then run over what was read. -/
def porRead (o : EngOp) (k : PorIn → EngOp → State → State) (s : State) : State :=
  match porPrep o s with
  | .inl x => k x.1 x.2.1 x.2.2
  | .inr s => s

/-! ### GATHER -/

/-- Element values of a row's bytes. -/
def rowVals (fmt n : Nat) (d : List Byte) : List Fv := (List.range n).map (elemVal fmt d none)

/-- Element `d` of a pooled bag over (weight, element) pairs, before conversion (R269). -/
def poolElem (seed : List Nat) (pool : Nat) (xs : List (Fv × Fv)) : Fv :=
  if xs.isEmpty then Fv.zero
  else if pool = 3 then (xs.map Prod.snd).tail.foldl Fv.maxi ((xs.map Prod.snd).headD Fv.zero)
  else
    let z := sumFree seed (xs.map (fun x => if pool = 4 then mul32 x.1 x.2 else x.2))
    if pool = 2 then fp32.near (Fv.divNat z xs.length) else z

/-- Encode a row of values in an output format (R210, R211). -/
def encodeRow (fmt flags seed row : Nat) (zs : List Fv) : List Byte :=
  (zs.zip (List.range zs.length)).flatMap (fun z => leBytes (fmtBits fmt / 8)
    (convertOut fmt (!bit flags 3) (bit flags 2) (Config.freeOf 102 [seed, row, z.2] % 65536) z.1))

/-- A fetched row: its bytes, poison, and whether its tier failed. -/
structure GotRow where
  data : List Byte
  poison : Bool
  failed : Bool
deriving DecidableEq, Repr

/-- Run a GATHER over its fetched rows (R269, R272 to R275). -/
def gatherRun (x : PorIn) (got : Tab GotRow) (o : EngOp) (s : State) : EngOp :=
  let b := x.b
  let dim := x.t.dim
  let row := fun (p : Nat) => tgetD got (x.rows.getD p 0) { data := [], poison := true, failed := true }
  let wP := fun (p : Nat) => b.wts != 0 && rangePoison s (b.wts + 4 * p) 4
  let bag := fun (i : Nat) => span (x.offs.getD i 0) (x.offs.getD (i + 1) b.count - x.offs.getD i 0)
  let vals := fun (g : GotRow) => rowVals x.t.efmt dim g.data
  let pooled := fun (i : Nat) =>
    let ps := bag i
    let zs := (List.range dim).map (fun e =>
      poolElem [o.id, o.retries, i, e] b.pool (ps.map (fun p => (porWt s b p, (vals (row p)).getD e Fv.zero))))
    (encodeRow b.dfmt b.flags b.seed i zs, ps.any (fun p => (row p).poison || wP p), zs.all Fv.isFin)
  let res := if b.pool = 0 then (List.range b.count).map (fun p => ((row p).data, (row p).poison, true))
    else (List.range b.bags).map pooled
  let outs := (res.zip (List.range res.length)).map (fun r =>
    ({ sa := b.data + r.2 * b.ldd, data := padTo (b.rowBytes x.t) r.1.1, poison := r.1.2.1 } : OpOut))
  let bad := (outs.filter OpOut.poison).length
  let fin := got.all (fun g => g.2.failed || (vals g.2).all Fv.isFin) && res.all (fun r => r.2.2)
    && (b.wts = 0 || (List.range b.count).all (fun p => (porWt s b p).isFin))
  let first := (got.find? (fun g => g.2.poison)).map (fun g => if g.2.failed then Status.tierFailed else Status.faultPoison)
  let pz := got.any (fun g => g.2.poison && !g.2.failed) || (List.range b.count).any wP
  let dig := crc64 (x.rec64 ++ rangeBytes s b.idx (b.count * b.ib) ++ (if b.offs = 0 then [] else rangeBytes s b.offs (4 * b.bags))
    ++ (if b.wts = 0 then [] else rangeBytes s b.wts (4 * b.count)) ++ got.flatMap (fun g => g.2.data))
  { o with st := .running, outs := outs, inDig := dig, total := outs.length, processed := outs.length - bad, dropped := bad
           status := first.getD (if pz then .faultPoison else .done), poisoned := pz, nonfinite := !fin
           check := if !fin then .none else if b.pool = 0 || b.pool = 3 then .exact else .float }

/-- Fetch the manifest's rows (R269): the rows of a tier that failed are noted, the first other failure ends it. -/
def gatherRows (x : PorIn) (o : EngOp) (s : State) : Bulk × Tab GotRow × State :=
  x.man.foldl (fun (acc : Bulk × Tab GotRow × State) m =>
    match acc.1 with
    | .stop _ => acc
    | w =>
      let off := x.t.loc acc.2.2 m.1
      match bulkOpStore o off x.t.rb false acc.2.2 with
      | (.ok, s) => (w, tput m.1 { data := storeBytes s off x.t.rb, poison := (linesOf off x.t.rb).any (poisoned s), failed := false } acc.2.1, s)
      | (.wait, s) => (.wait, acc.2.1, s)
      | (.stop .tierFailed, s) => (w, tput m.1 { data := [], poison := true, failed := true } acc.2.1, s)
      | (.stop st, s) => (.stop st, acc.2.1, s)) (Bulk.ok, [], s)

/-- Count the rows fetched and pooled (Table 10.11). -/
def gatherCount (x : PorIn) (unit : Nat) (got : Tab GotRow) (s : State) : State :=
  let s := cnt (cellReg unit 0xA20) ((got.filter (fun g => !g.2.failed)).length * x.t.rb) s
  if x.b.pool = 0 then s else cnt (cellReg unit 0xA28) x.b.count s

/-- Fetch the manifest's rows and run (R269). -/
def gatherAttempt (o : EngOp) (s : State) : State :=
  porRead o (fun x o s =>
    match gatherRows x o s with
    | (.stop st, _, s) => porStop o st 0 s
    | (.wait, _, s) => updOp o.id (fun _ => { o with st := .stalled }) s
    | (.ok, got, s) =>
      let s := gatherCount x o.unit got s
      let o' := gatherRun x got o s
      match takeShadows o' s with
      | none => porStop o .quota 0 s
      | some s => updOp o.id (fun _ => o') s) s

/-- Validate a Porter operation and start it. -/
def porGo (run : EngOp → State → State) (o : EngOp) (s : State) : State :=
  match porCheck o s with
  | some st => failOp o st ((tallyCheck s o.ctx (dTally o.desc)).isNone) s
  | none => run o s

/-- GATHER (R269): a Porter engine takes its next descriptor, being a GATHER or of no known OP. -/
def execGather (unit : Nat) (s : State) : Host.Outcome State Fault Refusal :=
  .next (dp (fun s => takeOp .porter unit 128 (fun op => op != 0x11 && op != 0x12) porTotal (porGo gatherAttempt) s) s)

/-! ### SCATTER_ADD -/

/-- A SCATTER_ADD whose manifest rows' sums are formed in FP32 (R270). -/
def scatterRun (x : PorIn) (o : EngOp) (s : State) : EngOp :=
  let b := x.b
  let rb := b.rowBytes x.t
  let upd := fun (p : Nat) => rangeBytes s (b.data + p * b.ldd) rb
  let us := (List.range b.count).map (fun p => rowVals b.dfmt x.t.dim (upd p))
  let pP := fun (p : Nat) => rangePoison s (b.data + p * b.ldd) rb || (b.wts != 0 && rangePoison s (b.wts + 4 * p) 4)
  let sums := x.man.map (fun m =>
    let zs := (List.range x.t.dim).map (fun e => sumFree [o.id, o.retries, m.1, e] (m.2.map (fun p =>
      let u := (us.getD p []).getD e Fv.zero
      if b.wts = 0 then u else mul32 (porWt s b p) u)))
    (({ row := m.1, loc := x.t.loc s m.1, vals := zs.map toF32, poison := m.2.any pP,
        ent := x.t.entOff m.1, seq := meSeq (x.t.entry s m.1), desc := o.desc } : RowUpd), zs.all Fv.isFin))
  let fin := sums.all (fun r => r.2) && us.all (fun u => u.all Fv.isFin)
    && (b.wts = 0 || (List.range b.count).all (fun p => (porWt s b p).isFin))
  let pz := (List.range b.count).any pP
  let dig := crc64 (x.rec64 ++ rangeBytes s b.idx (b.count * b.ib)
    ++ (if b.wts = 0 then [] else rangeBytes s b.wts (4 * b.count)) ++ (List.range b.count).flatMap upd)
  { o with st := .running, rows := sums.map Prod.fst, rowsDone := [], outs := [], inDig := dig, total := sums.length
           status := if pz then .faultPoison else .done, poisoned := pz, nonfinite := !fin
           check := if fin then .float else .none }

/-- The blocks a SCATTER_ADD updates, as ranges of output. -/
def scatterBlocks (o : EngOp) : EngOp := { o with outs := o.rows.map (fun r => { sa := r.loc, data := [], poison := false }) }

/-- Read and form the sums of a SCATTER_ADD. -/
def scatterAttempt (o : EngOp) (s : State) : State :=
  porRead o (fun x o s =>
    let s := cnt (cellReg o.unit 0xA28) x.b.count s
    let o' := scatterRun x o s
    match takeShadows (scatterBlocks o') s with
    | none => porStop o .quota 0 s
    | some s => updOp o.id (fun _ => o') s) s

/-- SCATTER_ADD (R270): a Porter engine takes its next descriptor, being a SCATTER_ADD. -/
def execScatterAdd (unit : Nat) (s : State) : Host.Outcome State Fault Refusal :=
  .next (dp (fun s => takeOp .porter unit 128 (fun op => op = 0x11) porTotal (porGo scatterAttempt) s) s)

/-- CRC-64 continued over more bytes. -/
def crcMore (c : Nat) (l : List Byte) : Nat :=
  (l.foldl (crcByte 0xC96C5795D7870F42) (c ^^^ (2 ^ 64 - 1))) ^^^ (2 ^ 64 - 1)

/-- End a SCATTER_ADD: the prefix of the manifest that was updated (R271, R273). -/
def scatterEnd (o : EngOp) (st : Status) (checked : Bool) (s : State) : State :=
  let n := o.rowsDone.length
  endOp { o with status := st, rows := [], processed := n, dropped := o.total - n
                 inDig := crcMore o.inDig (o.rowsDone.flatMap (fun r => r.2.1))
                 outs := o.rowsDone.map (fun r => { sa := 0, data := r.2.2, poison := false })
                 partialOut := decide (0 < n) && decide (n < o.total)
                 check := if n < o.total && st != .checkFail then .none else o.check } checked s

/-- Land the bytes of a row at a location with a poison mark. -/
def landRow (ctx loc : Nat) (d : List Byte) (p : Bool) (s : State) : State :=
  landOut ctx { sa := loc, data := d, poison := p } s

/-- The row after an update: old + s in FP32 with one rounding, written in EFMT (R270). -/
def rowAdd (d : List Byte) (t : Tbl) (u : RowUpd) (old : List Byte) : List Byte × Bool :=
  let b := porBody d
  let zs := List.zipWith (fun o v => add32 o (ofF32 v)) (rowVals t.efmt t.dim old) u.vals
  (encodeRow t.efmt b.flags b.seed u.row zs, (rowVals t.efmt t.dim old).all Fv.isFin && zs.all Fv.isFin)

/-- Copies of a row's lines that an edge port's agent holds: they are asked back, and the update waits (R119, R127). -/
def rowAgents (loc n : Nat) (s : State) : List (Nat × List Nat) :=
  ((linesOf loc n).map (fun o => (o / 64, ((tget (o / 64) s.coh.dir).map agentsOf).getD []))).filter (fun x => x.2 != [])

/-- Recall every cell's copy of a row's lines (R119). -/
def recallRow (loc n : Nat) (s : State) : State :=
  (linesOf loc n).foldl (fun s o => dropCopies (o / 64) (writeBack (o / 64) s)) s

/-- Apply one row update at a location and count it at its home; the row before and after, and the operation's new
poison and finiteness (R264, R270). -/
def applyUpd (pub : Bool) (t : Tbl) (u : RowUpd) (loc : Nat) (s : State) : (List Byte × List Byte × Bool × Bool) × State :=
  let s := recallRow loc t.rb s
  let old := storeBytes s loc t.rb
  let nw := rowAdd u.desc t u old
  let p := u.poison || (linesOf loc t.rb).any (poisoned s)
  let s := if pub then s else landRow (dCtx u.desc) loc nw.1 p s
  ((old, nw.1, p, nw.2), cnt (cellReg (homeCell s loc) 0xA30) 1 s)

/-- Note an applied row update on its operation. -/
def noteUpd (i : Nat) (u : RowUpd) (r : List Byte × List Byte × Bool × Bool) (s : State) : State :=
  updOp i (fun o => { o with
    rowsDone := tput u.row (r.1, r.2.1) o.rowsDone
    poisoned := o.poisoned || r.2.2.1
    status := if r.2.2.1 && o.status.ok then .faultPoison else o.status
    nonfinite := o.nonfinite || !r.2.2.2
    check := if r.2.2.2 then o.check else .none }) s

/-- Change a move record. -/
def updMove (i : Nat) (f : RowMove → RowMove) (s : State) : State :=
  { s with eng := { s.eng with moves := s.eng.moves.map (fun m => if m.id = i then f m else m) } }

/-- The move record of a map entry. -/
def moveOf (s : State) (ent : Nat) : Option RowMove := if ent = 0 then none else s.eng.moves.find? (fun m => m.ent = ent)

/-- Bytes of the move buffer in use at a home: the logged sums (R281). -/
def logBytes (s : State) (c : Nat) : Nat :=
  ((s.eng.moves.filter (fun m => homeCell s m.src = c)).map (fun m => (m.log.map (fun l => 4 * l.2.vals.length)).sum)).sum

/-- The log of a move takes no further update (Table 10.10). -/
def logFull (s : State) (m : RowMove) (u : RowUpd) : Bool :=
  decide (64 ≤ m.log.length) || decide (2 ^ 20 < logBytes s (homeCell s m.src) + 4 * u.vals.length)

/-- The table an update names. -/
def updTbl (s : State) (u : RowUpd) : Tbl := tblOf (storeBytes s (saOff (porBody u.desc).table) 64)

/-- Apply an update at the source of a move and append it to the log. -/
def updAtSource (m : RowMove) (i : Nat) (u : RowUpd) (s : State) : State :=
  let r := applyUpd false (updTbl s u) u m.src s
  updMove m.id (fun m => { m with log := m.log ++ [(i, u)] }) (noteUpd i u r.1 r.2)

/-- Hold an update at the source home (Table 10.10). -/
def holdUpd (m : RowMove) (i : Nat) (u : RowUpd) (s : State) : State :=
  cnt (cellReg (homeCell s m.src) 0xA58) 1 (updMove m.id (fun m => { m with held := m.held ++ [(i, u)] }) s)

/-- Forward an update to DEST (Table 10.10). -/
def forwardUpd (m : RowMove) (i : Nat) (u : RowUpd) (s : State) : State :=
  let r := applyUpd false (updTbl s u) u m.dst s
  cnt (cellReg (homeCell s m.src) 0xA50) 1 (noteUpd i u r.1 r.2)

/-- Deliver one update to the row's home under its move record, if there is one (R281, R282). -/
def routeUpd (i : Nat) (o : EngOp) (t : Tbl) (u : RowUpd) (s : State) : State :=
  let plain := fun (s : State) =>
    let r := applyUpd o.publish t u u.loc s
    noteUpd i u r.1 r.2
  match moveOf s u.ent with
  | none => plain s
  | some m =>
    if u.seq != m.seq || o.publish then plain s
    else match m.st with
      | .copying | .replay => if logFull s m u then holdUpd m i u s else updAtSource m i u s
      | .commit => holdUpd m i u s
      | .forward => forwardUpd m i u s

/-- The next row update of a SCATTER_ADD (R264, R270, R275): its check, the home's acceptance, then its effect. -/
def rowUpdate (unit : Nat) (lane : Lane) (s : State) : State :=
  match runningOp s .porter unit with
  | none => s
  | some o =>
    match o.rows with
    | [] => s
    | u :: rest =>
      if dOp o.desc != 0x11 || o.st != .running then s
      else
        let t := tblOf (storeBytes s (saOff (porBody o.desc).table) 64)
        if lane = .fail && o.check != .none then
          match checkFailure o o.publish s with
          | (some s, _, _) => s
          | (none, o, s) => scatterEnd { o with suspect := true } .checkFail false s
        else
          let free := dropShadows o s
          match bulkOpStore o u.loc t.rb true free with
          | (.stop st, _) => scatterEnd o st false s
          | (.wait, s') => { s' with store := { s'.store with shadow := s.store.shadow } }
          | (.ok, s') =>
            let s := { s' with store := { s'.store with shadow := s.store.shadow } }
            if isSyncLine s u.loc then scatterEnd o .faultSync false s
            else match rowAgents u.loc t.rb s with
              | (l, ps) :: _ => snoop l ps true { who := .migration, ctx := 0, off := l * 64, op := .rdNc, len := 1 } s
              | [] => routeUpd o.id o t u (updOp o.id (fun o => { o with rows := rest }) s)

/-- ROW_UPDATE (R264): the next row update of the operation a Porter engine runs. -/
def execRowUpdate (unit : Nat) (lane : Lane) (s : State) : Host.Outcome State Fault Refusal :=
  .next (dp (fun s => rowUpdate unit lane s) s)

/-- An update of an operation is still held at a home. -/
def updHeld (s : State) (i : Nat) : Bool := s.eng.moves.any (fun m => m.held.any (fun h => h.1 = i))

/-! ### MOVE_ROWS -/

/-- Write the RESULT of a move-list entry (Table 10.9). -/
def moveResult (i item code : Nat) (s : State) : State :=
  match tget i s.eng.ops with
  | none => s
  | some o =>
    let off := saOff (porBody o.desc).idx + 16 * item + 14
    let s := landOut o.ctx { sa := off, data := [BitVec.ofNat 8 code], poison := false } s
    updOp i (fun o => { o with results := tput item code o.results }) s

/-- Write a row's map entry (Table 10.2). -/
def mapWrite (ent : Nat) (moving : Bool) (seq loc : Nat) (s : State) : State :=
  devWrite ent (leBytes 8 (b2n moving * 2 ^ 62 + seq % 2 ^ 14 * 2 ^ 48 + loc % 2 ^ 48)) s

/-- Clear MOVING in a map entry. -/
def clearMoving (ent : Nat) (s : State) : State :=
  let e := leNat (storeBytes s ent 8)
  devWrite ent (leBytes 8 (if meMoving e then e - 2 ^ 62 else e)) s

/-- Apply held updates where they belong once the source alone, or DEST alone, holds the row. -/
def releaseHeld (m : RowMove) (s : State) : State :=
  m.held.foldl (fun s h =>
    if m.st = .forward then forwardUpd m h.1 h.2 s
    else
      let r := applyUpd false (updTbl s h.2) h.2 m.src s
      noteUpd h.1 h.2 r.1 r.2) s

/-- A move ends before it commits (Table 10.10): MOVING cleared, log discarded, held updates applied at the source. -/
def abandonMove (m : RowMove) (code : Nat) (s : State) : State :=
  let s := { s with eng := { s.eng with moves := s.eng.moves.filter (fun x => x.id != m.id) } }
  let s := releaseHeld { m with st := .copying } (clearMoving m.ent s)
  cnt (cellReg (homeCell s m.src) 0xA48) 1 (moveResult m.op m.item code s)

/-- A move commits or is found unequal (Table 10.10). -/
def commitMove (m : RowMove) (s : State) : State :=
  let a := storeBytes s m.src m.rb
  let b := storeBytes s m.dst m.rb
  if crc64 a = crc64 b then
    let s := mapWrite m.ent false (m.seq + 1) m.dst s
    let s := updMove m.id (fun m => { m with st := .forward, held := [], log := [] }) s
    let s := releaseHeld { m with st := .forward } s
    let s := updOp m.op (fun o => { o with rowsDone := tupd m.item (fun r => (r.1, b)) o.rowsDone }) s
    sweepMoves (cnt (cellReg (homeCell s m.src) 0xA40) 1 (moveResult m.op m.item Status.done.code s))
  else abandonMove m Status.checkFail.code s

/-- A DEST breaks Table 10.9: misaligned, or over a row's present location or another DEST. -/
def destBad (s : State) (t : Tbl) (dests : List Nat) (item : Nat) : Bool :=
  let d := dests.getD item 0
  d % t.stride != 0
    || (List.range t.rows).any (fun i => overlap d t.rb (t.loc s i) t.rb)
    || ((dests.zip (List.range dests.length)).any (fun x => x.2 != item && overlap d t.rb x.1 t.rb))

/-- Accept one move-list entry (R281): its RESULT at once, or a move record with the row's snapshot. -/
def moveStart (o : EngOp) (t : Tbl) (es : List (Nat × Nat × Nat)) (item : Nat) (s : State) : State :=
  let e := es.getD item (0, 0, 0)
  let row := t.rowOf e.1
  let ent := t.entOff row
  let me := t.entry s row
  let src := t.loc s row
  let finish := fun (st : Status) => moveResult o.id item st.code s
  if e.2.2 != 0 then finish .invalidArg
  else if t.bad s e.1 then finish .faultIndex
  else if destBad s t (es.map (fun x => x.2.1)) item then finish .invalidArg
  else if meMoving me || (moveOf s ent).isSome
      || decide (256 ≤ (s.eng.moves.filter (fun m => homeCell s m.src = homeCell s src)).length) then finish .busy
  else match bulkOpStore o src t.rb false s with
    | (.ok, s) =>
      let snap := storeBytes s src t.rb
      let m : RowMove := { id := s.eng.nextMove, op := o.id, item := item, st := .copying, row := row, ent := ent,
                           seq := meSeq me, src := src, dst := e.2.1, rb := t.rb, snap := snap,
                           poison := (linesOf src t.rb).any (poisoned s) }
      let s := mapWrite ent true (meSeq me) (me % 2 ^ 48) s
      let s := { s with eng := { s.eng with moves := s.eng.moves ++ [m], nextMove := s.eng.nextMove + 1 } }
      updOp o.id (fun o => { o with rowsDone := tput item (snap, []) o.rowsDone }) s
    | (_, s) => moveResult o.id item Status.faultAccess.code s

/-- Run a MOVE_ROWS whose record `r` and list are read: every entry of the list is accepted in turn (R280, R281). -/
def moveRun (o : EngOp) (r : List Byte) (s : State) : State :=
  let b := porBody o.desc
  let t := tblOf r
  let l := storeBytes s (saOff b.idx) (16 * b.count)
  let es := (List.range b.count).map (fun i => (fld l (16 * i) 8, fld l (16 * i + 8) 6, fld l (16 * i + 15) 1))
  let asRead := (List.range b.count).flatMap (fun i => (l.drop (16 * i)).take 14 ++ [0] ++ (l.drop (16 * i + 15)).take 1)
  let rows := (es.map (fun e => t.rowOf e.1)).filter (fun i => i < t.rows)
  let s := updOp o.id (fun _ => { o with st := .moving, total := b.count, inDig := crc64 (r ++ asRead), check := .exact
                                         scan := rows.map (fun i => (t.entOff i, meSeq (t.entry s i))) }) s
  (List.range b.count).foldl (fun s i => moveStart o t es i s) s

/-- Start a MOVE_ROWS (R280, R281). -/
def moveAttempt (o : EngOp) (s : State) : State :=
  let b := porBody o.desc
  let r := storeBytes s (saOff b.table) 64
  let s := porFlush o b (tblOf r) s
  match bulkOp o o.ctx ((b.inputs).map (fun x => (x.1, x.2, false))) s with
  | (.stop st, s) => porStop o st 0 s
  | (.wait, s) => updOp o.id (fun _ => { o with st := .stalled }) s
  | (.ok, s) => if rangePoison s b.idx (16 * b.count) then porStop o .faultPoison 0 s else moveRun o r s

/-- MOVE_ROWS (R281): a Porter engine takes its next descriptor, being a MOVE_ROWS. -/
def execMoveRows (unit : Nat) (s : State) : Host.Outcome State Fault Refusal :=
  .next (dp (fun s => takeOp .porter unit 128 (fun op => op = 0x12) porTotal (porGo moveAttempt) s) s)

/-- The snapshot of a move is written at DEST (Table 10.10). -/
def moveSnapshot (m : RowMove) (s : State) : State :=
  match tget m.op s.eng.ops with
  | none => s
  | some o =>
    match bulkOpStore o m.dst m.rb true s with
    | (.ok, s) =>
      if isSyncLine s m.dst then abandonMove m Status.faultAccess.code s
      else updMove m.id (fun m => { m with st := .replay }) (landRow o.ctx m.dst m.snap m.poison s)
    | (.wait, s) => s
    | (.stop _, s) => abandonMove m Status.faultAccess.code s

/-- MOVE_SNAPSHOT_WRITTEN (R281). -/
def execMoveSnapshotWritten (move : Nat) (s : State) : Host.Outcome State Fault Refusal :=
  .next (dp (fun s => match s.eng.moves.find? (fun m => m.id = move) with
    | some m => if m.st = .copying then moveSnapshot m s else s
    | none => s) s)

/-- One step of REPLAY (Table 10.10): the oldest logged update is added at DEST, and one held update proceeds; an empty
log leads to COMMIT. -/
def moveReplay (m : RowMove) (s : State) : State :=
  match m.log with
  | [] => updMove m.id (fun m => { m with st := .commit }) s
  | (_, u) :: rest =>
    let nw := rowAdd u.desc (updTbl s u) u (storeBytes s m.dst m.rb)
    let s := landRow (dCtx u.desc) m.dst nw.1 (u.poison || (linesOf m.dst m.rb).any (poisoned s)) s
    match m.held with
    | [] => updMove m.id (fun m => { m with log := rest }) s
    | h :: hs => updAtSource m h.1 h.2 (updMove m.id (fun m => { m with log := rest, held := hs }) s)

/-- MOVE_REPLAY (R281). -/
def execMoveReplay (move : Nat) (s : State) : Host.Outcome State Fault Refusal :=
  .next (dp (fun s => match s.eng.moves.find? (fun m => m.id = move) with
    | some m => if m.st = .replay then moveReplay m s else s
    | none => s) s)

/-- MOVE_COMMIT (R281). -/
def execMoveCommit (move : Nat) (s : State) : Host.Outcome State Fault Refusal :=
  .next (dp (fun s => match s.eng.moves.find? (fun m => m.id = move) with
    | some m => if m.st = .commit then commitMove m s else s
    | none => s) s)

/-- An operation is dropped or aborted: its moves in COPYING or REPLAY are abandoned, one in COMMIT completes (Table
10.10). -/
def stopMoves (i code : Nat) (s : State) : State :=
  (s.eng.moves.filter (fun m => m.op = i)).foldl (fun s m =>
    if m.st = .commit then commitMove m s
    else if m.st = .forward then s
    else abandonMove m code s) s

/-- End a MOVE_ROWS whose every entry has its RESULT (R280). -/
def movesEnd (o : EngOp) (s : State) : State :=
  let good := (o.results.filter (fun r => r.2 = Status.done.code)).length
  endOp { o with
    status := if good = o.total then .done else .donePartialDrop
    processed := good, dropped := o.total - good
    inDig := crcMore o.inDig (o.rowsDone.flatMap (fun r => r.2.1))
    outs := (o.rowsDone.filter (fun r => tget r.1 o.results = some Status.done.code)).map
      (fun r => { sa := 0, data := r.2.2, poison := false }) } (good = o.total || 0 < good) s

/-- A Porter operation completes (R213, R270, R280): GATHER lands its outputs; SCATTER_ADD ends once every update is
acknowledged; MOVE_ROWS once every entry has its RESULT. -/
def porComplete (o : EngOp) (lane : Lane) (s : State) : State :=
  if o.st = .stalled then
    if dOp o.desc = 0x10 then gatherAttempt o s
    else if dOp o.desc = 0x11 then scatterAttempt o s
    else moveAttempt o s
  else if dOp o.desc = 0x10 then completeOp o lane {} true s
  else if dOp o.desc = 0x11 then
    if o.rows != [] || updHeld s o.id || o.rowsDone.length < o.total then s
    else if o.publish then
      let t := tblOf (storeBytes s (saOff (porBody o.desc).table) 64)
      completeOp { o with
        outs := o.rowsDone.map (fun r => { sa := t.loc s r.1, data := r.2.2, poison := o.poisoned })
        inDig := crcMore o.inDig (o.rowsDone.flatMap (fun r => r.2.1)), processed := o.total } lane {} true s
    else scatterEnd o o.status (o.check != .none) s
  else if o.results.length < o.total then s
  else movesEnd o s

end Sys2Proof.Machine
end

