-- ==== Sys2Proof/Machine/Mailbox.lean ====
section
/-! DEFINITION. Mailboxes (R402 to R411) and what every catalogue command shares: argument bytes and their reserved bits
(R415), the mailboxes an opcode runs on (R416), the common checks (R418, R419, R533) and the readiness a command needs
(R532). -/

namespace Sys2Proof.Machine

open Sys2Proof

/-- A mailbox. -/
def mbxOf (s : State) (n : Nat) : Mbx := s.host.mbx.getD n {}

/-- Change a mailbox. -/
def updMbx (n : Nat) (f : Mbx → Mbx) (s : State) : State :=
  { s with host := { s.host with mbx := s.host.mbx.setIfInBounds n (f (mbxOf s n)) } }

/-- Offset of a mailbox register (R411). -/
def mbxReg (n o : Nat) : Nat := 0x10000 + n * 0x100 + o

/-- Entries of a ring. -/
def ringLen (l : Nat) : Nat := 2 ^ l

/-- Entries submitted and not yet taken (R406). -/
def submitted (s : State) (n : Nat) : Nat :=
  let m := mbxOf s n
  if n = 0 then (m.sqTail + ringLen m.cfg.sqLog - m.consumed % ringLen m.cfg.sqLog) % ringLen m.cfg.sqLog
  else if n = 21 then s.pmp.mq.length
  else tCount (tallyAt s (saOff m.dbTally / 8)) - m.consumed

/-- Consumer position of a mailbox's CQ (R402). -/
def cqHead (s : State) (n : Nat) : Nat :=
  let m := mbxOf s n
  if n = 0 then m.cqHead else leNat (storeBytes s (saOff m.cfg.cqBase + 64 * ringLen m.cfg.cqLog + 8) 4)

/-- The CQ has no free slot (R534). -/
def cqFull (s : State) (n : Nat) : Bool :=
  let m := mbxOf s n
  n != 21 && (m.cqTail + 1) % ringLen m.cfg.cqLog = cqHead s n % ringLen m.cfg.cqLog

/-- STATE of MBX_STATUS (Table 16.13). -/
def mbxState (s : State) (n : Nat) : Nat :=
  let m := mbxOf s n
  if m.wedged then 5
  else if m.hostwait then 4
  else if !m.cfg.enable && m.run.isNone then 0
  else if cqFull s n then 3
  else if m.run.isSome || 0 < submitted s n then 2
  else 1

/-- The CP looks at a ring: more submissions than entries set OVERRUN (R406). -/
def mbxLook (n : Nat) (s : State) : State :=
  let m := mbxOf s n
  if n != 0 && n != 21 && m.cfg.enable && decide (ringLen m.cfg.sqLog < submitted s n)
  then updMbx n (fun m => { m with overrun := true }) s else s

/-! ### Completions -/

/-- A completion entry (Table 16.10). -/
def cplEntry (c : Cmd) (status : Nat) (phase : Bool) (res : List Byte) : List Byte :=
  c.entry.take 4 ++ leBytes 2 status ++ leBytes 1 (b2n phase) ++ leBytes 1 0 ++ (c.entry.drop 8).take 8 ++ padTo 48 res

/-- The command asks for no interrupt (Table 16.9). -/
def Cmd.novec (c : Cmd) : Bool := bit (fld c.entry 6 1) 1

/-- Write a completion to a mailbox's CQ (Table 16.12): entry, CQ_TAIL, tally, vector. -/
def writeCpl (n : Nat) (e : List Byte) (novec : Bool) (s : State) : State :=
  let m := mbxOf s n
  let len := ringLen m.cfg.cqLog
  let next := (m.cqTail + 1) % len
  let s := updMbx n (fun m => { m with cqTail := next, phase := if next = 0 then !m.phase else m.phase }) s
  if n = 0 then
    let s := emit (.hostWr (m.cfg.cqBase + 64 * len) (leBytes 4 next)) (emit (.hostWr (m.cfg.cqBase + 64 * m.cqTail) e) s)
    if novec then s else msi m.cfg.vector s
  else
    let s := devWrite (saOff m.cfg.cqBase + 64 * len) (leBytes 4 next) (devWrite (saOff m.cfg.cqBase + 64 * m.cqTail) e s)
    let s := if m.cqTally = 0 then s
      else tallyApply false (saOff m.cqTally / 8) (BitVec.ofNat 64 (2 ^ 51 + 1)) 0 s
    if novec then s else msi m.cfg.vector s

/-- Complete the running command of a mailbox with a status and result bytes (R404); `extra` follows the entry on MB21
(R460). A WEDGED mailbox writes no completion (Table 16.13). -/
def completeX (n status : Nat) (res extra : List Byte) (s : State) : State :=
  let m := mbxOf s n
  match m.run with
  | none => s
  | some c =>
    let s := updMbx n (fun m => { m with run := none }) s
    if m.wedged then s
    else if n = 21 then emit (.pmp c.session 0x11 (cplEntry c status true res ++ extra)) s
    else
      let e := cplEntry c status m.phase res
      let nv := m.cfg.novec || c.novec
      if n = 0 && !s.host.linkUp then updMbx 0 (fun m => { m with held := some (e, nv), hostwait := true }) s
      else writeCpl n e nv s

/-- Complete with a status and result bytes. -/
def complete (n status : Nat) (res : List Byte) (s : State) : State := completeX n status res [] s

/-- Result bytes placed at an offset. -/
def resAt (o : Nat) (b : List Byte) : List Byte := List.replicate o 0 ++ b

/-! ### Arguments -/

def Cmd.op (c : Cmd) : Nat := fld c.entry 0 2
def Cmd.ctx (c : Cmd) : Nat := fld c.entry 4 2
/-- Argument bytes (R415). -/
def Cmd.arg (c : Cmd) (o n : Nat) : Nat := fld c.args o n
/-- PART of a command (R416). -/
def Cmd.part (c : Cmd) : Nat := c.arg 0 1

/-- Mailboxes an opcode runs on: 1 A, 2 P, 4 M (Table 17.1). -/
def opMb : Nat → Nat
  | 0x0101 => 7 | 0x0102 => 7
  | 0x0201 => 5 | 0x0202 => 5 | 0x0203 => 7 | 0x0204 => 5 | 0x0205 => 2 | 0x0206 => 2
  | 0x0301 => 2 | 0x0302 => 2 | 0x0303 => 2 | 0x0304 => 2 | 0x0305 => 2 | 0x0306 => 3 | 0x0307 => 7 | 0x0308 => 3
  | 0x0309 => 2 | 0x030A => 5 | 0x030B => 3 | 0x030C => 2 | 0x030D => 2 | 0x030E => 2 | 0x030F => 2 | 0x0310 => 2
  | 0x0311 => 4
  | 0x0401 => 3 | 0x0402 => 3 | 0x0403 => 3 | 0x0404 => 3
  | 0x0501 => 4 | 0x0502 => 4 | 0x0503 => 7 | 0x0504 => 2 | 0x0505 => 2 | 0x0506 => 2 | 0x0507 => 2 | 0x0508 => 7
  | 0x0601 => 2 | 0x0602 => 2
  | 0x0701 => 4 | 0x0702 => 4 | 0x0703 => 2 | 0x0704 => 2 | 0x0705 => 2 | 0x0706 => 2 | 0x0707 => 4 | 0x0708 => 2
  | 0x0801 => 2 | 0x0802 => 2 | 0x0803 => 2 | 0x0804 => 2 | 0x0805 => 2 | 0x0806 => 2 | 0x0807 => 2 | 0x0808 => 2
  | 0x0809 => 2
  | 0x0901 => 4 | 0x0902 => 4 | 0x0903 => 4 | 0x0904 => 4 | 0x0905 => 4 | 0x0906 => 4
  | 0x0907 => 2 | 0x0908 => 2 | 0x0909 => 2 | 0x090A => 2 | 0x090B => 2
  | 0x0A01 => 7 | 0x0A02 => 3 | 0x0A03 => 4 | 0x0A04 => 3 | 0x0A05 => 3
  | 0x0B01 => 2 | 0x0B02 => 4 | 0x0B03 => 4 | 0x0B04 => 5 | 0x0B05 => 4 | 0x0B06 => 5 | 0x0B07 => 4 | 0x0B08 => 4
  | 0x0C01 => 4 | 0x0C02 => 2 | 0x0C03 => 4 | 0x0C04 => 7
  | 0x0D01 => 4 | 0x0D02 => 4 | 0x0D03 => 4
  | _ => 0

/-- The code of a mailbox (Table 17.1). -/
def mbCode (n : Nat) : Nat := if n = 0 then 1 else if n = 21 then 4 else 2

/-- The opcode is accepted on a mailbox. -/
def opAccepted (op n : Nat) : Bool := opMb op &&& mbCode n != 0

/-- Listed argument fields of an opcode: start, bytes, and the bits named within them (R415; unnamed bits of a listed
byte count as reserved, log 17). -/
def argFields : Nat → List (Nat × Nat × Nat)
  | 0x0201 => [(0, 4, 2 ^ 32 - 1), (4, 4, 0xFFFFF), (8, 4, 2 ^ 32 - 1), (12, 2, 0xFFFF), (14, 2, 0x3FF), (16, 1, 0xFF),
      (18, 2, 0xFFFF), (20, 1, 1)]
  | 0x0202 => [(0, 1, 0xFF)] | 0x0203 => [(0, 1, 0xFF)]
  | 0x0204 => [(0, 1, 0xFF), (4, 4, 2 ^ 32 - 1), (40, 4, 2 ^ 32 - 1)]
  | 0x0205 => [(0, 3, 0xFFFFFF), (4, 2, 0xFFFF), (6, 1, 1), (8, 32, 2 ^ 256 - 1), (40, 4, 2 ^ 32 - 1)]
  | 0x0206 => [(0, 4, 2 ^ 32 - 1), (8, 8, 2 ^ 64 - 1), (40, 4, 2 ^ 32 - 1)]
  | 0x0301 => [(0, 1, 0xFF), (1, 1, 0x7F), (2, 2, 0xFFFF), (4, 4, 0xFFFFF), (8, 8, 2 ^ 64 - 1), (16, 2, 0xFFFF)]
  | 0x0302 => [(0, 1, 0xFF), (8, 16, 2 ^ 128 - 1)]
  | 0x0303 => [(0, 1, 0xFF), (1, 1, 1), (8, 16, 2 ^ 128 - 1)]
  | 0x0304 => [(0, 1, 0xFF), (2, 2, 0xFFFF), (40, 4, 2 ^ 32 - 1)]
  | 0x0305 => [(0, 1, 0xFF), (1, 1, 1), (2, 2, 0xFFFF), (8, 16, 2 ^ 128 - 1)]
  | 0x0306 => [(0, 4, 2 ^ 32 - 1), (8, 16, 2 ^ 128 - 1), (24, 4, 2 ^ 32 - 1)]
  | 0x0307 => [(0, 1, 0xFF), (2, 2, 0xFFFF), (4, 4, 2 ^ 32 - 1)]
  | 0x0308 => [(0, 1, 0xFF), (2, 2, 0xFFFF)]
  | 0x0309 => [(0, 1, 0xFF), (4, 4, 2 ^ 32 - 1), (40, 4, 2 ^ 32 - 1)]
  | 0x030A => [(4, 8, 2 ^ 64 - 1), (40, 4, 2 ^ 32 - 1)]
  | 0x030B => [(0, 2, 0xFFFF), (2, 1, 7), (4, 2, 0xFFFF)]
  | 0x030C => [(0, 1, 0xFF), (8, 8, 2 ^ 64 - 1)]
  | 0x030D => [(0, 1, 0xFF), (8, 16, 2 ^ 128 - 1)] | 0x030E => [(0, 1, 0xFF), (8, 16, 2 ^ 128 - 1)]
  | 0x030F => [(0, 2, 0xFFFF), (8, 16, 2 ^ 128 - 1)]
  | 0x0310 => [(0, 2, 0xFFFF), (8, 8, 2 ^ 64 - 1)]
  | 0x0311 => [(0, 1, 0xFF), (8, 8, 2 ^ 64 - 1)]
  | 0x0401 => [(0, 1, 0xFF), (2, 2, 0xFFFF), (4, 2, 0x3FF), (6, 1, 0xFF), (7, 1, 1), (8, 16, 2 ^ 128 - 1)]
  | 0x0402 => [(0, 1, 0xFF), (2, 2, 0xFFFF), (4, 2, 0x3FF), (6, 1, 0xFF), (7, 1, 1), (8, 16, 2 ^ 128 - 1), (40, 4, 2 ^ 32 - 1)]
  | 0x0403 => [(0, 1, 0xFF), (2, 2, 0xFFFF)]
  | 0x0404 => [(0, 4, 2 ^ 32 - 1), (8, 16, 2 ^ 128 - 1)]
  | 0x0501 => [(1, 2, 0xFFFF), (3, 1, 1), (4, 8, 2 ^ 64 - 1), (40, 4, 2 ^ 32 - 1)]
  | 0x0502 => [(40, 4, 2 ^ 32 - 1)]
  | 0x0504 => [(0, 1, 0xFF), (4, 12, 2 ^ 96 - 1), (16, 6, 2 ^ 48 - 1)]
  | 0x0505 => [(0, 1, 0xFF)] | 0x0506 => [(0, 1, 0xFF)]
  | 0x0507 => [(0, 1, 0xFF), (4, 12, 2 ^ 96 - 1), (16, 8, 0xFFF0FFFFFFFFFFFF)]
  | 0x0601 => [(0, 1, 0xFF), (4, 12, 2 ^ 96 - 1)]
  | 0x0602 => [(0, 1, 0xFF), (2, 2, 0xFFFF), (8, 8, 2 ^ 64 - 1)]
  | 0x0701 => [(0, 3, 0xFFFFFF), (4, 16, 2 ^ 128 - 1), (20, 4, 0xFFFFF), (24, 12, 2 ^ 96 - 1)]
  | 0x0702 => [(0, 1, 0xFF), (4, 8, 2 ^ 64 - 1)]
  | 0x0703 => [(0, 1, 0xFF), (4, 12, 2 ^ 96 - 1)]
  | 0x0704 => [(0, 1, 0xFF), (4, 16, 2 ^ 128 - 1)]
  | 0x0705 => [(0, 1, 0xFF), (4, 19, 2 ^ 152 - 1)]
  | 0x0706 => [(0, 1, 0xFF), (4, 16, 2 ^ 128 - 1)]
  | 0x0707 => [(0, 1, 0xFF), (4, 4, 2 ^ 32 - 1)]
  | 0x0708 => [(0, 1, 0xFF), (4, 12, 2 ^ 96 - 1)]
  | 0x0801 => [(0, 7, 2 ^ 56 - 1), (7, 1, 3), (8, 5, 2 ^ 40 - 1), (16, 4, 0xFFFFF), (20, 4, 0xFFFFF)]
  | 0x0802 => [(0, 2, 0xFFFF)]
  | 0x0803 => [(0, 2, 0xFFFF), (4, 12, 2 ^ 96 - 1)] | 0x0804 => [(0, 2, 0xFFFF), (4, 12, 2 ^ 96 - 1)]
  | 0x0805 => [(0, 2, 0xFFFF), (4, 12, 2 ^ 96 - 1)]
  | 0x0806 => [(0, 2, 0xFFFF)]
  | 0x0807 => [(0, 2, 0xFFFF), (8, 6, 2 ^ 48 - 1)] | 0x0808 => [(0, 2, 0xFFFF), (8, 6, 2 ^ 48 - 1)]
  | 0x0809 => [(0, 2, 0xFFFF)]
  | 0x0901 => [(0, 2, 0xFFFF), (40, 4, 2 ^ 32 - 1)]
  | 0x0902 => [(40, 4, 2 ^ 32 - 1)]
  | 0x0903 => [(1, 1, 0xFF), (2, 1, 3), (3, 10, 2 ^ 80 - 1), (40, 4, 2 ^ 32 - 1)]
  | 0x0904 => [(1, 2, 0xFFFF)]
  | 0x0905 => [(1, 1, 0xFF), (40, 4, 2 ^ 32 - 1)]
  | 0x0906 => [(4, 8, 2 ^ 64 - 1), (40, 4, 2 ^ 32 - 1)]
  | 0x0907 => [(0, 1, 0xFF), (4, 12, 2 ^ 96 - 1)]
  | 0x0908 => [(0, 1, 0xFF), (4, 4, 2 ^ 32 - 1)]
  | 0x0909 => [(0, 24, 2 ^ 192 - 1), (24, 1, 1), (40, 4, 2 ^ 32 - 1)]
  | 0x090A => [(0, 2, 0xFFFF)] | 0x090B => [(0, 2, 0xFFFF)]
  | 0x0A01 => [(0, 1, 0xFF), (4, 44, 2 ^ 352 - 1)]
  | 0x0A02 => [(0, 1, 0xFF), (8, 8, 2 ^ 64 - 1)]
  | 0x0A03 => [(4, 44, 2 ^ 352 - 1)]
  | 0x0A04 => [(0, 1, 0xFF)] | 0x0A05 => [(0, 2, 0xFFFF)]
  | 0x0B01 => [(0, 3, 0xFFFFFF), (40, 4, 2 ^ 32 - 1)]
  | 0x0B02 => [(0, 2, 0xFFFF), (40, 4, 2 ^ 32 - 1)]
  | 0x0B03 => [(2, 2, 0xFFFF)] | 0x0B04 => [(0, 4, 2 ^ 32 - 1)] | 0x0B05 => [(2, 2, 0xFFFF)]
  | 0x0B06 => [(4, 16, 2 ^ 128 - 1)]
  | 0x0B07 => [(1, 2, 0xFFFF), (40, 4, 2 ^ 32 - 1)]
  | 0x0B08 => [(4, 4, 2 ^ 32 - 1), (40, 4, 2 ^ 32 - 1)]
  | 0x0C01 => [(4, 12, 2 ^ 96 - 1), (40, 4, 2 ^ 32 - 1)]
  | 0x0C02 => [(0, 1, 0xFF), (4, 2, 0xFFFF), (8, 4, 0xFFFFF), (40, 4, 2 ^ 32 - 1)]
  | 0x0C03 => [(1, 1, 0xFF), (2, 1, 1), (3, 2, 0xFFFF), (40, 4, 2 ^ 32 - 1)]
  | 0x0D02 => [(0, 1, 0xFF), (4, 12, 2 ^ 96 - 1)]
  | _ => []

/-- Bytes of payload an opcode's block holds from byte 48 on. -/
def argPayload : Nat → Nat
  | 0x0201 => 1216 | 0x0304 => 64 | 0x0502 => 5376 | 0x0702 => 16384 | 0x0901 => 512 | 0x0902 => 16384
  | 0x0A03 => 8 | 0x0D01 => 65488
  | _ => 0

/-- A reserved argument bit is set (R415). -/
def argReserved (op : Nat) (args : List Byte) : Bool :=
  let mask := ((argFields op).map (fun f => f.2.2 * 256 ^ f.1)).foldl (· + ·) 0
  let head := leNat (args.take 48)
  head &&& mask != head || !(args.drop (48 + argPayload op)).all (· == 0)

/-! ### Taking an entry -/

/-- Commands running. -/
def cmdsRunning (s : State) : Nat := ((List.range 22).filter (fun n => (mbxOf s n).run.isSome)).length

/-- A mailbox that may start a command: enabled, idle, submitted, with room for its completion (R407, Table 16.13). -/
def mbxReady (s : State) (n : Nat) : Bool :=
  let m := mbxOf s n
  (m.cfg.enable || n = 21) && !m.wedged && !m.hostwait && m.run.isNone && decide (0 < submitted s n) && !cqFull s n

/-- The mailbox the CP serves next: round-robin in the order MB21, MB0, MB1 to MB20 (R407). -/
def mbxNext (s : State) : Option Nat :=
  let order := 21 :: List.range 21
  let k := (s.host.lastMb + 2) % 22
  (order.drop k ++ order.take k).find? (mbxReady s)

/-- Context check of an entry (Table 16.11, check 2). -/
def entryCtxOk (s : State) (n ctx : Nat) : Bool :=
  if n = 0 then ctx = 1
  else if n = 21 then true
  else ctxPart s ctx = some (n - 1)

/-- FLAGS, RSVD and the indirect fields are as Table 16.9 (check 4). -/
def entryFormOk (e : List Byte) : Bool :=
  decide (fld e 6 1 < 4) && fld e 7 1 = 0
    && (!bit (fld e 6 1) 0 || (zeroAt e 28 36 && decide (64 ≤ fld e 24 4) && decide (fld e 24 4 ≤ 65536) && fld e 24 4 % 64 = 0))

/-- The argument block of an indirect entry, where it can be read (check 5), and whether it is poisoned (R507). -/
def readBlock (s : State) (n : Nat) (e : List Byte) (given : Option (List Byte)) : Option (List Byte) × Bool :=
  if n = 0 || n = 21 then (given.map (padTo (fld e 24 4)), false)
  else
    let x := Sa.of (BitVec.ofNat 64 (fld e 16 8))
    let len := fld e 24 4
    let pages := (span (x.off / 4096) ((x.off + len - 1) / 4096 - x.off / 4096 + 1)).map (fun p => max x.off (p * 4096))
    if x.space = 0 && isOwn s x.dev && pages.all (fun o => (homeCheck s (fld e 4 2) o false).isNone)
    then (some (storeBytes s x.off len), (linesOf x.off len).any (poisoned s)) else (none, false)

/-- Run the ring checks on a taken entry; the command runs, or its completion is written (Table 16.11, R415). A poisoned
entry or argument block does not run (R507). -/
def mbxTake (n : Nat) (e : List Byte) (block : Option (List Byte)) (poison : Bool) (session : Nat) (s : State) : State :=
  let m := mbxOf s n
  let seq := m.consumed % 65536
  let indirect := bit (fld e 6 1) 0
  let blk := if indirect then readBlock s n e block else (some ((e.drop 16).take 48), false)
  let c : Cmd := { entry := e, args := blk.1.getD [], since := s.wall, session := session }
  let s := cnt (mbxReg n 0x38) 1 s
  let s := updMbx n (fun m => { m with consumed := m.consumed + 1, run := some c })
    { s with host := { s.host with lastMb := n } }
  let rej := fun (st : Nat) (res : List Byte) => complete n st res (cnt (mbxReg n 0x40) 1 s)
  if poison then complete n 0xF213 [] s
  else if fld e 2 2 != seq then rej 0xF021 (leBytes 2 seq)
  else if !entryCtxOk s n c.ctx then rej 0xF111 []
  else if !opAccepted c.op n then rej 0xF322 []
  else if !entryFormOk e then rej 0xF421 []
  else if blk.2 then complete n 0xF213 [] s
  else if blk.1.isNone then rej 0xF211 []
  else if argReserved c.op c.args || (c.op = 0x0B06 && n = 21 && c.arg 8 8 != 0) then complete n 0xF421 [] s
  else s

/-- COMMAND_FETCH (R405): the CP takes the next entry of mailbox `mb`, where it is that mailbox's turn and fewer than four
commands run. MB0's entry and block come from host memory; MB21's from its PMP message; the others' from the store. -/
def commandFetch (mb : Nat) (bytes : List Byte) (block : Option (List Byte)) (poison : Bool) (s : State) : State :=
  let s := mbxLook mb s
  if mbxNext s != some mb || 4 ≤ cmdsRunning s || !cpRuns s then s
  else
    let m := mbxOf s mb
    if mb = 0 then
      if !s.host.linkUp then updMbx 0 (fun m => { m with hostwait := true }) s
      else mbxTake 0 (padTo 64 bytes) block poison 0 s
    else if mb = 21 then
      match s.pmp.mq with
      | [] => s
      | (ses, msg) :: rest =>
        mbxTake 21 (padTo 64 msg) (if msg.length ≤ 64 then none else some (msg.drop 64)) false ses
          { s with pmp := { s.pmp with mq := rest } }
    else
      let off := saOff m.cfg.sqBase + 64 * (m.consumed % ringLen m.cfg.sqLog)
      mbxTake mb (storeBytes s off 64) none (poisoned s off) 0 s

def execCommandFetch (mb : Nat) (bytes : List Byte) (block : Option (List Byte)) (poison : Bool) (s : State) :
    Host.Outcome State Fault Refusal := .next (commandFetch mb bytes block poison s)

/-! ### Doorbells, commit, heartbeat, watchdog -/

/-- DB_SQ (R406): MB0's new SQ tail; on MB1 to MB20 a wake. -/
def execDbSq (mb tail : Nat) (s : State) : Host.Outcome State Fault Refusal :=
  .next (barWrite (fun s => if mb = 0 then updMbx 0 (fun m => { m with sqTail := tail % 4096 % ringLen m.cfg.sqLog }) s
    else mbxLook mb s) s)

/-- DB_CQ (R406): MB0's new CQ head; on MB1 to MB20 a wake. -/
def execDbCq (mb head : Nat) (s : State) : Host.Outcome State Fault Refusal :=
  .next (barWrite (fun s => if mb = 0 then updMbx 0 (fun m => { m with cqHead := head % 4096 % ringLen m.cfg.cqLog }) s
    else mbxLook mb s) s)

/-- DOORBELL_WAKE (R410). -/
def execDoorbellWake (mb : Nat) (s : State) : Host.Outcome State Fault Refusal := .next (barWrite (mbxLook mb) s)

/-- A commit of MB0's rings (R411, R462, R535). -/
def mbxCommit (gen : BitVec 32) (s : State) : State :=
  let m := mbxOf s 0
  let w := m.shadow
  let bad := w.enable && (decide (w.sqLog < 4) || decide (12 < w.sqLog) || decide (w.cqLog < 4) || decide (12 < w.cqLog))
  if gen != m.gen + 1 || bad then updMbx 0 (fun m => { m with err := true }) s
  else
    let moved := w.sqBase != m.cfg.sqBase || w.cqBase != m.cfg.cqBase || w.sqLog != m.cfg.sqLog || w.cqLog != m.cfg.cqLog
      || (w.enable && !m.cfg.enable)
    updMbx 0 (fun m =>
      let m := { m with cfg := w, gen := gen }
      if moved then { m with consumed := 0, sqTail := 0, cqTail := 0, cqHead := 0, phase := true } else m) s

/-- MBX_COMMIT (R462). -/
def execMbxCommit (gen : BitVec 32) (s : State) : Host.Outcome State Fault Refusal := .next (barWrite (mbxCommit gen) s)
/-- MBX_COMMIT_ERR_CLEAR (R462). -/
def execMbxCommitErrClear (s : State) : Host.Outcome State Fault Refusal :=
  .next (barWrite (updMbx 0 (fun m => { m with err := false })) s)

/-- MBX_HEARTBEAT (R408): the CP's count, every 1 ms while it runs. -/
def execMbxHeartbeat (s : State) : Host.Outcome State Fault Refusal :=
  .next (if cpRuns s then cnt 0x1F008 1 s else s)

/-- A command has run longer than MBX_WDOG: the mailbox becomes WEDGED (Table 16.13). -/
def mbxWdog (mb : Nat) (s : State) : State :=
  match (mbxOf s mb).run with
  | none => s
  | some c =>
    if (mbxOf s mb).wedged || !cpRuns s then s
    else evPlatform 5 mb 0 (updMbx mb (fun m => { m with wedged := true }) (reachWall (c.since + s.host.wdog * 1000) s))

/-- MBX_WDOG_EXPIRY (R408). -/
def execMbxWdogExpiry (mb : Nat) (s : State) : Host.Outcome State Fault Refusal := .next (mbxWdog mb s)

/-! ### Common checks -/

/-- Generation of an object (R533): a partition's under its number, others under their codes. -/
def objGen (s : State) (o : Nat) : BitVec 32 :=
  if o < 20 then ((partOf s o).map Part.gen).getD 0 else tgetD s.parts.gens o 0

/-- Set an object's generation. -/
def setGen (o : Nat) (g : BitVec 32) (s : State) : State :=
  if o < 20 then updPart o (fun p => { p with gen := g }) s
  else { s with parts := { s.parts with gens := tput o g s.parts.gens } }

/-- Codes of the objects of Table 17.1a. -/
def objGset (p g : Nat) : Nat := 0x10000 + p * 4096 + g
def objCtx (c : Nat) : Nat := 0x30000 + c
def objFrb (p st : Nat) : Nat := 0x50000 + p * 256 + st
def objQ (p : Nat) : Nat := 0x60000 + p
def objRetry (p : Nat) : Nat := 0x60100 + p
def objStage : Nat := 0x70001
def objToll : Nat := 0x70002
def objStore : Nat := 0x70003
def objRoute : Nat := 0x70004
def objSyncMode : Nat := 0x70005
def objTimers : Nat := 0x70006
def objTier : Nat := 0x70007
def objPower : Nat := 0x70008
def objScrub : Nat := 0x70009
def objWdog : Nat := 0x7000A
def objPort (p : Nat) : Nat := 0x70010 + p
def objClkout (n : Nat) : Nat := 0x70020 + n

/-- A setting becomes management-owned (R420). -/
def ownMgmt (o : Nat) (s : State) : State :=
  { s with parts := { s.parts with mgmtOwned := if s.parts.mgmtOwned.contains o then s.parts.mgmtOwned else o :: s.parts.mgmtOwned } }

/-- What the common checks ask of a command: check 6, check 7, check 8 as (setting, changes it), check 9, check 10. -/
structure CChk where
  exist : Bool := true
  mine : Bool := true
  mgmt : List (Nat × Bool) := []
  gen : Option Nat := none
  ready : Bool := true
deriving DecidableEq, Repr

/-- Every command needs CP; one on MB0 needs MB0 (R532). -/
def cmdReady (s : State) (n : Nat) : Bool := s.rep.boot.cp && (n != 0 || s.rep.boot.mb0)

/-- The common checks in order (Table 17.2): the status of the first that fails. -/
def commonChecks (s : State) (n : Nat) (c : Cmd) (k : CChk) : Option (Nat × List Byte) :=
  if !k.exist then some (0xF621, [])
  else if !k.mine && mbCode n = 2 then some (0xF744, [])
  else if n != 21 && k.mgmt.any (fun m => m.2 && s.parts.mgmtOwned.contains m.1) then some (0xF844, [])
  else match k.gen with
    | some o =>
      if BitVec.ofNat 32 (c.arg 40 4) != objGen s o then some (0xF542, resAt 40 (leBytes 4 (objGen s o).toNat))
      else if cmdReady s n && k.ready then none else some (0xF960, [])
    | none => if cmdReady s n && k.ready then none else some (0xF960, [])

/-- The checks of an object named by PART alone: live, and the mailbox's own (R416). -/
def partChk (s : State) (n : Nat) (c : Cmd) : CChk := { exist := (partOf s c.part).isSome, mine := c.part + 1 = n }

/-- Run the body of a catalogue command: its mailbox runs an entry of the opcode, which passes the common checks; nothing
while the CP does not run. -/
def catalogue (n op : Nat) (chk : State → Cmd → CChk) (body : Cmd → State → State) (s : State) : State :=
  match (mbxOf s n).run with
  | none => s
  | some c =>
    if c.op != op || !cpRuns s then s
    else match commonChecks s n c (chk s c) with
      | some (st, res) => complete n st res s
      | none => body c s

/-- The row's own checks in order (R417): the status of the first that holds. -/
def ownChecks (l : List (Bool × Nat)) : Option Nat := (l.find? (fun x => x.1)).map Prod.snd

/-- Complete with the row's first failing status, or go on. -/
def refuseOr (n : Nat) (l : List (Bool × Nat)) (go : State → State) (s : State) : State :=
  match ownChecks l with
  | some st => complete n st [] s
  | none => go s

/-- Complete a † command: the object's generation advances and is returned (R419). -/
def completeGen (n o : Nat) (res : List Byte) (s : State) : State :=
  let g := objGen s o + 1
  complete n 0 (padTo 40 res ++ leBytes 4 g.toNat) (setGen o g s)

/-- A number the device chooses among those free: which one is open (log 3). -/
def pickFree (l : List Nat) (s : State) : Option Nat × State :=
  if l.isEmpty then (none, s) else let d := draw s; (l[d.1 % l.length]?, d.2)

/-- Cells of a mask, ascending. -/
def maskCells (m : Nat) : List Nat := (List.range 20).filter (bit m)

/-- READY bits of cells and CENSUS bits of channels (Table 19.2a). -/
def cellsReady (s : State) (cs : List Nat) : Bool := cs.all (fun c => s.rep.boot.cells.getLsbD c)
def censusReady (s : State) (cs : List Nat) : Bool := cs.all (fun c => (s.store.flash.getD c {}).censusDone)

/-- The ASYNC record of a command's outcome (R421): to the issuing partition's queue, or the RAS queue for MB0 and
MB21. `entry` holds OPCODE, SEQ and TAG. -/
def asyncRecord (n : Nat) (entry : List Byte) (status : Nat) (res : List Byte) (s : State) : State :=
  let pay := entry.take 4 ++ leBytes 2 status ++ leBytes 2 0 ++ (entry.drop 8).take 8 ++ padTo 32 res
  let cls := if status = 0 then 0 else 1
  if mbCode n = 2 then evqPost (n - 1) 0x0103 cls pay s else rasPost 0x0103 cls 0xFF pay s

end Sys2Proof.Machine
end

