-- ==== Sys2Proof/Machine/Alloc.lean ====
section
/-! DEFINITION. Group 0x03 of the catalogue: allocations, pins, protection, extents and their revocation, windows and
shared regions (R53, R54, R58 to R65, R81 to R92, R130 to R136, R399, R427, R428, R449 to R451). -/

namespace Sys2Proof.Machine

open Sys2Proof

/-! ### Accounting -/

/-- Store offsets an allocation takes: a region has 24 windows (R131). -/
def Alloc.extent (al : Alloc) : Nat := al.size * (if al.region.isSome then 24 else 1)

/-- A range of the store overlaps no allocation. -/
def storeFree (s : State) (base n : Nat) : Bool :=
  s.store.allocs.all (fun x => decide (x.1 + x.2.extent ≤ base) || decide (base + n ≤ x.1))

/-- A range within the store that no allocation overlaps. -/
def placeOk (s : State) (n a : Nat) : Bool := decide (a + n ≤ 2 ^ 48) && storeFree s a n

/-- Where a new allocation lies: the device's choice, free among the places that hold it (log 3). Where the number drawn is
no such place, it is the first one at offset 0 or at the end of an allocation; any place at all implies one of these. -/
def chooseBase (n : Nat) (s : State) : Option Nat × State :=
  let d := draw s
  let a := d.1 % 2 ^ 32 * 65536
  if placeOk s n a then (some a, d.2)
  else ((0 :: s.store.allocs.map (fun x => x.1 + x.2.extent)).find? (placeOk s n), d.2)

/-- Blocks of managed data of a partition, copies of region blocks among them (R86, R133). -/
def managedBlocks (s : State) (p : Nat) : Nat :=
  (s.store.allocs.map (fun x => if x.2.part = p && x.2.tier = .managed
    then nblk x.2.size + ((x.2.region.map (fun r => r.charged.length)).getD 0) else 0)).sum

/-- Backing slots a partition has, at most 4 TiB in a cell (R76, R86), without extent `no`. -/
def backingSlots (s : State) (p : Nat) (no : Option Nat) : Nat :=
  ((partCells s p).map (fun c =>
    let f := s.store.flash.getD c {}
    let fl := if f.censusDone then f.usable - placedFlash s c else 0
    let ex := (s.store.exts.map (fun x =>
      if x.2.part = p && x.2.backing && x.2.cell = c && !x.2.failed && !x.2.retired && some x.1 != no
      then nblk x.2.size else 0)).sum
    min (2 ^ 26) (fl + ex))).sum

/-- The reserve of a partition covers `n` more managed blocks (R86). -/
def reserveFits (s : State) (p n : Nat) (no : Option Nat) : Bool :=
  let slots := backingSlots s p no
  let q := ((partOf s p).map Part.q).getD 0
  if slots = 0 then decide (managedBlocks s p + n ≤ q) else decide (managedBlocks s p + n ≤ slots)

/-- Pinned frames, those not yet resident among them (R90). -/
def pinnedCount (s : State) (p : Nat) : Nat :=
  (s.store.allocs.map (fun x => if x.2.part = p then x.2.pins.length else 0)).sum
    + (s.store.blocks.filter (fun x => isPinned s x.2 && !x.2.pinned && blockPart s x.2 = p)).length

/-- Frames of a partition's stacks (R64). -/
def partFrames (s : State) (p : Nat) : Nat :=
  ((partCells s p).map (fun c => stackFrames - (s.store.stks.getD c {}).retired)).sum

/-- Placed HBM frames of a partition. -/
def partPlaced (s : State) (p : Nat) : Nat := ((partCells s p).map (placedFrames s)).sum

/-- Managed frames of a stack that cannot be evicted (R65). -/
def heldFrames (s : State) (c : Nat) : Nat :=
  (s.store.blocks.filter (fun x => x.2.frame = some c && (isPinned s x.2 || !hasBacking s (blockPart s x.2)))).length

/-- Frames a stack can supply for placed data (R65). -/
def stackRoom (s : State) (c : Nat) : Nat :=
  stackFrames - (s.store.stks.getD c {}).retired - placedFrames s c - heldFrames s c

/-- Evict managed blocks of a stack until those it holds beyond its frames are all leaving (R65, R88). -/
def clearStack : Nat → Nat → State → State
  | 0, _, s => s
  | k + 1, c, s =>
    let overI := placedFrames s c + managedFrames s c - (stackFrames - (s.store.stks.getD c {}).retired)
    let leaving := (s.store.blocks.filter (fun x => x.2.frame = some c && x.2.st = .evicting)).length
    if overI ≤ leaving then s
    else match cellPart s c with
      | none => s
      | some p => match pick s p (fun b => b.frame = some c) with
        | none => s
        | some (b, _) => clearStack k c (startEvict b s)

/-- Placed HOST bytes homed in a cell (R84). -/
def hostBytes (s : State) (c : Nat) : Nat :=
  (s.store.allocs.map (fun x => match x.2.ext.bind (fun e => tget e s.store.exts) with
    | some e => if e.cell = c then x.2.size else 0
    | none => 0)).sum

/-- Bytes of an extent that placed allocations use, copies of region blocks among them. -/
def extUsed (s : State) (e : Nat) : Nat :=
  (s.store.allocs.map (fun x => if x.2.ext = some e
    then x.2.size + ((x.2.region.map (fun r => r.charged.length)).getD 0) * 65536 else 0)).sum

/-- The first offset of an extent above its placed allocations. -/
def extTop (s : State) (e : Nat) : Nat :=
  (s.store.allocs.map (fun x => if x.2.ext = some e then x.2.extOff + x.2.size else 0)).foldl max 0

/-- Make an allocation (R58, R60): its base and the state that holds it. -/
def makeAlloc (al : Alloc) (s : State) : Option Nat × State :=
  match chooseBase al.extent s with
  | (none, s) => (none, s)
  | (some b, s) => (some b, { s with store := { s.store with allocs := tput b al s.store.allocs } })

/-! ### Freeing -/

/-- A retired key slot is free once no line's KEY and no context names it (Table 18.4). -/
def sweepKeys (s : State) : State :=
  let inUse := fun (k : Nat) => s.store.key.any (fun x => x.2 = k) || s.xlt.ctxs.any (fun x => x.2.keyslot = k)
  (List.range 64).foldl (fun s k =>
    let x := s.parts.keys.getD k {}
    if x.st = .retired && !inUse k then
      { s with parts := { s.parts with keys := s.parts.keys.setIfInBounds k { x with st := .free } } }
    else s) s

/-- Drop every cached copy of the lines of a store range; agents are told to (R110). -/
def dropLines (off n : Nat) (s : State) : State :=
  let inR := fun (l : Nat) => decide (off ≤ l * 64) && decide (l * 64 < off + n)
  (s.coh.dir.filter (fun x => inR x.1)).foldl (fun s x =>
    let s := (agentsOf x.2).foldl (fun s p => emit (.link p { kind := .snpInv, sa := ownSa s 0 (x.1 * 64) }) s) s
    dropCopies x.1 s) s

/-- Scrub content blocks and forget their records (Table 3.9). -/
def scrubBlocks (bs : List Nat) (s : State) : State :=
  let hit := fun (a : Nat) => bs.contains a
  { s with store := { s.store with
      mem := s.store.mem.filter (fun c => !hit (c.1 / 65536))
      poison := s.store.poison.filter (fun c => !hit (c.1 / 1024))
      fe := s.store.fe.filter (fun c => !hit (c.1 / 1024))
      key := s.store.key.filter (fun c => !hit (c.1 / 1024))
      blocks := s.store.blocks.filter (fun c => !hit c.1)
      frameQ := s.store.frameQ.filter (fun b => !hit b)
      shadow := s.store.shadow.filter (fun c => !hit c.1)
      buf := s.store.buf.filter (fun c => !hit (c.1 / 4)) } }

/-- End the requests parked with content blocks, or on reads of placed data of a range, with a status. -/
def endParked (bs : List Nat) (off n : Nat) (st : Status) (s : State) : State :=
  let inR := fun (r : Req) => decide (off ≤ r.off) && decide (r.off < off + n)
  let rs := (s.store.blocks.filter (fun x => bs.contains x.1)).flatMap (fun x => x.2.waiters.map Prod.fst)
    ++ (s.store.reads.filter (fun r => inR r.req)).map TierRead.req
  let ws := s.sync.feq.filter (fun w => decide (off ≤ w.line * 64) && decide (w.line * 64 < off + n))
  let s := { s with
    store := { s.store with
      reads := s.store.reads.filter (fun r => !inR r.req)
      blocks := s.store.blocks.map (fun x => if bs.contains x.1 then (x.1, { x.2 with waiters := [] }) else x) }
    sync := { s.sync with feq := s.sync.feq.filter (fun w => !ws.contains w) } }
  let s := rs.foldl (fun s r => deliver r st [] false false s) s
  ws.foldl (fun s w => endFe w st [] false s) s

/-- Content blocks of an allocation. -/
def allocBlocks (base : Nat) (al : Alloc) : List Nat :=
  span (base / 65536) (nblk al.size) ++ ((al.region.map (fun r => r.charged.map Prod.fst)).getD [])

/-- Free a whole allocation: copies dropped, waiting requests ended, contents scrubbed, frames returned. -/
def freeAlloc (base : Nat) (s : State) : State :=
  match tget base s.store.allocs with
  | none => s
  | some al =>
    let bs := allocBlocks base al
    let s := endParked bs base al.extent .faultAccess (dropLines base al.extent s)
    let s := scrubBlocks bs s
    let s := { s with store := { s.store with
      prot := s.store.prot.filter (fun x => !(decide (base / 4096 ≤ x.1) && decide (x.1 < (base + al.extent) / 4096)))
      allocs := tdel base s.store.allocs } }
    frameFreed (sweepKeys s)

/-! ### ALLOC to PROT_SET -/

/-- An SA argument's offset on this device. -/
def argSa (c : Cmd) (o : Nat) : Nat := saOff (c.arg o 8)
/-- An SA argument names a place in this device's store. -/
def argOwn (s : State) (c : Cmd) (o : Nat) : Bool := ownStore s (c.arg o 8)

/-- Tier of ALLOC's FLAGS (R427). -/
def allocTier (f : Nat) : Tier :=
  if !bit f 0 then .managed else match f / 2 % 4 with | 0 => .hbm | 1 => .flash | _ => .host

/-- The cell list an ALLOC gives (R61, R65). -/
def allocCells (s : State) (c : Cmd) : List Nat := if c.arg 4 4 = 0 then partCells s c.part else maskCells (c.arg 4 4)

/-- The pages of a range that lie in one allocation of a partition. -/
def inAlloc (s : State) (p off n : Nat) : Option (Nat × Alloc) :=
  match allocAt s off with
  | some (b, al) => if al.part = p && decide (off + n ≤ b + al.extent) then some (b, al) else none
  | none => none

/-- ALLOC (R427). -/
def allocBody (n : Nat) (c : Cmd) (s : State) : State :=
  let f := c.arg 1 1
  let p := c.part
  let size := c.arg 8 8
  let tier := allocTier f
  let cells := allocCells s c
  let ctx := c.arg 2 2
  let k := nblk size
  let q := ((partOf s p).map Part.q).getD 0
  let ext := tget (c.arg 16 2) s.store.exts
  let al : Alloc := { size := size, tier := tier, cells := cells, sync := bit f 4, pins := if bit f 3 then List.range k else []
                      near := if bit f 6 then maskCells (c.arg 4 4) else [], ctx := ctx, part := p
                      ext := if tier = .host then some (c.arg 16 2) else none
                      extOff := if tier = .host then extTop s (c.arg 16 2) else 0
                      region := if bit f 5 then some {} else none }
  refuseOr n
    [(size = 0 || size % 65536 != 0, 0x0021),
     ((bit f 4 && tier != .hbm) || (bit f 4 && bit f 5) || ((bit f 3 || bit f 6) && bit f 0)
        || (!bit f 0 && f / 2 % 4 != 0) || f / 2 % 4 = 3, 0x0121),
     (!cells.all (partCells s p).contains, 0x0221),
     (tier = .hbm && decide (partFrames s p < partPlaced s p + k + q), 0x0423),
     (tier = .managed && !reserveFits s p k none, 0x0523),
     (tier = .host && decide (2 ^ 36 < hostBytes s ((ext.map Extent.cell).getD 0) + size), 0x0623),
     (bit f 3 && decide (q < pinnedCount s p + k + 64), 0x0723),
     (tier = .host && (match ext with | some e => e.backing || e.failed | none => true), 0x0921),
     (tier = .hbm && cells.any (fun x => decide (stackRoom s x < allocShare al x)), 0x0E23),
     (tier = .flash && (cells.any (fun x => decide ((s.store.flash.getD x {}).usable - placedFlash s x < allocShare al x))
        || decide (backingSlots s p none < managedBlocks s p + k) && decide (0 < managedBlocks s p)), 0x0F23),
     (tier = .host && (match ext with
        | some e => decide (e.size < extUsed s (c.arg 16 2) + size) || decide (e.size < extTop s (c.arg 16 2) + size)
        | none => true), 0x1023),
     (ctxPart s ctx != some p, 0x1111),
     (slotRevoked s (keyOf s ctx), 0x0032)]
    (fun s => match makeAlloc al s with
      | (none, s) => complete n 0x0023 [] s
      | (some b, s) =>
        let s := if tier = .hbm then cells.foldl (fun s x => clearStack (managedFrames s x) x s) s else s
        complete n 0 (leBytes 8 (ownSa s 0 b).toNat) s) s

/-- ALLOC (R427). -/
def execAlloc (mb : Nat) (s : State) : Host.Outcome State Fault Refusal :=
  .next (catalogue mb 0x0301 (fun s c =>
    let host := allocTier (c.arg 1 1) = .host
    let e := tget (c.arg 16 2) s.store.exts
    { exist := (partOf s c.part).isSome && (!host || e.isSome)
      mine := c.part + 1 = mb && (!host || (e.map Extent.part) = some c.part)
      ready := cellsReady s (allocCells s c) && (allocTier (c.arg 1 1) != .flash || censusReady s (allocCells s c)) })
    (allocBody mb) s)

/-- FREE (R427). -/
def freeBody (n : Nat) (c : Cmd) (s : State) : State :=
  let off := argSa c 8
  let al := tget off s.store.allocs
  refuseOr n
    [(!argOwn s c 8 || !(match al with | some a => a.part = c.part && a.size = c.arg 16 8 && a.ctx != 0 | none => false), 0x0321),
     ((match al.bind Alloc.region with | some r => r.work != [] | none => false), 0x0860)]
    (fun s => complete n 0 [] (freeAlloc off s)) s

def execFree (mb : Nat) (s : State) : Host.Outcome State Fault Refusal :=
  .next (catalogue mb 0x0302 (fun s c => partChk s mb c) (freeBody mb) s)

/-- Blocks of a range, counted from its allocation's base. -/
def rangeBlocks (base off n : Nat) : List Nat := (span (off / 65536) ((off + n - 1) / 65536 - off / 65536 + 1)).map (· - base / 65536)

/-- Set the pinned blocks of an allocation. -/
def setPins (base : Nat) (bs : List Nat) (on : Bool) (s : State) : State :=
  let up := fun (al : Alloc) => { al with
    pins := if on then al.pins ++ bs.filter (fun b => !al.pins.contains b) else al.pins.filter (fun b => !bs.contains b) }
  let s := { s with store := { s.store with allocs := tupd base up s.store.allocs } }
  bs.foldl (fun s b =>
    let cb := contentBlock s (base + b * 65536)
    let s := updBlock cb (fun x => { x with pinned := on }) s
    if on && (match tget cb s.store.blocks with | some x => x.st = .lower | none => false) then
      (prepareBlock 0 (base + b * 65536) false s).2 else s) s

/-- PIN and UNPIN (R90, R427). -/
def pinBody (n : Nat) (on : Bool) (c : Cmd) (s : State) : State :=
  let off := argSa c 8
  let len := c.arg 16 8
  if len = 0 then complete n 0x0001 [] s
  else
    let a := if argOwn s c 8 then inAlloc s c.part off len else none
    match a with
    | none => complete n 0x0321 [] s
    | some (base, al) =>
      let bs := rangeBlocks base off len
      let add := (bs.filter (fun b => !al.pins.contains b)).length
      let q := ((partOf s c.part).map Part.q).getD 0
      refuseOr n
        [(al.tier != .managed, 0x0321),
         (on && decide (0 < add) && decide (q < pinnedCount s c.part + add + 64), 0x0723)]
        (fun s => complete n 0 [] (setPins base bs on s)) s

/-- The cells a range's allocation lies in are ready. -/
def rangeReady (s : State) (c : Cmd) : Bool :=
  match allocAt s (argSa c 8) with
  | some (_, al) => cellsReady s al.cells
  | none => true

/-- PIN: byte 1 bit 0 is 1. -/
def execPin (mb : Nat) (s : State) : Host.Outcome State Fault Refusal :=
  .next (catalogue mb 0x0303 (fun s c => { partChk s mb c with ready := rangeReady s c })
    (fun c s => if c.arg 1 1 = 1 then pinBody mb true c s else s) s)

/-- UNPIN: byte 1 bit 0 is 0. -/
def execUnpin (mb : Nat) (s : State) : Host.Outcome State Fault Refusal :=
  .next (catalogue mb 0x0303 (fun s c => { partChk s mb c with ready := rangeReady s c })
    (fun c s => if c.arg 1 1 = 0 then pinBody mb false c s else s) s)

/-- A grant (Table 2.11). -/
def grantOf (v : Nat) : Grant := { valid := bit v 31, w := bit v 30, r := bit v 29, ctx := v % 65536 }

/-- GSET_WRITE (R54). -/
def gsetBody (n : Nat) (c : Cmd) (s : State) : State :=
  let g := c.arg 2 2
  let es := (List.range 16).map (fun i => c.arg (48 + 4 * i) 4)
  refuseOr n [(g = 0 || decide (4095 < g) || es.any (fun e => bitsOf e 28 16 != 0), 0x0121)]
    (fun s => completeGen n (objGset c.part g) []
      { s with store := { s.store with gsets := tput (c.part * 4096 + g) (es.map grantOf) s.store.gsets } }) s

def execGsetWrite (mb : Nat) (s : State) : Host.Outcome State Fault Refusal :=
  .next (catalogue mb 0x0304 (fun s c => { partChk s mb c with gen := some (objGset c.part (c.arg 2 2)) }) (gsetBody mb) s)

/-- PROT_SET (R53). -/
def protBody (n : Nat) (c : Cmd) (s : State) : State :=
  let off := argSa c 8
  let len := c.arg 16 8
  let g := c.arg 2 2
  if len = 0 then complete n 0x0001 [] s
  else
    let a := if argOwn s c 8 then inAlloc s c.part off len else none
    refuseOr n
      [(len % 4096 != 0 || off % 4096 != 0, 0x0021),
       (a.isNone, 0x0321),
       (g != 0 && (tget (c.part * 4096 + g) s.store.gsets).isNone, 0x0C21)]
      (fun s =>
        let own := (a.map (fun x => x.2.ctx)).getD 0
        let put := fun (t : Tab Prot) (i : Nat) => tput i
          { owner := ((tget i t).map Prot.owner).getD own, isSealed := bit (c.arg 1 1) 0, gset := g } t
        complete n 0 [] { s with store := { s.store with prot := (span (off / 4096) (len / 4096)).foldl put s.store.prot } }) s

def execProtSet (mb : Nat) (s : State) : Host.Outcome State Fault Refusal :=
  .next (catalogue mb 0x0305 (fun s c => { partChk s mb c with ready := rangeReady s c }) (protBody mb) s)

/-! ### Extents -/

/-- EXTENT_CREATE (R81): `pages` is the page list as read from host memory. -/
def extentBody (n : Nat) (pages : List Nat) (c : Cmd) (s : State) : State :=
  let size := c.arg 8 8
  let huge := c.arg 3 1 = 1
  let pg := if huge then 2097152 else 4096
  let cnt := c.arg 24 4
  let ks := keyOf s c.ctx
  let free := (List.range 1024).filter (fun e => (tget e s.store.exts).isNone)
  refuseOr n
    [(size = 0 || size % 65536 != 0 || decide (1 < c.arg 1 1) || decide (1 < c.arg 3 1), 0x0021),
     (!(partCells s c.part).contains (c.arg 2 1), 0x0221),
     (pages.length != cnt || decide (cnt * pg < size + nblk size * 8448) || pages.any (fun a => a % pg != 0), 0x0A21),
     (free.isEmpty, 0x0D23),
     (slotRevoked s ks, 0x0032)]
    (fun s => match pickFree free s with
      | (none, s) => complete n 0x0D23 [] s
      | (some e, s) =>
        let x : Extent := { part := c.part, size := size, pages := pages, huge := huge, cell := c.arg 2 1
                            backing := c.arg 1 1 = 1, ctx := c.ctx, keyslot := ks }
        complete n 0 (leBytes 2 e) { s with store := { s.store with exts := tput e x s.store.exts } }) s

/-- A command that acts on a partition from MB0, the partition's mailbox or MB21 (R416). -/
def execExtentCreate (mb : Nat) (pages : List Nat) (s : State) : Host.Outcome State Fault Refusal :=
  .next (catalogue mb 0x0306 (fun s c =>
    { partChk s mb c with ready := s.host.linkUp && cellsReady s [c.arg 2 1] }) (extentBody mb pages) s)

/-- An extent command's checks 6 and 7. -/
def extChk (s : State) (n : Nat) (c : Cmd) : CChk :=
  { exist := (partOf s c.part).isSome && ((tget (c.arg 2 2) s.store.exts).map Extent.part) = some c.part
    mine := c.part + 1 = n }

/-- Lines of content blocks are charged to windows no longer there: free the copies no window maps (R133, R135). -/
def freeCopies (base : Nat) (s : State) : State :=
  match tget base s.store.allocs with
  | none => s
  | some al =>
    match al.region with
    | none => s
    | some r =>
      let dead := (r.charged.filter (fun x => !r.map.any (fun y => y.2 = x.1))).map Prod.fst
      let r' := { r with charged := r.charged.filter (fun x => !dead.contains x.1) }
      frameFreed (scrubBlocks dead { s with store := { s.store with
        allocs := tput base { al with region := some r' } s.store.allocs } })

/-- Change a region. -/
def updRegion (base : Nat) (f : Region → Region) (s : State) : State :=
  { s with store := { s.store with
    allocs := tupd base (fun al => { al with region := al.region.map f }) s.store.allocs } }

/-- The region at a base. -/
def regionAt (s : State) (base : Nat) : Option (Alloc × Region) :=
  match tget base s.store.allocs with
  | some al => al.region.map (fun r => (al, r))
  | none => none

/-- Empty a window: its copies leave the caches and its map is dropped. -/
def clearWindow (base w : Nat) (s : State) : State :=
  match regionAt s base with
  | none => s
  | some (al, _) =>
    let n := nblk al.size
    freeCopies base (updRegion base (fun r => { r with
      map := r.map.filter (fun x => x.1 / n != w), winVer := tdel w r.winVer, work := tdel w r.work })
      (dropLines (base + w * al.size) al.size s))

/-- Reclaim the versions neither current nor held open (R135). -/
def reclaim (base : Nat) (s : State) : State :=
  match regionAt s base with
  | none => s
  | some (_, r) =>
    (r.winVer.filter (fun x => x.2 != r.version && !r.opens.any (fun o => o.2 = x.2))).foldl
      (fun s x => clearWindow base x.1 s) s

/-- End opens and working views that a test on contexts selects; their holders are barred from the windows (R135). -/
def endRegion (base : Nat) (who : Nat → Bool) (works : Bool) (s : State) : State :=
  match regionAt s base with
  | none => s
  | some (_, r) =>
    let gone := r.opens.filter (fun o => who o.1)
    let winOf := fun (v : Nat) => ((r.winVer.find? (fun x => x.2 = v)).map Prod.fst).getD 16
    let ws := if works then r.work.filter (fun x => who x.2.ctx) else []
    let s := updRegion base (fun r => { r with
      opens := r.opens.filter (fun o => !who o.1)
      barred := r.barred ++ gone.map (fun o => (o.1, winOf o.2)) ++ ws.map (fun x => (x.2.ctx, x.1)) }) s
    reclaim base (ws.foldl (fun s x => clearWindow base x.1 s) s)

/-- A region has a line in a revocation's scope (R135, R449). -/
def regionRevoked (s : State) (base : Nat) : Bool :=
  match tget base s.store.allocs with
  | none => false
  | some al =>
    let bs := allocBlocks base al
    s.store.key.any (fun x => bs.contains (x.1 / 1024) && slotRevoked s x.2)
      || (match al.ext with | some e => extRevoked s e | none => false)
      || s.store.blocks.any (fun x => bs.contains x.1 && match x.2.lower with | some (.host e) => extRevoked s e | _ => false)

/-- EXTENT_REVOKE, steps 1 and 2 (R450): the extent and its slot drain, regions in scope lose their opens and views. -/
def revokeBody (n : Nat) (c : Cmd) (s : State) : State :=
  let e := c.arg 2 2
  match tget e s.store.exts with
  | none => s
  | some x =>
    let busy := x.draining || x.retired || slotRevoked s x.keyslot
    refuseOr n [(decide (100000 < c.arg 4 4), 0x0021), (busy, 0x0860)]
      (fun s =>
        let d := if c.arg 4 4 = 0 then 2000 else c.arg 4 4
        let slot : KeySlot := s.parts.keys.getD x.keyslot {}
        let rv : Revoke := { ext := e, slot := x.keyslot, part := x.part, mb := n, ends := s.wall + d * 1000 }
        let s := { s with
          store := { s.store with exts := tput e { x with draining := true } s.store.exts }
          parts := { s.parts with
            keys := s.parts.keys.setIfInBounds x.keyslot { slot with st := .draining }
            revokes := s.parts.revokes ++ [rv] } }
        ((s.store.allocs.filter (fun a => a.2.region.isSome)).map Prod.fst).foldl
          (fun s b => if regionRevoked s b then endRegion b (fun _ => true) true s else s) s) s

def execExtentRevoke (mb : Nat) (s : State) : Host.Outcome State Fault Refusal :=
  .next (catalogue mb 0x0307 (fun s c => extChk s mb c) (revokeBody mb) s)

/-- A request lies in a revocation's scope: its line, or its context's identity. -/
def inScope (s : State) (slot : Nat) (r : Req) : Bool :=
  (r.ctx != 0 && revoked s r.off) || ((ctxOf s r.ctx).map Ctx.keyslot) = some slot

/-- End the outstanding requests in a revocation's scope (R450, step 4). -/
def endScope (slot : Nat) (s : State) : State :=
  let hit := inScope s slot
  let fly := (s.coh.fly.filter (fun f => hit f.req)).map Fly.req
  let parked := s.store.blocks.flatMap (fun x => (x.2.waiters.map Prod.fst).filter hit)
  let reads := (s.store.reads.map TierRead.req).filter hit
  let snps := s.coh.snoops.flatMap (fun x => x.reqs.filter hit)
  let miss := s.xlt.misses.flatMap (fun x => (x.2.reqs.map VReq.req).filter (fun r => ((ctxOf s r.ctx).map Ctx.keyslot) = some slot))
  let s := { s with
    coh := { s.coh with fly := s.coh.fly.filter (fun f => !hit f.req)
                        snoops := s.coh.snoops.map (fun x => { x with reqs := x.reqs.filter (fun r => !hit r) }) }
    store := { s.store with
      blocks := s.store.blocks.map (fun x => (x.1, { x.2 with waiters := x.2.waiters.filter (fun w => !hit w.1) }))
      reads := s.store.reads.filter (fun r => !hit r.req) }
    xlt := { s.xlt with misses := s.xlt.misses.map (fun x =>
      (x.1, { x.2 with reqs := x.2.reqs.filter (fun v => ((ctxOf s v.req.ctx).map Ctx.keyslot) != some slot) })) } }
  (fly ++ parked ++ reads ++ snps ++ miss).foldl (fun s r => deliver r .abortedRevoked [] false false s) s

/-- A key slot is retired and its key erased (Table 18.4). -/
def retireSlot (k : Nat) (s : State) : State :=
  let x := s.parts.keys.getD k {}
  { s with parts := { s.parts with keys := s.parts.keys.setIfInBounds k { x with st := .retired, key := 0 } } }

/-- REVOCATION_DRAIN_END (R450, steps 4 and 5). -/
def drainEnd (e : Nat) (s : State) : State :=
  match s.parts.revokes.find? (fun r => r.ext = e) with
  | none => s
  | some r =>
    let s := endScope r.slot (reachWall r.ends s)
    let s := retireSlot r.slot { s with
      store := { s.store with exts := tupd e (fun x => { x with draining := false, retired := true }) s.store.exts }
      parts := { s.parts with revokes := s.parts.revokes.filter (fun x => x.ext != e) } }
    complete r.mb 0 [] (sweepKeys s)

def execRevocationDrainEnd (ext : Nat) (s : State) : Host.Outcome State Fault Refusal := .next (drainEnd ext s)

/-- EXTENT_DESTROY (R86). -/
def destroyExtBody (n : Nat) (c : Cmd) (s : State) : State :=
  let e := c.arg 2 2
  let back := ((tget e s.store.exts).map Extent.backing).getD false
  refuseOr n
    [(s.store.allocs.any (fun x => x.2.ext = some e) || decide (0 < lowerExt s e)
        || (back && !reserveFits s c.part 0 (some e)) || s.parts.revokes.any (fun r => r.ext = e), 0x0860)]
    (fun s => complete n 0 [] { s with store := { s.store with exts := tdel e s.store.exts } }) s

def execExtentDestroy (mb : Nat) (s : State) : Host.Outcome State Fault Refusal :=
  .next (catalogue mb 0x0308 (fun s c => extChk s mb c) (destroyExtBody mb) s)

/-- EVICT_RESERVE_SET (R89). -/
def execEvictReserveSet (mb : Nat) (s : State) : Host.Outcome State Fault Refusal :=
  .next (catalogue mb 0x0309
    (fun s c => { partChk s mb c with gen := some c.part, ready := cellsReady s (partCells s c.part) })
    (fun c s => refuseOr mb [(decide (((partOf s c.part).map Part.q).getD 0 / 16 < c.arg 4 4), 0x0121)]
      (fun s => completeGen mb c.part [] (updPart c.part (fun p => { p with evictReserve := some (c.arg 4 4) }) s)) s) s)

/-- TIER_TIMEOUTS_SET (R99, R100). -/
def execTierTimeoutsSet (mb : Nat) (s : State) : Host.Outcome State Fault Refusal :=
  .next (catalogue mb 0x030A
    (fun s c => { gen := some objTier
                  mgmt := [(objTier, c.arg 4 4 * 1000000 != s.store.flashTimeout || c.arg 8 4 * 1000 != s.store.hostTimeout)] })
    (fun c s => refuseOr mb
      [(c.arg 4 4 = 0 || decide (1000 < c.arg 4 4) || decide (c.arg 8 4 < 50) || decide (100000 < c.arg 8 4), 0x0121)]
      (fun s =>
        let s := { s with store := { s.store with flashTimeout := c.arg 4 4 * 1000000, hostTimeout := c.arg 8 4 * 1000 } }
        completeGen mb objTier [] (if mb = 21 then ownMgmt objTier s else s)) s) s)

/-! ### Windows -/

/-- Checks of a window command: PART is 0xFF on MB0, the mailbox's own elsewhere. -/
def winChk (s : State) (n : Nat) (c : Cmd) : CChk :=
  if n = 0 then {} else partChk s n c

/-- WINDOW_BIND and WINDOW_UNBIND (R399, R428). -/
def winBody (n : Nat) (c : Cmd) (s : State) : State :=
  let i := c.arg 1 1
  let sp := c.arg 2 1 / 2 % 4
  let on := bit (c.arg 2 1) 0
  let w := s.host.segs.getD i {}
  let ctx := c.arg 4 2
  refuseOr n
    [(decide (15 < i) || !(sp = 0 || sp = 2) || (n = 0 && (c.part != 0xFF || ctx != 1))
        || (n != 0 && on && ctxPart s ctx != some c.part), 0x0121),
     (w.bound && w.binder != n, 0x0B42)]
    (fun s =>
      let w' : WinSeg := if on then { w with ctx := ctx, space := sp, bound := true, binder := n }
        else { w with ctx := 0, space := 0, bound := false, binder := 0 }
      complete n 0 [] { s with host := { s.host with segs := s.host.segs.setIfInBounds i w' } }) s

def execWindowBind (mb : Nat) (s : State) : Host.Outcome State Fault Refusal :=
  .next (catalogue mb 0x030B (fun s c => winChk s mb c)
    (fun c s => if bit (c.arg 2 1) 0 then winBody mb c s else s) s)

def execWindowUnbind (mb : Nat) (s : State) : Host.Outcome State Fault Refusal :=
  .next (catalogue mb 0x030B (fun s c => winChk s mb c)
    (fun c s => if bit (c.arg 2 1) 0 then s else winBody mb c s) s)

/-! ### Shared regions -/

/-- Checks 6 and 7 of a region command (R130, R427): the SA names a live region, and the command's CTX may read, or
write, it. -/
def regionChk (w : Bool) (s : State) (n : Nat) (c : Cmd) : CChk :=
  { exist := (partOf s c.part).isSome && argOwn s c 8 && (regionAt s (argSa c 8)).isSome
    mine := c.part + 1 = n && permits s c.ctx (argSa c 8) w }

/-- REGION_OPEN (R131). -/
def regionOpen (n : Nat) (c : Cmd) (s : State) : State :=
  let b := argSa c 8
  match regionAt s b with
  | none => s
  | some (al, r) =>
    let w := ((r.winVer.find? (fun x => x.2 = r.version)).map Prod.fst).getD 0
    let s := updRegion b (fun r => { r with opens := r.opens ++ [(c.ctx, r.version)]
                                            barred := r.barred.filter (fun x => x != (c.ctx, w)) }) s
    complete n 0 (leBytes 8 r.version ++ leBytes 8 (ownSa s 0 (b + w * al.size)).toNat) s

def execRegionOpen (mb : Nat) (s : State) : Host.Outcome State Fault Refusal :=
  .next (catalogue mb 0x030C (fun s c => regionChk false s mb c) (regionOpen mb) s)

/-- REGION_CLOSE (R135). -/
def regionClose (n : Nat) (c : Cmd) (s : State) : State :=
  let b := argSa c 8
  let o := (c.ctx, c.arg 16 8)
  match regionAt s b with
  | none => s
  | some (_, r) =>
    if !r.opens.contains o then complete n 0x0044 [] s
    else complete n 0 [] (reclaim b (updRegion b (fun r => { r with opens := r.opens.erase o }) s))

def execRegionClose (mb : Nat) (s : State) : Host.Outcome State Fault Refusal :=
  .next (catalogue mb 0x030D (fun s c => regionChk false s mb c) (regionClose mb) s)

/-- REGION_BEGIN (R132). -/
def regionBegin (n : Nat) (c : Cmd) (s : State) : State :=
  let b := argSa c 8
  match regionAt s b with
  | none => s
  | some (al, r) =>
    let k := nblk al.size
    let base := c.arg 16 8
    match (span 16 8).find? (fun w => (tget w r.work).isNone) with
    | none => complete n (if base != r.version then 0x0042 else 0x0060) [] s
    | some w =>
      if base != r.version then complete n 0x0042 [] s
      else
        let cur := ((r.winVer.find? (fun x => x.2 = r.version)).map Prod.fst).getD 0
        let m := (List.range k).foldl (fun m i => match tget (cur * k + i) r.map with
          | some x => tput (w * k + i) x m
          | none => m) r.map
        let s := updRegion b (fun r => { r with
          work := tput w { ctx := c.ctx, base := base, isSealed := false, copied := [] } r.work, map := m
          barred := r.barred.filter (fun x => x != (c.ctx, w)) }) s
        complete n 0 (leBytes 8 w ++ leBytes 8 (ownSa s 0 (b + w * al.size)).toNat) s

def execRegionBegin (mb : Nat) (s : State) : Host.Outcome State Fault Refusal :=
  .next (catalogue mb 0x030E (fun s c => regionChk true s mb c) (regionBegin mb) s)

/-- Lines of a store range that some agent holds modified. -/
def agentLines (s : State) (off n : Nat) : List (Nat × List Nat) :=
  ((s.coh.dir.filter (fun x => decide (off ≤ x.1 * 64) && decide (x.1 * 64 < off + n) && x.2.m)).map
    (fun x => (x.1, agentsOf x.2))).filter (fun x => x.2 != [])

/-- Write every dirty line of a range back (R134, step 2). -/
def recallRange (off n : Nat) (s : State) : State :=
  (s.coh.dir.filter (fun x => decide (off ≤ x.1 * 64) && decide (x.1 * 64 < off + n) && x.2.m && agentsOf x.2 = [])).foldl
    (fun s x => let s := writeBack x.1 s; { s with coh := { s.coh with dir := tdel x.1 s.coh.dir } }) s

/-- REGION_PUBLISH (R134). While an edge port's agent still holds a line of the view modified, the command waits for its
answer; `resumePublish` goes on with it. -/
def regionPublish (n : Nat) (c : Cmd) (s : State) : State :=
  let b := argSa c 8
  let w := c.arg 1 1
  match regionAt s b with
  | none => complete n 0xF621 [] s
  | some (al, r) =>
    match tget w r.work with
    | none => complete n 0x0044 [] s
    | some k =>
      if k.ctx != c.ctx then complete n 0x0044 [] s
      else
        let off := b + w * al.size
        let nb := nblk al.size
        let s := recallRange off al.size (updRegion b (fun r => { r with work := tput w { k with isSealed := true } r.work }) s)
        let ag := agentLines s off al.size
        if ag != [] then
          ag.foldl (fun s x => snoop x.1 x.2 true { who := .migration, ctx := 0, off := x.1 * 64, op := .rdNc, len := 64 } s) s
        else
          let base := c.arg 16 8
          let vs := (r.opens.map Prod.snd).eraseDups
          if r.version != base then complete n 0x0042 [] s
          else if 16 ≤ vs.length then complete n 0x0043 [] s
          else
            let old := ((r.winVer.find? (fun x => x.2 = base)).map Prod.fst).getD 0
            let held := vs.contains base
            let s := if held then s else dropLines (b + old * al.size) al.size s
            let win := if held then ((List.range 16).find? (fun i => (tget i r.winVer).isNone)).getD old else old
            let s := dropLines off al.size s
            let s := updRegion b (fun r =>
              let m := r.map.filter (fun x => x.1 / nb != win && x.1 / nb != w)
              let m := (List.range nb).foldl (fun m i => match tget (w * nb + i) r.map with
                | some x => tput (win * nb + i) x m
                | none => m) m
              { r with map := m, version := base + 1, winVer := tput win (base + 1) r.winVer, work := tdel w r.work }) s
            complete n 0 (leBytes 8 (base + 1)) (freeCopies b s)

def execRegionPublish (mb : Nat) (s : State) : Host.Outcome State Fault Refusal :=
  .next (catalogue mb 0x030F (fun s c => regionChk true s mb c) (regionPublish mb) s)

/-- Go on with publishes that waited for an agent's answer (R134, step 2). -/
def resumePublish (s : State) : State :=
  (List.range 22).foldl (fun s n => match (mbxOf s n).run with
    | some c =>
      let go := match regionAt s (argSa c 8) with
        | some (_, r) => (match tget (c.arg 1 1) r.work with | some k => k.isSealed | none => false)
        | none => true
      if c.op = 0x030F && go then regionPublish n c s else s
    | none => s) s

/-- REGION_ABORT (R134). -/
def regionAbort (n : Nat) (c : Cmd) (s : State) : State :=
  let b := argSa c 8
  match regionAt s b with
  | none => s
  | some (_, r) =>
    match tget (c.arg 1 1) r.work with
    | none => complete n 0x0044 [] s
    | some k => if k.ctx != c.ctx then complete n 0x0044 [] s else complete n 0 [] (clearWindow b (c.arg 1 1) s)

def execRegionAbort (mb : Nat) (s : State) : Host.Outcome State Fault Refusal :=
  .next (catalogue mb 0x0310 (fun s c => regionChk true s mb c) (regionAbort mb) s)

/-- REGION_CLOSE_ALL (R135): management ends every open of a region of PART. -/
def execRegionCloseAll (mb : Nat) (s : State) : Host.Outcome State Fault Refusal :=
  .next (catalogue mb 0x0311 (fun s c =>
    { exist := (partOf s c.part).isSome && argOwn s c 8 && ((regionAt s (argSa c 8)).map (fun x => x.1.part)) = some c.part })
    (fun c s => complete mb 0 [] (endRegion (argSa c 8) (fun _ => true) false s)) s)

/-- SNOOP_TIMEOUT (R127): 10 µs without an answer, the agent's copies are lost; a publish that waited goes on. -/
def execSnoopTimeout (line : Nat) (s : State) : Host.Outcome State Fault Refusal :=
  .next (dp (fun s => resumePublish ((s.coh.snoops.filter (fun x => x.line = line)).foldl
    (fun s x => timer (x.since + 10000) (agentLost x.port) s) s)) s)

end Sys2Proof.Machine
end

