-- ==== Sys2Proof/Machine/Depot.lean ====
section
/-! DEFINITION. The Depot (R284 to R301): members and their pools, home maps, leases and home records, hand-off,
resolution and map changes, and the commands of group 0x07 (R432). -/

namespace Sys2Proof.Machine

open Sys2Proof

/-! ### Members -/

/-- Key of a member. -/
def memKey (p depot : Nat) : Nat := p * 2 ^ 32 + depot

/-- A member. -/
def memberOf (s : State) (p depot : Nat) : Option Member := tget (memKey p depot) s.dep.members

/-- Change a member. -/
def updMem (p depot : Nat) (f : Member → Member) (s : State) : State :=
  { s with dep := { s.dep with members := tupd (memKey p depot) f s.dep.members } }

/-- Change a lease record of a member. -/
def updLease (p depot key : Nat) (f : Lease → Lease) (s : State) : State :=
  updMem p depot (fun m => { m with leases := tupd key f m.leases }) s

/-- The home slot of a key (R286). -/
def homeSlot (key : Nat) : Nat := key * 0x9E3779B97F4A7C15 % 2 ^ 64 / 2 ^ 52

/-- Fields of a map slot (R286). -/
def slotDev (v : Nat) : Nat := v % 4096
def slotPart (v : Nat) : Nat := v / 4096 % 32
def slotValid (v : Nat) : Bool := bit v 31

/-- The member a map slot names. -/
def Member.slot (m : Member) (i : Nat) : Nat := m.map.getD i 0

/-- The map names a member in some slot (R287). -/
def Member.names (m : Member) (dev p : Nat) : Bool := m.map.any (fun v => slotDev v = dev && slotPart v = p)

/-- The map slot names this member. -/
def Member.mine (s : State) (m : Member) (i : Nat) : Bool :=
  m.mapgen != 0 && slotPart (m.slot i) = m.part && isOwn s (slotDev (m.slot i))

/-- The cell that serves a slot's records (R287). -/
def Member.slotCell (m : Member) (i : Nat) : Nat := m.params.cells.getD (i % m.params.cells.length) 0

/-- Element size of a key and value format (Table 11.1). -/
def DepParams.es (x : DepParams) : Nat := fmtBits x.kfmt / 8
/-- Tokens in a page (R285). -/
def DepParams.tp (x : DepParams) : Nat := 262144 / (2 * x.hkv * x.d * x.es)
/-- Bytes of a sum block (R289). -/
def DepParams.sumLen (x : DepParams) : Nat := x.hkv * x.tp * 8

/-- The parameters in range (Table 11.1). -/
def DepParams.ok (x : DepParams) : Bool :=
  [1, 2, 4, 8, 16, 32, 64].contains x.hkv && [64, 128, 256].contains x.d && decide (1 ≤ x.kfmt) && decide (x.kfmt ≤ 4)
    && decide (1 ≤ x.layers) && decide (x.layers ≤ 256) && x.pool % 262144 = 0 && x.cells != []
    && decide (1 ≤ x.lease) && decide (x.lease ≤ 10000) && decide (100 ≤ x.handoff) && decide (x.handoff ≤ 1000000)
    && decide (10 ≤ x.lostHold) && decide (x.lostHold ≤ 60000)

/-! ### The pool -/

/-- Chunks of 256 KiB of the pool share of list entry `k` (R285). -/
def Member.share (m : Member) (k : Nat) : List Nat :=
  let n := m.params.cells.length
  let c := m.params.pool / 262144
  let lo := k * c / n
  (span lo ((k + 1) * c / n - lo)).map (fun i => m.base + i * 262144)

/-- A chunk of the pool holds nothing. -/
def Member.chunkFree (m : Member) (o : Nat) : Bool := !m.used.any (fun u => u.1 / 262144 = o / 262144)

/-- Free chunks of a share. -/
def Member.freeChunks (m : Member) (k : Nat) : List Nat := (m.share k).filter m.chunkFree

/-- Free places for a sum block in chunks of the share that hold sum blocks already. -/
def Member.freeSums (m : Member) (k : Nat) : List Nat :=
  let n := m.params.sumLen
  ((m.share k).filter (fun o => m.used.any (fun u => u.1 / 262144 = o / 262144 && u.2 = n && n != 262144))).flatMap
    (fun o => ((List.range (262144 / n)).map (fun i => o + i * n)).filter (fun a => (tget a m.used).isNone))

/-- Take a page and its sum block in list entry `k`: which places is the device's choice (log 3). -/
def takePage (k : Nat) (m : Member) (s : State) : Option (Nat × Nat × Member) × State :=
  match pickFree (m.freeChunks k) s with
  | (none, s) => (none, s)
  | (some pg, s) =>
    let m := { m with used := tput pg 262144 m.used }
    let room := if (m.freeSums k).isEmpty then m.freeChunks k else m.freeSums k
    match pickFree room s with
    | (none, s) => (none, s)
    | (some sb, s) => (some (pg, sb, { m with used := tput sb m.params.sumLen m.used }), s)

/-- Give a lease record's pages and sum blocks back to the pool. -/
def Member.freeLease (m : Member) (key : Nat) : Member :=
  match tget key m.leases with
  | none => m
  | some l =>
    let es := l.layers.flatMap Prod.snd
    { m with leases := tdel key m.leases, used := es.foldl (fun u e => tdel e.sums (tdel e.page u)) m.used }

/-! ### Leases at a member -/

/-- The number of a role (Table 17.9). -/
def Role.code : Role → Nat
  | .owner => 1 | .released => 2 | .taking => 3 | .lost => 4

/-- The role number of a key at a member; 0 without a record. -/
def Member.role (m : Member) (key : Nat) : Nat := ((tget key m.leases).map (fun l => l.role.code)).getD 0

/-- When an owner stops serving a key (R292): LEASE × (1 − 2⁻¹⁰) after the last acknowledged renewal was sent. -/
def Member.leaseEnd (m : Member) (l : Lease) : Nat := l.acked + m.params.lease * 1000000 * 1023 / 1024

/-- Operations of a member's partition on a key that have started. -/
def keyOps (s : State) (p key : Nat) : List EngOp :=
  (s.eng.ops.map Prod.snd).filter (fun o => o.part = p && o.st != .queued && dOp o.desc = 3 && o.kind = .matrix && fld o.desc 32 8 = key)

/-- Post the outcome of a DEPOT_ACQUIRE (R432). -/
def acquireEvent (l : Lease) (st : Nat) (s : State) : State :=
  match l.cmd with
  | some (n, e) => asyncRecord n e st (if st = 0 then leBytes 1 1 ++ leBytes 3 0 ++ leBytes 4 l.epoch else []) s
  | none => s

/-- A member loses or gives up a key: its record goes, its pages are freed, a hand-off in progress reports why. -/
def dropLease (p depot key : Nat) (st : Status) (s : State) : State :=
  match (memberOf s p depot).bind (fun m => tget key m.leases) with
  | none => s
  | some l =>
    let s := if l.role = .taking then acquireEvent l st.code s else s
    updMem p depot (fun m => m.freeLease key) s

/-- Enter OWNER at an epoch. -/
def becomeOwner (p depot key epoch : Nat) (s : State) : State :=
  match (memberOf s p depot).bind (fun m => tget key m.leases) with
  | none => s
  | some l =>
    let was := l.role
    let acked := if was = .taking then l.acked else s.now
    let l' := { l with role := .owner, epoch := epoch, since := s.now, acked := acked, committing := false, cmd := none }
    let s := updLease p depot key (fun _ => l') s
    if was = .taking then acquireEvent { l with epoch := epoch } 0 s else s

/-! ### The home's side -/

/-- A record's EXPIRY in microseconds now. -/
def HomeEnt.left (h : HomeEnt) (now : Nat) : Nat := h.r.left - (now - h.set) / 1000

/-- Count at the cell that serves a key's records (R314). -/
def depCnt (m : Member) (key o : Nat) (s : State) : State := cnt (cellReg (m.slotCell (homeSlot key)) o) 1 s

/-- A source is told to discard (R294): a member of this device frees its pages at once; another is sent a message. -/
def tellDiscard (depot key dev p : Nat) (s : State) : State :=
  if isOwn s dev then dropLease p depot key .notOwner s
  else match routePort s dev with
    | some po => emit (.link po { kind := .depot, args := [8, depot, p, key] }) s
    | none => s

/-- Put a home record, its EXPIRY set now. -/
def putHome (p depot key : Nat) (r : HomeRec) (s : State) : State :=
  updMem p depot (fun m => { m with homes := tput key { r := r, set := s.now } m.homes }) s

/-- A home's decision on a request (Tables 11.3 to 11.5, R292, R294). -/
def homeDo (k : DepKind) (x : DepMsg) (s : State) : HomeAns × State :=
  match memberOf s x.part x.depot with
  | none => (.unreachable, s)
  | some m =>
    let h := tget x.key m.homes
    let full := m.params.lease * 1000
    let put := fun (r : HomeRec) => putHome x.part x.depot x.key r s
    let isOwner := fun (r : HomeRec) => r.owner = x.dev && r.ownerPart = x.sender
    let isTaker := fun (r : HomeRec) => r.taker = x.dev && r.takerPart = x.sender
    match k, h with
    | .open, none =>
      if 1048576 ≤ m.homes.length then (.refused .quota, s)
      else (.granted 1, put { epoch := 1, owner := x.dev, ownerPart := x.sender, st := .held, left := full })
    | .open, some h =>
      if h.r.st != .lost then (.refused .conflict, s)
      else if 2 ^ 32 - 1 ≤ h.r.epoch then (.refused .invalidArg, s)
      else (.granted (h.r.epoch + 1), put { epoch := h.r.epoch + 1, owner := x.dev, ownerPart := x.sender, st := .held, left := full })
    | .renew, none => (.refused .leaseLost, s)
    | .renew, some h =>
      if h.r.st = .lost then (.refused .leaseLost, s)
      else if (h.r.st = .held && isOwner h.r && h.r.epoch = x.epoch) || (h.r.st = .taking && isTaker h.r && h.r.epoch + 1 = x.epoch)
      then (.granted x.epoch, put { h.r with left := full })
      else (.refused .notOwner, s)
    | .release, none => (.refused .notOwner, s)
    | .release, some h =>
      if h.r.st = .held && isOwner h.r && h.r.epoch = x.epoch
      then (.granted x.epoch, put { h.r with st := .released, left := h.left s.now }) else (.refused .notOwner, s)
    | .acquire, none => (.refused .conflict, s)
    | .acquire, some h =>
      if h.r.st = .released && h.r.epoch + 1 = x.epoch then
        if isOwner h.r then (.granted x.epoch, put { h.r with st := .held, epoch := x.epoch, left := full })
        else (.granted x.epoch, put { h.r with st := .taking, taker := x.dev, takerPart := x.sender, left := full })
      else (.refused .conflict, s)
    | .commit, none => (.refused .notOwner, s)
    | .commit, some h =>
      if h.r.st = .taking && isTaker h.r && h.r.epoch + 1 = x.epoch then
        let s := put { epoch := x.epoch, owner := x.dev, ownerPart := x.sender, st := .held, left := full }
        (.granted x.epoch, tellDiscard x.depot x.key h.r.owner h.r.ownerPart (depCnt m x.key 0xB48 s))
      else if h.r.st = .held && isOwner h.r && h.r.epoch = x.epoch then (.granted x.epoch, s)
      else (.refused .notOwner, s)
    | .abandon, none => (.refused .notOwner, s)
    | .abandon, some h =>
      if h.r.st = .taking && isTaker h.r && h.r.epoch + 1 = x.epoch
      then (.granted h.r.epoch, put { h.r with st := .released, taker := 0, takerPart := 0, left := h.left s.now })
      else (.refused .notOwner, s)
    | .close, none => (.refused .notOwner, s)
    | .close, some h =>
      if ((h.r.st = .held || h.r.st = .released) && isOwner h.r && h.r.epoch = x.epoch)
          || (h.r.st = .taking && isTaker h.r && h.r.epoch + 1 = x.epoch)
      then (.granted x.epoch, updMem x.part x.depot (fun m => { m with homes := tdel x.key m.homes }) s)
      else (.refused .notOwner, s)
    | .resolve, none => (.found none, s)
    | .resolve, some h =>
      if h.r.st = .held && isOwner h.r && x.role = 0 then
        (.found (some h.r), depCnt m x.key 0xB38 (put { h.r with st := .lost, left := 0 }))
      else if h.r.st = .released && isOwner h.r && x.role = 2 then
        (.found (some h.r), put { h.r with st := .held, epoch := h.r.epoch + 1, left := full })
      else (.found (some h.r), s)

/-! ### Answers at the member that asked -/

/-- A member's command that waits for a home's answer is completed. -/
def depComplete (p op key : Nat) (st : Nat) (res : List Byte) (s : State) : State :=
  match (mbxOf s (p + 1)).run with
  | some c => if c.op = op && c.arg 8 8 = key then complete (p + 1) st res s else s
  | none => s

/-- The outcome of a resolution for the operations that wait on it (Table 11.5). -/
def resolved (p key : Nat) (st : Option Status) (s : State) : State :=
  ((s.eng.ops.map Prod.snd).filter (fun o => o.part = p && o.st = .stalled && o.resolving && fld o.desc 32 8 = key)).foldl
    (fun s o => match st with
      | none => updOp o.id (fun o => { o with resolving := false }) s
      | some st => endOp { o with status := st, outs := [], processed := 0, dropped := o.total, check := .none } false s) s

/-- The commit of a hand-off is sent: its answer, where the home is on this device (R294). -/
def homeMsg (s : State) (m : Member) (key epoch : Nat) : DepMsg :=
  let v := m.slot (homeSlot key)
  { part := slotPart v, depot := m.depot, dev := s.parts.devNo, sender := m.part, mapgen := m.mapgen, digest := m.digest
    key := key, epoch := epoch, role := m.role key }

/-- Number of a Depot request in a message. -/
def depCode : DepKind → Nat
  | .renew => 0 | .open => 1 | .release => 2 | .acquire => 3 | .commit => 4 | .abandon => 5 | .close => 6 | .resolve => 7

/-- A home's answer reaches the member that asked (Tables 11.4, 11.5). -/
def onAnswer (k : DepKind) (p depot key : Nat) (a : HomeAns) (s : State) : State :=
  match memberOf s p depot with
  | none => s
  | some m =>
    let l := tget key m.leases
    match k, a with
    | .renew, .granted _ => updLease p depot key (fun l => { l with acked := l.sent.getD l.acked, sent := none }) s
    | .renew, .refused .notOwner => dropLease p depot key .notOwner s
    | .renew, .refused .leaseLost => dropLease p depot key .leaseLost s
    | .renew, _ => s
    | .open, .granted e =>
      let l : Lease := { role := .owner, epoch := e, acked := s.now, nextRenew := s.now + m.params.lease * 250000, since := s.now }
      depComplete p 0x0703 key 0 (leBytes 4 e) (updMem p depot (fun m => { (m.freeLease key) with leases := tput key l (m.freeLease key).leases }) s)
    | .open, .refused st => depComplete p 0x0703 key st.code [] s
    | .open, _ => depComplete p 0x0703 key 0x0050 [] s
    | .release, .granted _ =>
      depComplete p 0x0704 key 0 [] (updLease p depot key (fun l => { l with role := .released, since := s.now, releasing := none }) s)
    | .release, .refused st => depComplete p 0x0704 key st.code [] (updLease p depot key (fun l => { l with releasing := none }) s)
    | .release, _ => depComplete p 0x0704 key 0x0050 [] (updLease p depot key (fun l => { l with releasing := none }) s)
    | .acquire, .granted e =>
      match l with
      | some _ => depComplete p 0x0705 key 0 [] (becomeOwner p depot key e s)
      | none =>
        match (mbxOf s (p + 1)).run with
        | none => s
        | some c =>
          let l : Lease := { role := .taking, epoch := e, acked := s.now, nextRenew := s.now + m.params.lease * 250000
                             since := s.now, src := (c.arg 20 2, c.arg 22 1), cmd := some (p + 1, c.entry) }
          depComplete p 0x0705 key 0 [] (updMem p depot (fun m => { m with leases := tput key l m.leases }) s)
    | .acquire, .refused st => depComplete p 0x0705 key st.code [] s
    | .acquire, _ => depComplete p 0x0705 key 0x0050 [] s
    | .commit, .granted e => becomeOwner p depot key e s
    | .commit, .refused st => dropLease p depot key st s
    | .commit, _ => s
    | .abandon, _ => s
    | .close, .granted _ => depComplete p 0x0706 key 0 [] (updMem p depot (fun m => m.freeLease key) s)
    | .close, .refused st => depComplete p 0x0706 key st.code [] s
    | .close, _ => depComplete p 0x0706 key 0x0050 [] s
    | .resolve, .found none => resolved p key (some .leaseLost) (dropLease p depot key .leaseLost s)
    | .resolve, .found (some r) =>
      let own := isOwn s r.owner && r.ownerPart = p
      let taker := isOwn s r.taker && r.takerPart = p
      let role := m.role key
      match r.st with
      | .lost => resolved p key (some .leaseLost) (dropLease p depot key .leaseLost s)
      | .held =>
        if own then
          if role = 3 then resolved p key none (becomeOwner p depot key r.epoch s)
          else if role = 0 then resolved p key (some .leaseLost) s
          else resolved p key none s
        else resolved p key (some .notOwner) (dropLease p depot key .notOwner s)
      | .released =>
        if own && role = 2 then resolved p key none (becomeOwner p depot key (r.epoch + 1) s)
        else resolved p key (some .notOwner) s
      | .taking =>
        if taker && role = 3 then
          let s := updLease p depot key (fun l => { l with since := s.now }) s
          resolved p key (some .busy) (match routePort s (slotDev (m.slot (homeSlot key))) with
            | some po => emit (.link po { kind := .depot, args := [depCode .commit, depot, p, key, m.mapgen] }) s
            | none => s)
        else resolved p key (some .busy) s
    | .resolve, _ =>
      if (tget key m.resolving).any (fun t => decide (t + m.params.handoff * 1000 ≤ s.now))
      then resolved p key (some .linkLost) s else s

/-- Send a home's answer to the member that asked. -/
def sendAnswer (k : DepKind) (port : Option Nat) (x : DepMsg) (a : HomeAns) (s : State) : State :=
  match port with
  | none => onAnswer k x.sender x.depot x.key a s
  | some po =>
    let body := match a with
      | .granted e => [0, e]
      | .refused st => [1, st.code]
      | .found none => [2]
      | .found (some r) => [3, r.epoch, r.owner, r.ownerPart, (match r.st with | .held => 0 | .released => 1 | .taking => 2 | .lost => 3),
          r.taker, r.takerPart, r.left]
      | .unreachable => [4]
    emit (.link po { kind := .depot, args := (16 + depCode k) :: x.depot :: x.key :: body }) s

/-- Hold a request for a slot in motion or a newer map (R299). -/
def holdReq (k : DepKind) (port : Option Nat) (x : DepMsg) (m : Member) (s : State) : State :=
  depCnt m x.key 0xB58 (updMem x.part x.depot (fun m => { m with held := m.held ++ [{ kind := k, port := port, m := x, since := s.now }] }) s)

/-- A request reaches a home (R284, R287, R299): dropped, held, redirected, or decided and answered. -/
def homeServe (k : DepKind) (port : Option Nat) (x : DepMsg) (s : State) : State :=
  match memberOf s x.part x.depot with
  | none => s
  | some m =>
    let sl := homeSlot x.key
    if x.digest != m.digest then evPort 4 (port.getD 0) 0 x.dev s
    else if !m.names x.dev x.sender then s
    else if m.mapgen < x.mapgen || (tget sl m.moving).isSome then holdReq k port x m s
    else if !m.mine s sl then
      match port with
      | none => onAnswer k x.sender x.depot x.key (.refused .busy) s
      | some po => emit (.link po { kind := .depot, args := [32, x.depot, x.key, m.mapgen] }) s
    else
      let r := homeDo k x s
      sendAnswer k port x r.1 r.2

/-- Ask a key's home (R287): a home on this device decides at once; another is sent a message and `ans` is its answer,
LINK_LOST where no link leads there. -/
def askHome (k : DepKind) (p depot key epoch : Nat) (ans : Option HomeAns) (s : State) : State :=
  match memberOf s p depot with
  | none => s
  | some m =>
    let v := m.slot (homeSlot key)
    if isOwn s (slotDev v) && (memberOf s (slotPart v) depot).isSome then homeServe k none (homeMsg s m key epoch) s
    else match routePort s (slotDev v) with
      | none => onAnswer k p depot key .unreachable s
      | some po =>
        let s := emit (.link po { kind := .depot, args := [depCode k, depot, p, key, epoch, m.mapgen, m.digest, m.role key] }) s
        match ans with
        | some a => onAnswer k p depot key a s
        | none => s

/-- A request from another device's member, dropped where no member is addressed. -/
def execHomeRequest (k : DepKind) (port : Nat) (x : DepMsg) (s : State) : State := dp (homeServe k (some port) x) s

/-! ### Renewals and expiry -/

/-- LEASE_RENEWAL_SEND (R292): every LEASE/4 of an OWNER, or of a taker that copies. -/
def renewalSend (p depot key : Nat) (s : State) : State :=
  match (memberOf s p depot).bind (fun m => (tget key m.leases).map (fun l => (m, l))) with
  | none => s
  | some (m, l) =>
    if l.role = .owner || l.role = .taking then
      timer l.nextRenew (fun s =>
        let s := if l.sent.isSome then depCnt m key 0xB30 s else s
        let s := updLease p depot key (fun l => { l with sent := some s.now, nextRenew := s.now + m.params.lease * 250000 }) s
        askHome .renew p depot key l.epoch none s) s
    else s

def execLeaseRenewalSend (part depot key : Nat) (s : State) : Host.Outcome State Fault Refusal :=
  .next (renewalSend part depot key s)
/-- LEASE_RENEWAL (R292): the home receives a renewal. -/
def execLeaseRenewal (port : Nat) (m : DepMsg) (s : State) : Host.Outcome State Fault Refusal :=
  .next (execHomeRequest .renew port m s)
/-- RENEWAL_ANSWER (R293). -/
def execRenewalAnswer (part depot key : Nat) (ans : HomeAns) (s : State) : Host.Outcome State Fault Refusal :=
  .next (dp (onAnswer .renew part depot key ans) s)

/-- End the running operations of a key with LEASE_LOST (R304). -/
def endKeyOps (p key : Nat) (s : State) : State :=
  (keyOps s p key).foldl (fun s o =>
    endOp { o with status := .leaseLost, outs := [], processed := 0, dropped := o.total, check := .none } false s) s

/-- A member's lease has run out: it stops serving the key, whose state is freed (Table 11.4); a hand-off that it was
taking ends with it. -/
def leaseOver (p depot key : Nat) (s : State) : State :=
  match (memberOf s p depot).bind (fun m => tget key m.leases) with
  | none => s
  | some l =>
    let s := if l.role = .taking then acquireEvent l Status.leaseLost.code s else endKeyOps p key s
    let lost : Lease := { role := .lost, epoch := l.epoch, acked := l.acked, nextRenew := l.nextRenew, since := s.now }
    updMem p depot (fun m => { (m.freeLease key) with leases := tput key lost (m.freeLease key).leases }) s

/-- LEASE_END (R292, Table 11.4): the owner stops serving the key; its state is freed. -/
def leaseEndAt (p depot key : Nat) (s : State) : State :=
  match (memberOf s p depot).bind (fun m => (tget key m.leases).map (fun l => (m, l))) with
  | none => s
  | some (m, l) => if l.role != .owner then s else timer (m.leaseEnd l) (leaseOver p depot key) s

def execLeaseEnd (part depot key : Nat) (s : State) : Host.Outcome State Fault Refusal := .next (leaseEndAt part depot key s)

/-- HOME_EXPIRY (R292): EXPIRY of a record in no motion reaches zero. -/
def homeExpiry (p depot key : Nat) (s : State) : State :=
  match (memberOf s p depot).bind (fun m => (tget key m.homes).map (fun h => (m, h))) with
  | none => s
  | some (m, h) =>
    if h.r.st = .lost || (tget (homeSlot key) m.moving).isSome then s
    else timer (h.set + h.r.left * 1000) (fun s =>
      depCnt m key 0xB38 (putHome p depot key { h.r with st := .lost, left := 0 } s)) s

def execHomeExpiry (part depot key : Nat) (s : State) : Host.Outcome State Fault Refusal := .next (homeExpiry part depot key s)

/-- LOST_HOLD_EXPIRY (R292): a LOST home record, or a member's LOST record, is removed. -/
def lostHold (p depot key : Nat) (s : State) : State :=
  match memberOf s p depot with
  | none => s
  | some m =>
    let hold := m.params.lostHold * 1000000
    let s := match tget key m.homes with
      | some h => if h.r.st = .lost then timer (h.set + hold) (updMem p depot (fun m => { m with homes := tdel key m.homes })) s else s
      | none => s
    match tget key m.leases with
    | some l => if l.role = .lost then timer (l.since + hold) (updMem p depot (fun m => { m with leases := tdel key m.leases })) s else s
    | none => s

def execLostHoldExpiry (part depot key : Nat) (s : State) : Host.Outcome State Fault Refusal := .next (lostHold part depot key s)

/-! ### Hand-off -/

/-- DIGEST of a page's first tokens (Table 11.2). -/
def pageDigest (x : DepParams) (page : List Byte) (tokens : Nat) : Nat :=
  let w := x.d * x.es
  crc64 ((List.range tokens).flatMap (fun t =>
    (List.range x.hkv).flatMap (fun g => (page.drop ((g * x.tp + t) * w)).take w)
      ++ (List.range x.hkv).flatMap (fun g => (page.drop (131072 + (g * x.tp + t) * w)).take w)))

/-- The layers of a lease record as a copy. -/
def leaseCopy (s : State) (m : Member) (l : Lease) : List (Nat × List PageCopy) :=
  (List.range m.params.layers).map (fun y =>
    (tgetD l.lens y 0, (tgetD l.layers y []).map (fun e =>
      { tokens := e.tokens, digest := e.digest, data := storeBytes s e.page 262144
        sums := storeBytes s e.sums m.params.sumLen })))

/-- Land a copied page in the taker's pool (R288, R295). -/
def landPage (x : DepParams) (k : Nat) (pg : PageCopy) (m : Member) (s : State) : Option (LadEnt × Member) × State :=
  match takePage k m s with
  | (none, s) => (none, s)
  | (some (o, sb, m), s) =>
    let s := devWrite sb (padTo x.sumLen pg.sums) (devWrite o (padTo 262144 pg.data) s)
    (some ({ page := o, sums := sb, digest := pg.digest, tokens := pg.tokens, cell := x.cells.getD k 0 }, m), s)

/-- Land the pages of one layer. -/
def landLayer (x : DepParams) (pgs : List PageCopy) (m : Member) (s : State) : Option (List LadEnt × Member) × State :=
  (pgs.zip (List.range pgs.length)).foldl (fun acc y =>
    match acc.1 with
    | none => acc
    | some (es, m) => match landPage x (y.2 % x.cells.length) y.1 m acc.2 with
      | (none, s) => (none, s)
      | (some (e, m), s) => (some (es ++ [e], m), s)) (some ([], m), s)

/-- Land every layer of a hand-off. -/
def landLayers (x : DepParams) (ls : List (Nat × List PageCopy)) (m : Member) (s : State) :
    Option (Tab (List LadEnt) × Tab Nat × Member) × State :=
  (ls.zip (List.range ls.length)).foldl (fun acc y =>
    match acc.1 with
    | none => acc
    | some (es, ns, m) => match landLayer x y.1.2 m acc.2 with
      | (none, s) => (none, s)
      | (some (e, m), s) => (some (tput y.2 e es, tput y.2 y.1.1 ns, m), s)) (some ([], [], m), s)

/-- A hand-off is abandoned (Table 11.4): copied pages freed, the home told. -/
def abandon (p depot key : Nat) (st : Status) (s : State) : State :=
  match (memberOf s p depot).bind (fun m => tget key m.leases) with
  | none => s
  | some l => dropLease p depot key st (askHome .abandon p depot key l.epoch none s)

/-- HANDOFF_COPY_DONE (R295): every page is copied and its DIGEST recomputed; the commit is sent, or the hand-off is
abandoned. A source on this device is copied from its own pages. -/
def copyDone (p depot key : Nat) (okay : Bool) (layers : List (Nat × List PageCopy)) (s : State) : State :=
  match (memberOf s p depot).bind (fun m => (tget key m.leases).map (fun l => (m, l))) with
  | none => s
  | some (m, l) =>
    if l.role != .taking || l.committing then s
    else
      let own := if isOwn s l.src.1 then
          (memberOf s l.src.2 depot).bind (fun sm => (tget key sm.leases).map (leaseCopy s sm)) else some layers
      match own with
      | none => abandon p depot key .linkLost s
      | some ls =>
        let same := ls.all (fun y => y.2.all (fun g => pageDigest m.params (padTo 262144 g.data) g.tokens = g.digest))
        if !okay then abandon p depot key .linkLost s
        else if !same then abandon p depot key .checkFail s
        else match landLayers m.params ls m s with
          | (none, s) => abandon p depot key .quota s
          | (some (es, ns, m'), s) =>
            let l' := { l with layers := es, lens := ns, committing := true, since := s.now }
            let s := updMem p depot (fun m => { m with used := m'.used, leases := tput key l' m.leases }) s
            askHome .commit p depot key l.epoch none s

def execHandoffCopyDone (x : CopyEnd) (s : State) : Host.Outcome State Fault Refusal :=
  .next (dp (fun s => match x with
    | .taker part depot key okay layers => copyDone part depot key okay layers s
    | .home port m => execHomeRequest .abandon port m s) s)
/-- HANDOFF_COMMIT (R294, step 3). -/
def execHandoffCommit (port : Nat) (m : DepMsg) (s : State) : Host.Outcome State Fault Refusal :=
  .next (execHomeRequest .commit port m s)
/-- COMMIT_ACK (R293). -/
def execCommitAck (part depot key : Nat) (ans : HomeAns) (s : State) : Host.Outcome State Fault Refusal :=
  .next (dp (onAnswer .commit part depot key ans) s)
/-- SOURCE_DISCARD (R293): the source learns that a taker committed. -/
def execSourceDiscard (part depot key : Nat) (s : State) : Host.Outcome State Fault Refusal :=
  .next (dp (fun s => match (memberOf s part depot).bind (fun m => tget key m.leases) with
    | some l => if l.role = .released then dropLease part depot key .notOwner s else s
    | none => s) s)

/-! ### Resolution -/

/-- An operation waits on a key without a record. -/
def opWaits (s : State) (p key : Nat) : Bool :=
  s.eng.ops.any (fun x => x.2.part = p && x.2.st = .stalled && x.2.resolving && fld x.2.desc 32 8 = key)

/-- RESOLVE (R297): the cases in which a member queries the home. -/
def resolve (p depot key : Nat) (s : State) : State :=
  match memberOf s p depot with
  | none => s
  | some m =>
    let go := fun (s : State) =>
      let s := depCnt m key 0xB40 (updMem p depot (fun m => { m with resolving := tput key (tgetD m.resolving key s.now) m.resolving }) s)
      askHome .resolve p depot key (((tget key m.leases).map Lease.epoch).getD 0) none s
    match tget key m.leases with
    | some l =>
      if l.role = .released || (l.role = .taking && l.committing) then timer (l.since + m.params.handoff * 1000) go s else s
    | none =>
      let named := match tget key m.homes with
        | some h => h.r.st = .held && isOwn s h.r.owner && h.r.ownerPart = p
        | none => false
      if opWaits s p key || named then go s else s

def execResolve (part depot key : Nat) (s : State) : Host.Outcome State Fault Refusal := .next (dp (resolve part depot key) s)
/-- RESOLVE_ANSWER (R297, Table 11.5): the answer of a home on another device, or none within HANDOFF_TIMEOUT. -/
def execResolveAnswer (part depot key : Nat) (ans : HomeAns) (s : State) : Host.Outcome State Fault Refusal :=
  .next (dp (fun s => match memberOf s part depot with
    | none => s
    | some m =>
      match tget key m.resolving with
      | none => s
      | some t =>
        let s := if ans = .unreachable then reach (t + m.params.handoff * 1000) s else s
        let s := onAnswer .resolve part depot key ans s
        updMem part depot (fun m => { m with resolving := if ans = .unreachable then tput key s.now m.resolving else tdel key m.resolving }) s) s)

/-! ### Map changes -/

/-- Send the home records of a slot, in key order, and the end marker (R299, Table 11.6). A receiver on this device takes
them at once. -/
def sendSlot (p depot i dev dp' : Nat) (s : State) : State :=
  match memberOf s p depot with
  | none => s
  | some m =>
    let rs := m.homes.filter (fun x => homeSlot x.1 = i)
    let s := cnt (cellReg (m.slotCell i) 0xB50) rs.length s
    let rs' := rs.map (fun x => (x.1, { x.2.r with left := x.2.left s.now }))
    match routePort s dev with
    | some po => rs'.foldl (fun s x => emit (.link po
        { kind := .depot, args := [40, depot, dp', i, x.1, x.2.epoch, x.2.owner, x.2.ownerPart, x.2.left] }) s)
        (emit (.link po { kind := .depot, args := [41, depot, dp', i] }) s)
    | none => s

/-- Serve the requests held for a slot, or for a map generation now in force (R299). -/
def serveHeld (p depot : Nat) (s : State) : State :=
  match memberOf s p depot with
  | none => s
  | some m =>
    let ready := fun (h : DepHeld) => decide (h.m.mapgen ≤ m.mapgen) && (tget (homeSlot h.m.key) m.moving).isNone
    let s := updMem p depot (fun m => { m with held := m.held.filter (fun h => !ready h) }) s
    (m.held.filter ready).foldl (fun s h => homeServe h.kind h.port h.m s) s

/-- HOME_RECORDS_RECEIVED (R299, R300): records sent by a map change arrive with the time they had left. -/
def recordsReceived (p depot : Nat) (rs : List (Nat × HomeRec)) (s : State) : State :=
  rs.foldl (fun s x => match (memberOf s p depot).bind (fun m => tget (homeSlot x.1) m.moving) with
    | some mv => if mv.sending then s else putHome p depot x.1 x.2 s
    | none => s) s

def execHomeRecordsReceived (part depot : Nat) (rs : List (Nat × HomeRec)) (s : State) : Host.Outcome State Fault Refusal :=
  .next (dp (recordsReceived part depot rs) s)

/-- A slot leaves RECEIVING: its records' EXPIRY runs from now (R300). -/
def slotOwned (p depot i : Nat) (s : State) : State :=
  serveHeld p depot (updMem p depot (fun m => { m with
    moving := tdel i m.moving
    homes := m.homes.map (fun h => if homeSlot h.1 = i then (h.1, { h.2 with set := s.now }) else h) }) s)

/-- END_MARKER (Table 11.6). -/
def execEndMarker (part depot slot : Nat) (s : State) : Host.Outcome State Fault Refusal :=
  .next (dp (fun s => match (memberOf s part depot).bind (fun m => tget slot m.moving) with
    | some mv => if mv.sending then s else slotOwned part depot slot s
    | none => s) s)

/-- A sent slot is no longer this member's: its records are freed. -/
def slotSent (p depot i : Nat) (s : State) : State :=
  serveHeld p depot (updMem p depot (fun m => { m with
    moving := tdel i m.moving, homes := m.homes.filter (fun h => homeSlot h.1 != i) }) s)

/-- RECORDS_ACKNOWLEDGED (Table 11.6). -/
def execRecordsAcknowledged (part depot slot : Nat) (s : State) : Host.Outcome State Fault Refusal :=
  .next (dp (fun s => match (memberOf s part depot).bind (fun m => tget slot m.moving) with
    | some mv => if mv.sending then slotSent part depot slot s else s
    | none => s) s)

/-- HELD_REQUEST_TIMEOUT (R299): the `i`-th held request ends with BUSY. -/
def execHeldRequestTimeout (part depot i : Nat) (s : State) : Host.Outcome State Fault Refusal :=
  .next (match (memberOf s part depot).bind (fun m => (m.held[i]?).map (fun h => (m, h))) with
    | none => s
    | some (m, h) =>
      timer (h.since + m.params.handoff * 1000) (fun s =>
        sendAnswer h.kind h.port h.m (.refused .busy) (updMem part depot (fun m => { m with held := dropAt i m.held }) s)) s)

/-- A link between members is lost while slots move (Table 11.6): at the receiver the slot is OWNED and the records not
yet acknowledged are LOST, at the sender it is NOT_OWNED. -/
def depLinkLost (dev : Nat) (s : State) : State :=
  s.dep.members.foldl (fun s x =>
    (x.2.moving.filter (fun v => v.2.dev = dev)).foldl (fun s v =>
      if v.2.sending then slotSent x.2.part x.2.depot v.1 s
      else slotOwned x.2.part x.2.depot v.1 (updMem x.2.part x.2.depot (fun m => { m with
        homes := m.homes.map (fun h => if homeSlot h.1 = v.1 && h.2.r.st != .held then (h.1, { h.2 with r := { h.2.r with st := .lost } }) else h) }) s)) s) s

/-- Put a new home map in force, slot by slot (R299, Table 11.6). A member's first map with MAPGEN 1 is a new Depot's: its
slots have no earlier home (log 20). -/
def mapSet (p depot gen : Nat) (map : List Nat) (s : State) : State :=
  match memberOf s p depot with
  | none => s
  | some m =>
    let m' := { m with mapgen := gen, map := map }
    let fresh := m.mapgen = 0 && gen = 1
    let s := updMem p depot (fun _ => m') s
    let s := (List.range 4096).foldl (fun s i =>
      let was := m.mine s i
      let now := m'.mine s i
      let v := m'.slot i
      if was && !now then
        if isOwn s (slotDev v) then s
        else sendSlot p depot i (slotDev v) (slotPart v) (updMem p depot (fun m => { m with
          moving := tput i { sending := true, dev := slotDev v, part := slotPart v } m.moving }) s)
      else if !was && now && !fresh then
        let o := m.slot i
        updMem p depot (fun m => { m with moving := tput i { sending := false, dev := slotDev o, part := slotPart o } m.moving }) s
      else s) s
    serveHeld p depot s

/-- Slots that move between two members of this device: the records go over once both maps name the receiver. -/
def localMoves (p depot : Nat) (s : State) : State :=
  match memberOf s p depot with
  | none => s
  | some m =>
    (List.range 4096).foldl (fun s i =>
      let v := m.slot i
      if isOwn s (slotDev v) && slotPart v != p then
        let rs := (m.homes.filter (fun h => homeSlot h.1 = i)).map (fun h => (h.1, { h.2.r with left := h.2.left s.now }))
        match (memberOf s (slotPart v) depot).bind (fun r => tget i r.moving) with
        | some mv => if mv.sending then s
          else slotOwned (slotPart v) depot i (recordsReceived (slotPart v) depot rs (slotSent p depot i s))
        | none => s
      else s) s

/-! ### Commands of group 0x07 -/

/-- A member named by PART and DEPOT_ID. -/
def depChk (s : State) (n : Nat) (c : Cmd) : CChk :=
  { exist := (memberOf s c.part (c.arg 4 4)).isSome, mine := c.part + 1 = n }

/-- DEPOT_CREATE's parameters (Table 17.9). -/
def depParams (s : State) (c : Cmd) : DepParams :=
  { hkv := c.arg 1 1, kfmt := c.arg 2 1, pool := c.arg 8 8, d := c.arg 16 2, layers := c.arg 18 2
    cells := if c.arg 20 4 = 0 then partCells s c.part else maskCells (c.arg 20 4)
    lease := c.arg 24 4, handoff := c.arg 28 4, lostHold := c.arg 32 4 }

/-- The parameter set whose SHA-384 members compare (R284): the command's argument bytes beside PART and DEPOT_ID. -/
def depDigest (c : Cmd) : Nat :=
  Config.sha384 ((c.args.drop 1).take 2 ++ (c.args.drop 8).take 28)

/-- DEPOT_CREATE (R284, R432). -/
def depCreate (n : Nat) (c : Cmd) (s : State) : State :=
  let x := depParams s c
  let id := c.arg 4 4
  let q := ((partOf s c.part).map Part.q).getD 0
  refuseOr n
    [(x.pool = 0, 0x0021),
     (!x.ok || !x.cells.all (partCells s c.part).contains, 0x0121),
     ((memberOf s c.part id).isSome, 0x0242),
     (!reserveFits s c.part (nblk x.pool) none || decide (q = 0), 0x0323)]
    (fun s =>
      match makeAlloc { size := x.pool, tier := .managed, cells := x.cells, near := x.cells, ctx := 0, part := c.part } s with
      | (none, s) => complete n 0x0323 [] s
      | (some b, s) =>
        let m : Member := { depot := id, part := c.part, params := x, digest := depDigest c, base := b }
        complete n 0 (leBytes 48 m.digest) { s with dep := { s.dep with members := tput (memKey c.part id) m s.dep.members } }) s

def execDepotCreate (mb : Nat) (s : State) : Host.Outcome State Fault Refusal :=
  .next (catalogue mb 0x0701 (fun s c =>
    { exist := (partOf s c.part).isSome, ready := cellsReady s (depParams s c).cells }) (depCreate mb) s)

/-- The cells of the member a command names are ready (R532). -/
def memberReady (s : State) (c : Cmd) : Bool :=
  match memberOf s c.part (c.arg 4 4) with
  | some m => cellsReady s m.params.cells
  | none => true

/-- DEPOT_MAP_SET (R286, R299). -/
def depMapSet (n : Nat) (c : Cmd) (s : State) : State :=
  let gen := c.arg 8 4
  let map := (List.range 4096).map (fun i => c.arg (48 + 4 * i) 4)
  let cur := ((memberOf s c.part (c.arg 4 4)).map Member.mapgen).getD 0
  refuseOr n
    [(map.any (fun v => !slotValid v || bitsOf v 30 17 != 0), 0x0421),
     (decide (gen ≤ cur), 0x0542)]
    (fun s => complete n 0 [] (localMoves c.part (c.arg 4 4) (mapSet c.part (c.arg 4 4) gen map s))) s

def execDepotMapSet (mb : Nat) (s : State) : Host.Outcome State Fault Refusal :=
  .next (catalogue mb 0x0702 (fun s c =>
    { depChk s mb c with ready := memberReady s c }) (depMapSet mb) s)

/-- A command on a key whose home is asked; `op` is its opcode. -/
def depKeyCmd (op : Nat) (n : Nat) (body : Cmd → Member → State → State) (s : State) : State :=
  catalogue n op (fun s c => depChk s n c) (fun c s => match memberOf s c.part (c.arg 4 4) with
    | some m => body c m s
    | none => s) s

/-- DEPOT_OPEN (R293). -/
def depOpen (n : Nat) (ans : HomeAns) (c : Cmd) (m : Member) (s : State) : State :=
  let key := c.arg 8 8
  refuseOr n
    [(m.mapgen = 0, 0x0660), (decide (262144 ≤ m.leases.length) && (tget key m.leases).isNone, 0x0023)]
    (askHome .open c.part m.depot key 0 (some ans)) s

def execDepotOpen (x : DepSide) (s : State) : Host.Outcome State Fault Refusal :=
  .next (match x with
    | .command mb ans => depKeyCmd 0x0703 mb (depOpen mb ans) s
    | .request port m => execHomeRequest .open port m s)

/-- Send a DEPOT_RELEASE once no operation on the key runs (R293). -/
def releaseGo (p depot key : Nat) (s : State) : State :=
  match (memberOf s p depot).bind (fun m => tget key m.leases) with
  | some l => match l.releasing with
    | some ans => if (keyOps s p key).isEmpty then askHome .release p depot key l.epoch (some ans) s else s
    | none => s
  | none => s

/-- DEPOT_RELEASE (R294, step 1). -/
def depRelease (n : Nat) (ans : HomeAns) (c : Cmd) (m : Member) (s : State) : State :=
  let key := c.arg 8 8
  match tget key m.leases with
  | some l =>
    if l.role = .owner && l.epoch = c.arg 16 4 then
      releaseGo c.part m.depot key (updLease c.part m.depot key (fun l => { l with releasing := some ans }) s)
    else complete n 0x0044 [] s
  | none => complete n 0x0044 [] s

def execDepotRelease (x : DepSide) (s : State) : Host.Outcome State Fault Refusal :=
  .next (match x with
    | .command mb ans => depKeyCmd 0x0704 mb (depRelease mb ans) s
    | .request port m => execHomeRequest .release port m s)

/-- DEPOT_ACQUIRE (R294, step 2). -/
def depAcquire (n : Nat) (ans : HomeAns) (c : Cmd) (m : Member) (s : State) : State :=
  let key := c.arg 8 8
  let e := c.arg 16 4
  let busy := match tget key m.leases with | some l => l.role != .released | none => false
  refuseOr n
    [(e = 0 || e = 2 ^ 32 - 1, 0x0021), (m.mapgen = 0, 0x0660), (busy, 0x0042),
     (decide (262144 ≤ m.leases.length) && (tget key m.leases).isNone, 0x0023)]
    (askHome .acquire c.part m.depot key e (some ans)) s

def execDepotAcquire (x : DepSide) (s : State) : Host.Outcome State Fault Refusal :=
  .next (match x with
    | .command mb ans => depKeyCmd 0x0705 mb (depAcquire mb ans) s
    | .request port m => execHomeRequest .acquire port m s)

/-- DEPOT_CLOSE (R293). -/
def depClose (n : Nat) (ans : HomeAns) (c : Cmd) (m : Member) (s : State) : State :=
  let key := c.arg 8 8
  match tget key m.leases with
  | some l =>
    if l.role != .lost && l.epoch = c.arg 16 4 then askHome .close c.part m.depot key l.epoch (some ans) s
    else complete n 0x0044 [] s
  | none => complete n 0x0044 [] s

def execDepotClose (x : DepSide) (s : State) : Host.Outcome State Fault Refusal :=
  .next (match x with
    | .command mb ans => depKeyCmd 0x0706 mb (depClose mb ans) s
    | .request port m => execHomeRequest .close port m s)

/-- DEPOT_DESTROY (R301). -/
def execDepotDestroy (mb : Nat) (s : State) : Host.Outcome State Fault Refusal :=
  .next (depKeyCmd 0x0707 mb (fun c m s => refuseOr mb
    [(m.leases != [] || m.moving != [] || (List.range 4096).any (m.mine s), 0x0060)]
    (fun s => complete mb 0 [] (freeAlloc m.base { s with dep := { s.dep with members := tdel (memKey c.part m.depot) s.dep.members } })) s) s)

/-- DEPOT_GET (R432). -/
def execDepotGet (mb : Nat) (s : State) : Host.Outcome State Fault Refusal :=
  .next (depKeyCmd 0x0708 mb (fun c m s =>
    let l := tget (c.arg 8 8) m.leases
    complete mb 0 (leBytes 4 (m.role (c.arg 8 8)) ++ leBytes 4 ((l.map Lease.epoch).getD 0) ++ leBytes 4 m.mapgen) s) s)

end Sys2Proof.Machine
end

