-- ==== Sys2Proof/Machine/Assay.lean ====
section
/-! DEFINITION. Assay engines and their indexes (R315 to R333): slots and versions, SCAN, WALK and RERANK, repair and
sweeps, and the commands of group 0x08 (R433). -/

namespace Sys2Proof.Machine

open Sys2Proof

/-! ### Indexes -/

/-- All ones in 48 and 32 bits. -/
def ones48 : Nat := 2 ^ 48 - 1
def ones32 : Nat := 2 ^ 32 - 1

def idxKey (p n : Nat) : Nat := p * 64 + n
def idxOf (s : State) (p n : Nat) : Option Index := if n < 64 then tget (idxKey p n) s.idx else none
def updIdx (p n : Nat) (f : Index → Index) (s : State) : State := { s with idx := tupd (idxKey p n) f s.idx }

/-- Bytes of a sketch, slots in a page, pages, and bytes of a vector (R317, Table 12.2). -/
def Index.sk (x : Index) : Nat := x.sbits / 8
def Index.perPage (x : Index) : Nat := 4032 / (16 + x.sk)
def Index.pages (x : Index) : Nat := (x.cap + x.perPage - 1) / x.perPage
def Index.es (x : Index) : Nat := fmtBits x.vfmt / 8
def Index.vstride (x : Index) : Nat := (x.dim * x.es + 63) / 64 * 64
/-- Page of a slot, list page of a slot, and the channels that hold them. -/
def Index.pageOf (x : Index) (slot : Nat) : Nat := slot / x.perPage
def Index.listPage (x : Index) (slot : Nat) : Nat := slot * 4 * x.degree / 4096
def Index.chan (x : Index) (page : Nat) : Nat := x.channels.getD (page % x.channels.length) 0

/-- Visible at a version (R318). -/
def IdxSlot.visible (y : IdxSlot) (v : Nat) : Bool := decide (y.ins ≤ v) && decide (v < y.del)

/-- The slot is live at a version. -/
def Index.live (x : Index) (slot v : Nat) : Bool := ((tget slot x.slots).map (fun y => y.visible v)).getD false

/-- A target is dead at a version: deleted at or before it, or no slot of the index (R327). -/
def Index.dead (x : Index) (slot v : Nat) : Bool :=
  decide (x.cap ≤ slot) || (match tget slot x.slots with | some y => decide (y.del ≤ v) | none => false)

/-- The list of a slot (R317). -/
def Index.listOf (x : Index) (slot : Nat) : List Nat := ((tget slot x.slots).map IdxSlot.list).getD (List.replicate x.degree ones32)

/-- The index a running search uses holds its version (R320). -/
def searchHolds (s : State) (p n : Nat) : List Nat :=
  (s.eng.ops.filter (fun o => (o.2.hold.map Prod.fst) = some (idxKey p n))).map (fun o => (o.2.hold.map Prod.snd).getD 0)

/-- The floor (R320). -/
def idxFloor (s : State) (x : Index) : Nat := ((x.holds ++ searchHolds s x.part x.num).foldl min x.version)

/-- Free slots: written empty, lists cleared, counted at the channel of their sketch page (R333). -/
def freeSlots (x : Index) (ss : List Nat) (s : State) : State :=
  let s := ss.foldl (fun s k => cnt (fchReg (x.chan (x.pageOf k)) 0x148) 1 s) s
  updIdx x.part x.num (fun x => { x with slots := x.slots.filter (fun y => !ss.contains y.1) }) s

/-- Deleted slots at or below the floor (R333). -/
def reclaimable (s : State) (x : Index) : List Nat :=
  (x.slots.filter (fun y => decide (y.2.del ≤ idxFloor s x))).map Prod.fst

/-- With DEGREE 0, reclaimable slots are freed at once (R333). -/
def reclaimAll (s : State) : State :=
  s.idx.foldl (fun s y => if y.2.degree = 0 && reclaimable s y.2 != [] then freeSlots y.2 (reclaimable s y.2) s else s) s

/-- A slot's bytes in its sketch page (Table 12.3); an empty slot has a sketch of zeros (log 22). -/
def Index.slotBytes (x : Index) (k : Nat) : List Byte :=
  match tget k x.slots with
  | some y => leBytes 4 y.node ++ leBytes 6 y.ins ++ leBytes 6 y.del ++ padTo x.sk y.sketch
  | none => leBytes 4 ones32 ++ leBytes 6 ones48 ++ leBytes 6 ones48 ++ List.replicate x.sk 0

/-- A sketch page whole (R317). -/
def Index.pageBytes (x : Index) (p : Nat) : List Byte :=
  padTo 4096 (leBytes 2 x.num ++ leBytes 2 0 ++ leBytes 4 p ++ List.replicate 56 0
    ++ (List.range (min x.perPage (x.cap - p * x.perPage))).flatMap (fun i => x.slotBytes (p * x.perPage + i)))

/-- Ones in a byte. -/
def ones (b : Byte) : Nat := ((List.range 8).filter (fun i => b.getLsbD i)).length
/-- Hamming distance of two sketches. -/
def hamming (a b : List Byte) : Nat := (List.zipWith (fun x y => ones (x ^^^ y)) a b).sum

/-! ### Descriptors -/

/-- The Assay body (Table 12.4). -/
structure AsyB where
  op : Nat
  flags : Nat
  index : Nat
  qn : Nat
  k : Nat
  ver : Nat
  kin : Nat
  ldq : Nat
  q : Nat
  out : Nat
  inp : Nat
  work : Nat
  workLen : Nat
  first : Nat
  pages : Nat
  nentry : Nat
  prefetch : Nat
deriving DecidableEq, Repr

def asyBody (d : List Byte) : AsyB :=
  { op := dOp d, flags := dFlags d, index := fld d 32 1, qn := fld d 33 1, k := fld d 34 2, ver := fld d 36 6
    kin := fld d 42 2, ldq := fld d 44 4, q := fld d 48 8, out := fld d 56 8, inp := fld d 64 8, work := fld d 72 8
    workLen := fld d 80 4, first := fld d 84 4, pages := fld d 88 4, nentry := fld d 92 1, prefetch := fld d 93 1 }

/-- Bytes of a query. -/
def AsyB.qlen (b : AsyB) (x : Index) : Nat := if b.op = 0x22 then x.dim * x.es else x.sk
/-- Ranges read: the queries and IN. -/
def AsyB.inputs (b : AsyB) (x : Index) : List (Nat × Nat) :=
  [(b.q, (b.qn - 1) * b.ldq + b.qlen x)]
    ++ (if b.op = 0x21 then [(b.inp, b.qn * b.nentry * 4)] else if b.op = 0x22 then [(b.inp, b.first * b.qn * b.kin * 16)] else [])
/-- The output range. -/
def AsyB.output (b : AsyB) : Nat × Nat := (b.out, b.qn * b.k * 16)

/-- Local pages a SCAN covers: first and count (R326). -/
def scanPages (x : Index) (b : AsyB) (c : Nat) : List Nat :=
  let n := x.channels.length
  match x.channels.findIdx? (· = c) with
  | none => []
  | some i =>
    let last := (x.pages + n - 1 - i) / n
    let stop := if b.pages = 0 then last else min last (b.first + b.pages)
    (span b.first (stop - b.first)).map (fun j => i + n * j)

/-- Slots of a page. -/
def Index.pageSlots (x : Index) (p : Nat) : List Nat := span (p * x.perPage) (min x.perPage (x.cap - p * x.perPage))

/-- Elements of an operation where they are known before it runs; those of WALK and RERANK are not stated (log 3). -/
def asyTotal (s : State) (part c id : Nat) (d : List Byte) : Nat :=
  let b := asyBody d
  match idxOf s part b.index with
  | some x => if b.op = 0x20 then ((scanPages x b c).map (fun p => (x.pageSlots p).length)).sum else Config.freeOf 150 [id] % 2 ^ 32
  | none => Config.freeOf 150 [id] % 2 ^ 32

/-- The search version (Table 12.4). -/
def AsyB.version (b : AsyB) (x : Index) : Nat := if b.ver = 0 then x.version else b.ver

/-- Fields within Table 12.4. -/
def asyFields (b : AsyB) (x : Index) (c : Nat) : Bool :=
  let common := decide (b.qn ≤ 64) && decide (b.k ≤ 1024) && decide (b.qlen x ≤ b.ldq)
  match b.op with
  | 0x20 => common && x.channels.contains c && b.kin = 0 && b.inp = 0 && b.work = 0 && b.workLen = 0 && b.nentry = 0 && b.prefetch = 0
  | 0x21 => common && x.channels.contains c && x.degree != 0 && b.kin = 0 && decide (b.k ≤ b.first) && decide (b.first ≤ 4096)
      && decide (1 ≤ b.pages) && decide (b.pages ≤ 65535) && decide (1 ≤ b.nentry) && decide (b.nentry ≤ 16) && decide (b.prefetch ≤ 16)
      && decide (b.qn * (16 * b.first + 4 * x.degree * b.pages + 4096 * (b.prefetch + 1) * (x.degree + 1)) ≤ b.workLen)
  | _ => common && b.ver = 0 && decide (1 ≤ b.kin) && decide (b.kin ≤ 1024) && decide (1 ≤ b.first) && decide (b.first ≤ 64)
      && decide (b.pages ≤ 1) && b.nentry = 0 && b.prefetch = 0 && decide (3 * 64 * x.vstride ≤ b.workLen)

/-- WORK lies where its operation needs it: store in HBM for WALK, the engine's scratchpad for RERANK (Table 12.4). -/
def workOk (s : State) (b : AsyB) (p c : Nat) : Bool :=
  let a := Sa.of (BitVec.ofNat 64 b.work)
  match b.op with
  | 0x21 => ownStore s b.work && (match allocAt s a.off with
      | some (base, al) => al.tier = .hbm && decide (a.off + b.workLen ≤ base + al.extent)
      | none => false)
  | 0x22 => spadRange s p b.work b.workLen && a.off / 2 ^ 26 = c
  | _ => true

/-- Validation of an Assay descriptor up to check 10 (Table 12.5). -/
def asyCheck (o : EngOp) (s : State) : Option Status :=
  let d := o.desc
  let b := asyBody d
  let own := storeBytes s o.sa 128
  let tc := tallyCheck s o.ctx (dTally d)
  match idxOf s o.part b.index with
  | none => firstBad
      [(1 < o.n && fld own 8 8 != dWaybill d + 64 * o.slot, .invalidArg),
       (decide (1 < b.flags) || !zeroAt d 94 34, .invalidArg),
       (!(decide (0x20 ≤ b.op) && decide (b.op ≤ 0x22)), .unsupported), (true, .faultAccess)]
  | some x =>
    let v := b.version x
    let ins := b.inputs x
    let wr := (b.work, b.workLen)
    firstBad
      [(1 < o.n && fld own 8 8 != dWaybill d + 64 * o.slot, .invalidArg),
       (decide (1 < b.flags) || !zeroAt d 94 34, .invalidArg),
       (!(decide (0x20 ≤ b.op) && decide (b.op ≤ 0x22)), .unsupported),
       (!ctxIssues s o.ctx o.part, .faultAccess),
       (b.qn = 0 || b.k = 0, .doneEmpty),
       (!asyFields b x o.unit, .invalidArg),
       (b.op != 0x22 && decide (x.version < v), .invalidArg),
       (b.op != 0x22 && decide (v < idxFloor s x), .conflict),
       ([b.q, b.out, b.inp, b.work, b.ldq].any (fun a => a % 64 != 0), .faultAlign),
       ((b.output :: ins).any (fun r => !opRange s o.part r.1 r.2) || !workOk s b o.part o.unit, .faultAccess),
       (tc.isSome, tc.getD .done),
       (ins.any (fun r => overlap b.out b.output.2 r.1 r.2) || (b.work != 0 && overlap b.out b.output.2 wr.1 wr.2), .invalidArg)]

/-! ### Candidate lists (R325) -/

/-- A candidate: its slot, its NODE, the DIST word, and what it sorts by. -/
structure Cand where
  slot : Nat
  node : Nat
  dist : Nat
  key : Nat
deriving DecidableEq, Repr

/-- Ascending distance, then ascending SLOT. -/
def Cand.lt (a b : Cand) : Bool := decide (a.key < b.key) || (a.key = b.key && decide (a.slot < b.slot))

/-- Insert in order, keeping at most `k`. -/
def offer (k : Nat) (x : Cand) (l : List Cand) : List Cand :=
  let before := l.filter (fun y => Cand.lt y x)
  let after := l.filter (fun y => !Cand.lt y x)
  (before ++ x :: after).take k

/-- The entries of a query (Table 12.6), padded to K. -/
def candBytes (k : Nat) (l : List Cand) : List Byte :=
  (l.take k).flatMap (fun x => leBytes 4 x.slot ++ leBytes 4 x.node ++ leBytes 4 x.dist ++ leBytes 4 0)
    ++ (List.replicate (k - l.length) (leBytes 4 ones32 ++ leBytes 4 ones32 ++ leBytes 4 ones32 ++ leBytes 4 0)).flatten

/-- A query's bytes. -/
def AsyB.query (b : AsyB) (x : Index) (s : State) (j : Nat) : List Byte := rangeBytes s (b.q + j * b.ldq) (b.qlen x)

/-- Sketch page observed failed or bad. -/
def obsPage (g : AsyObs) (p : Nat) : Bool := g.pages.contains p || g.failed.contains p

/-- Faults of a search met on the way (Table 12.7, R233). -/
def asyStatus (bad failed : Bool) (dropped : Nat) : Status :=
  if bad then .faultPoison else if failed then .tierFailed else if 0 < dropped then .donePartialDrop else .done

/-! ### SCAN (R326) -/

/-- Run a SCAN. -/
def scanRun (o : EngOp) (b : AsyB) (x : Index) (g : AsyObs) (s : State) : EngOp × State :=
  let v := b.version x
  let ps := scanPages x b o.unit
  let dead := fun (p : Nat) => (targets s (x.chan p)).isEmpty
  let good := ps.filter (fun p => !obsPage g p && !dead p)
  let slots := good.flatMap (fun p => (x.pageSlots p).filterMap (fun k => (tget k x.slots).bind (fun y => if y.visible v then some (k, y) else none)))
  let lists := (List.range b.qn).map (fun j =>
    let q := b.query x s j
    slots.foldl (fun l y => let d := hamming q (padTo x.sk y.2.sketch); offer b.k { slot := y.1, node := y.2.node, dist := d, key := d } l) [])
  let n := (ps.map (fun p => (x.pageSlots p).length)).sum
  let lost := ((ps.filter (fun p => !good.contains p)).map (fun p => (x.pageSlots p).length)).sum
  let data := lists.flatMap (candBytes b.k)
  let dig := crc64 ((List.range b.qn).flatMap (b.query x s) ++ good.flatMap x.pageBytes)
  let bad := ps.any (fun p => g.pages.contains p)
  let s := cnt (fchReg o.unit 0x118) slots.length (cnt (fchReg o.unit 0x110) ps.length s)
  ({ o with st := .running, outs := [{ sa := b.out, data := data, poison := false }], inDig := dig, total := n
            processed := n - lost, dropped := lost, poisoned := bad, check := .exact
            status := if lost = 0 then .done else asyStatus bad true 0 }, s)

/-! ### WALK (R327) -/

/-- What a walk has gathered: beam, expanded slots, slots seen, edges followed and dropped, dead edges to repair, list
bytes read, expansions, pages fetched, and what went bad. -/
structure Walk where
  beam : List Cand := []
  expanded : List Nat := []
  seen : List Nat := []
  good : Nat := 0
  dead : Nat := 0
  lost : Nat := 0
  queue : List (Nat × Nat) := []
  read : List Byte := []
  steps : Nat := 0
  fetched : Nat := 0
  bad : Bool := false
  failed : Bool := false
deriving DecidableEq, Repr

/-- Meet an edge from a list (or an entry slot, where `src` is none). -/
def walkEdge (x : Index) (v beam : Nat) (q : List Byte) (g : AsyObs) (src : Option Nat) (t : Nat) (w : Walk) : Walk :=
  if src.isSome && t = ones32 then w
  else if x.dead t v then { w with dead := w.dead + 1, queue := match src with | some k => w.queue ++ [(k, t)] | none => w.queue }
  else match tget t x.slots with
    | none => w
    | some y =>
      if obsPage g (x.pageOf t) then
        { w with lost := w.lost + 1, bad := w.bad || g.pages.contains (x.pageOf t), failed := w.failed || g.failed.contains (x.pageOf t) }
      else if !y.visible v then w
      else
        let w := { w with good := w.good + 1 }
        if w.seen.contains t then w
        else
          let d := hamming q (padTo x.sk y.sketch)
          { w with seen := t :: w.seen, beam := offer beam { slot := t, node := y.node, dist := d, key := d } w.beam }

/-- Expand the best unexpanded slots, at most `n` (R327). -/
def walkGo (x : Index) (v beam : Nat) (q : List Byte) (g : AsyObs) : Nat → Walk → Walk
  | 0, w => w
  | n + 1, w =>
    match w.beam.find? (fun c => !w.expanded.contains c.slot) with
    | none => w
    | some c =>
      let w := { w with expanded := c.slot :: w.expanded, steps := w.steps + 1, fetched := w.fetched + 1 }
      if g.lists.contains (x.listPage c.slot) then
        walkGo x v beam q g n { w with lost := w.lost + x.degree, bad := true }
      else
        let l := x.listOf c.slot
        let ts := l.filter (fun t => t != ones32)
        let w := { w with read := w.read ++ l.flatMap (leBytes 4), fetched := w.fetched + ((ts.map x.pageOf).eraseDups).length }
        walkGo x v beam q g n (l.foldl (fun w t => walkEdge x v beam q g (some c.slot) t w) w)

/-- Queue dead edges for repair: duplicates merge, a full queue discards (R332). -/
def queueRepair (p n : Nat) (es : List (Nat × Nat)) (s : State) : State :=
  es.foldl (fun s e => match idxOf s p n with
    | none => s
    | some x =>
      if x.repq.contains e then s
      else if 65536 ≤ x.repq.length then cnt (fchReg (x.chan (x.listPage e.1)) 0x140) 1 s
      else updIdx p n (fun x => { x with repq := x.repq ++ [e] }) s) s

/-- Run a WALK. -/
def walkRun (o : EngOp) (b : AsyB) (x : Index) (g : AsyObs) (s : State) : EngOp × State :=
  let v := b.version x
  let ent := fun (j : Nat) => (List.range b.nentry).map (fun i => leNat (rangeBytes s (b.inp + (j * b.nentry + i) * 4) 4))
  let walks := (List.range b.qn).map (fun j =>
    let q := b.query x s j
    walkGo x v b.first q g b.pages ((ent j).foldl (fun w t => walkEdge x v b.first q g none t w) {}))
  let data := walks.flatMap (fun w => candBytes b.k w.beam)
  let good := (walks.map Walk.good).sum
  let dead := (walks.map Walk.dead).sum
  let lost := (walks.map Walk.lost).sum
  let bad := walks.any Walk.bad
  let dig := crc64 ((List.range b.qn).flatMap (b.query x s) ++ rangeBytes s b.inp (b.qn * b.nentry * 4) ++ walks.flatMap Walk.read)
  let steps := (walks.map Walk.steps).sum
  let s := cnt (fchReg o.unit 0x130) dead (cnt (fchReg o.unit 0x120) ((walks.map Walk.fetched).sum) s)
  let s := cnt (fchReg o.unit 0x128) (if b.prefetch = 0 then 0 else Config.freeOf 151 [o.id] % (steps + 1)) s
  let s := queueRepair o.part x.num (walks.flatMap Walk.queue) s
  ({ o with st := .running, outs := [{ sa := b.out, data := data, poison := false }], inDig := dig
            total := good + dead + lost, processed := good, dropped := dead + lost, poisoned := bad, check := .exact
            work := some (b.work, b.workLen), status := asyStatus bad (walks.any Walk.failed) dead }, s)

/-! ### RERANK (R328) -/

/-- The sort key of an FP32 distance: finite values in order, non-finite ones after them. -/
def distKey (v : Nat) : Nat :=
  match ofF32 v with
  | .fin _ 0 _ => 2 ^ 31
  | .fin true _ _ => 2 ^ 32 - v
  | .fin false _ _ => v + 2 ^ 31
  | _ => 2 ^ 33

/-- Entries of query `j` in the IN lists: (position in IN, slot, node), pads skipped. -/
def inEntries (b : AsyB) (s : State) (j : Nat) : List (Nat × Nat × Nat) :=
  ((List.range b.first).flatMap (fun l => (List.range b.kin).map (fun e => l * b.qn * b.kin + j * b.kin + e))).filterMap (fun p =>
    let slot := leNat (rangeBytes s (b.inp + p * 16) 4)
    if slot = ones32 then none else some (p, slot, leNat (rangeBytes s (b.inp + p * 16 + 4) 4)))

/-- The distance of a query to a slot's vector (R328): FP32 bits, and whether all that it used was finite. -/
def rerankDist (o : EngOp) (x : Index) (q : List Byte) (j slot : Nat) : Nat × Bool :=
  let v := tgetD x.vecs slot (List.replicate (x.dim * x.es) 0)
  let norm := ofF32 (tgetD x.norms slot 0)
  let es := (List.range x.dim).map (fun k => (elemVal x.vfmt q none k, elemVal x.vfmt v none k))
  let acc := if isInt x.vfmt then fp32.near ((es.map (fun e => Fv.mul e.1 e.2)).foldl Fv.add Fv.zero)
    else accumulate [o.id, o.retries, j, slot] (narrowPair x.vfmt x.vfmt) (es.map (fun e => Fv.mul e.1 e.2))
  let z := if x.ip then mul32 (Fv.fin true 1 0) acc else add32 (mul32 (Fv.fin true 1 1) acc) norm
  (toF32 z, es.all (fun e => e.1.isFin && e.2.isFin) && z.isFin && (x.ip || norm.isFin))

/-- The logical matrix unit of a RERANK (R328). -/
def AsyB.munit (b : AsyB) (c : Nat) : Nat := 2 * c + b.pages

/-- Run a RERANK. -/
def rerankRun (o : EngOp) (b : AsyB) (x : Index) (g : AsyObs) (s : State) : EngOp × State :=
  let ins := (List.range b.qn).map (fun j =>
    (inEntries b s j).foldl (fun (t : Tab Nat) e => if (tget e.2.1 t).isSome then t else tput e.2.1 e.2.2 t) [])
  let okS := fun (k : Nat) => !g.slots.contains k
  let res := (ins.zip (List.range b.qn)).map (fun y => (y.1.filter (fun e => okS e.1)).map (fun e =>
    let d := rerankDist o x (b.query x s y.2) y.2 e.1
    (({ slot := e.1, node := e.2, dist := d.1, key := distKey d.1 } : Cand), d.2)))
  let lists := res.map (fun r => r.foldl (fun l y => offer b.k y.1 l) [])
  let total := (ins.map List.length).sum
  let done := (res.map List.length).sum
  let slots := (ins.flatMap (fun t => t.map Prod.fst)).foldl (fun (t : Tab Unit) k => tput k () t) []
  let vec := fun (k : Nat) => padTo (x.dim * x.es) (tgetD x.vecs k [])
  let fin := res.all (fun r => r.all (fun y => y.2))
  let dig := crc64 ((List.range b.qn).flatMap (b.query x s)
    ++ rangeBytes s b.inp (b.first * b.qn * b.kin * 16) ++ slots.flatMap (fun k => vec k.1 ++ leBytes 4 (tgetD x.norms k.1 0)))
  let m := b.munit o.unit
  let macs := b.qn * slots.length * x.dim
  ({ o with st := .running, outs := [{ sa := b.out, data := lists.flatMap (candBytes b.k), poison := false }], inDig := dig
            total := total, processed := done, dropped := total - done, poisoned := decide (done < total)
            nonfinite := !fin, check := if fin then .float else .none, macs := macs
            mx := some (o.mx.getD (physOf s .matrix m)), work := some (b.work, b.workLen)
            status := if done < total then .faultPoison else .done }, cnt (cellReg o.unit (0x818 + 8 * b.pages)) macs s)

/-! ### Starting a search -/

/-- The first slot of IN at or above CAP (check 11), as its position. -/
def inIndexBad (b : AsyB) (x : Index) (s : State) : Option Nat :=
  if b.op = 0x21 then (List.range (b.qn * b.nentry)).find? (fun i => decide (x.cap ≤ leNat (rangeBytes s (b.inp + i * 4) 4)))
  else if b.op = 0x22 then (List.range (b.first * b.qn * b.kin)).find? (fun i =>
    let k := leNat (rangeBytes s (b.inp + i * 16) 4); k != ones32 && decide (x.cap ≤ k))
  else none

/-- End a search with a status; its hold ends with it. -/
def asyStop (o : EngOp) (st : Status) (n : Nat) (s : State) : State :=
  reclaimAll (endOp { o with status := st, outs := [], processed := n, dropped := o.total, check := .none
                             poisoned := o.poisoned || st = .faultPoison } false s)

/-- The FLUSH bit of a search issued by a thread (R115). -/
def asyFlush (o : EngOp) (b : AsyB) (x : Index) (s : State) : State :=
  match o.core with
  | some c =>
    if bit b.flags 0 then (b.inputs x).foldl (fun s r =>
      let a := Sa.of (BitVec.ofNat 64 r.1)
      if a.space = 0 then flushCell (c / 16) a.off r.2 s else s) s
    else s
  | none => s

/-- Run the search that OP names. -/
def asyRun (o : EngOp) (b : AsyB) (x : Index) (g : AsyObs) (s : State) : EngOp × State :=
  if b.op = 0x20 then scanRun o b x g s else if b.op = 0x21 then walkRun o b x g s else rerankRun o b x g s

/-- Read the queries and IN and run; a stall leaves the operation stalled (R98, Table 12.7). -/
def asyAttempt (o : EngOp) (g : AsyObs) (s : State) : State :=
  let b := asyBody o.desc
  match idxOf s o.part b.index with
  | none => asyStop o .faultAccess 0 s
  | some x =>
    let s := asyFlush o b x s
    match bulkOp o o.ctx ((b.inputs x).map (fun r => (r.1, r.2, false))) s with
    | (.stop st, s) => asyStop o st 0 s
    | (.wait, s) => updOp o.id (fun _ => { o with st := .stalled }) s
    | (.ok, s) =>
      if (b.inputs x).any (fun r => rangePoison s r.1 r.2) then asyStop o .faultPoison 0 s
      else match inIndexBad b x s with
        | some i => asyStop o .faultIndex i s
        | none =>
          let r := asyRun o b x g s
          match takeShadows r.1 r.2 with
          | none => asyStop o .quota 0 s
          | some s => updOp o.id (fun _ => r.1) s

/-- Start a search: validation, then the version is held (R320, R324). -/
def asyGo (g : AsyObs) (o : EngOp) (s : State) : State :=
  let b := asyBody o.desc
  match asyCheck o s with
  | some st => failOp o st ((tallyCheck s o.ctx (dTally o.desc)).isNone) s
  | none =>
    match idxOf s o.part b.index with
    | none => s
    | some x =>
      if b.op = 0x22 && unitUnbound s .matrix (b.munit o.unit) then failOp o .unsupported true s
      else
        let o := if b.op = 0x22 then o else { o with hold := some (idxKey o.part b.index, b.version x) }
        asyAttempt o g (updOp o.id (fun _ => o) s)

/-- An Assay engine takes its next descriptor, of an OP it runs. -/
def asyTake (unit : Nat) (mine : Nat → Bool) (g : AsyObs) (s : State) : State :=
  let tot := match headOp s .assay unit with
    | some o => asyTotal s o.part unit o.id
    | none => fun _ => 0
  takeOp .assay unit 128 mine tot (asyGo g) s

/-- SCAN (R326): a descriptor of OP 0x20, or of no known OP. -/
def execScan (unit : Nat) (g : AsyObs) (s : State) : Host.Outcome State Fault Refusal :=
  .next (dp (asyTake unit (fun op => op != 0x21 && op != 0x22) g) s)
/-- WALK (R327). -/
def execWalk (unit : Nat) (g : AsyObs) (s : State) : Host.Outcome State Fault Refusal :=
  .next (dp (asyTake unit (fun op => op = 0x21) g) s)
/-- RERANK (R328). -/
def execRerank (unit : Nat) (g : AsyObs) (s : State) : Host.Outcome State Fault Refusal :=
  .next (dp (asyTake unit (fun op => op = 0x22) g) s)

/-- A search ends (R329, R331): a selection mismatch ends it without retry; a MATMUL check failure of a RERANK reruns it
on the unit Table 9.5 names for the matrix unit. -/
def asyComplete (o : EngOp) (lane : Lane) (sh : ShadowObs) (s : State) : State :=
  if o.st = .stalled then asyAttempt o {} s
  else
    let scan := dOp o.desc != 0x22
    if lane = .selection || (scan && lane = .fail) then
      let s := cnt (fchReg o.unit 0x158) 1 s
      let s := (checkFailure o false s).2.2
      reclaimAll (endOp { o with status := .checkFail, suspect := true } false s)
    else if !scan && o.check != .none && (lane = .fail || sh.disagreed) then
      let m := (asyBody o.desc).munit o.unit
      let ph := o.mx.getD 0
      let mo := { o with kind := .matrix, unit := m, phys := ph, tried := ph :: o.tried }
      let r := checkFailure mo true s
      match retryUnit s mo, r.1 with
      | some ph', some s => updOp o.id (fun _ => { o with mx := some ph', retries := o.retries + 1, tried := mo.tried, st := .stalled, outs := [] }) s
      | _, _ => reclaimAll (endOp { o with status := .checkFail, suspect := true } false r.2.2)
    else reclaimAll (completeOp o .pass { sh with disagreed := false } false s)

/-! ### Repair and sweeps (R332, R333) -/

/-- A list with the edge to a dead target repaired (R332). -/
def Index.repaired (x : Index) (slot dead : Nat) : List Nat :=
  let l := x.listOf slot
  let fresh := (x.listOf dead).find? (fun t => t != ones32 && t != slot && !l.contains t && x.live t x.version)
  match fresh with
  | some t => l.map (fun y => if y = dead then t else y)
  | none => let l' := l.filter (fun y => y != dead); l' ++ List.replicate (l.length - l'.length) ones32

/-- Repair one edge where it still stands and its target is dead. -/
def repairEdge (p n slot dead : Nat) (s : State) : State :=
  match idxOf s p n with
  | none => s
  | some x =>
    if (x.listOf slot).contains dead && x.dead dead x.version then
      cnt (fchReg (x.chan (x.listPage slot)) 0x138) 1
        (updIdx p n (fun x => { x with slots := tupd slot (fun y => { y with list := x.repaired slot dead }) x.slots }) s)
    else s

/-- REPAIR_QUEUE_WORK (R332): the oldest entry, in an idle window of the channel that holds its list page. -/
def repairWork (p n : Nat) (s : State) : State :=
  match idxOf s p n with
  | none => s
  | some x =>
    match x.repq with
    | [] => s
    | e :: rest =>
      if !idleWindow s (x.chan (x.listPage e.1)) then s
      else repairEdge p n e.1 e.2 (updIdx p n (fun x => { x with repq := rest }) s)

def execRepairQueueWork (part index : Nat) (s : State) : Host.Outcome State Fault Refusal := .next (dp (repairWork part index) s)

/-- The lists of a channel that a sweep reads. -/
def sweepLists (x : Index) (ch : Nat) : List Nat := (x.slots.map Prod.fst).filter (fun k => x.chan (x.listPage k) = ch)

/-- SWEEP (R333): one channel's lists are repaired; after the last channel the slots that were reclaimable when the sweep
began are freed. -/
def sweepChannel (p n : Nat) (s : State) : State :=
  match idxOf s p n with
  | none => s
  | some x =>
    match x.channels.find? (fun c => !x.sweeping || !x.swept.contains c) with
    | none => s
    | some ch =>
      if x.degree = 0 || x.repq != [] || !idleWindow s ch then s
      else
        let s := if x.sweeping then s else updIdx p n (fun x => { x with sweeping := true, swept := [], freeing := reclaimable s x }) s
        let s := (sweepLists x ch).foldl (fun s k =>
          ((x.listOf k).filter (fun t => t != ones32)).foldl (fun s t => repairEdge p n k t s) s) s
        let s := updIdx p n (fun x => { x with swept := x.swept ++ [ch] }) s
        match idxOf s p n with
        | none => s
        | some y =>
          if y.channels.all y.swept.contains then
            freeSlots y y.freeing (updIdx p n (fun x => { x with sweeping := false, swept := [], freeing := [], sweeps := x.sweeps + 1 }) s)
          else s

def execSweep (part index : Nat) (s : State) : Host.Outcome State Fault Refusal := .next (dp (sweepChannel part index) s)

/-! ### Commands of group 0x08 -/

/-- INDEX_CREATE's parameters (Table 12.1). -/
def indexOf (c : Cmd) : Index :=
  { part := c.part, num := c.arg 1 1, sbits := c.arg 2 2, dim := c.arg 4 2, vfmt := c.arg 6 1, ip := bit (c.arg 7 1) 0
    vflash := bit (c.arg 7 1) 1, cap := c.arg 8 4, degree := c.arg 12 1, channels := maskCells (c.arg 16 4)
    cells := maskCells (c.arg 20 4), parts := [] }

/-- Parameters within Table 12.1. -/
def Index.ok (x : Index) (s : State) : Bool :=
  decide (x.num < 64) && decide (256 ≤ x.sbits) && decide (x.sbits ≤ 2048) && x.sbits % 256 = 0
    && decide (32 ≤ x.dim) && decide (x.dim ≤ 4096) && x.dim % 32 = 0 && [2, 3, 4, 0x0B].contains x.vfmt
    && x.channels != [] && x.cells != [] && x.channels.all (partCells s x.part).contains && x.cells.all (partCells s x.part).contains
    && decide (x.cap ≤ 2 ^ 32 - 2) && [0, 8, 16, 32, 64].contains x.degree

/-- The placed allocations of an index: size in bytes, whether on flash, and where (Table 12.2). -/
def Index.partsOf (x : Index) : List (Nat × Bool) :=
  [(x.pages * 4096, true)] ++ (if x.degree = 0 then [] else [(x.cap * 4 * x.degree, true)])
    ++ [(x.cap * x.vstride, x.vflash), (x.cap * 4, false), (x.cap * 16, false)]

/-- The allocation of a part of an index. -/
def Index.partAlloc (x : Index) (y : Nat × Bool) : Alloc :=
  { size := (y.1 + 65535) / 65536 * 65536, tier := if y.2 then .flash else .hbm, cells := if y.2 then x.channels else x.cells
    ctx := 0, part := x.part }

/-- All parts of an index fit the partition's quota, its stacks and its flash under R85, R65 and R76. -/
def placeFits (x : Index) (s : State) : Bool :=
  let hbm := (x.partsOf.filter (fun y => !y.2)).map x.partAlloc
  let fl := (x.partsOf.filter (fun y => y.2)).map x.partAlloc
  let q := ((partOf s x.part).map Part.q).getD 0
  let m := managedBlocks s x.part
  decide (partPlaced s x.part + (hbm.map (fun a => nblk a.size)).sum + q ≤ partFrames s x.part)
    && x.cells.all (fun c => decide ((hbm.map (fun a => allocShare a c)).sum ≤ stackRoom s c))
    && x.channels.all (fun c => decide ((fl.map (fun a => allocShare a c)).sum + placedFlash s c ≤ (s.store.flash.getD c {}).usable))
    && (m = 0 || decide (m + (fl.map (fun a => nblk a.size)).sum ≤ backingSlots s x.part none))

/-- Place the parts of an index one after another: their bases and the state that holds them. -/
def placeParts (x : Index) : List (Nat × Bool) → State → Option (List Nat × State)
  | [], s => some ([], s)
  | y :: t, s =>
    match makeAlloc (x.partAlloc y) s with
    | (some b, s) => (placeParts x t s).map (fun r => (b :: r.1, r.2))
    | (none, _) => none

/-- Every part of an index, or none (R316); managed data makes room in the stacks. -/
def placeAll (x : Index) (s : State) : Option (List Nat × State) :=
  if placeFits x s then
    (placeParts x x.partsOf s).map (fun r => (r.1, x.cells.foldl (fun s c => clearStack (managedFrames s c) c s) r.2))
  else none

/-- INDEX_CREATE (R315, R316). -/
def indexCreate (n : Nat) (c : Cmd) (s : State) : State :=
  let x := indexOf c
  refuseOr n [(x.cap = 0, 0x0021), (!x.ok s, 0x0121), ((idxOf s c.part x.num).isSome, 0x0242)]
    (fun s => match placeAll x s with
      | none => complete n 0x0323 [] s
      | some (ps, s) => complete n 0 [] { s with idx := tput (idxKey c.part x.num) { x with parts := ps } s.idx }) s

def execIndexCreate (mb : Nat) (s : State) : Host.Outcome State Fault Refusal :=
  .next (catalogue mb 0x0801 (fun s c => { partChk s mb c with
    ready := cellsReady s (maskCells (c.arg 20 4)) && censusReady s (maskCells (c.arg 16 4)) }) (indexCreate mb) s)

/-- An index named by PART and INDEX. -/
def idxChk (s : State) (n : Nat) (c : Cmd) : CChk :=
  { exist := (idxOf s c.part (c.arg 1 1)).isSome, mine := c.part + 1 = n }

/-- A command on an index. -/
def idxCmd (op n : Nat) (body : Cmd → Index → State → State) (s : State) : State :=
  catalogue n op (fun s c => idxChk s n c) (fun c s => match idxOf s c.part (c.arg 1 1) with
    | some x => body c x s
    | none => s) s

/-- Remove an index and free its parts. -/
def dropIndex (x : Index) (s : State) : State :=
  x.parts.foldl (fun s b => freeAlloc b s) { s with idx := tdel (idxKey x.part x.num) s.idx }

/-- INDEX_DESTROY (R433). -/
def execIndexDestroy (mb : Nat) (s : State) : Host.Outcome State Fault Refusal :=
  .next (idxCmd 0x0802 mb (fun c x s => refuseOr mb
    [(x.holds != [] || s.eng.ops.any (fun o => o.2.kind = .assay && o.2.st != .queued && o.2.part = c.part && fld o.2.desc 32 1 = x.num), 0x0460)]
    (fun s => complete mb 0 [] (dropIndex x s)) s) s)

/-- Bytes of a batch entry (R433). -/
def Index.entLen (x : Index) : Nat := 64 + (x.sk + 63) / 64 * 64 + x.vstride + (4 * x.degree + 63) / 64 * 64

/-- A batch range as the command's context reads it. -/
def readBatch (s : State) (ctx off n : Nat) : Option Status :=
  match (((linesOf off n).map (fun o => max o off)).findSome? (fun o => homeCheck s ctx o false)) with
  | some st => some st
  | none => if (linesOf off n).any (poisoned s) then some .faultPoison else none

/-- Run a batch: entries in order until one fails (R433). -/
def batchGo (f : Nat → State → Option Status × State) : List Nat → State → Option (Nat × Status) × State
  | [], s => (none, s)
  | i :: t, s =>
    match f i s with
    | (none, s) => batchGo f t s
    | (some st, s) => (some (i, st), s)

/-- Complete a batch command with the number of entries done and the failing position (R433). -/
def batchCmd (n count : Nat) (f : Nat → State → Option Status × State) (s : State) : State :=
  if count = 0 then complete n 0x0001 [] s
  else match batchGo f (List.range count) s with
    | (none, s) => complete n 0 (leBytes 4 count ++ leBytes 4 0) s
    | (some (i, st), s) => complete n st.code (leBytes 4 i ++ leBytes 4 i) s

/-- A list's entries name live slots of the pending version, or none (R321). -/
def listOk (x : Index) (l : List Nat) : Bool := l.all (fun t => t = ones32 || x.live t (x.version + 1))

/-- The norm of a vector: exact sum of squares rounded once to FP32 (R321). -/
def vecNorm (x : Index) (v : List Byte) : Nat :=
  toF32 (((List.range x.dim).map (fun k => let e := elemVal x.vfmt v none k; Fv.mul e e)).foldl Fv.add Fv.zero)

/-- Insert one node (R321). -/
def insertOne (c : Cmd) (i : Nat) (s : State) : Option Status × State :=
  match idxOf s c.part (c.arg 1 1) with
  | none => (some .faultAccess, s)
  | some x =>
    let off := argSa c 8 + i * x.entLen
    if !argOwn s c 8 then (some .faultAccess, s)
    else match readBatch s c.ctx off x.entLen with
      | some st => (some st, s)
      | none =>
        let e := storeBytes s off x.entLen
        let so := 64 + (x.sk + 63) / 64 * 64
        let l := (List.range x.degree).map (fun k => fld e (so + x.vstride + 4 * k) 4)
        let v := (e.drop so).take (x.dim * x.es)
        let node := fld e 0 4
        match tfree x.slots 0 (min x.cap (x.slots.length + 1)) with
        | none => (some .quota, s)
        | some k =>
          if x.slots.any (fun y => y.2.node = node && y.2.del = ones48) then (some .conflict, s)
          else if !listOk x l then (some .invalidArg, s)
          else
            let y : IdxSlot := { node := node, ins := x.version + 1, del := ones48, sketch := (e.drop 64).take x.sk, list := l }
            let s := updIdx c.part x.num (fun x => { x with
              slots := tput k y x.slots, vecs := tput k v x.vecs, norms := tput k (vecNorm x v) x.norms }) s
            (none, serve { who := .migration, ctx := c.ctx, off := off + 4, op := .wrInv, len := 4, data := leBytes 4 k } .clean s)

/-- INDEX_INSERT (R321). -/
def execIndexInsert (mb : Nat) (s : State) : Host.Outcome State Fault Refusal :=
  .next (idxCmd 0x0803 mb (fun c _ s => batchCmd mb (c.arg 4 4) (insertOne c) s) s)

/-- Delete one node (R321). -/
def deleteOne (c : Cmd) (i : Nat) (s : State) : Option Status × State :=
  match idxOf s c.part (c.arg 1 1) with
  | none => (some .faultAccess, s)
  | some x =>
    let off := argSa c 8 + i * 4
    if !argOwn s c 8 then (some .faultAccess, s)
    else match readBatch s c.ctx off 4 with
      | some st => (some st, s)
      | none =>
        let node := leNat (storeBytes s off 4)
        match x.slots.find? (fun y => y.2.node = node && y.2.del = ones48) with
        | none => (some .notOwner, s)
        | some (k, _) =>
          (none, updIdx c.part x.num (fun x => { x with slots := tupd k (fun y => { y with del := x.version + 1 }) x.slots }) s)

/-- INDEX_DELETE (R321). -/
def execIndexDelete (mb : Nat) (s : State) : Host.Outcome State Fault Refusal :=
  .next (idxCmd 0x0804 mb (fun c _ s => batchCmd mb (c.arg 4 4) (deleteOne c) s) s)

/-- Replace one list (R321, R433). -/
def linkOne (c : Cmd) (i : Nat) (s : State) : Option Status × State :=
  match idxOf s c.part (c.arg 1 1) with
  | none => (some .faultAccess, s)
  | some x =>
    let len := 64 + (4 * x.degree + 63) / 64 * 64
    let off := argSa c 8 + i * len
    if !argOwn s c 8 then (some .faultAccess, s)
    else match readBatch s c.ctx off len with
      | some st => (some st, s)
      | none =>
        let e := storeBytes s off len
        let k := fld e 0 4
        let l := (List.range x.degree).map (fun j => fld e (64 + 4 * j) 4)
        if !x.live k (x.version + 1) || !listOk x l then (some .invalidArg, s)
        else (none, updIdx c.part x.num (fun x => { x with slots := tupd k (fun y => { y with list := l }) x.slots }) s)

/-- INDEX_LINK (R321). -/
def execIndexLink (mb : Nat) (s : State) : Host.Outcome State Fault Refusal :=
  .next (idxCmd 0x0805 mb (fun c _ s => batchCmd mb (c.arg 4 4) (linkOne c) s) s)

/-- INDEX_PUBLISH (R319). -/
def execIndexPublish (mb : Nat) (s : State) : Host.Outcome State Fault Refusal :=
  .next (idxCmd 0x0806 mb (fun c x s => refuseOr mb [(x.version + 1 = ones48, 0x0021)]
    (fun s => complete mb 0 (leBytes 6 (x.version + 1))
      (reclaimAll (updIdx c.part x.num (fun x => { x with version := x.version + 1 }) s))) s) s)

/-- INDEX_HOLD (R320). -/
def execIndexHold (mb : Nat) (s : State) : Host.Outcome State Fault Refusal :=
  .next (idxCmd 0x0807 mb (fun c x s =>
    let v := c.arg 8 6
    refuseOr mb [(decide (16 ≤ x.holds.length), 0x0043), (decide (v < idxFloor s x), 0x0042), (decide (x.version < v), 0x0021)]
      (fun s => complete mb 0 [] (updIdx c.part x.num (fun x => { x with holds := x.holds ++ [v] }) s)) s) s)

/-- INDEX_RELEASE (R320). -/
def execIndexRelease (mb : Nat) (s : State) : Host.Outcome State Fault Refusal :=
  .next (idxCmd 0x0808 mb (fun c x s =>
    refuseOr mb [(!x.holds.contains (c.arg 8 6), 0x0044)]
      (fun s => complete mb 0 [] (reclaimAll (updIdx c.part x.num (fun x => { x with holds := x.holds.erase (c.arg 8 6) }) s))) s) s)

/-- INDEX_STATE (Table 12.9). -/
def execIndexState (mb : Nat) (s : State) : Host.Outcome State Fault Refusal :=
  .next (idxCmd 0x0809 mb (fun _ x s =>
    let tomb := (x.slots.filter (fun y => y.2.del != ones48)).length
    complete mb 0 (leBytes 6 x.version ++ leBytes 6 (idxFloor s x) ++ leBytes 1 x.holds.length ++ leBytes 1 (b2n x.sweeping)
      ++ leBytes 2 0 ++ leBytes 4 x.slots.length ++ leBytes 4 tomb ++ leBytes 4 (x.cap - x.slots.length)
      ++ leBytes 4 x.repq.length ++ leBytes 8 x.sweeps) s) s)

end Sys2Proof.Machine
end

