-- ==== Sys2Proof/Machine/Attend.lean ====
section
/-! DEFINITION. ATTEND (R302 to R311): validation, the lease check, the append, the attention of one unit, its digests
and its partial block. -/

namespace Sys2Proof.Machine

open Sys2Proof

/-- The ATTEND body (Table 11.7). -/
structure AttB where
  key : Nat
  epoch : Nat
  layer : Nat
  qfmt : Nat
  ofmt : Nat
  pos : Nat
  new : Nat
  qn : Nat
  noCausal : Bool
  hq : Nat
  scale : Nat
  q : Nat
  newk : Nat
  newv : Nat
  out : Nat
  pstride : Nat
  window : Nat
  seed : Nat
deriving DecidableEq, Repr

def attBody (d : List Byte) : AttB :=
  { key := fld d 32 8, epoch := fld d 40 4, layer := fld d 44 2, qfmt := fld d 46 1 % 32, ofmt := fld d 47 1 % 32
    pos := fld d 48 4, new := fld d 52 2, qn := fld d 54 1, noCausal := bit (fld d 55 1) 0, hq := fld d 56 2
    scale := fld d 60 4, q := fld d 64 8, newk := fld d 72 8, newv := fld d 80 8, out := fld d 88 8
    pstride := fld d 96 4, window := fld d 100 4, seed := fld d 104 4 }

/-- Bytes of a row padded to 64 B (R302, R308). -/
def pad64 (n : Nat) : Nat := (n + 63) / 64 * 64

/-- Bytes of a query row. -/
def AttB.qrow (b : AttB) (x : DepParams) : Nat := pad64 (x.d * fmtBits b.qfmt / 8)
/-- Bytes of a key or value row. -/
def kvRow (x : DepParams) : Nat := pad64 (x.d * x.es)
/-- Bytes of an output row. -/
def AttB.orow (b : AttB) (x : DepParams) : Nat := pad64 (x.d * fmtBits b.ofmt / 8)
/-- Bytes of a partial block (R308). -/
def AttB.block (b : AttB) (x : DepParams) : Nat := b.qn * b.hq * b.orow x + b.qn * b.hq * 4

/-- The member whose keys an operation of a partition names: the one that holds the key, else the first of the partition
(log 21). -/
def attMember (s : State) (p key : Nat) : Option Member :=
  let ms := (s.dep.members.map Prod.snd).filter (fun m => m.part = p)
  match ms.find? (fun m => (tget key m.leases).isSome) with
  | some m => some m
  | none => ms.head?

/-- Input ranges. -/
def AttB.inputs (b : AttB) (x : DepParams) : List (Nat × Nat) :=
  (if b.qn = 0 then [] else [(b.q, b.qn * b.hq * b.qrow x)])
    ++ (if b.new = 0 then [] else [(b.newk, b.new * x.hkv * kvRow x), (b.newv, b.new * x.hkv * kvRow x)])

/-- Units of an itinerary entry, ascending (Table 6.4). -/
def entryUnits (e : Entry) : List Nat :=
  let cs := (List.range 20).filter (bit e.cells)
  match e.ukind with
  | 1 => cs.flatMap (fun c => ((List.range 16).filter (bit e.sub)).map (fun i => 16 * c + i))
  | 2 => cs.flatMap (fun c => ((List.range 2).filter (bit e.sub)).map (fun j => 2 * c + j))
  | 3 | 4 => cs
  | 5 => (List.range 8).filter (bit e.sub)
  | 6 => [0]
  | _ => []

/-- Units that share an operation. -/
def opUnits (s : State) (o : EngOp) : List Nat :=
  match o.entry with
  | none => [o.unit]
  | some i => match ((tget o.part s.stg.itin).bind ItinSt.run).bind (fun it => it.entries[i]?) with
    | some e => entryUnits e
    | none => [o.unit]

/-- The unit that attends page `p` of a lading (R306). -/
def pageUnit (units : List Nat) (p cell : Nat) : Nat :=
  match units.filter (fun u => u / 2 = cell) with
  | [] => units.headD 0
  | [u] => u
  | u :: v :: _ => if p % 2 = 0 then u else v

/-- Validation of an ATTEND (R310, Table 8.6). -/
def attCheck (o : EngOp) (m : Member) (s : State) : Option Status :=
  let d := o.desc
  let b := attBody d
  let x := m.params
  let tc := tallyCheck s o.ctx (dTally d)
  let outs := (List.range o.n).map (fun i => (b.out + i * b.pstride, b.block x))
  let ins := b.inputs x
  firstBad
    [(!(decide (dFlags d < 16) && decide (fld d 46 1 < 32) && decide (fld d 47 1 < 32) && decide (fld d 55 1 < 2)
        && zeroAt d 58 2 && zeroAt d 108 20), .invalidArg),
     (!codeKnown b.qfmt || !codeKnown b.ofmt, .unsupported),
     (!ctxIssues s o.ctx o.part, .faultAccess),
     (b.new = 0 && b.qn = 0, .doneEmpty),
     (!(b.qfmt = 1 || b.qfmt = 3 || b.qfmt = 4) || decide (1 < b.ofmt) || b.epoch = 0 || decide (x.layers ≤ b.layer)
        || decide (16384 * x.tp < b.pos + b.new) || decide (4096 < b.new) || decide (64 < b.qn) || b.hq = 0 || decide (128 < b.hq)
        || b.hq % x.hkv != 0 || !(ofF32 b.scale).isFin || decide (b.pos + b.new < b.qn)
        || (b.new = 0) != (b.newk = 0) || (b.new = 0) != (b.newv = 0)
        || b.pstride % 64 != 0 || decide (b.pstride < b.block x) || (bit (dFlags d) 2 && b.ofmt = 0), .invalidArg),
     ([b.q, b.newk, b.newv, b.out].any (fun a => a % 64 != 0), .faultAlign),
     ((outs ++ ins).any (fun r => !opRange s o.part r.1 r.2), .faultAccess),
     (tc.isSome, tc.getD .done),
     (outs.any (fun r => ins.any (fun i => overlap r.1 r.2 i.1 i.2)), .invalidArg)]

/-- The home record of this member agrees that it owns a key at an epoch, where this member is the key's home (R304). -/
def homeAgrees (s : State) (m : Member) (key epoch : Nat) : Option Status :=
  if !m.mine s (homeSlot key) || (tget (homeSlot key) m.moving).isSome then none
  else match tget key m.homes with
    | some h =>
      if h.r.st = .held && isOwn s h.r.owner && h.r.ownerPart = m.part && h.r.epoch = epoch then none
      else if h.r.st = .lost then some .leaseLost else if h.r.st = .taking then some .busy else some .notOwner
    | none => some .leaseLost

/-- The lease check of R304: none where the operation may run; a member without a record resolves the key. -/
def leaseCheck (s : State) (m : Member) (b : AttB) : Option (Option Status) :=
  match tget b.key m.leases with
  | none => some none
  | some l =>
    match l.role with
    | .taking => some (some .busy)
    | .released => some (some .notOwner)
    | .lost => some (some .leaseLost)
    | .owner =>
      if l.releasing.isSome || l.epoch != b.epoch then some (some .notOwner)
      else if m.leaseEnd l ≤ s.now then some (some .leaseLost)
      else (homeAgrees s m b.key b.epoch).map some

/-! ### Append (R305) -/

/-- The `i`-th new token's row of head `g`. -/
def newRow (x : DepParams) (s : State) (base i g : Nat) : List Byte :=
  rangeBytes s (base + (i * x.hkv + g) * kvRow x) (x.d * x.es)

/-- A row is poisoned. -/
def newPoison (x : DepParams) (s : State) (base i g : Nat) : Bool :=
  rangePoison s (base + (i * x.hkv + g) * kvRow x) (x.d * x.es)

/-- The sums of a value row (R289). -/
def rowSums (x : DepParams) (row : List Byte) : List Byte :=
  let vs := (List.range x.d).map (elemVal x.kfmt row none)
  let mag := fun (v : Fv) => match v with | .fin _ m e => Fv.fin false m e | .inf _ => Fv.inf false | .nan => Fv.nan
  leBytes 4 (toF32 (vs.foldl Fv.add Fv.zero)) ++ leBytes 4 (toF32 ((vs.map mag).foldl Fv.add Fv.zero))

/-- Take the pages an append needs (R288, R305). -/
def takePages : Nat → Nat → List LadEnt → Member → State → Option (List LadEnt × Member) × State
  | 0, _, es, m, s => (some (es, m), s)
  | k + 1, p, es, m, s =>
    let i := p % m.params.cells.length
    match takePage i m s with
    | (none, s) => (none, s)
    | (some (pg, sb, m), s) =>
      takePages k (p + 1) (es ++ [{ page := pg, sums := sb, digest := 0, tokens := 0, cell := m.params.cells.getD i 0 }]) m s

/-- Land a row of a device operation in the pool, keeping its mark. -/
def poolWrite (off : Nat) (d : List Byte) (p : Bool) (s : State) : State :=
  (lines off d).foldl (fun s y => serve
    { who := .migration, ctx := 0, off := y.1, op := .wrInv, len := y.2.length, data := y.2, poison := p } .clean s) s

/-- Write the new tokens into their pages: keys, values and sums (R288, R289). -/
def writeTokens (b : AttB) (x : DepParams) (es : List LadEnt) (s0 s : State) : State :=
  (List.range b.new).foldl (fun s i =>
    let t := b.pos + i
    match es[t / x.tp]? with
    | none => s
    | some e =>
      (List.range x.hkv).foldl (fun s g =>
        let w := x.d * x.es
        let at' := g * x.tp + t % x.tp
        let v := newRow x s0 b.newv i g
        let s := poolWrite (e.page + at' * w) (newRow x s0 b.newk i g) (newPoison x s0 b.newk i g) s
        let s := poolWrite (e.page + 131072 + at' * w) v (newPoison x s0 b.newv i g) s
        poolWrite (e.sums + at' * 8) (rowSums x v) false s) s) s

/-- Set TOKENS and DIGEST of the pages an append wrote (R305). -/
def sealPages (b : AttB) (x : DepParams) (es : List LadEnt) (s : State) : List LadEnt :=
  (es.zip (List.range es.length)).map (fun y =>
    let n := min x.tp (b.pos + b.new - y.2 * x.tp)
    if b.pos < (y.2 + 1) * x.tp then { y.1 with tokens := n, digest := pageDigest x (storeBytes s y.1.page 262144) n } else y.1)

/-- What an append comes to: a status and the state, or a stall (R98). -/
def appendRun (o : EngOp) (b : AttB) (m : Member) (lane : Lane) (s : State) : Option Status × State :=
  let x := m.params
  match tget b.key m.leases with
  | none => (some .leaseLost, s)
  | some l =>
    if tgetD l.lens b.layer 0 != b.pos then (some .conflict, s)
    else
      let es := tgetD l.layers b.layer []
      let need := (b.pos + b.new + x.tp - 1) / x.tp - es.length
      match takePages need es.length es m s with
      | (none, s) => (some .quota, s)
      | (some (es, m'), s) =>
        let touched := (es.zip (List.range es.length)).filter (fun y => decide (b.pos < (y.2 + 1) * x.tp))
        let rs := touched.flatMap (fun y => [((ownSa s 0 y.1.page).toNat, 262144, true), ((ownSa s 0 y.1.sums).toNat, x.sumLen, true)])
        match bulkOp o o.ctx ((b.inputs x).map (fun r => (r.1, r.2, false))) s with
        | (.stop st, s) => (some st, s)
        | (.wait, s) => (none, s)
        | (.ok, s) =>
          match bulkOp o 0 rs s with
          | (.stop st, s) => (some st, s)
          | (.wait, s) => (none, s)
          | (.ok, s) =>
            let s' := writeTokens b x es s s
            if lane = .fail then (some .checkFail, s')
            else
              let es := sealPages b x es s'
              let s' := updMem m.part m.depot (fun k => { k with
                used := m'.used
                leases := tupd b.key (fun l => { l with layers := tput b.layer es l.layers, lens := tput b.layer (b.pos + b.new) l.lens }) k.leases }) s'
              (some .done, cnt (cellReg (o.unit / 2) 0xB18) b.new s')

/-! ### Attention (R306 to R308) -/

/-- A token of the prefix as a unit reads it: index, page bytes and place, and whether it is poisoned. -/
structure Tok where
  t : Nat
  page : Nat
  poison : Bool
deriving DecidableEq, Repr

/-- exp and ln with relative error at most 2⁻²¹ are free functions (R307, log 15); exp(−∞) is 0. -/
def fexp (v : Fv) : Fv :=
  match v with
  | .nan => .nan
  | .inf true => Fv.zero
  | v => ofF32 (Config.freeOf 130 [toF32 v] % 2 ^ 32)
def fln (v : Fv) : Fv :=
  match v with
  | .nan => .nan
  | v => ofF32 (Config.freeOf 131 [toF32 v] % 2 ^ 32)

/-- FP32 quotient, rounded to nearest even. -/
def div32 (a b : Fv) : Fv :=
  match a, b with
  | .nan, _ => .nan
  | _, .nan => .nan
  | .inf _, .inf _ => .nan
  | .inf x, .fin y _ _ => .inf (x != y)
  | .fin x _ _, .inf y => .fin (x != y) 0 0
  | .fin x m e, .fin y n f =>
    if n = 0 then (if m = 0 then .nan else .inf (x != y))
    else
      let q := m * 2 ^ 64 / n
      fp32.near (.fin (x != y) (2 * q + (if m * 2 ^ 64 % n = 0 then 0 else 1)) (e - f - 65))

/-- The running maximum, weight sum and accumulator of R307. -/
structure Soft where
  m : Fv
  l : Fv
  acc : List Fv
deriving DecidableEq, Repr

/-- One attended token (R307). -/
def softStep (seed : List Nat) (scale : Fv) (q k v : List Fv) (a : Soft) : Soft :=
  let sc := mul32 scale (sumFree seed (List.zipWith Fv.mul q k))
  let a := if Fv.lt a.m sc then
      let c := fexp (add32 a.m (Fv.neg sc))
      { m := sc, l := mul32 a.l c, acc := a.acc.map (mul32 · c) }
    else a
  let p := fexp (add32 sc (Fv.neg a.m))
  { a with l := add32 a.l p, acc := List.zipWith (fun x y => add32 x (mul32 p y)) a.acc v }

/-- Attended tokens of query position `j` (R303). -/
def attended (b : AttB) (j t : Nat) : Bool :=
  let L := b.pos + b.new
  decide (t < L) && (b.noCausal || decide (t + b.qn ≤ L + j))
    && (b.window = 0 || decide (L + j < t + b.qn + b.window))

/-- One head's partial: output row bytes, lse bits, whether all was finite, and whether it used poisoned data. -/
def attHead (o : EngOp) (b : AttB) (x : DepParams) (s : State) (toks : List Tok) (j h : Nat) : List Byte × Nat × Bool × Bool :=
  let g := h * x.hkv / b.hq
  let w := x.d * x.es
  let qa := b.q + (j * b.hq + h) * b.qrow x
  let q := (List.range x.d).map (elemVal b.qfmt (rangeBytes s qa (x.d * fmtBits b.qfmt / 8)) none)
  let mine := toks.filter (fun y => attended b j y.t)
  let row := fun (y : Tok) (o : Nat) => storeBytes s (y.page + o + (g * x.tp + y.t % x.tp) * w) w
  let vals := fun (r : List Byte) => (List.range x.d).map (elemVal x.kfmt r none)
  let st := (freeOrder [o.id, o.retries, j, h] mine.length mine).foldl (fun a y =>
    softStep [o.id, o.retries, j, h, y.t] (ofF32 b.scale) q (vals (row y 0)) (vals (row y 131072)) a)
    { m := .inf true, l := Fv.zero, acc := List.replicate x.d Fv.zero }
  let sat := !bit (dFlags o.desc) 3
  let stoch := bit (dFlags o.desc) 2
  let eb := fmtBits b.ofmt / 8
  let out := if mine.isEmpty then List.replicate x.d Fv.zero else st.acc.map (fun a => div32 a st.l)
  let lse := if mine.isEmpty then 0xFF800000 else toF32 (add32 st.m (fln st.l))
  let bytes := (out.zip (List.range x.d)).flatMap (fun y =>
    leBytes eb (convertOut b.ofmt sat stoch (Config.freeOf 102 [b.seed, j * b.hq + h, y.2] % 65536) y.1))
  let pois := rangePoison s qa (x.d * fmtBits b.qfmt / 8) || mine.any (fun y => y.poison
    || (linesOf (y.page + (g * x.tp + y.t % x.tp) * w) w).any (poisoned s)
    || (linesOf (y.page + 131072 + (g * x.tp + y.t % x.tp) * w) w).any (poisoned s))
  (bytes, lse, mine.isEmpty || (out.all Fv.isFin && (ofF32 lse).isFin && q.all Fv.isFin), pois)

/-- Pages of a lading that a unit attends, with their indices. -/
def unitPages (s : State) (o : EngOp) (es : List LadEnt) : List (Nat × LadEnt) :=
  let us := opUnits s o
  ((List.range es.length).zip es).filter (fun y => pageUnit us y.1 y.2.cell = o.unit || us.length ≤ 1)

/-- Run the attention of one unit (R306 to R311). -/
def attRun (o : EngOp) (b : AttB) (m : Member) (s : State) : EngOp × State :=
  let x := m.params
  let es := ((tget b.key m.leases).map (fun l => tgetD l.layers b.layer [])).getD []
  let L := b.pos + b.new
  let pgs := (unitPages s o es).filter (fun y => decide (y.1 * x.tp < L) && decide (0 < y.2.tokens))
  let bad := (pgs.filter (fun y => pageDigest x (storeBytes s y.2.page 262144) y.2.tokens != y.2.digest)).map Prod.fst
  let c := o.unit / 2
  let s := bad.foldl (fun s p => evMemory 2 ((pgs.find? (fun y => y.1 = p)).map (fun y => (ownSa s 0 y.2.page).toNat) |>.getD 0)
    (b.key % 65536) 1 2 (cnt (cellReg c 0xB28) 1 s)) s
  let s := cnt (cellReg c 0xB20) ((pgs.map (fun y => y.2.tokens * x.hkv * x.d * x.es * 2)).sum) s
  let toks := pgs.flatMap (fun y => ((List.range y.2.tokens).map (fun i =>
    ({ t := y.1 * x.tp + i, page := y.2.page, poison := bad.contains y.1 } : Tok))).filter (fun t => decide (t.t < L)))
  let heads := (List.range b.qn).flatMap (fun j => (List.range b.hq).map (fun h => attHead o b x s toks j h))
  let base := b.out + o.slot * b.pstride
  let ow := b.orow x
  let rows := (heads.zip (List.range heads.length)).map (fun y =>
    ({ sa := base + y.2 * ow, data := y.1.1, poison := y.1.2.2.2 } : OpOut))
  let lse := heads.flatMap (fun h => leBytes 4 h.2.1)
  let lses := (rowLines (lse.length + 1) 0 lse).map (fun l =>
    ({ sa := base + heads.length * ow + l.1, data := l.2
       poison := (span (l.1 / 4) (l.2.length / 4)).any (fun i => (heads.getD i ([], 0, true, false)).2.2.2) } : OpOut))
  let appends := o.slot = 0 && decide (0 < b.new)
  let badHeads := (heads.filter (fun h => h.2.2.2)).length
  let total := heads.length + (if appends then b.new else 0)
  let fin := heads.all (fun h => h.2.2.1)
  let qrows := (List.range (b.qn * b.hq)).flatMap (fun i => rangeBytes s (b.q + i * b.qrow x) (x.d * fmtBits b.qfmt / 8))
  let news := fun (a : Nat) => (List.range b.new).flatMap (fun i => (List.range x.hkv).flatMap (fun g => newRow x s a i g))
  let dig := crc64 (qrows ++ (if appends then news b.newk ++ news b.newv else []) ++ pgs.flatMap (fun y => leBytes 8 y.2.digest))
  let empty := toks.isEmpty && !appends
  ({ o with st := .running, outs := rows ++ lses, inDig := dig, total := total, processed := total - badHeads
            dropped := badHeads, poisoned := decide (0 < badHeads)
            status := if empty then .doneEmpty else if 0 < badHeads then .faultPoison else .done
            nonfinite := !fin, macs := toks.length * b.qn * b.hq * x.d
            check := if empty || !fin || badHeads = heads.length then .none else .float }, s)

/-- The pages a unit must read are accessible (R290, R98). -/
def attRanges (s : State) (o : EngOp) (b : AttB) (m : Member) : List (Nat × Nat × Bool) :=
  let es := ((tget b.key m.leases).map (fun l => tgetD l.layers b.layer [])).getD []
  ((unitPages s o es).filter (fun y => decide (y.1 * m.params.tp < b.pos + b.new))).map (fun y => ((ownSa s 0 y.2.page).toNat, 262144, false))

/-- The outcome recorded for the append of an operation (R305). -/
def appendOutcome (s : State) (o : EngOp) : Option Status :=
  (s.dep.appends.find? (fun a => a.1 = o.part && a.2.1 = o.entry && a.2.2.1 = o.sa)).map (fun a => a.2.2.2)

/-- Record the append's outcome while other units of the operation have not ended. -/
def noteAppend (o : EngOp) (st : Status) (s : State) : State :=
  if o.n ≤ 1 then s
  else { s with dep := { s.dep with appends := s.dep.appends ++ [(o.part, o.entry, o.sa, st)] } }

/-- Forget outcomes whose operations have all ended. -/
def sweepAppends (s : State) : State :=
  { s with dep := { s.dep with appends := s.dep.appends.filter (fun a =>
      s.eng.ops.any (fun x => x.2.part = a.1 && x.2.entry = a.2.1 && x.2.sa = a.2.2.1)) } }

/-- End an ATTEND with a status before it wrote output (R304, R305). -/
def attStop (o : EngOp) (st : Status) (s : State) : State :=
  sweepAppends (endOp { o with status := st, outs := [], processed := 0, dropped := o.total, check := .none
                               suspect := o.suspect || st = .checkFail } false s)

/-- Read and attend, once the append is settled; a stall leaves the operation stalled (R98, R306). -/
def attRead (o : EngOp) (b : AttB) (m : Member) (s : State) : State :=
  match bulkOp o o.ctx ((b.inputs m.params).map (fun r => (r.1, r.2, false))) s with
  | (.stop st, s) => attStop o st s
  | (.wait, s) => updOp o.id (fun _ => { o with st := .stalled }) s
  | (.ok, s) =>
    match bulkOp o 0 (attRanges s o b m) s with
    | (.stop st, s) => attStop o st s
    | (.wait, s) => updOp o.id (fun _ => { o with st := .stalled }) s
    | (.ok, s) =>
      let r := attRun o b m s
      match takeShadows r.1 r.2 with
      | none => attStop o .quota s
      | some s => updOp o.id (fun _ => r.1) s

/-- One attempt of an ATTEND: the lease, the append where this unit makes it, the attention (R304 to R306). -/
def attAttempt (o : EngOp) (lane : Lane) (s : State) : State :=
  let b := attBody o.desc
  match attMember s o.part b.key with
  | none => attStop o .notOwner s
  | some m =>
    match leaseCheck s m b with
    | some none => updOp o.id (fun _ => { o with st := .stalled, resolving := true }) s
    | some (some st) => attStop o st (if o.slot = 0 then noteAppend o st s else s)
    | none =>
      let o := { o with resolving := false }
      let read := fun (s : State) => match attMember s o.part b.key with
        | some m => attRead o b m s
        | none => attStop o .notOwner s
      if b.new = 0 then read s
      else match appendOutcome s o with
        | some .done => read s
        | some st => attStop o st s
        | none =>
          if o.slot = 0 then
            if o.appended then read s
            else match appendRun o b m lane s with
              | (none, s) => updOp o.id (fun _ => { o with st := .stalled }) s
              | (some .done, s) =>
                let o := { o with appended := true }
                let s := noteAppend o .done (updOp o.id (fun _ => o) s)
                match attMember s o.part b.key with
                | some m => attRead o b m s
                | none => s
              | (some st, s) =>
                let s := if st = .checkFail then (checkFailure o false s).2.2 else s
                attStop o st (noteAppend o st s)
          else if s.eng.ops.any (fun y => y.2.part = o.part && y.2.entry = o.entry && y.2.sa = o.sa && y.2.slot = 0) then s
          else attStop o .unsupported s

/-- Start an ATTEND (R304, R310). -/
def attGo (lane : Lane) (o : EngOp) (s : State) : State :=
  let b := attBody o.desc
  match attMember s o.part b.key with
  | none => failOp o .notOwner ((tallyCheck s o.ctx (dTally o.desc)).isNone) s
  | some m =>
    match attCheck o m s with
    | some st => failOp o st ((tallyCheck s o.ctx (dTally o.desc)).isNone) s
    | none => attAttempt o lane s

/-- Elements of an ATTEND (R310). -/
def attTotal (first : Bool) (d : List Byte) : Nat :=
  let b := attBody d
  b.qn * b.hq + (if first then b.new else 0)

/-- ATTEND (R304): a matrix unit takes its next descriptor, being an ATTEND; `lane` is what the check of its append finds
(R305). -/
def execAttend (unit : Nat) (lane : Lane) (s : State) : Host.Outcome State Fault Refusal :=
  .next (dp (fun s => takeOp .matrix unit 128 (fun op => op = 3)
    (attTotal (match headOp s .matrix unit with | some o => o.slot = 0 | none => true)) (attGo lane) s) s)

end Sys2Proof.Machine
end

