-- ==== Sys2Proof/Machine/Groups.lean ====
section
/-! DEFINITION. Thread groups (R189 to R196): launches, starts, endings and drops. -/

namespace Sys2Proof.Machine

open Sys2Proof

/-! ### Descriptors (Table 7.6) -/

def gCore (d : List Byte) : Nat := fld d 4 2
def gThreads (d : List Byte) : Nat := fld d 6 1
def gEntry (d : List Byte) : Nat := fld d 8 8
def gArg (d : List Byte) : Nat := fld d 16 8
def gWaybill (d : List Byte) : Nat := fld d 24 8
def gTally (d : List Byte) : Nat := fld d 32 8
def gTallyOp (d : List Byte) : Nat := fld d 40 8
def gOut (d : List Byte) : Nat := fld d 48 8
def gOutLen (d : List Byte) : Nat := fld d 56 4
def gCtx (d : List Byte) : Nat := fld d 60 2

/-- WAYBILL of a thread-group descriptor names a store line of this device. -/
def gWayOk (s : State) (sa : Nat) : Bool :=
  let x := Sa.of (BitVec.ofNat 64 sa)
  sa != 0 && sa % 64 = 0 && x.space = 0 && isOwn s x.dev

/-- Validation of a thread-group descriptor (R34, R149, Tables 2.12 and 7.6); `expect` is the core and WAYBILL that an
itinerary launch asks for (R192). The order is that of Table 8.6 (log 23). -/
def groupStatus (s : State) (p : Nat) (expect : Option (Nat × Nat)) (d : List Byte) : Option Status :=
  let wants := bit (fld d 7 1) 1
  let o := Sa.of (BitVec.ofNat 64 (gOut d))
  let checks : List (Bool × Status) :=
    [(decide (4 ≤ fld d 7 1) || fld d 62 2 != 0 || (!wants && gWaybill d != 0), .invalidArg),
     (match expect with
      | some (c, w) => gCore d != c || gWaybill d != w
      | none => false, .invalidArg),
     (!ctxIssues s (gCtx d) p, .faultAccess),
     (decide (320 ≤ gCore d) || decide (64 < gThreads d), .invalidArg),
     (!(partCells s p).contains (gCore d / 16), .faultAccess),
     (gOut d != 0 && (o.space != 0 || !isOwn s o.dev), .invalidArg),
     (wants && !gWayOk s (gWaybill d), .invalidArg)]
  match checks.find? (fun c => c.1) with
  | some c => some c.2
  | none => tallyCheck s (gCtx d) (gTally d)

/-! ### Endings -/

/-- The waybill of a group (Table 7.9) at a store offset. -/
def groupWay (g : Group) (st : Status) (late : Bool) (outDig halted dropped : Nat) : Way :=
  { opid := fld g.desc 0 4, op := 0, status := st
    flags := { late := late, poisoned := g.poisoned, partialOut := late && g.stored }
    unit := unitField .core g.phys, inDig := crc64 g.desc, outDig := outDig
    processed := halted, dropped := dropped, ctx := gCtx g.desc, part := g.part }

/-- Write a group's waybill where its descriptor asks for one, then apply its tally (R149, R195). -/
def groupSay (g : Group) (w : Way) (tally : Bool) (s : State) : State :=
  let desc := (ownSa s 0 g.off).toNat
  let s := if g.wantsWaybill then
      let r := wayWrite (Sa.of (BitVec.ofNat 64 (gWaybill g.desc))).off w s
      if r.2 then r.1
      else evEngine g.part desc w.opid w.unit w.status.code 2
        (cnt (cellReg (homeCell s (Sa.of (BitVec.ofNat 64 (gWaybill g.desc))).off) 0x948) 1 r.1)
    else s
  if tally then completionTally (gTally g.desc) (gTallyOp g.desc) (gCtx g.desc) g.part desc w.opid w.unit s else s

/-- A group and its contexts go (Table 7.8). -/
def groupFree (i : Nat) (s : State) : State :=
  match tget i s.drv.groups with
  | none => s
  | some g =>
    let s := { s with drv := { s.drv with
      groups := tdel i s.drv.groups
      threads := s.drv.threads.filter (fun x => x.2.group != i) } }
    entryEnded g.part g.entry (cnt (cellReg g.cell 0x728) 1 s)

/-- Status of a group whose threads have ended (Table 7.9). -/
def Group.status (g : Group) : Status :=
  match g.forced with
  | some st => st
  | none =>
    if g.faulted = 0 then .done
    else if 0 < g.halted && g.firstFault.isSome then .donePartialDrop
    else g.firstFault.getD .internal

/-- Requests a thread has outstanding, wherever they stand (R180). -/
def threadReqs (s : State) (t : Nat) : List Req :=
  let all := s.coh.fly.map Fly.req ++ s.coh.snoops.flatMap Snoop.reqs
    ++ s.store.blocks.flatMap (fun b => b.2.waiters.map Prod.fst) ++ s.store.reads.map TierRead.req
    ++ s.car.ser.flatMap (fun b => b.recs.map SerRec.req)
    ++ s.ports.toList.flatMap (fun (x : Port) => (x.tags.map Prod.snd ++ x.tagq.map Prod.fst).filterMap (fun u =>
        match u with | .thread r _ => some r | _ => none))
  let born := ((thr s t).map Thread.born).getD 0
  all.filter (fun r => (match r.who with | .thread u _ _ => u = t | _ => false) && decide (born ≤ r.id))

/-- A request writes. -/
def Req.writes (r : Req) : Bool :=
  match r.op with
  | .wrCached | .wrInv | .atomic _ _ _ _ => true
  | .fe f _ => f = .writeEf || f = .writeXf
  | _ => false

/-- GROUP_END (R195): OUT is flushed from the group's core and digested at its homes, the waybill written, the tally
applied, the contexts freed. It waits for the stores its threads have issued, which land first (R112, R194). -/
def groupEnd (i : Nat) (s : State) : State :=
  match tget i s.drv.groups with
  | none => s
  | some g =>
    if g.st != .ending || g.threads.any (fun t => (threadReqs s t).any Req.writes) then s
    else
      let off := (Sa.of (BitVec.ofNat 64 (gOut g.desc))).off
      let n := if gOut g.desc = 0 || g.forced.isSome then 0 else gOutLen g.desc
      let s := flushCell g.cell off n s
      let dig := crc64 (storeBytes s off n)
      let st := g.status
      let w := if g.forced = some .doneEmpty then groupWay g st false 0 0 0
        else if g.forced.isSome then groupWay g st false 0 0 (gThreads g.desc)
        else groupWay g st false dig g.halted g.faulted
      groupFree i (groupSay g w true s)

/-- Drop a group at its deadline or the period's end (R171, Table 7.8): threads stop without a record, a waybill that is
asked for says DROPPED_LATE, no tally. -/
def groupDrop (i : Nat) (s : State) : State :=
  match tget i s.drv.groups with
  | none => s
  | some g =>
    let s := g.threads.foldl (fun s t => withdraw t s) s
    groupFree i (groupSay g (groupWay g .droppedLate true 0 g.halted (gThreads g.desc - g.halted)) false s)

/-- End a group with an abort status (R233, R450): threads stop without a record; no tally. -/
def groupAbort (i : Nat) (st : Status) (s : State) : State :=
  match tget i s.drv.groups with
  | none => s
  | some g =>
    let s := g.threads.foldl (fun s t => withdraw t s) s
    groupFree i (groupSay g (groupWay g st false 0 g.halted (gThreads g.desc - g.halted)) false s)

/-- The core of queued and running groups has become unbound (Table 7.8, R24): they end UNSUPPORTED. -/
def groupsUnbound (core : Nat) (s : State) : State :=
  (s.drv.groups.filter (fun x => x.2.core = core && x.2.st != .ending)).foldl (fun s x =>
    let s := x.2.threads.foldl (fun s t => stopThread t s) s
    updGrp x.1 (fun g => { g with st := .ending, forced := some .unsupported }) s) s

/-! ### Launches -/

/-- Groups queued at a core (R193). -/
def groupsQueued (s : State) (core : Nat) : Nat :=
  (s.drv.groups.filter (fun x => x.2.core = core && x.2.st = .queued)).length

/-- Contexts of a core in use, its thread numbers being core × 64 + context (R178). -/
def ctxUsed (s : State) (core : Nat) : List Nat :=
  (s.drv.threads.filter (fun x => x.1 / 64 = core)).map (fun x => x.1 % 64)

/-- Free contexts of a core, lowest first. -/
def ctxFree (s : State) (core : Nat) : List Nat :=
  (List.range 64).filter (fun c => !(ctxUsed s core).contains c)

/-- A thread as it starts (R190). -/
def startThread (s : State) (g : Group) (gi k t : Nat) : Thread :=
  let x : Thread := { pc := BitVec.ofNat 64 (gEntry g.desc), ctx := gCtx g.desc, group := gi, born := s.coh.nextReq }
  let set := fun (x : Thread) (n v : Nat) => x.write (.r n) v false
  set (set (set (set (set x 1 (gArg g.desc)) 2 k) 3 t) 4 (fld g.desc 0 4)) 5 g.index

/-- The group at the head of a core's queue moves on (R193, Table 7.8). -/
def groupStart (core : Nat) (s : State) : State :=
  match s.drv.groups.find? (fun x => x.2.core = core && x.2.st = .queued) with
  | none => s
  | some (i, g) =>
    if s.drv.unbound.contains core then
      updGrp i (fun g => { g with st := .ending, forced := some .unsupported }) s
    else if gThreads g.desc = 0 then updGrp i (fun g => { g with st := .ending, forced := some .doneEmpty }) s
    else if s.drv.due.contains core || (unitRec s .core (physOf s .core core)).testing then s
    else
      let cs := (ctxFree s core).take (gThreads g.desc)
      if cs.length < gThreads g.desc then s
      else
        let ts := cs.map (fun c => core * 64 + c)
        let threads := (ts.zip (List.range ts.length)).foldl (fun (m : Tab Thread) x =>
          tput x.1 (startThread s g i x.2 x.1) m) s.drv.threads
        let s := { s with drv := { s.drv with threads := threads } }
        updGrp i (fun g => { g with st := .running, threads := ts, phys := physOf s .core core }) s

def execGroupStart (core : Nat) (s : State) : Host.Outcome State Fault Refusal := .next (dp (groupStart core) s)

/-- Launch one group from the descriptor at a store offset (R191, R192): it is queued, or its waybill says why not. The
answer says whether it was queued. -/
def launchOne (p off idx : Nat) (entry : Option Nat) (expect : Option (Nat × Nat)) (s : State) : Bool × State :=
  let d := storeBytes s off 64
  let g : Group := { st := .queued, core := gCore d, phys := physOf s .core (gCore d % 320), part := p, index := idx
                     off := off, desc := d, entry := entry }
  let bad := poisoned s off || (allocAt s off).isNone
  if bad then (false, evEngine p (ownSa s 0 off).toNat (fld d 0 4) g.phys 0 0 s)
  else match groupStatus s p expect d with
    | none =>
      (true, { s with drv := { s.drv with
        groups := tput s.drv.nextGroup g s.drv.groups, nextGroup := s.drv.nextGroup + 1 } })
    | some st =>
      let way := match expect with
        | some (_, w) => w
        | none => if g.wantsWaybill then gWaybill d else 0
      if !gWayOk s way then
        (false, if g.wantsWaybill then evEngine p (ownSa s 0 off).toNat (fld d 0 4) (unitField .core g.phys) st.code 1 s else s)
      else
        let d' := d.take 7 ++ leBytes 1 2 ++ (d.drop 8).take 16 ++ leBytes 8 way ++ d.drop 32
        let tally := (tallyCheck s (gCtx d) (gTally d)).isNone && ctxIssues s (gCtx d) p
        (false, groupSay { g with desc := d' } { groupWay g st false 0 0 (gThreads d) with ctx := gCtx d } tally s)

/-- Launch an array of descriptors (R191, R192): the outcome and the number of groups queued. -/
def launchMany (p off n : Nat) (entry : Option Nat) (s : State) : (Status × Nat) × State :=
  if n = 0 then ((.doneEmpty, 0), s)
  else if 320 < n then ((.invalidArg, 0), s)
  else
    let offs := (List.range n).map (fun i => off + 64 * i)
    let cores := (offs.filter (fun o => (allocAt s o).isSome)).map (fun o => gCore (storeBytes s o 64))
    let full := cores.any (fun c => decide (16 < groupsQueued s c + cores.count c))
    if full then ((.busy, 0), s)
    else
      let r := (offs.zip (List.range n)).foldl (fun (acc : Nat × State) x =>
        let a := launchOne p x.1 x.2 entry none acc.2
        (acc.1 + b2n a.1, a.2)) (0, s)
      ((.done, r.1), r.2)

end Sys2Proof.Machine
end

