-- ==== Sys2Proof/Machine/Complete.lean ====
section
/-! DEFINITION. OPERATION_COMPLETE over all engines (R213), the stopping of operations by the rest of the device,
UNIT_REBIND (R22 to R24) and INVALIDATION_COMPLETE (R46). -/

namespace Sys2Proof.Machine

open Sys2Proof

/-! ### Completion -/

/-- A matrix operation goes on: one that waits tries again; one that runs completes (R213, R251). -/
def matComplete (o : EngOp) (lane : Lane) (sh : ShadowObs) (s : State) : State :=
  if o.st = .stalled then
    match dOp o.desc with
    | 2 => ffnAttempt o s
    | 3 => attAttempt o lane s
    | _ =>
      let o' := matRun o s
      match takeShadows o' s with
      | none => endOp { o with status := .quota, outs := [], processed := 0, dropped := o.total, check := .none } false s
      | some s => updOp o.id (fun _ => o') s
  else
    let s := completeOp o lane sh true s
    if dOp o.desc = 3 then
      match attMember s o.part (attBody o.desc).key with
      | some m => sweepAppends (releaseGo o.part m.depot (attBody o.desc).key s)
      | none => sweepAppends s
    else s

/-- OPERATION_COMPLETE (R213): the operation a unit runs goes on or ends; `lane` is what its check found, `shadow` what
its recheck found (R241 to R256). -/
def operationComplete (k : UnitKind) (u : Nat) (lane : Lane) (sh : ShadowObs) (s : State) : State :=
  match runningOp s k u with
  | none => s
  | some o =>
    match k with
    | .matrix => matComplete o lane sh s
    | .porter => porComplete o lane s
    | .assay => asyComplete o lane sh s
    | _ => s

def execOperationComplete (kind : UnitKind) (unit : Nat) (lane : Lane) (shadow : ShadowObs) (s : State) :
    Host.Outcome State Fault Refusal := .next (dp (operationComplete kind unit lane shadow) s)

/-! ### Stopping operations -/

/-- After operations ended: outcomes of appends, holds of searches and releases that waited on them are settled. -/
def opsSettled (o : EngOp) (s : State) : State :=
  let s := if o.kind = .assay then reclaimAll s else s
  if o.kind = .matrix && dOp o.desc = 3 then
    match attMember s o.part (attBody o.desc).key with
    | some m => sweepAppends (releaseGo o.part m.depot (attBody o.desc).key s)
    | none => sweepAppends s
  else s

/-- The operation as it stands. -/
def opNow (s : State) (o : EngOp) : EngOp := (tget o.id s.eng.ops).getD o

/-- Elements of a descriptor that its unit has not taken (R170). -/
def queuedTotal (s : State) (o : EngOp) : Nat :=
  let d := readDesc s o
  match o.kind with
  | .matrix =>
    if dOp d = 2 then fld d 36 2
    else if dOp d = 3 then attTotal (o.slot = 0) d
    else fld d 36 2 * fld d 38 2
  | .porter => porTotal d
  | .assay => asyTotal s o.part o.unit o.id d
  | _ => 0

/-- Drop an operation at its deadline or the period's end (R170, R171); its row moves stop first (Table 10.10). -/
def stopDrop (o : EngOp) (s : State) : State :=
  let s := if o.st = .queued then updOp o.id (fun x => { x with total := queuedTotal s o }) s else s
  let s := if o.kind = .porter then stopMoves o.id Status.droppedLate.code s else s
  let o := opNow s o
  opsSettled o (dropOp o s)

/-- Abort an operation with a status (R233); its row moves stop first. -/
def stopAbort (o : EngOp) (st : Status) (s : State) : State :=
  let s := if o.st = .queued then updOp o.id (fun x => { x with total := queuedTotal s o }) s else s
  let s := if o.kind = .porter then stopMoves o.id st.code s else s
  let o := opNow s o
  opsSettled o (abortOp o st s)

/-! ### Rebinding -/

/-- Slots of a cell's cores that no logical core is bound to and whose core has not failed (R22). -/
def cellSpare (s : State) (c : Nat) : Option Nat :=
  (List.range 17).find? (fun sl =>
    !(List.range 16).any (fun i => coreSlot s (c * 16 + i) = sl) && inService s .core (17 * c + sl))

/-- CAUSE of what took a physical unit out of service (Table 19.3): a management command's test (R482), else that of the
last entry that quarantined it. -/
def unitCause (s : State) (unit : Nat) : Nat :=
  let es := s.rep.ledger ++ s.rep.writes.map LedWrite.ent
  if (tgetD s.eng.units unit {}).testing then 6
  else if (tgetD s.eng.units unit {}).off then 2
  else ((es.reverse.find? (fun e => e.type = 0x02 && e.unit = unit)).map LedEnt.cause).getD 0

/-- A logical core goes to its cell's spare, or becomes unbound (R22 to R24). -/
def rebindCore (l : Nat) (s : State) : State :=
  let c := l / 16
  let old := physOf s .core l
  let cause := unitCause s (unitField .core old)
  match cellSpare s c with
  | some sl =>
    let ph := 17 * c + sl
    let s := { s with drv := { s.drv with slot := tput l sl s.drv.slot, due := s.drv.due.erase l } }
    ledgerAdd { type := 0x01, cause := cause, unit := unitField .core ph, cell := c, logical := l } none
      (evUnit 1 (unitField .core ph) l c s)
  | none =>
    let s := groupsUnbound l { s with drv := { s.drv with unbound := l :: s.drv.unbound, due := s.drv.due.erase l } }
    ledgerAdd { type := 0x04, cause := cause, unit := unitField .core old, cell := c, logical := l } none
      (splitLogical .core l (evUnit 2 (unitField .core old) l c s))

/-- A physical unit only under a test keeps its logical unit when no spare is free (R482). -/
def onlyTesting (s : State) (k : UnitKind) (phys : Nat) : Bool :=
  let r := unitRec s k phys
  r.testing && !r.quarantined && !r.failed

/-- UNIT_REBIND (R22): a logical unit that is due rebinds between two of its operations. -/
def unitRebind (k : UnitKind) (l : Nat) (s : State) : State :=
  match k with
  | .core =>
    if !s.drv.due.contains l then s
    else if onlyTesting s .core (physOf s .core l) && (cellSpare s (l / 16)).isNone then
      { s with drv := { s.drv with due := s.drv.due.erase l } }
    else rebindCore l s
  | .matrix =>
    if s.eng.due.contains l && (runningOp s .matrix l).isNone then
      if onlyTesting s .matrix (physOf s .matrix l) && (tileSpare s (l / 10)).isNone then
        { s with eng := { s.eng with due := s.eng.due.erase l } }
      else rebindMatrix l (unitCause s (unitField .matrix (physOf s .matrix l))) s
    else s
  | _ => s

def execUnitRebind (kind : UnitKind) (logical : Nat) (s : State) : Host.Outcome State Fault Refusal :=
  .next (dp (unitRebind kind logical) s)

/-! ### Invalidations -/

/-- Queue an invalidation of the firmware behind those in progress (R57). -/
def invQueue (i : Inv) (s : State) : State :=
  if s.xlt.invs = [] then invBegin i s else updXlt (fun x => { x with invs := x.invs ++ [{ i with started := false }] }) s

/-- The invalidation at the head starts, if it has not. -/
def invNext (s : State) : State :=
  match s.xlt.invs with
  | [] => s
  | i :: rest =>
    if i.started then s
    else
      let s := invBegin i (updXlt (fun x => { x with invs := [] }) s)
      updXlt (fun x => { x with invs := x.invs ++ rest }) s

/-- INVALIDATION_COMPLETE (R46, R47): the oldest invalidation, once every request it waits for is ordered. -/
def invalidationComplete (s : State) : State :=
  match s.xlt.invs with
  | [] => s
  | i :: rest =>
    if i.waits != [] || !i.started then s
    else
      let s := updXlt (fun x => { x with invs := rest }) s
      let s := if i.scope < 2 then setLastGen i.ctx i.gen s else s
      let s := match i.mb with
        | none => invStatus .done s
        | some n => complete n 0 [] s
      invNext s

def execInvalidationComplete (s : State) : Host.Outcome State Fault Refusal := .next (dp invalidationComplete s)

end Sys2Proof.Machine
end

