-- ==== Sys2Proof/Machine/Link.lean ====
section
/-! DEFINITION. What arrives over an Ehryn link and ends at this device: requests of a partner (R345 to R347), its
answers to snoops (R127) and to this device's own requests (R347, R375). -/

namespace Sys2Proof.Machine

open Sys2Proof

/-! ### Answers to this device's requests -/

/-- End what waited under a TAG: status, data of a line, poison, and the returned word of a tally operation. A tally
operation that ends without a word leaves a free value in rd (log 3). A load that crosses a line asks for its second
line next. -/
def remoteEnd (u : Remote) (st : Status) (data : List Byte) (poison : Bool) (word : Option Nat) (s : State) : State :=
  match u with
  | .thread r sa =>
    let fe := match r.op with | .fe _ _ => true | _ => false
    if st.ok then
      let n := 64 - r.off % 64
      let got := r.data ++ (data.drop (r.off % 64)).take r.len
      if r.op = .rdNc && decide (n < r.len) then
        let next : Req := { r with off := r.off + n, len := r.len - n, data := got, poison := r.poison || poison }
        match routePort s (Sa.of (BitVec.ofNat 64 sa)).dev with
        | some p => sendTag p (.thread next (sa + n))
            { kind := .rdNc, ctx := r.ctx, sa := BitVec.ofNat 64 ((sa + n) / 64 * 64) } s
        | none => deliver r .linkLost [] false false s
      else if r.op = .rdNc then deliver r .done got (r.poison || poison) false s
      else deliver r .done ((data.drop (r.off % 64)).take r.len) poison false s
    else match r.who with
      | .thread t rd _ =>
        if ((thr s t).map (fun x => staleReq x r)).getD true then s
        else if fe && feOutcome st then threadSync t rd st none false s
        else if fe then faultReq t r.id st sa s
        else faultReq t r.id st sa (updThr t (fun x => x.returned rd) s)
      | _ => s
  | .sync t rd sa =>
    match st with
    | .done | .timeout | .faultSync | .busy => threadSync t rd st word false s
    | .linkLost =>
      let d := draw s
      threadSync t rd st (some (word.getD d.1)) false d.2
    | _ => faultReq t 0 st sa s
  | .tally p desc opid unit => if st.ok then s else evEngine p desc opid unit st.code 3 s

/-- Free a TAG; a request that waited for one goes (R347). -/
def freeTag (p tag : Nat) (s : State) : State :=
  let s := updPort p (fun x => { x with tags := tdel tag x.tags }) s
  match (port s p).tagq with
  | [] => s
  | (u, m) :: rest => sendTag p u m (updPort p (fun x => { x with tagq := rest }) s)

/-- An answer arrives under a TAG of this device. -/
def answer (p tag : Nat) (st : Status) (data : List Byte) (poison : Bool) (word : Option Nat) (s : State) : State :=
  match tget tag (port s p).tags with
  | none => s
  | some u => remoteEnd u st data poison word (freeTag p tag s)

/-- Every request out on a link ends with LINK_LOST (R145, R339). -/
def tagsLost (p : Nat) (s : State) : State :=
  let x := port s p
  let us := x.tags.map Prod.snd ++ x.tagq.map Prod.fst
  us.foldl (fun s u => remoteEnd u .linkLost [] false none s) (updPort p (fun x => { x with tags := [], tagq := [] }) s)

/-- Waiters parked by requests of a link are withdrawn (R347). -/
def withdrawRemote (p : Nat) (s : State) : State :=
  let mine := fun (w : Waiter) => match w with | .remote q _ => q = p | _ => false
  let offs := (s.sync.feq.filter (fun w => mine w.who)).map (fun w => w.line * 64)
  let s := { s with sync := { s.sync with
    waiters := s.sync.waiters.filter (fun w => !mine w.who)
    feq := s.sync.feq.filter (fun w => !mine w.who) } }
  offs.foldl (fun s o => feServe s.sync.feq.length o (feOf s o != feEmpty) s) s

/-! ### Snoops -/

/-- An agent answers a snoop: an M copy's data lands at the home, the copy is given up or reduced to S, and what waited
is served (R110, R127). -/
def snoopAnswer (p line : Nat) (data : Option (List Byte)) (poison : Bool) (s : State) : State :=
  match s.coh.snoops.find? (fun x => x.line = line && x.port = p) with
  | none => s
  | some x =>
    let s := { s with coh := { s.coh with snoops := s.coh.snoops.filter (fun y => !(y.line = line && y.port = p)) } }
    let s := match data with
      | some d => landLine (line * 64) (padTo 64 d) [] poison s
      | none => s
    let me := 0x40 + p
    let s := match tget line s.coh.dir with
      | none => s
      | some e =>
        let sh := e.sharers &&& ~~~(sharerBit me)
        let kept : DirEnt := { e with m := false, owner := 0, sharers := sharerBit me }
        let fewer := if sh = 0 then tdel line s.coh.dir else tput line { e with sharers := sh } s.coh.dir
        let gone := if x.inv then tdel line s.coh.dir else tput line kept s.coh.dir
        let dir := if e.m then (if e.owner = me then gone else s.coh.dir) else if x.inv then fewer else s.coh.dir
        { s with coh := { s.coh with dir := dir } }
    resumePublish (serveAll x.reqs s)

/-- The home demands an agent's copy of a line (SNP_INV, SNP_SHR). -/
def demand (p line : Nat) (inv : Bool) (s : State) : State :=
  match tget line s.coh.dir with
  | none => s
  | some e =>
    if (agentsOf e).contains p && (inv || e.m) then
      snoop line [p] inv { who := .migration, ctx := 0, off := line * 64, op := .rdNc, len := 64 } s
    else s

/-! ### Requests of a partner -/

/-- Answer a request with RSP_FAULT. -/
def rspFault (p tag ctx : Nat) (st : Status) (s : State) : State :=
  emit (.link p { kind := .rspFault, tag := tag, ctx := ctx, status := st.code, args := [s.parts.devNo] }) s

/-- The line an address names. -/
def lineAddr : Addr → Addr
  | .sa a => .sa (a &&& ~~~63#64)
  | .va v => .va (v &&& ~~~63#57)

/-- A line request: admission and translation, then its home (R33, R346). -/
def linkReq (p tag ctx : Nat) (addr : Addr) (op : ReqOp) (data : List Byte) (mask : List Bool) (s : State) : State :=
  admitReq p { who := .port p tag, ctx := ctx, off := 0, op := op, len := 64, data := data, mask := mask } (lineAddr addr) s

/-- A request only the coherent agent may send (R346). -/
def agentReq (p tag ctx : Nat) (addr : Addr) (op : ReqOp) (s : State) : State :=
  if (port s p).coherent then linkReq p tag ctx addr op [] [] s else rspFault p tag ctx .unsupported s

/-- The store offset an agent's write back or eviction names, once admitted: its lines came by SA or VA; a VA is
resolved by the TLBs alone. -/
def agentLine (s : State) (p ctx : Nat) (addr : Addr) : Option Nat :=
  match lineAddr addr with
  | .sa a => let x := Sa.of a; if x.space = 0 && isOwn s x.dev && admits s ctx p then some x.off else none
  | .va v => (tlbFind s p ctx (v.toNat / 4096)).map (fun e => e.offset (v.toNat / 4096) + v.toNat % 4096)

/-- WB and EVICT (Table 13.6): an M line's data lands and the copy goes; a clean copy goes. Data of a line the agent
does not hold in M changes nothing. -/
def agentGives (p tag ctx : Nat) (addr : Addr) (data : Option (List Byte)) (s : State) : State :=
  if !(port s p).coherent then rspFault p tag ctx .unsupported s
  else match agentLine s p ctx addr with
    | none => rspFault p tag ctx .faultAccess s
    | some off =>
      match homeCheck s ctx off data.isSome with
      | some st => rspFault p tag ctx st s
      | none =>
        let l := off / 64
        let me := 0x40 + p
        let s := match tget l s.coh.dir with
          | none => s
          | some e =>
            if e.m && e.owner = me then
              let s := match data with
                | some d => landLine off (padTo 64 d) [] false s
                | none => s
              { s with coh := { s.coh with dir := tdel l s.coh.dir } }
            else if !e.m then
              let sh := e.sharers &&& ~~~(sharerBit me)
              { s with coh := { s.coh with dir := if sh = 0 then tdel l s.coh.dir else tput l { e with sharers := sh } s.coh.dir } }
            else s
        emit (.link p { kind := .rspAck, tag := tag, ctx := ctx, status := 0, args := [s.parts.devNo] }) s

/-- A tally message's checks: sync space of this device, reach, alignment, admission (R347, Table 2.12). -/
def syncCheck (s : State) (p ctx : Nat) (sa : BitVec 64) : Option Status :=
  let x := Sa.of sa
  if x.space != 2 || !isOwn s x.dev then some .faultAccess
  else if !(syncLayout x.off && ((ctxPart s ctx).map (fun pt => (partCells s pt).contains (x.off / 2 ^ 18))).getD false)
    then some .faultAccess
  else if x.off % 8 != 0 then some .faultAlign
  else if !admits s ctx p then some .faultAccess
  else if !crossOk s ((ctxPart s ctx).getD 20) (p / 2) (x.off / 2 ^ 18 / 5) then some .quota
  else none

/-- SYNC_UPD (R347): TALLY_ADD or TALLY_SUB at the home, answered with the word afterwards. -/
def syncUpd (p tag ctx : Nat) (sa : BitVec 64) (opnd : BitVec 64) (sub : Bool) (s : State) : State :=
  match syncCheck s p ctx sa with
  | some st => rspFault p tag ctx st s
  | none =>
    let w := (Sa.of sa).off / 8
    let bad := tallyRefused s w opnd
    let s := tallyApply sub w opnd ctx s
    emit (.link p { kind := .rspSync, tag := tag, ctx := ctx, status := (if bad then Status.faultSync else .done).code
                    args := [(tallyAt s w).toNat] }) s

/-- SYNC_RD (R347). -/
def syncRd (p tag ctx : Nat) (sa : BitVec 64) (s : State) : State :=
  match syncCheck s p ctx sa with
  | some st => rspFault p tag ctx st s
  | none => emit (.link p { kind := .rspSync, tag := tag, ctx := ctx, status := 0
                            args := [(tallyAt s ((Sa.of sa).off / 8)).toNat] }) s

/-- SYNC_WAIT (R347): allowed in monitor mode only (Table 5.6). -/
def syncWait (p tag ctx : Nat) (sa opnd : BitVec 64) (timeout : Nat) (op : TallyOp) (s : State) : State :=
  if s.sync.feMode then rspFault p tag ctx .unsupported s
  else match syncCheck s p ctx sa with
    | some st => rspFault p tag ctx st s
    | none => waitStart op ((Sa.of sa).off / 8) opnd (timeout % 2 ^ 32) ctx (.remote p tag) s

/-- FE_OP (R347): allowed in full/empty mode only (Table 5.6). -/
def feOpMsg (p tag ctx : Nat) (sa : BitVec 64) (f : FeOp) (timeout : Nat) (data : List Byte) (s : State) : State :=
  if !s.sync.feMode then rspFault p tag ctx .unsupported s
  else
    let x := Sa.of sa
    if x.off % 64 != 0 then rspFault p tag ctx .faultAlign s
    else linkReq p tag ctx (.sa sa) (.fe f (timeout % 2 ^ 32)) (padTo 64 data) [] s

end Sys2Proof.Machine
end

