-- ==== Sys2Proof/Machine/Caravan.lean ====
section
/-! DEFINITION. Caravans (14_caravans_serai.md): legs and their carriers, landing streams, beacons, endings, fences, and
FRB legs (15_compression.md). -/

namespace Sys2Proof.Machine

open Sys2Proof

/-! ### Leg fields (Table 14.1) -/

def lW (d : List Byte) (i : Nat) : Nat := fld d (8 * i) 8
def lCtx (d : List Byte) : Nat := bitsOf (lW d 0) 63 48
def lFlags (d : List Byte) : Nat := bitsOf (lW d 0) 47 40
def lBeacon (d : List Byte) : Bool := bit (lW d 0) 39
def lClass (d : List Byte) : Nat := bitsOf (lW d 0) 38 36
def lKind (d : List Byte) : Nat := bitsOf (lW d 0) 35 32
def lOpid (d : List Byte) : Nat := bitsOf (lW d 0) 31 0
def lSrc (d : List Byte) : Nat := lW d 1
def lDst (d : List Byte) : Nat := lW d 2
def lElem (d : List Byte) : Nat := bitsOf (lW d 3) 63 40
def lLen (d : List Byte) : Nat := bitsOf (lW d 3) 39 0
def lStride (d : List Byte) : Nat := bitsOf (lW d 4) 31 0
/-- The beacon's operand {BEPOCH, BNOCHK, BVALUE} (R362, Table 5.2). -/
def lOpnd (d : List Byte) : Nat :=
  bitsOf (lW d 5) 63 52 * 2 ^ 52 + bitsOf (lW d 5) 51 51 * 2 ^ 51 + bitsOf (lW d 4) 63 32
def lNext (d : List Byte) : Nat := bitsOf (lW d 5) 47 6 * 64
def lWay (d : List Byte) : Nat := bitsOf (lW d 6) 47 6 * 64
def lTarget (d : List Byte) : Nat := lW d 7
def lHost (d : List Byte) : Bool := bit (lFlags d) 1
def lHend (d : List Byte) : Bool := bit (lFlags d) 2
def lFrb (d : List Byte) : Bool := bit (lFlags d) 3
def lBsync (d : List Byte) : Bool := bit (lFlags d) 4
def lRbf (d : List Byte) : Bool := bit (lFlags d) 5

/-- A reserved field of a leg is set, or BTARGET without BEACON (Table 14.1). -/
def lRsvd (d : List Byte) : Bool :=
  lFlags d / 64 != 0 || bitsOf (lW d 5) 50 48 != 0 || bitsOf (lW d 5) 5 0 != 0 || bitsOf (lW d 6) 63 48 != 0
    || bitsOf (lW d 6) 5 0 != 0 || (!lBeacon d && lTarget d != 0)

/-! ### Geometry of a leg (R354) -/

/-- Bytes a leg writes. -/
def geoLen (kind flags len : Nat) : Nat :=
  if kind = 6 || kind = 7 then 0 else if kind = 5 && bit flags 5 then 2 * len else len

/-- Destination lines of a leg from its destination offset. -/
def geoLines (kind flags len elem stride off : Nat) : List Nat :=
  let ls := if kind = 3 then (List.range (if elem = 0 then 0 else len / elem)).flatMap (fun i => linesOf (off + i * stride) elem)
    else linesOf off (geoLen kind flags len)
  (ls.map (· / 64)).eraseDups

/-- The place in destination order of the byte a leg writes at an offset. -/
def geoIdx (kind flags len elem stride off a : Nat) : Option Nat :=
  if a < off then none
  else
    let d := a - off
    if kind = 3 then
      if stride = 0 then none
      else if d % stride < elem && d / stride * elem + d % stride < len then some (d / stride * elem + d % stride) else none
    else if d < geoLen kind flags len then some d else none

/-- Source ranges of a leg, in stream order. -/
def lPieces (d : List Byte) : List (Nat × Nat) :=
  match lKind d with
  | 2 => (List.range (if lElem d = 0 then 0 else lLen d / lElem d)).map (fun i => (lSrc d + i * lStride d, lElem d))
  | 4 => []
  | 7 => []
  | _ => [(lSrc d, lLen d)]

/-- Elements of a leg (R354). -/
def lTotal (d : List Byte) : Nat :=
  if lKind d = 6 then (linesOf (saOff (lSrc d)) (lLen d)).length
  else (geoLines (lKind d) (lFlags d) (lLen d) (lElem d) (lStride d) (saOff (lDst d))).length

/-! ### Carriers -/

/-- Port number under which a carrier's streams are kept: 8 for the PCIe DMA engine. -/
def carPort (k : UnitKind) (u : Nat) : Nat := if k = .port then u else 8
/-- Row of the toll-slot table of a carrier (Table 6.7). -/
def carRow (k : UnitKind) (u : Nat) : Nat := if k = .port then u else 8
/-- A caravan counter of a carrier (Tables 14.7 and 16.17). -/
def carReg (k : UnitKind) (u o : Nat) : Nat := if k = .port then portReg u o else 0x80000 + o

def carOf (s : State) (id : Nat) : Option Caravan := tget id s.car.cars
def updCar (id : Nat) (f : Caravan → Caravan) (s : State) : State :=
  { s with car := { s.car with cars := tupd id f s.car.cars } }
/-- Change a leg of a caravan. -/
def updLeg (id i : Nat) (f : Leg → Leg) (s : State) : State :=
  updCar id (fun c => { c with legs := (c.legs.zip (List.range c.legs.length)).map (fun x => if x.2 = i then f x.1 else x.1) }) s
def legAt (c : Caravan) (i : Nat) : Leg := c.legs.getD i { off := 0, desc := [], total := 0 }

def strKey (p id : Nat) : Nat := p * 8192 + id
def strOf (s : State) (p id : Nat) : Option Stream := tget (strKey p id) s.car.streams
def updStr (p id : Nat) (f : Stream → Stream) (s : State) : State :=
  { s with car := { s.car with streams := tupd (strKey p id) f s.car.streams } }
def delStr (p id : Nat) (s : State) : State := { s with car := { s.car with streams := tdel (strKey p id) s.car.streams } }

/-- A free stream identifier of a direction of a carrier (R358). -/
def freeOut (s : State) (p : Nat) : Option Nat := (List.range 4096).find? (fun i => (tget (strKey p i) s.car.outs).isNone)
def freeIn (s : State) (p : Nat) : Option Nat := (List.range 4096).find? (fun i => (tget (strKey p i) s.car.streams).isNone)

/-- Key of an arriving caravan: port, source device, the source's number of it. -/
def landKey (p dev car : Nat) : Nat := (p * 4096 + dev) * 2 ^ 32 + car

/-- Caravans of a partition that a carrier runs. -/
def carsRunning (s : State) (k : UnitKind) (u p : Nat) : Nat :=
  (s.car.cars.filter (fun x => x.2.kind = k && x.2.unit = u && x.2.part = p)).length

/-! ### Validation (Table 14.3) -/

/-- The device a leg lands on (R355); 4096 stands for the host. -/
def lLanding (s : State) (d : List Byte) : Nat :=
  if lKind d = 6 || lKind d = 7 then s.parts.devNo
  else if lHost d && lHend d then 4096
  else let x := (Sa.of (BitVec.ofNat 64 (lDst d))).dev
    if isOwn s x then s.parts.devNo else x

/-- An end of a leg names another device. -/
def remoteSa (s : State) (sa : Nat) : Bool := !isOwn s (Sa.of (BitVec.ofNat 64 sa)).dev

/-- The leg is a pull (R355). -/
def lPull (s : State) (d : List Byte) : Bool :=
  !(lKind d = 4 || lKind d = 7) && !(lHost d && !lHend d) && remoteSa s (lSrc d)

/-- The FRB stream record of a leg: one of its partition's streams on its carrier that holds its whole source (R377). -/
def lFrbStream (s : State) (part u : Nat) (d : List Byte) : Option FrbStream :=
  (s.car.frb.find? (fun x => x.1 / 64 = part && x.2.port = u
    && (Sa.of (BitVec.ofNat 64 (lSrc d))).space = 0
    && decide (x.2.base ≤ saOff (lSrc d)) && decide (saOff (lSrc d) + lLen d ≤ x.2.base + x.2.length))).map Prod.snd

/-- The rules of R377 and R383. -/
def frbOk (s : State) (c : Caravan) (d : List Byte) : Bool :=
  match lFrbStream s c.part c.unit d with
  | none => false
  | some f =>
    let es := frbEs f.sfmt
    (lKind d = 1 || lKind d = 5) && c.kind = .port && !lPull s d && (saOff (lSrc d) - f.base) % (256 * es) = 0 && lLen d % es = 0
      && (lKind d != 5 || lRbf d == (f.sfmt = 1))

/-- R355: where a leg's ends may lie. -/
def endsOk (s : State) (c : Caravan) (d : List Byte) : Bool :=
  if lKind d = 7 then true
  else
    let src := lKind d != 4 && !(lHost d && !lHend d) && remoteSa s (lSrc d)
    let dst := lKind d != 6 && !(lHost d && lHend d) && remoteSa s (lDst d)
    if c.kind = .port then src != dst else !src && !dst

/-- A data address of a leg passes Table 2.12 at the issuing agent: store of an assigned device, or scratchpad of this
device's partition. -/
def lAddr (s : State) (p sa n : Nat) : Bool :=
  let x := Sa.of (BitVec.ofNat 64 sa)
  (x.space = 0 && devKnown s x.dev && decide (x.off + n ≤ 2 ^ 48)) || (x.space = 1 && isOwn s x.dev && spadOk s p x.off n)

/-- A beacon's address passes Table 2.12 at the issuing agent. -/
def lTargetOk (s : State) (d : List Byte) : Bool :=
  let x := Sa.of (BitVec.ofNat 64 (lTarget d))
  devKnown s x.dev && (if lBsync d then x.space = 0 else x.space = 2 && syncLayout x.off)

/-- Bytes an end of a leg spans. -/
def lSpan (d : List Byte) (gathers : Bool) : Nat :=
  if gathers then (if lElem d = 0 then 0 else (lLen d / lElem d - 1) * lStride d + lElem d)
  else geoLen (lKind d) (lFlags d) (lLen d)

/-- The partition may use the carrier and the crossings its local store range needs (R175). -/
def lTolls (s : State) (c : Caravan) (d : List Byte) : Bool :=
  let near := fun (sa n : Nat) =>
    let x := Sa.of (BitVec.ofNat 64 sa)
    if remoteSa s sa then true
    else if x.space = 1 then crossOk s c.part (c.unit / 2) (x.off / 2 ^ 26 / 5)
    else (blockStarts x.off n).all (fun a => crossOk s c.part (c.unit / 2) (homeCell s a / 5))
  holdsSlot s c.part (carRow c.kind c.unit)
    && (c.kind != .port || (near (lSrc d) (if lKind d = 4 || lKind d = 7 then 0 else if lKind d = 2 then lSpan d true else lLen d)
      && near (lDst d) (if lKind d = 6 || lKind d = 7 then 0 else lSpan d (lKind d = 3))))

/-- The checks of Table 14.3 in order: the status of the first that fails. `way` is the WAYBILL the first leg must name
(R357). -/
def legCheck (s : State) (c : Caravan) (way : Option Nat) (d : List Byte) : Option Status :=
  let k := lKind d
  let rec2 := k = 2 || k = 3
  let first := c.legs.headD { off := 0, desc := d, total := 0 }
  let empty := if k = 7 then lSrc d % 256 = 0 else lLen d = 0
  firstBad [
    (lRsvd d, .invalidArg),
    (k = 0 || decide (8 ≤ k), .unsupported),
    (!ctxIssues s (lCtx d) c.part, .faultAccess),
    (empty, .doneEmpty),
    ((rec2 && lElem d = 0) || (!rec2 && (lElem d != 0 || lStride d != 0))
      || (rec2 && lLen d % (if lElem d = 0 then 1 else lElem d) != 0)
      || (k = 5 && lLen d % (if lRbf d then 2 else 4) != 0) || (rec2 && decide (lStride d < lElem d))
      || (lRbf d && k != 5) || (lHost d && c.kind = .port) || !endsOk s c d
      || ((k = 6 || k = 7) && lDst d != 0)
      || lLanding s d != lLanding s first.desc || lClass d != lClass first.desc
      || (k = 7 && (c.legs != [] || lNext d != 0)) || (c.legs != [] && lKind first.desc = 7)
      || decide (65536 ≤ c.legs.length) || (lFrb d && !frbOk s c d)
      || (c.legs = [] && (match way with | some w => lWay d != w | none => false)), .invalidArg),
    ((k = 5 && (lSrc d % 4 != 0 || lDst d % 4 != 0))
      || (lBeacon d && lTarget d % (if lBsync d then 64 else 8) != 0), .faultAlign),
    ((k != 4 && k != 7 && !(lHost d && !lHend d) && !lAddr s c.part (lSrc d) (if k = 2 then lSpan d true else lLen d))
      || (k != 6 && k != 7 && !(lHost d && lHend d) && !lAddr s c.part (lDst d) (lSpan d (k = 3)))
      || (lBeacon d && !lTargetOk s d), .faultAccess),
    (!lTolls s c d, .quota)]

/-! ### Reading the source -/

/-- What reading a leg's source gives: its bytes so far, offsets in them that read poisoned, and how it ended. -/
structure SrcRead where
  bytes : List Byte := []
  bad : List Nat := []
  res : Bulk := .ok
deriving DecidableEq, Repr

/-- Pieces of a range of at most 4 KiB that cross no page. -/
def pageCut (sa n : Nat) : List (Nat × Nat) :=
  if n = 0 then [] else (span (sa / 4096) ((sa + n - 1) / 4096 - sa / 4096 + 1)).map (fun p =>
    (max sa (p * 4096), min (sa + n) (p * 4096 + 4096) - max sa (p * 4096)))

/-- Read local ranges under a context, stopping at the first that fails (R121, Table 14.5). -/
def readPieces (ctx part : Nat) (ps : List (Nat × Nat)) (s : State) : SrcRead × State :=
  (ps.flatMap (fun p => pageCut p.1 p.2)).foldl (fun acc p =>
    match acc.1.res with
    | .ok =>
      match bulk ctx part p.1 p.2 false acc.2 with
      | (.ok, s) =>
        let n := acc.1.bytes.length
        let bad := (linesOf p.1 p.2).filter (fun l => rangePoison s l 1)
        ({ bytes := acc.1.bytes ++ rangeBytes s p.1 p.2, bad := acc.1.bad ++ bad.map (fun l => n + (max l p.1 - p.1)) }, s)
      | (r, s) => ({ acc.1 with res := r }, s)
    | _ => acc) ({}, s)

/-- Bytes of a FILL (Table 14.2). -/
def fillBytes (pattern n : Nat) : List Byte :=
  (List.range n).map (fun i => BitVec.ofNat 8 (pattern / 256 ^ (i % 8)))

/-! ### Landing (R358 to R361) -/

/-- Table of an FRB stream's landing: the set of the landing partition that OPEN names (R388). -/
def strTable (s : State) (x : Stream) : Option FrbTable := tget (x.part * 2 ^ 32 + x.stride) s.car.tables

/-- A byte of a stream as received. -/
def Stream.raw (x : Stream) (i : Nat) : Option Byte := (tget (i / 224) x.chunks).bind (fun d => d[i % 224]?)

/-- A byte of a stream in destination order, decoded: not yet there, damaged, or its value. -/
def Stream.byte (x : Stream) (i : Nat) : Option (Option Byte) :=
  let src := fun (j : Nat) =>
    if bit x.flags 3 then
      let es := frbEs (x.elem % 256)
      (tget (j / (256 * es)) x.blocks).map (fun b => b[j % (256 * es)]?)
    else (x.raw j).map some
  if x.kind = 5 && bit x.flags 5 then
    if i % 4 < 2 then (src (i / 4 * 2)).map (fun b => b.map (fun _ => 0)) else src (i / 4 * 2 + (i % 4 - 2))
  else src i

/-- Bytes of an arriving line: those the leg writes, with a mark for each; none while some have not arrived. -/
inductive LineIn
  | partialYet
  | damaged
  | ready (data : List Byte) (mask : List Bool)
deriving DecidableEq, Repr

/-- Geometry of a stream's own legs: FRB legs carry their codec's fields in ELEM and STRIDE. -/
def Stream.idx (x : Stream) (a : Nat) : Option Nat := geoIdx x.kind x.flags x.len x.elem x.stride (saOff x.dst) a
def Stream.lines (x : Stream) : List Nat := geoLines x.kind x.flags x.len x.elem x.stride (saOff x.dst)

/-- Line `l` of a stream as it stands. -/
def Stream.lineIn (x : Stream) (l : Nat) : LineIn :=
  let cells := (List.range 64).map (fun i => x.idx (l * 64 + i))
  let vals := cells.map (fun c => c.map x.byte)
  if vals.any (fun v => v == some none) then .partialYet
  else if vals.any (fun v => v == some (some none)) then .damaged
  else .ready (vals.map (fun v => match v with | some (some (some b)) => b | _ => 0)) (cells.map Option.isSome)

/-- A line is to land poisoned: one of its stream bytes was sent marked. -/
def Stream.bad (x : Stream) (l : Nat) : Bool :=
  x.poison.any (fun o => (List.range 64).any (fun i => x.idx (l * 64 + i) = some o))

/-- Write a line of a stream to this device's scratchpad. -/
def landSpad (off : Nat) (d : List Byte) (m : List Bool) (p : Bool) (s : State) : State :=
  if m.all id then spadWrite off d p s
  else ((d.zip m).zip (List.range 64)).foldl (fun s x => if x.1.2 then spadWrite (off + x.2) [x.1.1] p s else s) s

/-- A REDUCE_ADD line after its update: old + incoming in FP32 with one rounding (R368). -/
def reduceLine (old inc : List Byte) (m : List Bool) : List Byte :=
  (List.range 16).flatMap (fun i =>
    if m.getD (4 * i) false then leBytes 4 (toF32 (add32 (ofF32 (fld old (4 * i) 4)) (ofF32 (fld inc (4 * i) 4))))
    else (old.drop (4 * i)).take 4)

/-- Land one arrived line of a stream (R120, R368, R389); false where it must wait. -/
def landStreamLine (p id l : Nat) (s : State) : State :=
  match strOf s p id with
  | none => s
  | some x =>
    match x.lineIn l with
    | .partialYet => s
    | .damaged => updStr p id (fun x => { x with done := l :: x.done, faulted := x.faulted + 1 }) s
    | .ready d m =>
      let bad := x.bad l
      let note := fun (o : List Byte) (s : State) =>
        updStr p id (fun x => { x with done := l :: x.done, out := tput l o x.out, waiting := x.waiting + 1 }) s
      let wrote := ((d.zip m).filter (fun y => y.2)).map Prod.fst
      if (Sa.of (BitVec.ofNat 64 x.dst)).space = 1 then
        streamLine p id .done (note wrote (landSpad (l * 64) d m bad s))
      else if x.kind = 5 then
        if !mayCross s (.stream p id) x.ctx (l * 64) then streamLine p id .quota (note [] s)
        else match bulkStore x.ctx (l * 64) 64 true s with
          | (.stop st, s) => streamLine p id st (note [] s)
          | (.wait, s) => s
          | (.ok, s) =>
            if isSyncLine s (l * 64) then streamLine p id .faultSync (note [] s)
            else match rowAgents (l * 64) 64 s with
              | (k, ps) :: _ => snoop k ps true { who := .migration, ctx := 0, off := k * 64, op := .rdNc, len := 1 } s
              | [] =>
                let s := recallRow (l * 64) 64 s
                let nw := reduceLine (storeBytes s (l * 64) 64) d m
                let pz := bad || poisoned s (l * 64)
                let outB := ((nw.zip m).filter (fun y => y.2)).map Prod.fst
                streamLine p id .done (note outB (landRow x.ctx (l * 64) nw pz s))
      else
        serve { who := .stream p id, ctx := x.ctx, off := l * 64, op := .wrInv, len := 64, data := d
                mask := if m.all (· == true) then [] else m, poison := bad } .clean (note wrote s)

/-- Decode the FRB blocks of a stream that have arrived whole (R389). -/
def decodeBlocks (p id : Nat) (lane : Lane) (s : State) : State :=
  match strOf s p id with
  | none => s
  | some x =>
    match strTable s x with
    | none => s
    | some t =>
      let es := frbEs (x.elem % 256)
      let c := frbC t.w
      let n := (x.len / es + 255) / 256
      (List.range n).foldl (fun s k =>
        match strOf s p id with
        | none => s
        | some x =>
          let got := (List.range c).map (fun i => x.raw (k * c + i))
          if (tget k x.blocks).isSome || got.any Option.isNone then s
          else match frbDecode t (x.elem % 256) k (got.map (fun b => b.getD 0)) with
            | none =>
              let s := cnt (portReg p 0x328) 1 (updStr p id (fun x => { x with blocks := tput k [] x.blocks }) s)
              evqPost x.part 0x0203 1 (leBytes 2 x.dev ++ leBytes 2 id ++ leBytes 4 0 ++ leBytes 8 k) s
            | some (pz, b) =>
              let offs := if pz then (List.range (256 * es)).map (fun i => k * 256 * es + i) else []
              let offs := if x.kind = 5 && bit x.flags 5 then offs.map (fun o => o / 2 * 4 + 2 + o % 2) else offs
              let s := cnt (portReg p 0x310) 1 (updStr p id (fun x => { x with
                blocks := tput k b x.blocks, poison := x.poison ++ offs, disagree := x.disagree || lane != .pass }) s)
              if lane = .pass then s else cnt (portReg p 0x330) 1 s) s

/-- Land every line of a stream that has arrived whole and is not yet written. -/
def landReady (p id : Nat) (s : State) : State :=
  match strOf s p id with
  | none => s
  | some x => (x.lines.filter (fun l => !x.done.contains l)).foldl (fun s l => landStreamLine p id l s) s

/-- Tell a source how far its stream's lines are ordered (ACK): the landing port does so with each data flit it lands. -/
def ackStream (p id : Nat) (s : State) : State :=
  match strOf s p id with
  | none => s
  | some x => if p = 8 then s else
    emit (.link p { kind := .ack, tag := id, ctx := x.ctx, status := (x.fault.getD .done).code, args := [x.landed + x.faulted] }) s

/-- Answer a chunk or message for a stream this port does not hold (R358). -/
def noStream (p id ctx : Nat) (st : Status) (s : State) : State :=
  emit (.link p { kind := .final, tag := id, ctx := ctx, status := st.code, args := [0, 0, 0, 0, 0] }) s

/-- A stream still takes data. -/
def Stream.open (x : Stream) : Bool := x.closed.isNone

/-- OPEN (R358, R359, R388): args KIND, FLAGS, LEN, ELEM, STRIDE, reset epoch, source device, caravan and leg. -/
def landOpen (p : Nat) (m : Msg) (s : State) : State :=
  let a := fun (i : Nat) => m.args.getD i 0
  let held := match strOf s p m.tag with
    | some x => x.open && x.epoch != a 5
    | none => false
  if held then noStream p m.tag m.ctx .abortedReset (delStr p m.tag s)
  else
    let part := (ctxPart s m.ctx).getD 20
    let x : Stream := { ctx := m.ctx, part := part, dev := a 6, epoch := a 5, car := a 7, leg := a 8, kind := a 0
                        flags := a 1, len := a 2, elem := a 3, stride := a 4, dst := m.sa.toNat, since := s.now }
    let frb := bit (a 1) 3
    if !isOwn s (Sa.of m.sa).dev || (Sa.of m.sa).space != 0 || !admits s m.ctx p then noStream p m.tag m.ctx .faultAccess s
    else if !holdsSlot s part p then noStream p m.tag m.ctx .quota s
    else if frb && ((strTable s x).map FrbTable.w) != some (a 3 / 256 % 256) then
      noStream p m.tag m.ctx .unsupported (cnt (portReg p 0x338) 1 s)
    else { s with car := { s.car with streams := tput (strKey p m.tag) x s.car.streams } }

/-- A data flit's chunk (R358, R389). -/
def landChunk (p id chunk : Nat) (d : List Byte) (lane : Lane) (s : State) : State :=
  match strOf s p id with
  | none => noStream p id 0 .abortedReset s
  | some x =>
    if !x.open then noStream p id x.ctx .abortedReset s
    else
      let s := updStr p id (fun x => { x with chunks := tput chunk (d.take 224) x.chunks, since := s.now }) s
      let s := if bit x.flags 3 then decodeBlocks p id lane s else s
      let s := landReady p id s
      ackStream p id (cnt (portReg p 0x218) (min 224 d.length) s)

/-- CLOSE (R358): byte count, IN_DIGEST, expected digest. -/
def landClose (p : Nat) (m : Msg) (s : State) : State :=
  match strOf s p m.tag with
  | none => noStream p m.tag m.ctx .abortedReset s
  | some _ => updStr p m.tag (fun x => { x with close := some (m.args.getD 0 0, m.args.getD 1 0, m.args.getD 2 0), since := s.now }) s

/-- POISON (R358): lines already landed are marked too. -/
def landPoison (p : Nat) (m : Msg) (s : State) : State :=
  match strOf s p m.tag with
  | none => noStream p m.tag m.ctx .abortedReset s
  | some x =>
    let hit := x.done.filter (fun l => m.args.any (fun o => (List.range 64).any (fun i => x.idx (l * 64 + i) = some o)))
    let s := if (Sa.of (BitVec.ofNat 64 x.dst)).space = 0 then hit.foldl (fun s l => setPoison (l * 64) true s) s else s
    updStr p m.tag (fun x => { x with poison := x.poison ++ m.args, since := s.now }) s

/-- Lines of a caravan that have closed up to a leg, and whether one of them ended badly for good. -/
def beaconState (s : State) (p : Nat) (x : Stream) : Option Status :=
  let l := tgetD s.car.land (landKey p x.dev x.car) {}
  let up := (List.range (x.leg + 1)).map (fun i => tget i l.legs)
  if up.any Option.isNone then none
  else
    let count := (up.map (fun y => (y.map Prod.fst).getD 0)).sum
    let need := (x.bcn.map Beacon.count).getD 0
    match (List.range (x.leg + 1)).find? (fun i => match tget i l.legs with
        | some (_, st) => !(st = .done || st = .doneEmpty)
        | none => false) with
    | none => if count < need then none else some .done
    | some i => match tget i l.legs with
      | some (_, .checkFail) => if l.dead.contains i || i = x.leg && bit x.flags 3 then some .checkFail else none
      | some (_, st) => some st
      | none => none

/-- Apply a beacon at its target on this device (R149, R362, Tables 5.6, 5.7). -/
def applyBeacon (ctx target opnd : Nat) (s : State) : Status × State :=
  let x := Sa.of (BitVec.ofNat 64 target)
  if x.space = 2 then
    match tallyCheck s ctx target with
    | some st => (st, s)
    | none =>
      let w := x.off / 8
      if tallyRefused s w (BitVec.ofNat 64 opnd) then (.faultSync, cnt (cellReg (w / 32768) 0x620) 1 s)
      else (.done, tallyApply false w (BitVec.ofNat 64 opnd) ctx s)
  else if !s.sync.feMode then (.unsupported, s)
  else match homeCheck s ctx x.off true with
    | some st => (st, s)
    | none =>
      if !isSyncLine s x.off then (.faultSync, s)
      else if feOf s x.off = 3 then (.faultSync, evMemory 8 (ownSa s 0 x.off).toNat ctx 1 1 s)
      else if feOf s x.off = feEmpty then (.done, feServe s.sync.feq.length x.off true s)
      else
        let c := homeCell s x.off
        (.faultSync, evSync 4 (ownSa s 0 x.off).toNat ctx 0 c (cnt (cellReg c 0x640) 1 s))

/-- The cell that homes a beacon's target. -/
def beaconCell (s : State) (target : Nat) : Nat :=
  let x := Sa.of (BitVec.ofNat 64 target)
  if x.space = 2 then x.off / 2 ^ 18 else homeCell s x.off

/-! ### Ending a leg at its source -/

/-- The caravan and leg of an outbound stream. -/
def outLeg (s : State) (p id : Nat) : Option (Nat × Nat) :=
  match tget (strKey p id) s.car.outs with
  | some (.leg c i) => some (c, i)
  | _ => none

/-- STATUS of a leg's waybill: a refused beacon, then poison, follow the leg's own ending (Table 14.5, R233). -/
def Leg.endStatus (l : Leg) : Status :=
  if !l.status.ok then l.status
  else match l.bcn with
    | some .faultSync => .faultSync
    | some .unsupported => .unsupported
    | _ => if l.poisoned then .faultPoison else l.status

/-- Write one leg's waybill (R369). -/
def legWay (c : Caravan) (l : Leg) (s : State) : State :=
  let st := l.endStatus
  let drop := st = .droppedLate
  let fence := lKind l.desc = 7
  let cut := !st.ok && st != .checkFail && st != .faultSync && st != .faultPoison
  let w : Way :=
    { opid := lOpid l.desc, op := lKind l.desc, status := st
      flags := { checked := l.checked, suspect := st = .checkFail, late := drop, partialOut := cut && decide (0 < l.landed)
                 poisoned := l.poisoned, retried := decide (0 < l.retries) }
      unit := unitField c.kind c.unit, inDig := l.inDig, outDig := if drop then 0 else l.outDig
      residual := if st = .checkFail && lKind l.desc != 5 then 0x3F800000 else l.residual, bound := l.bound
      processed := if fence then c.nCover else l.landed
      dropped := if fence then c.bad else l.total - l.landed
      ctx := lCtx l.desc, part := c.part, retries := l.retries, stage := l.event.map Prod.snd }
  let s := cnt (carReg c.kind c.unit 0x208) 1 s
  let s := if st = .linkLost || st = .abortedReset || st = .abortedFenced then cnt (carReg c.kind c.unit 0x238) 1 s else s
  let r := wayWrite (lWay l.desc) w s
  let s := if r.2 then r.1
    else evEngine c.part (ownSa s 0 l.off).toNat (lOpid l.desc) (unitField c.kind c.unit) st.code 2 r.1
  if fence && lBeacon l.desc && r.2 then (applyBeacon (lCtx l.desc) (lTarget l.desc) (lOpnd l.desc) s).2 else s

/-- The leg waits for nothing more: its FINAL has arrived and its beacon is answered (R362). -/
def Leg.settled (l : Leg) : Bool :=
  l.st = .final && (!lBeacon l.desc || lKind l.desc = 7 || l.event.isSome || l.bcn.isSome)

/-- The caravan is acknowledged: it leaves its carrier, fences that covered it go on (R126, R363), and dependencies on it
hold (R169). -/
def carEnd (c : Caravan) (s : State) : State :=
  let bad := c.failed || c.legs.any (fun l => !(l.endStatus = .done || l.endStatus = .doneEmpty))
  let p := carPort c.kind c.unit
  let outs := s.car.outs.filter (fun x => match x.2 with | .leg i _ => i != c.id | .batch _ => true)
  let land := tdel (landKey p s.parts.devNo c.id) s.car.land
  let strs := s.car.streams.filter (fun x => !(x.1 / 8192 = p && x.2.car = c.id && x.2.dev = s.parts.devNo))
  let cars := (tdel c.id s.car.cars).map (fun x =>
    if x.2.covers.contains c.id then (x.1, { x.2 with covers := x.2.covers.erase c.id, bad := x.2.bad + b2n bad }) else x)
  let e := (tget c.id s.eng.ops).bind EngOp.entry
  let s := if e.isSome then
      { s with stg := { s.stg with
        itin := tupd c.part (fun (t : ItinSt) => { t with carDone := c.first :: t.carDone }) s.stg.itin } }
    else s
  entryEnded c.part e (delOp c.id { s with car := { s.car with cars := cars, outs := outs, land := land, streams := strs } })

/-- Write the waybills that are due, in chain order (R362); end the caravan after the last. -/
def writeWays : Nat → Nat → State → State
  | 0, _, s => s
  | k + 1, id, s =>
    match carOf s id with
    | none => s
    | some c =>
      match (List.range c.legs.length).find? (fun i => (legAt c i).st != .written) with
      | some i =>
        if (legAt c i).settled then
          writeWays k id (updLeg id i (fun l => { l with st := .written }) (legWay c (legAt c i) s))
        else s
      | none => if c.stop || c.next = 0 then carEnd c s else s

/-- Settle a caravan. -/
def carSettle (id : Nat) (s : State) : State :=
  match carOf s id with
  | none => s
  | some c => writeWays (c.legs.length + 1) id s

/-- A leg has ended with a status (R364): its caravan issues no further leg unless the leg ended well. -/
def legEnds (id i : Nat) (f : Leg → Leg) (s : State) : State :=
  let s := updLeg id i (fun l => { f l with st := .final }) s
  match carOf s id with
  | none => s
  | some c =>
    let st := (legAt c i).endStatus
    let s := if st = .done || st = .doneEmpty then s else updCar id (fun c => { c with stop := true }) s
    carSettle id s

/-- FINAL of a leg (R362, R367): a mismatch is sent again where that is permitted, else the leg ends. -/
def legFinal (id i landed faulted outDig residual bound : Nat) (st : Status) (s : State) : State :=
  match carOf s id with
  | none => s
  | some c =>
    let l := legAt c i
    if l.st != .sent then s
    else if l.event.isSome then legEnds id i (fun l => { l with landed := landed, faulted := faulted }) s
    else
      let limit := ((partOf s c.part).map Part.retryLimit).getD 0
      let k := lKind l.desc
      let s := if st = .checkFail then
          unitFailure c.kind c.unit 0 (cnt (carReg c.kind c.unit 0x220) 1 s)
        else s
      if st = .checkFail && decide (1 ≤ k) && decide (k ≤ 4) && !lFrb l.desc && decide (l.retries < limit) && !c.stop then
        cnt (carReg c.kind c.unit 0x228) 1
          (updLeg id i (fun l => { l with st := .waiting, retries := l.retries + 1, since := s.now }) s)
      else
        let s := if st = .checkFail && c.kind = .port && !lPull s l.desc then
            emit (.link c.unit { kind := .abandon, tag := l.stream, ctx := c.ctx }) s
          else if st = .checkFail then
            let key := landKey (carPort c.kind c.unit) s.parts.devNo id
            let lc := tgetD s.car.land key {}
            { s with car := { s.car with land := tput key { lc with dead := i :: lc.dead } s.car.land } }
          else s
        legEnds id i (fun l => { l with
          landed := landed, faulted := faulted, outDig := if k = 6 then l.inDig else outDig, residual := residual, bound := bound
          status := if l.status.ok then (if l.total = 0 && st = .done then .doneEmpty else st) else l.status
          checked := st = .done && decide (0 < l.total) && k != 7
          bcn := if lBeacon l.desc then l.bcn else some .done }) s

/-- An ending of Table 14.5 takes a leg in flight: its waybill waits for its writes or ACK_TIMEOUT (R364). -/
def legEvent (id i : Nat) (st : Status) (s : State) : State :=
  updCar id (fun c => { c with stop := true })
    (updLeg id i (fun l => if l.event.isSome then l else
      { l with status := if l.status.ok then st else l.status, event := some (s.now, stgNow s)
               st := if l.st = .waiting then .final else l.st }) s)

/-! ### Issuing a leg -/

/-- Chunks of a stream of bytes (R358). -/
def chunksOf (id ctx : Nat) (d : List Byte) : List Msg :=
  (List.range ((d.length + 223) / 224)).map (fun i =>
    { kind := .chunk, tag := id, ctx := ctx, args := [i], data := (d.drop (224 * i)).take 224 })

/-- POISON messages: two offsets each. -/
def poisonMsgs (id ctx : Nat) : Nat → List Nat → List Msg
  | 0, _ => []
  | _, [] => []
  | k + 1, l => { kind := .poisonLines, tag := id, ctx := ctx, args := l.take 2 } :: poisonMsgs id ctx k (l.drop 2)

/-- Stream offsets of destination lines with a poisoned source byte: the first byte of each (Table 14.4). -/
def lineMarks (d : List Byte) (bad : List Nat) : List Nat :=
  let off := saOff (lDst d)
  let ix := fun (a : Nat) => geoIdx (lKind d) (lFlags d) (lLen d) (lElem d) (lStride d) off a
  let scale := fun (o : Nat) => if lKind d = 5 && lRbf d then o * 2 else o
  let hit := fun (o : Nat) => bad.any (fun b => decide (scale b ≤ o) && decide (o < scale (b + 64)))
  (geoLines (lKind d) (lFlags d) (lLen d) (lElem d) (lStride d) off).filterMap (fun l =>
    let os := (List.range 64).filterMap (fun i => ix (l * 64 + i))
    if os.any hit then os.head? else none)

/-- Encode a leg's source for its FRB stream, updating the residuals (R384 to R387); none without a usable table. -/
def frbSend (c : Caravan) (d src : List Byte) (bad : List Nat) (s : State) : Option (List Byte × State) :=
  match lFrbStream s c.part c.unit d with
  | none => none
  | some f =>
    match tget (c.part * 2 ^ 32 + f.table) s.car.tables with
    | none => none
    | some t =>
      let es := frbEs f.sfmt
      let n := src.length / es
      let v0 := (saOff (lSrc d) - f.base) / es
      let out := (List.range ((n + 255) / 256)).foldl (fun (acc : List Byte × State) k =>
        let s := acc.2
        let m := min 256 (n - 256 * k)
        let xs := (List.range m).map (fun j => (frbFmt f.sfmt).decode (fld src ((256 * k + j) * es) es))
        let rOff := fun (r : Nat) => r + 4 * (v0 + 256 * k)
        let rs := match f.resid with
          | some r => (List.range m).map (fun j => ofF32 (leNat (storeBytes s (rOff r + 4 * j) 4)))
          | none => xs.map (fun _ => Fv.zero)
        let pz := bad.any (fun b => decide (b + 64 > 256 * k * es) && decide (b < (256 * k + m) * es))
          || (match f.resid with | some r => (linesOf (rOff r) (4 * m)).any (poisoned s) | none => false)
        let o := frbEncode t f.sfmt k f.ef pz xs rs [c.id, lOpid d]
        let s := match f.resid with
          | some r => devWrite (rOff r) (o.resid.flatMap (leBytes 4)) s
          | none => s
        let s := if o.nonfin then cnt (portReg c.unit 0x340) 1 s else s
        (acc.1 ++ o.bytes, cnt (portReg c.unit 0x308) 1 s)) ([], s)
      some (out.1, cnt (portReg c.unit 0x320) out.1.length (cnt (portReg c.unit 0x318) src.length out.2))

/-- Send a leg to another device: OPEN, POISON, chunks, CLOSE, BEACON, or ABANDON where the source failed (R358). -/
def pushLeg (c : Caravan) (i : Nat) (l : Leg) (r : SrcRead) (s : State) : State :=
  let d := l.desc
  let p := c.unit
  match freeOut s p with
  | none => s
  | some id =>
    let bad := match r.res with | .stop st => some st | _ => none
    let enc := if lFrb d then frbSend c d r.bytes r.bad s else some (r.bytes, s)
    match enc with
    | none => legEnds c.id i (fun l => { l with status := .invalidArg }) s
    | some (wire, s) =>
      let fr := lFrbStream s c.part c.unit d
      let w := ((fr.bind (fun f => tget (c.part * 2 ^ 32 + f.table) s.car.tables)).map FrbTable.w).getD 0
      let elem := if lFrb d then ((fr.map FrbStream.sfmt).getD 0) + 256 * w else lElem d
      let stride := if lFrb d then (fr.map FrbStream.table).getD 0 else lStride d
      let dig := crc64 r.bytes
      let lines := c.lines + l.total
      let openM : Msg := { kind := .openStream, tag := id, ctx := c.ctx, sa := BitVec.ofNat 64 (lDst d)
                           args := [lKind d, lFlags d, lLen d, elem, stride, s.rep.epoch, s.parts.devNo, c.id, i] }
      let closeM : Msg := { kind := .close, tag := id, ctx := c.ctx
                            args := [wire.length, dig, if lFrb d || lKind d = 5 then 0 else dig] }
      let bcnM : Msg := { kind := .beacon, tag := id, ctx := c.ctx, args := [lTarget d, lOpnd d, lines] }
      let marks := if lFrb d then [] else lineMarks d r.bad
      let tail := match bad with
        | some _ => [({ kind := .abandon, tag := id, ctx := c.ctx } : Msg)]
        | none => [closeM] ++ (if lBeacon d then [bcnM] else [])
      let msgs := [openM] ++ poisonMsgs id c.ctx marks.length marks ++ chunksOf id c.ctx wire ++ tail
      let s := { s with car := { s.car with outs := tput (strKey p id) (.leg c.id i) s.car.outs } }
      let s := msgs.foldl (fun s m => emit (.link p m) s) s
      let s := cnt (carReg c.kind p 0x210) wire.length s
      let s := if lBeacon d && bad.isNone then cnt (carReg c.kind p 0x240) 1 s else s
      let s := updLeg c.id i (fun l => { l with
        st := .sent, stream := id, inDig := dig, since := s.now, poisoned := l.poisoned || r.bad != [], count := lines
        status := bad.getD l.status, bcn := if bad.isSome || !lBeacon d then some .done else none }) s
      updCar c.id (fun c => { c with lines := if l.retries = 0 then lines else c.lines, stop := c.stop || bad.isSome }) s

/-- Land a leg on this device from the DMA engine (R355): its stream is kept under port 8. -/
def localLeg (c : Caravan) (i : Nat) (l : Leg) (r : SrcRead) (s : State) : State :=
  let d := l.desc
  match freeIn s 8 with
  | none => s
  | some id =>
    let bad := match r.res with | .stop st => some st | _ => none
    let dig := crc64 r.bytes
    let lines := c.lines + l.total
    let toHost := lHost d && lHend d
    let x : Stream :=
      { ctx := c.ctx, part := c.part, dev := s.parts.devNo, epoch := s.rep.epoch, car := c.id, leg := i, kind := lKind d
        flags := lFlags d, len := lLen d, elem := lElem d, stride := lStride d, dst := lDst d
        chunks := ((List.range ((r.bytes.length + 223) / 224)).map (fun k => (k, (r.bytes.drop (224 * k)).take 224)))
        poison := lineMarks d r.bad, close := some (r.bytes.length, dig, dig), abandoned := bad, since := s.now
        bcn := if lBeacon d && bad.isNone then some { target := lTarget d, opnd := lOpnd d, count := lines, since := s.now } else none }
    let x := if toHost then { x with done := x.lines, landed := x.lines.length, out := [(0, r.bytes)] } else x
    let s := { s with car := { s.car with streams := tput (strKey 8 id) x s.car.streams } }
    let s := if toHost then
        cnt 0x80210 r.bytes.length (x.lines.foldl (fun s ln =>
          match x.lineIn ln with
          | .ready b m =>
            let first := (m.findIdx? (· == true)).getD 0
            emit (.hostWr (ln * 64 + first) (((b.zip m).filter (fun y => y.2)).map Prod.fst)) s
          | _ => s) s)
      else landReady 8 id s
    let s := if lHost d && !lHend d then cnt 0x80218 r.bytes.length s else s
    let s := updLeg c.id i (fun l => { l with
      st := .sent, stream := id, inDig := dig, since := s.now, poisoned := l.poisoned || r.bad != [], count := lines
      status := bad.getD l.status, bcn := if bad.isSome || !lBeacon d then some .done else none }) s
    updCar c.id (fun c => { c with lines := if l.retries = 0 then lines else c.lines, stop := c.stop || bad.isSome }) s

/-- Ask another device for a pull's data (R355); it lands on a stream this port keeps. -/
def pullLeg (c : Caravan) (i : Nat) (l : Leg) (s : State) : State :=
  let d := l.desc
  let p := c.unit
  match freeIn s p with
  | none => s
  | some id =>
    let lines := c.lines + l.total
    let gath := lKind d = 2
    let x : Stream :=
      { ctx := c.ctx, part := c.part, dev := s.parts.devNo, epoch := s.rep.epoch, car := c.id, leg := i, kind := lKind d
        flags := lFlags d, len := lLen d, elem := lElem d, stride := lStride d, dst := lDst d, since := s.now
        bcn := if lBeacon d then some { target := lTarget d, opnd := lOpnd d, count := lines, since := s.now } else none }
    let s := { s with car := { s.car with streams := tput (strKey p id) x s.car.streams } }
    let s := emit (.link p { kind := .pull, tag := id, ctx := c.ctx, sa := BitVec.ofNat 64 (lSrc d)
                             args := [lLen d, if gath then lElem d else 0, if gath then lStride d else 0, id] }) s
    let s := updLeg c.id i (fun l => { l with st := .sent, stream := id, since := s.now, count := lines
                                              bcn := if lBeacon d then none else some .done }) s
    updCar c.id (fun c => { c with lines := if l.retries = 0 then lines else c.lines }) s

/-- Flush the issuing core's caches over a leg's source (R115). -/
def legFlush (c : Caravan) (d : List Byte) (s : State) : State :=
  match (tget c.id s.eng.ops).bind EngOp.core with
  | some core => if bit (lFlags d) 0 then (lPieces d).foldl (fun s r =>
      let a := Sa.of (BitVec.ofNat 64 r.1)
      if a.space = 0 && isOwn s a.dev then flushCell (core / 16) a.off r.2 s else s) s else s
  | none => s

/-- Send leg `i` (R352, R355); it waits while its source is on its way (R98). A carrier whose link is not ACTIVE sends
nothing: LINK_LOST. `host` is what the host answers to a read of its memory, none where it does not (R100). -/
def sendLeg (id i : Nat) (host : Option (List Byte)) (s : State) : State :=
  match carOf s id with
  | none => s
  | some c =>
    let l := legAt c i
    let d := l.desc
    if c.kind = .port && !portActive s c.unit then
      legEnds id i (fun l => { l with status := .linkLost, bcn := some .linkLost }) s
    else if lPull s d then pullLeg c i l s
    else
      let s := legFlush c d s
      let fromHost := lHost d && !lHend d
      let r := if lKind d = 4 then ({ bytes := fillBytes (lSrc d) (lLen d) }, s)
        else if fromHost then
          match host with
          | some b => ({ bytes := padTo (lLen d) b }, s)
          | none => ({ res := .stop .timeout }, cnt 0x80230 1 s)
        else readPieces c.ctx c.part (lPieces d) s
      match r.1.res with
      | .wait => r.2
      | _ => if c.kind = .port then pushLeg c i l r.1 r.2 else localLeg c i l r.1 r.2

/-- Caravans that a FENCE covers: those queued on any carrier before it under its CTX, of a class in its mask, and not
yet acknowledged (R363). -/
def fenceCovers (s : State) (c : Caravan) (ctx mask : Nat) : List Nat :=
  let run := s.car.cars.filter (fun x => decide (x.1 < c.id) && x.2.ctx = ctx && bit mask x.2.fclass
    && !(lKind (legAt x.2 0).desc = 7))
  let queued := s.eng.ops.filter (fun o => decide (o.1 < c.id) && (o.2.kind = .port || o.2.kind = .dma) && o.2.st = .queued
    && (let d := storeBytes s o.2.sa 64; lCtx d = ctx && bit mask (lClass d) && lKind d != 7))
  run.map Prod.fst ++ queued.map Prod.fst

/-- Read the next leg of a caravan and start it (R352, R353, R356). -/
def nextLeg (id : Nat) (host : Option (List Byte)) (s : State) : State :=
  match carOf s id with
  | none => s
  | some c =>
    match (List.range c.legs.length).find? (fun i => (legAt c i).st = .waiting) with
    | some i => sendLeg id i host s
    | none =>
      if c.stop || c.next = 0 then s
      else
        let off := c.next
        let o := tget id s.eng.ops
        let d := storeBytes s off 64
        let ev := fun (cause : Nat) =>
          carSettle id (updCar id (fun c => { c with stop := true, next := 0, failed := true })
            (evEngine c.part (ownSa s 0 off).toNat (lOpid d) (unitField c.kind c.unit) 0 cause s))
        if poisoned s off || (allocAt s off).isNone then ev 0
        else if lWay d = 0 then ev 1
        else
          let way := match o with
            | some o => if o.entry.isSome && 1 < o.n && c.legs = [] then
                some (lWay (storeBytes s (o.sa - 64 * o.slot) 64) + 64 * o.slot) else none
            | none => none
          let i := c.legs.length
          let c := { c with ctx := if c.legs = [] then lCtx d else c.ctx, fclass := if c.legs = [] then lClass d else c.fclass }
          let total := if lKind d = 0 || 7 ≤ lKind d then 0 else lTotal d
          let l : Leg := { off := off, desc := d, total := total, since := s.now }
          let chk := legCheck s c way d
          let s := updCar id (fun _ => { c with legs := c.legs ++ [l], next := lNext d }) s
          match chk with
          | none =>
            if lKind d = 7 then
              let cov := fenceCovers s c (lCtx d) (lSrc d % 256)
              updCar id (fun c => { c with covers := cov, nCover := cov.length })
                (updLeg id i (fun l => { l with st := .sent }) s)
            else sendLeg id i host s
          | some .doneEmpty =>
            if lBeacon d && lKind d != 7 then sendLeg id i host s
            else legEnds id i (fun l => { l with status := .doneEmpty, bcn := some .done }) s
          | some st =>
            let fixd := match way with
              | some w => if lWay d != w && st = .invalidArg then d.take 48 ++ leBytes 8 w ++ d.drop 56 else d
              | none => d
            legEnds id i (fun l => { l with desc := fixd, status := st, bcn := some .done }) s

/-- CARAVAN_START (R352): a carrier starts the queued caravan `id`, where it is the next of its partition and fewer than
16 of it run, and reads its first leg; the same row reads each later leg, and sends again a leg that waits. -/
def caravanStart (k : UnitKind) (u id : Nat) (host : Option (List Byte)) (s : State) : State :=
  match tget id s.eng.ops with
  | none => s
  | some o =>
    if o.kind != k || o.unit != u || !(k = .port || k = .dma) then s
    else if o.st = .queued then
      let ahead := s.eng.ops.any (fun x => decide (x.1 < id) && x.2.kind = k && x.2.unit = u && x.2.part = o.part && x.2.st = .queued)
      if ahead || 16 ≤ carsRunning s k u o.part then s
      else
        let c : Caravan := { id := id, kind := k, unit := u, part := o.part, ctx := 0, fclass := 0, first := o.sa, next := o.sa }
        let s := updOp id (fun o => { o with st := .running, phys := u }) s
        nextLeg id host { s with car := { s.car with cars := tput id c s.car.cars } }
    else nextLeg id host s

/-! ### Closing at the landing port -/

/-- Residual and bound of a REDUCE_ADD's line checks: free, the residual within the bound when they passed (R368). -/
def reduceBounds (p id : Nat) (pass : Bool) : Nat × Nat :=
  let b := Config.freeOf 152 [p, id] % 0x7F000000
  let r := Config.freeOf 153 [p, id]
  if pass then (r % (b + 1), b) else (b + 1 + r % (0x7F800000 - b), b)

/-- Every line of a stream is written, damaged or given up. -/
def Stream.finished (x : Stream) : Bool :=
  x.waiting = 0 && (match x.close with
    | some (n, _, _) => decide (((x.chunks.map (fun c => c.2.length)).sum) = n) && x.lines.all (fun l => x.done.contains l)
    | none => false) || (x.waiting = 0 && x.abandoned.isSome)

/-- The destination bytes of a mismatched leg are not defined (Table 14.5): free values (log 3). -/
def smearLines (p id : Nat) (x : Stream) (s : State) : State :=
  if (Sa.of (BitVec.ofNat 64 x.dst)).space != 0 || (bit x.flags 1 && bit x.flags 2) then s
  else (x.out.map Prod.fst).foldl (fun s l =>
    (List.range 64).foldl (fun s i =>
      if (x.idx (l * 64 + i)).isSome then
        let a := content s (l * 64 + i)
        { s with store := { s.store with mem := putByte a (BitVec.ofNat 8 (Config.freeOf 154 [p, id, a])) s.store.mem } }
      else s) s) s

/-- LEG_CLOSE (R361, R390): once every line is acknowledged or faulted the port compares digests (`lane`: what the
comparison finds) and sends FINAL; a leg that lands from this device ends at once. -/
def legClose (p id : Nat) (lane : Lane) (s : State) : State :=
  let s := landReady p id s
  match strOf s p id with
  | none => s
  | some x =>
    if !x.open || !x.finished then s
    else
      let frb := bit x.flags 3
      let damaged := x.blocks.any (fun b => b.2.isEmpty)
      let exact := x.kind != 5
      let st : Status := match x.fault with
        | some st => st
        | none => match x.abandoned with
          | some st => st
          | none =>
            if x.disagree then .checkFail
            else if damaged then .donePartialDrop
            else if lane != .pass && x.len != 0 then .checkFail else .done
      let mism := st = .checkFail && exact && !frb && x.kind != 6
      let s := if mism then smearLines p id x s else s
      let dig := if st = .checkFail && exact then Config.freeOf 155 [p, id, x.landed] % 2 ^ 64 else crc64 (x.out.flatMap Prod.snd)
      let rb := if x.kind = 5 && x.len != 0 then reduceBounds p id (st != .checkFail) else (0, 0)
      let key := landKey p x.dev x.car
      let lc := tgetD s.car.land key {}
      let lc := { lc with legs := tput x.leg (x.landed + x.faulted, st) lc.legs, dead := lc.dead.erase x.leg }
      let s := { s with car := { s.car with land := tput key lc s.car.land } }
      let s := updStr p id (fun x => { x with closed := some st, since := s.now }) s
      if x.dev = s.parts.devNo then
        let l := match carOf s x.car with | some c => legAt c x.leg | none => { off := 0, desc := [], total := 0 }
        let raw := (x.chunks.flatMap Prod.snd)
        let s := updLeg x.car x.leg (fun l => { l with inDig := if lPull s l.desc then crc64 raw else l.inDig
                                                       poisoned := l.poisoned || x.poison != [] }) s
        let got := if x.kind = 6 && st.ok then l.total else x.landed
        legFinal x.car x.leg got x.faulted dig rb.1 rb.2 st s
      else emit (.link p { kind := .final, tag := id, ctx := x.ctx, status := st.code, args := [x.landed, x.faulted, dig, rb.1, rb.2] }) s

/-! ### Beacons -/

/-- BEACON (R124): args BTARGET, operand, count; a beacon that must wait is counted. -/
def beaconArrives (p : Nat) (m : Msg) (s : State) : State :=
  match strOf s p m.tag with
  | none => noStream p m.tag m.ctx .abortedReset s
  | some _ =>
    let b : Beacon := { target := m.args.getD 0 0, opnd := m.args.getD 1 0, count := m.args.getD 2 0, since := s.now }
    let s := updStr p m.tag (fun x => { x with bcn := some b, since := s.now }) s
    match strOf s p m.tag with
    | some x => if (beaconState s p x).isNone then cnt (cellReg (beaconCell s b.target) 0x518) 1 s else s
    | none => s

/-- A beacon is settled: its source learns how. -/
def beaconDone (p id : Nat) (x : Stream) (st : Status) (s : State) : State :=
  let s := updStr p id (fun x => { x with bcn := none }) s
  if x.dev = s.parts.devNo then
    carSettle x.car (updCar x.car (fun c => if st.ok then c else { c with stop := true })
      (updLeg x.car x.leg (fun l => { l with bcn := some st }) s))
  else emit (.link p { kind := .bcnResult, tag := id, ctx := x.ctx, status := st.code }) s

/-- BEACON_RELEASE (R124, R125, R361): the held beacon lands, or is discarded where an earlier write or leg failed. -/
def beaconRelease (p id : Nat) (s : State) : State :=
  match strOf s p id with
  | none => s
  | some x =>
    match x.bcn, beaconState s p x with
    | some b, some st =>
      if st = .done then
        let r := applyBeacon x.ctx b.target b.opnd s
        beaconDone p id x r.1 r.2
      else beaconDone p id x st (cnt (cellReg (beaconCell s b.target) 0x520) 1 s)
    | _, _ => s

/-- BEACON_HOLD_EXPIRY (R125). -/
def beaconExpiry (p id : Nat) (s : State) : State :=
  match strOf s p id with
  | none => s
  | some x =>
    match x.bcn with
    | none => s
    | some b => timer (b.since + s.sync.beaconHold) (fun s =>
        let l := tgetD s.car.land (landKey p x.dev x.car) {}
        let st := if l.legs.any (fun y => decide (y.1 ≤ x.leg) && y.2.2 = .checkFail) then .checkFail else .timeout
        beaconDone p id x st (cnt (cellReg (beaconCell s b.target) 0x520) 1 s)) s

/-! ### Messages at the source -/

/-- ACK (R358): args lines ordered so far. -/
def ackArrives (p : Nat) (m : Msg) (s : State) : State :=
  match outLeg s p m.tag with
  | none => s
  | some (c, i) =>
    let s := updLeg c i (fun l => { l with landed := max l.landed (m.args.getD 0 0), since := s.now }) s
    if m.status = 0 then s else updCar c (fun c => { c with stop := true }) s

/-- The status a code names; an unknown code is INTERNAL. -/
def statusOf (n : Nat) : Status :=
  let all : List Status := [.done, .doneEmpty, .donePartialDrop, .faultIndex, .faultAccess, .faultTranslation, .faultPoison,
    .faultAlign, .faultSync, .checkFail, .invalidArg, .unsupported, .quota, .droppedLate, .abortedReset, .abortedRevoked,
    .abortedFenced, .tierFailed, .leaseLost, .conflict, .staleVersion, .notOwner, .linkLost, .timeout, .busy, .internal]
  (all.find? (fun st => st.code = n)).getD .internal

/-- FINAL (R362). -/
def finalArrives (p : Nat) (m : Msg) (s : State) : State :=
  let a := fun (i : Nat) => m.args.getD i 0
  match outLeg s p m.tag with
  | none => s
  | some (c, i) =>
    let st := statusOf m.status
    let s := if st = .abortedReset || st = .faultAccess || st = .unsupported || st = .quota then
        updLeg c i (fun l => { l with bcn := if lBeacon l.desc && l.bcn.isNone then some st else l.bcn }) s
      else s
    legFinal c i (a 0) (a 1) (a 2) (a 3) (a 4) st s

/-- BCN_RESULT (R362). -/
def bcnResult (p : Nat) (m : Msg) (s : State) : State :=
  match outLeg s p m.tag with
  | none => s
  | some (c, i) =>
    let st := statusOf m.status
    carSettle c (updCar c (fun c => if st.ok then c else { c with stop := true }) (updLeg c i (fun l => { l with bcn := some st }) s))

/-- ABANDON (R358): the source sends no more of a stream; STATUS is the reason a pull's source gives. After a close with
a mismatch it says that the leg is not sent again. -/
def abandonArrives (p : Nat) (m : Msg) (s : State) : State :=
  match strOf s p m.tag with
  | none => noStream p m.tag m.ctx .abortedReset s
  | some x =>
    if x.open then
      updStr p m.tag (fun x => { x with abandoned := some (if m.status = 0 then .droppedLate else statusOf m.status), since := s.now }) s
    else
      let key := landKey p x.dev x.car
      let lc := tgetD s.car.land key {}
      { s with car := { s.car with land := tput key { lc with dead := x.leg :: lc.dead } s.car.land } }

/-- What a pull's source sends on the return stream: POISON, chunks, then CLOSE, or ABANDON with the status that stopped it
(R355, R358). -/
def pullMsgs (ret ctx : Nat) (res : Bulk) (r : SrcRead) : List Msg :=
  let dig := crc64 r.bytes
  let tail : Msg := match res with
    | .stop st => { kind := .abandon, tag := ret, ctx := ctx, status := st.code }
    | _ => { kind := .close, tag := ret, ctx := ctx, args := [r.bytes.length, dig, dig] }
  poisonMsgs ret ctx r.bad.length r.bad ++ chunksOf ret ctx r.bytes ++ [tail]

/-- PULL (R355, R359): this device reads the source and sends it on the stream the request names: args LEN, ELEM, STRIDE,
return stream. Nothing is sent while the source is on its way; the row then stands for the read's later completion. -/
def pullArrives (p : Nat) (m : Msg) (s : State) : State :=
  let a := fun (i : Nat) => m.args.getD i 0
  let part := (ctxPart s m.ctx).getD 20
  let refuse := fun (st : Status) => emit (.link p { kind := .abandon, tag := a 3, ctx := m.ctx, status := st.code }) s
  let x := Sa.of m.sa
  if x.space != 0 || !isOwn s x.dev || !admits s m.ctx p then refuse .faultAccess
  else if !holdsSlot s part p then refuse .quota
  else
    let ps := if a 1 = 0 then [(m.sa.toNat, a 0)] else (List.range (a 0 / a 1)).map (fun i => (m.sa.toNat + i * a 2, a 1))
    let r := readPieces m.ctx part ps s
    match r.1.res with
    | .wait => r.2
    | res =>
      cnt (portReg p 0x210) r.1.bytes.length ((pullMsgs (a 3) m.ctx res r.1).foldl (fun s m => emit (.link p m) s) r.2)

/-! ### Endings from outside -/

/-- A leg makes no progress for ACK_TIMEOUT (R366), or ACK_TIMEOUT has passed since its ending (R364). -/
def legTimeout (id i : Nat) (s : State) : State :=
  match carOf s id with
  | none => s
  | some c =>
    let l := legAt c i
    if l.st != .sent || lKind l.desc = 7 then s
    else match l.event with
      | some (t, _) => timer (t + s.car.ackTimeout) (fun s => legEnds id i (fun l => l) s) s
      | none => timer (l.since + s.car.ackTimeout) (fun s =>
          let s := if c.kind = .port then cnt (portReg c.unit 0x230) 1 s else s
          legEvent id i .timeout s) s

/-- STREAM_IDLE_FREE (R366): a landing stream without progress for ACK_TIMEOUT is freed, its beacon discarded. -/
def streamIdle (p id : Nat) (s : State) : State :=
  match strOf s p id with
  | none => s
  | some x =>
    if x.dev = s.parts.devNo then s
    else timer (x.since + s.car.ackTimeout) (fun s =>
      let s := match x.bcn with
        | some b => cnt (cellReg (beaconCell s b.target) 0x520) 1 s
        | none => s
      let s := delStr p id s
      let key := landKey p x.dev x.car
      if s.car.streams.any (fun y => landKey (y.1 / 8192) y.2.dev y.2.car = key) then s
      else { s with car := { s.car with land := tdel key s.car.land } }) s

/-- The legs of a caravan that are in flight meet an ending. -/
def carEvent (id : Nat) (st : Status) (now : Bool) (s : State) : State :=
  match carOf s id with
  | none => s
  | some c =>
    let s := (List.range c.legs.length).foldl (fun s i =>
      let l := legAt c i
      if l.st = .sent || l.st = .waiting then
        if lKind l.desc = 7 then legEnds id i (fun l => { l with status := st, event := some (s.now, stgNow s) }) s
        else
          let s := legEvent id i st s
          if now then legEnds id i (fun l => l) s else s
      else s) (updCar id (fun c => { c with stop := true }) s)
    carSettle id s

/-- Arriving streams of a port that is lost are freed, their beacons discarded (R125). -/
def streamsLost (p : Nat) (s : State) : State :=
  let mine := s.car.streams.filter (fun x => x.1 / 8192 = p)
  let s := mine.foldl (fun s x => match x.2.bcn with
    | some b => cnt (cellReg (beaconCell s b.target) 0x520) 1 s
    | none => s) s
  { s with car := { s.car with
      streams := s.car.streams.filter (fun x => x.1 / 8192 != p)
      batches := s.car.batches.filter (fun x => x.1 / 8192 != p)
      land := s.car.land.filter (fun x => x.1 / 2 ^ 32 / 4096 != p) } }

/-- Caravans in flight on a port end (R339, R350): LINK_LOST as R364 says, ABORTED_FENCED at once. -/
def carsLost (p : Nat) (st : Status) (now : Bool) (s : State) : State :=
  let ids := (s.car.cars.filter (fun x => x.2.kind = .port && x.2.unit = p)).map Prod.fst
  ids.foldl (fun s id => carEvent id st now s) s

/-- Drop a caravan at its deadline or the period's end (R171, Table 14.5): ABANDON goes out for legs in flight. -/
def dropCaravan (o : EngOp) (s : State) : State :=
  match carOf s o.id with
  | none =>
    let d := storeBytes s o.sa 64
    if poisoned s o.sa || (allocAt s o.sa).isNone || lWay d = 0 then delOp o.id s
    else
      let c : Caravan := { id := o.id, kind := o.kind, unit := o.unit, part := o.part, ctx := lCtx d, fclass := lClass d
                           first := o.sa, next := 0, stop := true }
      let l : Leg := { off := o.sa, desc := d, total := if lKind d = 0 || 7 ≤ lKind d then 0 else lTotal d
                       status := .droppedLate, bcn := some .done, st := .final, event := some (s.now, stgNow s) }
      carSettle o.id { s with car := { s.car with cars := tput o.id { c with legs := [l] } s.car.cars } }
  | some c =>
    let s := (List.range c.legs.length).foldl (fun s i =>
      let l := legAt c i
      if l.st = .sent && c.kind = .port && lKind l.desc != 7 && !lPull s l.desc then
        emit (.link c.unit { kind := .abandon, tag := l.stream, ctx := c.ctx }) s
      else if l.st = .sent && lKind l.desc != 7 then
        updStr (carPort c.kind c.unit) l.stream (fun x => if x.open then { x with abandoned := some .droppedLate } else x) s
      else s) s
    carEvent o.id .droppedLate false s

/-- FENCE_DONE (R363): every covered caravan is acknowledged; the FENCE writes its waybill and lands its beacon. -/
def fenceDone (id : Nat) (s : State) : State :=
  match carOf s id with
  | none => s
  | some c =>
    if lKind (legAt c 0).desc = 7 && (legAt c 0).st = .sent && c.covers = [] then
      legEnds id 0 (fun l => { l with status := .done }) s
    else s

end Sys2Proof.Machine
end

