-- ==== Sys2Proof/Machine/Serai.lean ====
section
/-! DEFINITION. Serai gateways (R371 to R375): batches at the far port that performs them, and at the sender. -/

namespace Sys2Proof.Machine

open Sys2Proof

/-! ### The far port -/

/-- Cut the records of a batch (R374): RTYPE, offset, mask, bytes; none for an RTYPE that is not defined. -/
def serParse : Nat → List Byte → Option (List (Nat × Nat × Nat × List Byte))
  | 0, _ => some []
  | k + 1, d =>
    if d.isEmpty then some []
    else
      let w := fld d 0 8
      let t := w / 2 ^ 60
      if 2 < t then none
      else
        let n := if t = 0 then 16 else 80
        (serParse k (d.drop n)).map (fun l => (t, w % 2 ^ 48, fld d 8 8, (d.drop 16).take 64) :: l)

/-- Answer a batch's end. -/
def batchEnd (p id ctx : Nat) (st : Status) (s : State) : State :=
  emit (.link p { kind := .batchDone, tag := id, ctx := ctx, status := st.code }) s

/-- The far port performs record `i` of a batch (R374). -/
def batchPerform (p : Nat) (m : Msg) (r : Nat × Nat × Nat × List Byte) (i : Nat) (s : State) : State :=
  let off := r.2.1 / 64 * 64
  let who : Who := .batch p m.tag i
  if r.1 = 0 then serve { who := who, ctx := m.ctx, off := off, op := .rdNc, len := 64 } .clean s
  else
    let mask := (List.range 64).map (fun i => bit r.2.2.1 i)
    serve { who := who, ctx := m.ctx, off := off, op := .wrInv, len := 64, data := padTo 64 r.2.2.2
            mask := if mask.all (· == true) then [] else mask, poison := r.1 = 2 } .clean s

/-- BATCH (R374): args record count, record bytes, return stream; the data are the records of the stream. The far port
performs them in record order. -/
def batchArrives (p : Nat) (m : Msg) (s : State) : State :=
  let part := (ctxPart s m.ctx).getD 20
  if !admits s m.ctx p then batchEnd p m.tag m.ctx .faultAccess s
  else if !holdsSlot s part p then batchEnd p m.tag m.ctx .quota s
  else match serParse m.data.length m.data with
    | none => batchEnd p m.tag m.ctx .unsupported s
    | some rs =>
      let b : Batch := { count := rs.length, ret := m.args.getD 2 0, ctx := m.ctx, since := s.now }
      let s := { s with car := { s.car with batches := tput (strKey p m.tag) b s.car.batches } }
      (rs.zip (List.range rs.length)).foldl (fun s x => batchPerform p m x.1 x.2 s) s

/-- Results of a batch, packed in record order (R374). -/
def batchBytes (b : Batch) : List Byte :=
  b.results.flatMap (fun r =>
    leBytes 1 r.2.1 ++ leBytes 1 (b2n r.2.2.1) ++ leBytes 14 0
      ++ (if r.2.1 = Status.done.code then r.2.2.2 else []))

/-- The far port has performed every record: it returns the results and closes the batch (R374). -/
def batchFarDone (p id : Nat) (s : State) : State :=
  match tget (strKey p id) s.car.batches with
  | none => s
  | some b =>
    if b.results.length < b.count then s
    else
      let d := batchBytes b
      let s := { s with car := { s.car with batches := tdel (strKey p id) s.car.batches } }
      let s := emit (.link p { kind := .batchResult, tag := b.ret, ctx := b.ctx, args := [b.count, d.length] }) s
      let s := (chunksOf b.ret b.ctx d).foldl (fun s m => emit (.link p m) s) s
      batchEnd p id b.ctx .done s

/-! ### The sender -/

/-- A record's bytes (R374). -/
def serBytes (r : SerRec) : List Byte :=
  let off := r.sa % 2 ^ 48
  if r.req.op = .wrCached then
    let i := off % 64
    let mask := ((List.range r.req.len).map (fun j => 2 ^ (i + j))).sum
    leBytes 8 ((if r.req.poison then 2 else 1) * 2 ^ 60 + off / 64 * 64) ++ leBytes 8 mask
      ++ padTo 64 (List.replicate i 0 ++ r.req.data)
  else leBytes 8 (off / 64 * 64) ++ leBytes 8 0

/-- Change a batch. -/
def updSer (id : Nat) (f : SerBatch → SerBatch) (s : State) : State :=
  { s with car := { s.car with ser := s.car.ser.map (fun b => if b.id = id then f b else b) } }

/-- Close a batch and send it (R373, R374); with 4,096 streams open it stays open. -/
def serSend (id : Nat) (s : State) : State :=
  match s.car.ser.find? (fun b => b.id = id && b.sent.isNone) with
  | none => s
  | some b =>
    match freeOut s b.port with
    | none => s
    | some st =>
      let d := b.recs.flatMap serBytes
      let s := { s with car := { s.car with outs := tput (strKey b.port st) (.batch id) s.car.outs } }
      let s := updSer id (fun b => { b with sent := some (st, st), since := s.now }) s
      let s := emit (.link b.port { kind := .batch, tag := st, ctx := b.ctx, args := [b.recs.length, d.length, st] }) s
      let s := (chunksOf st b.ctx d).foldl (fun s m => emit (.link b.port m) s) s
      cnt (portReg b.port 0x250) b.recs.length (cnt (portReg b.port 0x248) 1 s)

/-- Bytes of a batch's records. -/
def serSize (b : SerBatch) : Nat := (b.recs.map (fun r => (serBytes r).length)).sum

/-- Open batches of a port. -/
def serOpen (s : State) (p : Nat) : List SerBatch := s.car.ser.filter (fun b => b.port = p && b.sent.isNone)

/-- A record joins the open batch for its device, partition and context, opening one where there is none; a 65th batch
first closes the oldest (R372, R373). -/
def serAdd (p dev part ctx : Nat) (r : SerRec) (s : State) : State :=
  let mine := fun (b : SerBatch) => b.port = p && b.dev = dev && b.part = part && b.ctx = ctx && b.sent.isNone
  let s := match s.car.ser.find? mine with
    | some b => updSer b.id (fun b => { b with recs := b.recs ++ [r] }) s
    | none =>
      let s := if 64 ≤ (serOpen s p).length then (match serOpen s p with | b :: _ => serSend b.id s | [] => s) else s
      let b : SerBatch := { id := s.car.nextSer, port := p, dev := dev, part := part, ctx := ctx, since := s.now, recs := [r] }
      { s with car := { s.car with ser := s.car.ser ++ [b], nextSer := s.car.nextSer + 1 } }
  match s.car.ser.find? mine with
  | some b => if (port s p).serBytes * 1024 ≤ serSize b then serSend b.id s else s
  | none => s

/-- Close every open batch that holds a record of a thread (R372, R373). -/
def serClose (t : Nat) (s : State) : State :=
  let has := fun (b : SerBatch) => b.sent.isNone && b.recs.any (fun r => match r.req.who with | .thread u _ _ => u = t | _ => false)
  (s.car.ser.filter has).foldl (fun s b => serSend b.id s) s

/-- SERAI_WINDOW_EXPIRY (R373). -/
def serExpiry (id : Nat) (s : State) : State :=
  match s.car.ser.find? (fun b => b.id = id && b.sent.isNone) with
  | none => s
  | some b => timer (b.since + (port s b.port).serWindow * 10) (serSend id) s

/-- A batch is gone. -/
def dropSer (id : Nat) (s : State) : State :=
  let outs := s.car.outs.filter (fun x => match x.2 with | .batch i => i != id | .leg _ _ => true)
  { s with car := { s.car with ser := s.car.ser.filter (fun b => b.id != id), outs := outs } }

/-- End the records of a batch that have no result yet (R375). -/
def serEnd (id : Nat) (st : Status) (s : State) : State :=
  match s.car.ser.find? (fun b => b.id = id) with
  | none => s
  | some b =>
    let s := dropSer id s
    if st.ok then s else (b.recs.drop b.got).foldl (fun s r => remoteEnd (.thread r.req r.sa) st [] false none s) s

/-- Take results in record order (R374). -/
def serResults : Nat → List SerRec → List Byte → State → State × Nat
  | 0, _, _, s => (s, 0)
  | _, [], _, s => (s, 0)
  | k + 1, r :: t, d, s =>
    if d.length < 16 then (s, 0)
    else
      let st := statusOf (fld d 0 1)
      let hasLine := r.req.op != .wrCached && st = .done
      let line := if hasLine then (d.drop 16).take 64 else []
      let s := remoteEnd (.thread r.req r.sa) st line (bit (fld d 1 1) 0) none s
      let x := serResults k t (d.drop (if hasLine then 80 else 16)) s
      (x.1, x.2 + 1)

/-- BATCH_RESULT (R374): results of the batch whose return stream is the message's, in record order. -/
def batchResult (p : Nat) (m : Msg) (s : State) : State :=
  match s.car.ser.find? (fun b => b.port = p && (b.sent.map Prod.snd) == some m.tag) with
  | none => s
  | some b =>
    let rest := b.recs.drop b.got
    let x := serResults rest.length rest m.data s
    updSer b.id (fun b => { b with got := b.got + x.2, since := s.now }) x.1

/-- BATCH_DONE at the sender (R374): records without a result end with the batch's status. -/
def batchDoneArrives (p id : Nat) (st : Status) (s : State) : State :=
  match tget (strKey p id) s.car.outs with
  | some (.batch b) => serEnd b st s
  | _ => s

/-- A batch without an answer for ACK_TIMEOUT (R375). -/
def batchTimeout (id : Nat) (s : State) : State :=
  match s.car.ser.find? (fun b => b.id = id && b.sent.isSome) with
  | none => s
  | some b => timer (b.since + s.car.ackTimeout) (fun s => serEnd id .timeout (cnt (portReg b.port 0x230) 1 s)) s

/-- Batches of a port that is lost (R375). -/
def serLost (p : Nat) (s : State) : State :=
  (s.car.ser.filter (fun b => b.port = p)).foldl (fun s b => serEnd b.id .linkLost s) s

end Sys2Proof.Machine
end

