-- ==== Sys2Proof/Machine/Stage.lean ====
section
/-! DEFINITION. The Stage unit (R158 to R166), itineraries and their entries (R167 to R172), the boundary (R173) and the
period report (R513). -/

namespace Sys2Proof.Machine

open Sys2Proof

def updStg (f : Stage → Stage) (s : State) : State := { s with stg := f s.stg }

/-- A partition's itineraries. -/
def itinOf (s : State) (p : Nat) : ItinSt := tgetD s.stg.itin p {}

def updItin (p : Nat) (f : ItinSt → ItinSt) (s : State) : State :=
  updStg (fun g => { g with itin := tput p (f (itinOf s p)) g.itin }) s

/-- E rounded to the nearest 10 ns unit, ties to even (R159). -/
def est10 (g : Stage) : Nat :=
  let e := est840 g
  let q := e / 840
  let r := e % 840
  if r < 420 || (r = 420 && q % 2 = 0) then q else q + 1

/-- Partitions with a running itinerary. -/
def itinRunning (s : State) : List Nat := (s.stg.itin.filter (fun x => x.2.run.isSome)).map Prod.fst

/-- The first nanosecond at which the running period has reached a phase (R166). -/
def phaseTime (s : State) (ph : Nat) : Nat :=
  let n := s.stg.date * 65536 + ph * est840 s.stg
  (n + 65536 * 84 - 1) / (65536 * 84)

/-! ### Entries -/

/-- Logical units of an entry's mask, ascending (Table 6.4). -/
def maskUnits (e : Entry) : List (UnitKind × Nat) :=
  let cs := (List.range 20).filter (bit e.cells)
  match e.ukind with
  | 1 => cs.flatMap (fun c => ((List.range 16).filter (bit e.sub)).map (fun i => (.core, 16 * c + i)))
  | 2 => cs.flatMap (fun c => ((List.range 2).filter (bit e.sub)).map (fun j => (.matrix, 2 * c + j)))
  | 3 => cs.map (fun c => (.porter, c))
  | 4 => cs.map (fun c => (.assay, c))
  | 5 => ((List.range 8).filter (bit e.sub)).map (fun p => (.port, p))
  | 6 => [(.dma, 0)]
  | _ => []

/-- The running itinerary's entry. -/
def entryOf (s : State) (p i : Nat) : Option Entry := ((itinOf s p).run.bind (fun it => it.entries[i]?))

/-- An entry is due in the period of a stage number (R170). -/
def isDue (stage : Nat) (e : Entry) : Bool := e.valid && decide (stage % 2 ^ e.rate = e.slot)

/-- A dependency holds (R169). -/
def depHolds (s : State) (p : Nat) : Dep → Bool
  | .tallyGe off v => decide (v ≤ tCount (tallyAt s (off / 8)))
  | .caravanDone off => (itinOf s p).carDone.contains off

/-- Every dependency of an entry holds. -/
def depsHold (s : State) (p : Nat) (e : Entry) : Bool :=
  match (itinOf s p).run with
  | none => false
  | some it => ((it.deps.drop e.depFirst).take e.depCount).all (depHolds s p)

/-- A unit of a mask is free of earlier work: a core has an empty launch queue and room for the group's threads (Table
7.7), an engine no operation, a carrier none of the partition's caravans. -/
def unitFree (s : State) (p : Nat) (e : Entry) (slot : Nat) (x : UnitKind × Nat) : Bool :=
  match x.1 with
  | .core => groupsQueued s x.2 = 0
      && decide (gThreads (storeBytes s (e.opref + 64 * slot) 64) ≤ (ctxFree s x.2).length)
  | .port | .dma => !s.eng.ops.any (fun o => o.2.kind = x.1 && o.2.unit = x.2 && o.2.part = p)
  | k => !s.eng.ops.any (fun o => o.2.kind = k && o.2.unit = x.2)

/-- Every unit of an entry is free. -/
def unitsFree (s : State) (p : Nat) (e : Entry) : Bool :=
  ((maskUnits e).zip (List.range (maskUnits e).length)).all (fun x => unitFree s p e x.2 x.1)

/-- An entry has everything but its units: due, within its phases, dependencies held. -/
def entryWaits (s : State) (p i : Nat) (e : Entry) : Bool :=
  tget i (itinOf s p).ents = some .due && decide (e.start ≤ phase s) && decide (phase s ≤ e.deadline) && depsHold s p e

/-- Another entry that waits on one of the units starts first: lower START, or the same and a lower index (R170). -/
def entryBehind (s : State) (p i : Nat) (e : Entry) : Bool :=
  match (itinOf s p).run with
  | none => false
  | some it => (it.entries.zip (List.range it.entries.length)).any (fun x =>
      x.2 != i && (decide (x.1.start < e.start) || (x.1.start = e.start && decide (x.2 < i)))
        && entryWaits s p x.2 x.1 && (maskUnits x.1).any (fun u => (maskUnits e).contains u))

/-- WAYBILL that group `slot` of an itinerary launch must name (R192). -/
def groupWayAt (s : State) (e : Entry) (slot : Nat) : Nat :=
  let w := gWaybill (storeBytes s e.opref 64)
  if w = 0 then 0 else w + 64 * slot

/-- Queue the work of an entry at its units (R168, R191, R352). -/
def entryIssue (p i : Nat) (e : Entry) (s : State) : State :=
  let us := maskUnits e
  (us.zip (List.range us.length)).foldl (fun s x =>
    let k := x.1.1
    let u := x.1.2
    match e.opkind with
    | 1 =>
      let sa := if k = .porter || k = .assay then e.opref + 128 * x.2 else e.opref
      enqueue k u p sa x.2 us.length (some i) none e.publish s
    | 2 => groupStart u (launchOne p (e.opref + 64 * x.2) x.2 (some i) (some (u, groupWayAt s e x.2)) s).2
    | 3 => enqueue k u p (e.opref + 64 * x.2) 0 1 (some i) none false s
    | _ => s) s

/-- ENTRY_START (R170): a due entry starts once its START has come, its dependencies hold and its units are free. -/
def entryStart (p i : Nat) (s : State) : State :=
  match entryOf s p i with
  | none => s
  | some e =>
    if tget i (itinOf s p).ents != some .due then s
    else timer (phaseTime s e.start) (fun s =>
      if !entryWaits s p i e || !unitsFree s p e || entryBehind s p i e then s
      else
        let late := decide (e.start < phase s)
        let s := updItin p (fun t => { t with
          ents := tput i .started t.ents, started := t.started + 1, delayed := t.delayed + b2n late }) s
        entryEnded p (some i) (entryIssue p i e s)) s

def execEntryStart (part entry : Nat) (s : State) : Host.Outcome State Fault Refusal := .next (dp (entryStart part entry) s)

/-- Work of an entry, wherever it stands. -/
def entryOps (s : State) (p i : Nat) : List EngOp :=
  (s.eng.ops.map Prod.snd).filter (fun o => o.part = p && o.entry = some i)

/-- Drop one operation of an entry: a carrier's caravan, or an engine's operation. -/
def dropWork (o : EngOp) (s : State) : State :=
  match o.kind with
  | .port | .dma => dropCaravan o s
  | _ => stopDrop (opNow s o) s

/-- Drop an entry (R170, R171): the work it started, or the waybills its work would have written. -/
def entryDrop (p i : Nat) (e : Entry) (s : State) : State :=
  let due := tget i (itinOf s p).ents = some .due
  let us := maskUnits e
  let s := if !due then s
    else (us.zip (List.range us.length)).foldl (fun s x =>
      match e.opkind with
      | 1 =>
        let sa := if x.1.1 = .porter || x.1.1 = .assay then e.opref + 128 * x.2 else e.opref
        enqueue x.1.1 x.1.2 p sa x.2 us.length (some i) none e.publish s
      | 2 =>
        let d := storeBytes s (e.opref + 64 * x.2) 64
        if poisoned s (e.opref + 64 * x.2) || (allocAt s (e.opref + 64 * x.2)).isNone then s
        else
          let d := d.take 24 ++ leBytes 8 (groupWayAt s e x.2) ++ d.drop 32
          let g : Group := { st := .queued, core := x.1.2, phys := physOf s .core x.1.2, part := p, index := x.2
                             off := e.opref + 64 * x.2, desc := d, entry := some i }
          { s with drv := { s.drv with
            groups := tput s.drv.nextGroup g s.drv.groups, nextGroup := s.drv.nextGroup + 1 } }
      | 3 => enqueue x.1.1 x.1.2 p (e.opref + 64 * x.2) 0 1 (some i) none false s
      | _ => s) s
  let s := (entryOps s p i).foldl (fun s o => dropWork o s) s
  let gs := (s.drv.groups.filter (fun x => x.2.part = p && x.2.entry = some i)).map Prod.fst
  let s := gs.foldl (fun s g => groupDrop g s) s
  let s := (entryOps s p i).foldl (fun s o => updOp o.id (fun o => { o with entry := none }) s) s
  updItin p (fun t => { t with ents := tput i .dropped t.ents }) s

/-- ENTRY_DEADLINE (R170): the phase passes an entry's DEADLINE before its work has ended. -/
def entryDeadline (p i : Nat) (s : State) : State :=
  match entryOf s p i with
  | none => s
  | some e =>
    let st := tget i (itinOf s p).ents
    if e.deadline = 65535 || !(st = some .due || st = some .started) then s
    else timer (phaseTime s (e.deadline + 1)) (entryDrop p i e) s

def execEntryDeadline (part entry : Nat) (s : State) : Host.Outcome State Fault Refusal :=
  .next (dp (entryDeadline part entry) s)

/-! ### Periods -/

/-- Registers whose deltas a cell's record reports (Table 21.7): DVFS_CONTEND, SAFETY, STO_CONTEND, FCH_CONTEND, the six
stall counters, STALL_TIME, FETCH, EVICT, CELL_CHKFAIL. The two halves of PWR_CNT_CONTEND are counted apart. -/
def reportRegs (c : Nat) : List Nat :=
  [0x50108 + 16 * c, 0x50108 + 16 * c + 4, cellReg c 0x440, fchReg c 0x48, cellReg c 0x480, cellReg c 0x488,
   cellReg c 0x490, cellReg c 0x498, cellReg c 0x4A0, cellReg c 0x4A8, cellReg c 0x4B0, cellReg c 0x430, cellReg c 0x428,
   cellReg c 0x910]

/-- The counters of a partition as a period begins. -/
def reportBase (s : State) (p : Nat) : Tab Nat :=
  ((partCells s p).flatMap reportRegs).foldl (fun t r => tput r (tgetD s.csr r 0) t) []

/-- The report of a period that ends (Table 21.5). -/
def makeReport (s : State) (p stage flags : Nat) (rals : List (Nat × Nat)) (it : Itin) : Report :=
  let t := itinOf s p
  let drops := (t.ents.filter (fun x => x.2 = .dropped)).map Prod.fst
  let d := driftList s rals
  let off := (Sa.of (BitVec.ofNat 64 d.maxSa)).off
  let names := fun (e : Entry) => d.nonzero != 0 && ((it.rals.drop e.ralFirst).take e.ralCount).any (fun r => r.1 = off)
  let owner := ((it.entries.zip (List.range it.entries.length)).find? (fun x => x.1.valid && names x.1)).map Prod.snd
  { stage := stage, flags := flags, due := t.ents.length, started := t.started, delayed := t.delayed
    dropped := drops.length, firstDrop := drops.headD 0xFFFF, estimate := est10 s.stg, drift := d
    maxEntry := owner.getD 0xFFFF
    deltas := (reportBase s p).map (fun x => (x.1, x.2 - tgetD t.base x.1 0))
    chkFail := t.chkFail, retryOk := t.retryOk, evDrop := t.evDrop, since := s.now }

/-- Drop everything of a partition's period that has not ended (R170). -/
def periodDrop (p : Nat) (s : State) : State :=
  match (itinOf s p).run with
  | none => s
  | some it => (it.entries.zip (List.range it.entries.length)).foldl (fun s x =>
      let st := tget x.2 (itinOf s p).ents
      if st = some .due || st = some .started then entryDrop p x.2 x.1 s else s) s

/-- A period of a partition's running itinerary begins (R170): its due entries; one whose DEADLINE has passed is dropped. -/
def periodBegin (p : Nat) (s : State) : State :=
  match (itinOf s p).run with
  | none => updItin p (fun t => { t with ents := [] }) s
  | some it =>
    let es := it.entries.zip (List.range it.entries.length)
    let ents := (es.filter (fun x => isDue s.stg.stage.toNat x.1)).map (fun x => (x.2, EntSt.due))
    let base := reportBase s p
    let s := updItin p (fun t => { t with
      ents := ents, started := 0, delayed := 0, carDone := [], base := base, chkFail := 0, retryOk := 0, evDrop := 0 }) s
    es.foldl (fun s x =>
      if tget x.2 (itinOf s p).ents = some .due && decide (x.1.deadline < phase s) then entryDrop p x.2 x.1 s else s) s

/-- A running period ends without a boundary (R162, R536): work dropped, the report kept, the itinerary held. -/
def periodLost (flags stage : Nat) (p : Nat) (s : State) : State :=
  match (itinOf s p).run with
  | none => s
  | some it =>
    let s := periodDrop p s
    let rp := makeReport s p stage flags it.rals it
    updItin p (fun t => { t with run := none, held := some it, isHeld := true, ents := [], reports := t.reports ++ [rp] }) s

/-- The itinerary that runs after a boundary (R162, R167, R430). -/
def itinNext (t : ItinSt) (fly : Bool) (stage : Nat) : ItinSt :=
  let t := if t.stopReq then { t with run := none, pending := none, stopReq := false } else t
  if t.startReq && !fly then
    if t.pending.isSome then
      { t with run := t.pending, pending := none, held := none, isHeld := false, startReq := false }
    else if t.isHeld then { t with run := t.held, held := none, isHeld := false, startReq := false }
    else { t with startReq := false }
  else if t.isHeld then t
  else match t.pending with
    | none => t
    | some it =>
      let now := match it.stage with
        | none => !fly
        | some n => n = stage
      if now then { t with run := some it, pending := none } else t

/-- Ages of managed blocks at a boundary (R87). -/
def ageBlocks (s : State) : State :=
  let up := fun (b : Block) =>
    if b.st != .hbm then b
    else if b.touched then { b with age := 0, touched := false } else { b with age := min 255 (b.age + 1) }
  { s with store := { s.store with blocks := s.store.blocks.map (fun x => (x.1, up x.2)) } }

/-- PTM time of a boundary (R165). -/
def ptmStamp (s : State) : State :=
  match s.stg.ptm with
  | none => s
  | some (_, off) =>
    if !s.stg.ptmValid then s
    else
      let t := ((s.stg.date / 84 : Nat) : Int) + off
      updStg (fun g => { g with
        ptmSeq := g.ptmSeq + 2, ptmStage := g.stage, ptmHost := BitVec.ofInt 64 t }) s

/-- A boundary of a date, in units of 10 ns / 840 (Table 6.6). -/
def boundary (date : Nat) (fly : Bool) (s : State) : State :=
  let old := s.stg.stage.toNat
  let s := updStg (fun g => { g with date := date, stage := g.stage + 1, run := g.next, lastFly := fly }) s
  let s := ptmStamp s
  let s := if fly then s
    else updStg (fun g => { g with toll := g.tollNext.getD g.toll, tollNext := none }) s
  let ps := itinRunning s
  let s := ps.foldl (fun s p => periodDrop p s) s
  let olds := ps.filterMap (fun p => (itinOf s p).run.map (fun it => (p, it)))
  let new := s.stg.stage.toNat
  let s := updStg (fun g => { g with itin := g.itin.map (fun x => (x.1, itinNext x.2 fly new)) }) s
  let swapped := fun (s : State) (p : Nat) (it : Itin) => (itinOf s p).run != some it && (itinOf s p).run.isSome
  let s := olds.foldl (fun s x =>
    let rals := match (itinOf s x.1).run with
      | some it => it.rals
      | none => x.2.rals
    let flags := 2 * b2n fly + 4 * b2n (swapped s x.1 x.2)
    let rp := makeReport s x.1 old flags rals x.2
    updItin x.1 (fun t => { t with reports := t.reports ++ [rp] }) s) s
  let lists := (itinRunning s).filterMap (fun p => (itinOf s p).run.map Itin.rals)
  let gone := (olds.filter (fun x => (itinOf s x.1).run.isNone)).map (fun x => x.2.rals)
  let s := (lists ++ gone).foldl (fun s l => realignAll l s) s
  let s := ageBlocks s
  (s.stg.itin.map Prod.fst).foldl (fun s p => periodBegin p s) s

/-- A pulse goes out on STAGE_OUT (R163). -/
def stageOut (s : State) : State := put (.pin "STAGE_OUT" 1) s

/-- STAGE_LOST (R162). -/
def stageLost (s : State) : State :=
  let stage := s.stg.stage.toNat
  let ps := itinRunning s
  let s := updStg (fun g => { g with st := .lost, missed := g.missed + 1 }) s
  let s := cnt 0x30058 1 s
  let s := ps.foldl (fun s p => evqPost p 0x0202 1 (leBytes 6 stage) s) s
  let s := msi s.stg.run.vector (rasPost 0x0202 1 0xFF (leBytes 6 stage) s)
  ps.foldl (fun s p => periodLost 1 stage p s) s

/-- The window of the expected pulse, times 10,000 (R161). -/
def windowEnd (g : Stage) : Nat := 10000 * (g.date + est840 g) + g.run.window * est840 g

/-- The Stage unit runs on boundaries. -/
def stgRuns (s : State) : Bool := s.stg.st = .locked || s.stg.st = .flywheel

/-- WINDOW_CLOSE (R161): 20 ns after the window's close with no pulse accepted, a flywheel boundary or LOST. -/
def windowClose (s : State) : State :=
  if !stgRuns s then s
  else
    let due := (windowEnd s.stg + 840000 - 1) / 840000 + 20
    timer due (fun s =>
      if s.stg.run.flywheel < s.stg.missed + 1 then stageLost s
      else
        let out := s.stg.run.outmode = 2
        let s := cnt 0x30050 1 (updStg (fun g => { g with st := .flywheel, missed := g.missed + 1 }) s)
        let s := if out then stageOut s else s
        boundary (s.stg.date + est840 s.stg) true s) s

def execWindowClose (s : State) : Host.Outcome State Fault Refusal := .next (dp windowClose s)

/-- Windows that close before a pulse's edge close first. -/
def catchUp : Nat → Nat → State → State
  | 0, _, s => s
  | k + 1, edge, s => if stgRuns s && decide (windowEnd s.stg < edge * 840 * 10000) then catchUp k edge (windowClose s) else s

/-- `|a - b|` is within `w` units of 0.01 % of `n` (R159). -/
def within (a b w n : Nat) : Bool := decide (10000 * (max a b - min a b) ≤ w * n)

/-- A pulse that takes a boundary (R160, R163). -/
def pulseTaken (edge : Nat) (s : State) : State :=
  let out := s.stg.run.outmode = 1 || s.stg.run.outmode = 2
  let s := cnt 0x30038 1 (updStg (fun g => { g with st := .locked, missed := 0 }) s)
  boundary (edge * 840) false (if out then stageOut s else s)

/-- A pulse outside its window (R159). -/
def pulseRejected (i : Nat) (s : State) : State :=
  cnt 0x30048 1 (updStg (fun g => { g with lastRej := i % 2 ^ 32 }) s)

/-- A pulse in ACQUIRE (Table 6.1). -/
def pulseAcquire (edge : Nat) (s : State) : State :=
  let g := s.stg
  if !g.seen then updStg (fun g => { g with seen := true, good := 1, date := edge * 840, intervals := [] }) s
  else
    let i := edge - g.date / 840
    if within i g.run.nominal g.run.window g.run.nominal then
      let s := updStg (fun g => { g with good := g.good + 1, date := edge * 840, intervals := g.intervals ++ [i] }) s
      if g.good + 1 < 4 then s
      else msi s.stg.run.vector (pulseTaken edge (updStg (fun g => { g with good := 0, seen := false }) s))
    else
      pulseRejected i (updStg (fun g => { g with good := 1, date := edge * 840, intervals := [] }) s)

/-- A pulse in LOCKED or FLYWHEEL (R159). -/
def pulseRun (edge : Nat) (s : State) : State :=
  let g := s.stg
  let i := edge * 840 - g.date
  let e := est840 g
  let n := g.run.nominal * 840
  if within i e g.run.window e && within i n g.run.window n then
    let s := if g.lastFly then s
      else updStg (fun g => { g with intervals := (g.intervals ++ [i / 840]).drop (g.intervals.length + 1 - 8) }) s
    pulseTaken edge s
  else pulseRejected (i / 840) s

/-- PULSE (R158, R159): an input pulse with its rising edge in 10 ns units and its width in nanoseconds. It is considered
20 ns after its edge. -/
def pulse (edge width : Nat) (s : State) : State :=
  if s.stg.st = .off || s.stg.st = .lost then s
  else if width < 20 then cnt 0x30040 1 s
  else
    let s := catchUp 70 edge s
    if (s.stg.seen || stgRuns s) && decide (edge * 840 < s.stg.date) then s
    else match s.stg.st with
      | .acquire => pulseAcquire edge (reach (edge * 10 + 20) s)
      | .locked | .flywheel => pulseRun edge (reach (edge * 10 + 20) s)
      | .off | .lost => s

def execPulse (edge width : Nat) (s : State) : Host.Outcome State Fault Refusal := .next (dp (pulse edge width) s)

/-! ### The report -/

/-- A counter field of a cell's record. -/
def delta32 (r : Report) (k : Nat) : Nat := min (tgetD r.deltas k 0) (2 ^ 32 - 1)

/-- The records of a report with their KINDs (Tables 21.5 to 21.7). -/
def reportRecords (s : State) (p : Nat) (r : Report) : List (Nat × List Byte) :=
  let cells := partCells s p
  let d := r.drift
  let head := leBytes 6 r.stage ++ leBytes 1 r.flags ++ leBytes 1 (2 + cells.length) ++ leBytes 2 r.due
    ++ leBytes 2 r.started ++ leBytes 2 r.delayed ++ leBytes 2 r.dropped ++ leBytes 2 r.firstDrop ++ leBytes 2 0
    ++ leBytes 4 r.estimate ++ leBytes 4 (sat32 r.chkFail) ++ leBytes 4 (sat32 r.retryOk) ++ leBytes 4 (sat32 r.evDrop)
  let drift := leBytes 2 d.words ++ leBytes 2 d.nonzero ++ leBytes 2 d.sat ++ leBytes 2 d.und ++ leBytes 2 d.mis
    ++ leBytes 2 r.maxEntry ++ leBytes 4 0 ++ leBytes 8 (BitVec.ofInt 64 d.maxDrift).toNat ++ leBytes 8 d.maxSa
    ++ leBytes 8 d.absSum
  let cell := fun (c : Nat) =>
    let f := fun (k : Nat) => leBytes 4 (delta32 r ((reportRegs c).getD k 0))
    let stalls := ((span 4 6).map (fun k => tgetD r.deltas ((reportRegs c).getD k 0) 0)).sum
    leBytes 1 c ++ leBytes 3 0 ++ f 0 ++ f 1 ++ f 2 ++ f 3 ++ leBytes 4 (sat32 stalls)
      ++ leBytes 8 (tgetD r.deltas ((reportRegs c).getD 10 0) 0) ++ f 11 ++ f 12 ++ f 13
  [(0x0301, head), (0x0302, drift)] ++ cells.map (fun c => (0x0303, cell c))

/-- PERIOD_REPORT (R513): the oldest report of a partition is posted whole, or dropped whole. -/
def periodReport (p : Nat) (s : State) : State :=
  match (itinOf s p).reports with
  | [] => s
  | r :: rest =>
    let s := evqLost p (updItin p (fun t => { t with reports := rest }) s)
    let rs := reportRecords s p r
    match partOf s p with
    | none => s
    | some x =>
      if x.evq.dropped = 0 && evqRoom s x.evq rs.length then rs.foldl (fun s y => evqPost p y.1 0 y.2 s) s
      else evqDrop p rs.length s

def execPeriodReport (part : Nat) (s : State) : Host.Outcome State Fault Refusal := .next (dp (periodReport part) s)

/-! ### PTM -/

/-- PTM_REFRESH (R165): the PTM context is refreshed with the master's time in nanoseconds. -/
def ptmRefresh (master : BitVec 64) (s : State) : State :=
  if !s.host.linkUp then s
  else updStg (fun g => { g with ptm := some (s.now, (master.toNat : Int) - (s.now : Int)), ptmValid := true }) s

def execPtmRefresh (master : BitVec 64) (s : State) : Host.Outcome State Fault Refusal := .next (dp (ptmRefresh master) s)

/-- PTM_CONTEXT_EXPIRY (R165): the last refresh is older than 10 ms. -/
def execPtmContextExpiry (s : State) : Host.Outcome State Fault Refusal :=
  .next (match s.stg.ptm with
    | none => s
    | some (t, _) => timer (t + 10000001) (updStg (fun g => { g with ptmValid := false })) s)

/-! ### Configuration -/

/-- Range checks of a Stage configuration (R164). -/
def stgCfgOk (s : State) (c : StgCfg) : Bool :=
  (if c.nominal = 0 then !c.enable else decide (2000 ≤ c.nominal) && decide (c.nominal ≤ 100000000))
    && decide (1 ≤ c.window) && decide (c.window ≤ 500) && decide (c.flywheel ≤ 64) && decide (c.outmode < 3)
    && (c.nominal = s.stg.run.nominal || (itinRunning s).isEmpty)

/-- A Stage configuration takes effect (R160, R164, R536). While boundaries are taken, WINDOW, FLYWHEEL and OUTMODE wait
for the next one. -/
def stgApply (c : StgCfg) (s : State) : State :=
  let runs := stgRuns s
  let now := if runs then { s.stg.run with enable := c.enable, vector := c.vector, nominal := c.nominal } else c
  if !c.enable then
    let stage := s.stg.stage.toNat
    let s := if runs then (itinRunning s).foldl (fun s p => periodLost 9 stage p s) s else s
    updStg (fun g => { g with run := c, next := c, st := .off, seen := false, good := 0, missed := 0, intervals := [], lastFly := false }) s
  else
    let s := updStg (fun g => { g with run := now, next := c }) s
    if s.stg.st = .off || s.stg.st = .lost then
      updStg (fun g => { g with st := .acquire, seen := false, good := 0, missed := 0, intervals := [], lastFly := false }) s
    else s

/-- STG_COMMIT (R164, R462): after a STAGE_CONFIG of management it only sets ERR (R463). -/
def stgCommit (gen : BitVec 32) (s : State) : State :=
  if s.parts.mgmtOwned.contains 0x70001 || gen != s.stg.gen + 1 || !stgCfgOk s s.stg.shadow then
    updStg (fun g => { g with err := true }) s
  else stgApply s.stg.shadow (updStg (fun g => { g with gen := gen }) s)

def execStgCommit (gen : BitVec 32) (s : State) : Host.Outcome State Fault Refusal := .next (barWrite (stgCommit gen) s)

/-- STG_COMMIT_ERR_CLEAR (R462). -/
def execStgCommitErrClear (s : State) : Host.Outcome State Fault Refusal :=
  .next (barWrite (updStg (fun g => { g with err := false })) s)

end Sys2Proof.Machine
end

