-- ==== Sys2Proof/Machine/CellCsr.lean ====
section
/-! DEFINITION. What the registers of a cell's status block, a flash channel's block and a port's block read as
(Tables 3.12 to 3.15, 4.7, 5.10, 7.14, 8.10, 9.8, 10.11, 11.10, 12.12, 13.9, 14.7, 15.6). Counters are held as they are;
the other registers are views of the state. Cycle counters are free values (the spec gives no cycle of any step). -/

namespace Sys2Proof.Machine

open Sys2Proof

/-- A field at a bit position. -/
def at_ (lo v : Nat) : Nat := v * 2 ^ lo
/-- A counter as it stands. -/
def counter (s : State) (a : Nat) : Nat := tgetD s.csr a 0
/-- A register that reads as zero until the fuses are read and units are bound (the tables' reset values; log 36). -/
def bound (s : State) (v : Nat) : Nat := if s.rep.boot.fused then v else 0
/-- A counter of cycles: a free value of the register and the time (log 3). -/
def cycles (s : State) (a : Nat) : Nat := bound s (Config.freeOf 120 [a, s.now] % 2 ^ 64)
/-- A bit of a mask over a range. -/
def maskOf (n : Nat) (f : Nat → Bool) : Nat := ((List.range n).map (fun i => if f i then 2 ^ i else 0)).sum

/-- A temperature as an 8-bit two's complement field. -/
def tempBits (t : Int) : Nat := (BitVec.ofInt 8 t).toNat

def cellStoStatus (s : State) (c : Nat) : Nat :=
  let st := s.store.stks.getD c {}
  at_ 63 (b2n st.ready) + at_ 62 (b2n st.srf) + at_ 61 (b2n st.hotref) + at_ 40 (st.spared % 2 ^ 16)
    + at_ 32 (tempBits st.temp) + st.retired % 2 ^ 20

/-- Frames by use; none is free before the stack is in service (the reset value of Table 3.12; log 36). -/
def cellStoFrames (s : State) (c : Nat) : Nat :=
  at_ 40 (managedFrames s c) + at_ 20 (placedFrames s c) + (if (s.store.stks.getD c {}).ready then freeFrames s c else 0)

/-- Directory entries in use, those beyond the home directory standing in its overflow segment (R111). -/
def cellCohDir (s : State) (c : Nat) : Nat :=
  let n := (homeEntries s c).length
  at_ 32 (n - min n 2097152) + min n 2097152

def cellSynStatus (s : State) (c : Nat) : Nat :=
  at_ 63 (b2n s.sync.feMode) + at_ 32 (feqAt s c) + (waitersAt s c).length

def cellDrvStatus (s : State) (c : Nat) : Nat :=
  let core := fun (i : Nat) => 16 * c + i
  at_ 32 (bound s (maskOf 17 (fun sl => (List.range 16).any (fun i => coreSlot s (core i) = sl))))
    + at_ 16 (maskOf 16 (fun i => s.drv.unbound.contains (core i))) + maskOf 16 (fun i => s.drv.due.contains (core i))

def cellDrvLive (s : State) (c : Nat) : Nat :=
  at_ 16 ((s.drv.groups.filter (fun x => x.2.core / 16 = c && x.2.st = .queued)).length)
    + (s.drv.threads.filter (fun x => x.1 / 1024 = c)).length

def cellMxuStatus (s : State) (c : Nat) : Nat :=
  let q := fun (m : Nat) => ((unitOps s .matrix m).filter (fun o => o.st = .queued)).length
  at_ 52 (bound s (mxuSlot s (2 * c + 1))) + at_ 48 (bound s (mxuSlot s (2 * c)))
    + at_ 32 (maskOf 2 (fun j => (runningOp s .matrix (2 * c + j)).isSome)) + at_ 16 (q (2 * c + 1)) + q (2 * c)

def cellChkCfg (s : State) (c : Nat) : Nat :=
  match (cellPart s c).bind (partOf s) with
  | some p => at_ 16 p.retryLimit + at_ 8 p.shadowMax + p.shadowN
  | none => 0x0A0A

def cellPorStatus (s : State) (c : Nat) : Nat :=
  let busy := (runningOp s .porter c).isSome
  at_ 63 (b2n busy) + at_ 62 (b2n (unitUnbound s .porter c))
    + at_ 56 (if busy then 1 + Config.freeOf 121 [c, s.now] % 3 else 0)
    + at_ 32 ((s.eng.moves.filter (fun m => homeCell s m.src = c)).length)
    + ((unitOps s .porter c).filter (fun o => o.st = .queued)).length

def cellDepStatus (s : State) (c : Nat) : Nat :=
  let ms := s.dep.members.map Prod.snd
  let mine := fun (m : Member) (key : Nat) => m.slotCell (homeSlot key) = c
  at_ 43 ((ms.map (fun m => (m.homes.filter (fun h => mine m h.1)).length)).sum)
    + at_ 21 ((ms.map (fun m => (m.leases.filter (fun l => mine m l.1)).length)).sum)
    + (ms.map (fun m => (m.moving.filter (fun x => m.slotCell x.1 = c)).length)).sum

def cellDepPages (s : State) (c : Nat) : Nat :=
  let per := s.dep.members.map (fun x =>
    match x.2.params.cells.idxOf? c with
    | none => (0, 0)
    | some k =>
      let sh := x.2.share k
      ((sh.filter (fun o => (tget o x.2.used) = some 262144)).length, (sh.filter x.2.chunkFree).length))
  at_ 32 ((per.map Prod.fst).sum) + (per.map Prod.snd).sum

/-- A register of a cell's status block, by its offset in the cell's window (R29, R398). -/
def cellCsr (s : State) (c o : Nat) : Nat :=
  let a := cellReg c o
  match o with
  | 0x400 => cellStoStatus s c
  | 0x408 => cellStoFrames s c
  | 0x420 => at_ 32 (sat32 (s.store.stks.getD c {}).passes) + (s.store.stks.getD c {}).progress % 2 ^ 32
  | 0x500 => cellCohDir s c
  | 0x600 => cellSynStatus s c
  | 0x700 => cellDrvStatus s c
  | 0x708 => cellDrvLive s c
  | 0x718 | 0x720 | 0x828 | 0x830 | 0xA60 => cycles s a
  | 0x800 => cellMxuStatus s c
  | 0x818 | 0x820 => counter s a / 2 ^ 20
  | 0x900 => cellChkCfg s c
  | 0xA00 => cellPorStatus s c
  | 0xB00 => cellDepStatus s c
  | 0xB08 => cellDepPages s c
  | _ => counter s a

/-- A register of a flash channel's block (Tables 3.14 and 12.12). -/
def fchCsr (s : State) (ch o : Nat) : Nat :=
  let f := s.store.flash.getD ch {}
  let a := fchReg ch o
  match o with
  | 0x00 => at_ 63 (b2n (f.censusDone && f.admitted != 0)) + at_ 62 (b2n f.censusDone) + at_ 61 (b2n f.censusFail)
      + at_ 59 (gcState f) + at_ 40 f.admitted.toNat + at_ 24 f.failedT.toNat
  | 0x08 => at_ 32 (f.good % 2 ^ 32) + f.usable % 2 ^ 32
  | 0x10 => at_ 32 (if f.usable = 0 then 0 else min 65535 (f.erased * 1000 / (f.usable * 4))) + f.erased / max 1 f.perBlock % 2 ^ 32
  | 0x40 => at_ 32 ((f.wear.map Prod.snd).foldl max 0) + (f.wear.map Prod.snd).foldl min ((f.wear.map Prod.snd).headD 0)
  | 0x100 =>
    let r := runningOp s .assay ch
    let code := match r with
      | none => 0
      | some o => if dOp o.desc = 0x21 then 2 else if dOp o.desc = 0x22 then 3 else 1
    let mine := s.idx.filter (fun x => x.2.channels.contains ch)
    at_ 63 (b2n r.isSome) + at_ 62 (b2n (unitUnbound s .assay ch)) + at_ 60 code
      + at_ 59 (b2n (mine.any (fun x => x.2.sweeping && !x.2.swept.contains ch)))
      + at_ 58 (b2n (mine.any (fun x => x.2.repq != [])))
      + ((unitOps s .assay ch).filter (fun o => o.st = .queued)).length
  | 0x150 => cycles s a
  | _ => counter s a

/-- STATE of PORT_STATUS (Table 13.10). -/
def PortSt.code : PortSt → Nat
  | .disabled => 0 | .detect => 1 | .eq => 2 | .align => 3 | .auth => 4 | .config => 5 | .active => 6 | .recover => 7
  | .fenced => 8 | .down => 9

/-- A register of a port's block (Tables 13.9, 14.7 and 15.6). -/
def portCsr (s : State) (p o : Nat) : Nat :=
  let x := port s p
  let a := portReg p o
  match o with
  | 0x00 => at_ 60 x.st.code + at_ 56 x.width + at_ 55 (b2n x.spareUsed) + at_ 54 (b2n x.remapPend)
      + at_ 53 (b2n (x.st = .active)) + at_ 52 (b2n x.fenceElec) + at_ 51 (b2n x.fenceLog) + at_ 48 x.cause
      + at_ 32 x.psptag + at_ 12 x.partner + x.failed.toNat
  | 0x08 => ((x.lanes.zip (List.range 9)).map (fun y => at_ (4 * y.2) y.1)).sum
  | 0x10 => at_ 63 (b2n x.cfg.enable) + at_ 62 (b2n x.cfg.remapEn) + at_ 61 (b2n x.cfg.coherent) + at_ 48 x.cfg.serExp
      + at_ 44 x.cfg.serMant + at_ 32 x.cfg.sptag + at_ 4 x.cfg.modAddr + x.cfg.wavelength
  | 0x200 => at_ 35 ((s.car.outs.filter (fun y => y.1 / 8192 = p)).length)
      + at_ 19 ((s.car.streams.filter (fun y => y.1 / 8192 = p)).length) + (serOpen s p).length
  | 0x260 => at_ 16 x.serWindow + x.serBytes
  | 0x300 => (s.car.frb.filter (fun y => y.2.port = p)).length
  | _ => counter s a

end Sys2Proof.Machine
end

