-- ==== Sys2Proof/Machine/Operands.lean ====
section
/-! DEFINITION. Operands of Drover instructions (R181 to R188, R199): fields of an instruction word, the fetch of an
instruction, its readiness, and the checks of an address a thread forms (Tables 2.12 and 7.5). -/

namespace Sys2Proof.Machine

open Sys2Proof

/-! ### Fields (Table 7.3) -/

def wBits (w : BitVec 32) (hi lo : Nat) : Nat := bitsOf w.toNat hi lo
/-- Major opcode. -/
def wOp (w : BitVec 32) : Nat := wBits w 31 26
/-- Bits [25:21], [20:16], [15:11] and [10:6] as register fields. -/
def wA (w : BitVec 32) : Nat := wBits w 25 21
def wB (w : BitVec 32) : Nat := wBits w 20 16
def wC (w : BitVec 32) : Nat := wBits w 15 11
def wD (w : BitVec 32) : Nat := wBits w 10 6
/-- FUNC of the R and of the V format. -/
def wFn (w : BitVec 32) : Nat := wBits w 5 0
def wVFn (w : BitVec 32) : Nat := wBits w 6 0
def wType (w : BitVec 32) : Nat := wBits w 9 7
/-- imm16, zero-extended and sign-extended to 64 bits. -/
def wImm (w : BitVec 32) : Nat := wBits w 15 0
def wImmS (w : BitVec 32) : BitVec 64 := (w.extractLsb' 0 16).signExtend 64
/-- Offset of the J format in words. -/
def wOffJ (w : BitVec 32) : BitVec 64 := (w.extractLsb' 0 21).signExtend 64

/-- The opcode and FUNC are defined (Table 7.4). FUNC of opcodes 0x1D, 0x1E and 0x22 to 0x24 is not numbered (log 12). -/
def wDefined (w : BitVec 32) : Bool :=
  match wOp w with
  | 0x00 => decide (wFn w ≤ 0x18)
  | 0x06 => wBits w 7 6 != 3
  | 0x1C => decide (wBits w 5 4 < 2)
  | 0x1F | 0x20 | 0x21 => decide (wFn w < 2)
  | o => decide (o ≤ 0x24)

/-! ### Threads' ground -/

/-- The partition of a thread. -/
def thrPart (s : State) (x : Thread) : Nat := ((tget x.group s.drv.groups).map Group.part).getD 20
/-- The tile of a thread. -/
def thrTile (t : Nat) : Nat := t / 1024 / 5
/-- The cell of a thread. -/
def thrCell (t : Nat) : Nat := t / 1024
/-- The itinerary entry a thread's work belongs to (R170). -/
def thrEntry (s : State) (x : Thread) : Option Nat := (tget x.group s.drv.groups).bind Group.entry

/-- Why an instruction cannot be fetched (R190, R199). -/
def fetchFault (s : State) (x : Thread) : Option Status :=
  let a := Sa.of x.pc
  if a.space != 0 || !isOwn s a.dev then some .faultAccess
  else if a.off % 4 != 0 then some .faultAlign
  else if !ctxIssues s x.ctx (thrPart s x) then some .faultAccess
  else homeCheck s x.ctx a.off false

/-- Requests outstanding on a core (R180). -/
def coreOut (s : State) (core : Nat) : Nat :=
  ((s.drv.threads.filter (fun y => y.1 / 64 = core)).map (fun y => y.2.out)).sum

/-- How an instruction takes its place among a thread's accesses (R112): not a memory instruction, an access, or one that
is ordered as an atomic. -/
inductive Ord | none | access | release
deriving DecidableEq, Repr

/-- An atomic of the thread is outstanding: later accesses follow it (R112). -/
def acquiring (s : State) (t : Nat) : Bool :=
  (threadReqs s t).any (fun r => match r.op with | .atomic _ _ _ _ => true | _ => false)

/-- The thread may issue: no register it uses is pending, and a memory instruction finds room and its order (R112,
R180). -/
def mayIssue (s : State) (t : Nat) (x : Thread) (uses : List RegId) (o : Ord) : Bool :=
  uses.all (fun r => !x.pend.contains r) &&
    (match o with
     | .none => true
     | .access => decide (x.out < 16) && decide (coreOut s (t / 64) < 256) && !acquiring s t
     | .release => decide (x.out < 16) && decide (coreOut s (t / 64) < 256) && (threadReqs s t).isEmpty)

/-- Run an instruction of a thread. It is fetched and decoded; an undefined one faults (R182); a word of another
instruction, or one that is not ready, changes nothing, but that a release closes the thread's open batches (R373). -/
def insn (t : Nat) (w : BitVec 32) (mine : Bool) (uses : List RegId) (o : Ord) (body : Thread → State → State)
    (s : State) : State :=
  match thr s t with
  | none => s
  | some x =>
    if x.st != .running then s
    else match fetchFault s x with
      | some st => faultThread t st x.pc.toNat true s
      | none =>
        let go := updThr t (fun x => { x with insn := w }) s
        if !wDefined w then faultThread t .unsupported 0 false go
        else if !mine then s
        else if !mayIssue s t x uses o then (if o = .release then serClose t s else s)
        else body { x with insn := w } (cnt (cellReg (thrCell t) 0x710) 1 go)

/-- The thread goes on at the next instruction. -/
def nextPc (t : Nat) (s : State) : State := updThr t (fun x => { x with pc := x.pc + 4 }) s

/-- Write a result and go on. -/
def result (t : Nat) (rd : RegId) (v : Nat) (p : Bool) (s : State) : State := nextPc t (updThr t (fun x => x.write rd v p) s)

/-- The instruction faults its thread. -/
def insnFault (t : Nat) (st : Status) (sa : Nat) (s : State) : State := faultThread t st sa false s

/-! ### Addresses -/

/-- Instruction classes of Table 7.5; loads and stores carry their size. -/
inductive Acc
  | load (n : Nat)
  | vload
  | store (n : Nat)
  | vstore
  | atomic (n : Nat)
  | tally
  | fe
deriving DecidableEq, Repr

/-- Bytes of an access. -/
def Acc.size : Acc → Nat
  | .load n | .store n | .atomic n => n
  | .vload | .vstore | .fe => 64
  | .tally => 8

/-- The access reads or writes as a load or a store does. -/
def Acc.isLoad : Acc → Bool
  | .load _ | .vload => true
  | _ => false

/-- A CSR load reaches the status block of a cell of the partition (Table 2.2, R398). -/
def csrReach (s : State) (p off : Nat) : Bool :=
  decide (0x100000 ≤ off) && decide (off < 0x240000) && decide (0x400 ≤ off % 0x10000)
    && (partCells s p).contains ((off - 0x100000) / 0x10000)

/-- Alignment of an access (Tables 2.12 and 7.12). -/
def misaligned (a : Acc) (x : Sa) : Bool :=
  (x.space = 2 && x.off % 8 != 0) ||
    (match a with
     | .atomic n => x.off % n != 0
     | .vload | .vstore => x.off % 64 != 0
     | .fe => x.space = 0 && x.off % 64 != 0
     | .load _ => x.space = 3 && x.off % 8 != 0
     | _ => false)

/-- What Table 7.5 refuses by space and class. -/
def refused75 (s : State) (p : Nat) (a : Acc) (x : Sa) : Option Status :=
  match x.space, a with
  | 0, .tally => some .faultAccess
  | 0, .atomic _ => if isOwn s x.dev then none else some .unsupported
  | 0, .fe => if s.sync.feMode then none else some .unsupported
  | 0, _ => none
  | 1, .tally => some .faultAccess
  | 1, .fe => some .faultSync
  | 1, .atomic n => if n = 8 then none else some .unsupported
  | 1, _ => none
  | 2, .tally => none
  | 2, .load n => if n = 8 then none else some .faultAccess
  | 2, .fe => some .faultSync
  | 2, _ => some .faultAccess
  | _, .load n => if n = 8 && csrReach s p x.off then none else some .faultAccess
  | _, .fe => some .faultSync
  | _, _ => some .faultAccess

/-- The checks of an address a thread forms, in the order of Table 2.12 (R185); those of the store map and the home come
with the access. -/
def addrCheck (s : State) (p ctx : Nat) (a : Acc) (sa : Nat) : Option Status :=
  let x := Sa.of (BitVec.ofNat 64 sa)
  let layout := match x.space with
    | 0 => true
    | 1 => spadOk s p x.off a.size
    | 2 => syncLayout x.off && (!isOwn s x.dev || (partCells s p).contains (x.off / 2 ^ 18))
    | _ => decide (x.off < 2 ^ 24)
  if 3 < x.space then some .faultAccess
  else if !devKnown s x.dev then some .faultAccess
  else if (x.space = 1 || x.space = 3) && !isOwn s x.dev then some .faultAccess
  else if !layout then some .faultAccess
  else if misaligned a x then some .faultAlign
  else match refused75 s p a x with
    | some st => some st
    | none => if ctxIssues s ctx p then none else some .faultAccess

/-- Where a thread's access goes once its address is checked. -/
inductive Goes
  | fault (st : Status)
  | store (off : Nat)
  | remote (port stages : Nat)
  | spad (off : Nat)
  | sync (word : Nat)
  | csr (off : Nat)
deriving DecidableEq, Repr

/-- Check and route an access: a crossing or a port without a slot is QUOTA (R175, R372), a device without a route or
with its link down is LINK_LOST (R371). -/
def route (s : State) (t : Nat) (x : Thread) (a : Acc) (sa : Nat) : Goes :=
  let p := thrPart s x
  match addrCheck s p x.ctx a sa with
  | some st => .fault st
  | none =>
    let y := Sa.of (BitVec.ofNat 64 sa)
    if !isOwn s y.dev then
      match tget y.dev s.car.routes with
      | none => .fault .linkLost
      | some r =>
        if !portActive s r.port then .fault .linkLost
        else if !holdsSlot s p r.port then .fault .quota
        else .remote r.port r.stages
    else match y.space with
      | 0 => .store y.off
      | 1 => if crossOk s p (thrTile t) (y.off / 2 ^ 26 / 5) then .spad y.off else .fault .quota
      | 2 => if crossOk s p (thrTile t) (y.off / 2 ^ 18 / 5) then .sync (y.off / 8) else .fault .quota
      | _ => .csr y.off

/-! ### Issuing requests -/

/-- Note an issued request: one more outstanding, its destinations pending, where it came from, and the next pc. -/
def issued (t id : Nat) (pend : List RegId) (s : State) : State :=
  let live := (threadReqs s t).map Req.id
  updThr t (fun x => { x with
    out := x.out + 1, pend := pend ++ x.pend
    log := tput id (x.pc, x.insn) (x.log.filter (fun e => e.1 = 0 || live.contains e.1)) }) s

/-- A request goes to its home on this device. -/
def issueLocal (t : Nat) (pend : List RegId) (r : Req) (s : State) : State :=
  let id := s.coh.nextReq
  launchReq r none (issued t id pend s)

/-- A load or store of store space on another device, within one line: a single message over at most one switch stage,
else a record of a batch (R372). -/
def issueRemote (t port stages : Nat) (pend : List RegId) (r : Req) (sa : Nat) (s : State) : State :=
  let r := { r with id := s.coh.nextReq }
  let p := ((thr s t).map (thrPart s)).getD 20
  let s := issued t r.id pend { s with coh := { s.coh with nextReq := s.coh.nextReq + 1 } }
  if 2 ≤ stages then serAdd port (Sa.of (BitVec.ofNat 64 sa)).dev p r.ctx { req := r, sa := sa } s
  else
    let s := cnt (portReg port 0x258) 1 s
    let line := BitVec.ofNat 64 (sa / 64 * 64)
    let m : Msg := { kind := .rdNc, ctx := r.ctx, sa := line, poison := r.poison }
    if r.op = .wrCached then
      let i := r.off % 64
      let d := padTo 64 (List.replicate i 0 ++ r.data)
      if r.len = 64 then sendTag port (.thread r sa) { m with kind := .wrLine, data := d } s
      else
        let mask := ((List.range r.len).map (fun j => 2 ^ (i + j))).sum
        sendTag port (.thread r sa) { m with kind := .wrPart, data := d, args := [mask] } s
    else sendTag port (.thread r sa) m s

/-- A tally operation, wait or full/empty operation to another device leaves at once as a single message, the thread's
batches closed before it (R372); the thread is parked until its answer. -/
def issueSingle (t port : Nat) (rd : RegId) (u : Remote) (id : Nat) (m : Msg) (s : State) : State :=
  let s := issued t id [rd] (serClose t s)
  let s := updThr t (fun x => { x with st := .parked, pc := x.pc + 4 }) s
  sendTag port u m (cnt (portReg port 0x258) 1 s)

end Sys2Proof.Machine
end

