-- ==== Sys2Proof/Machine/Vector.lean ====
section
/-! DEFINITION. The vector unit of a Drover core (R183): lanes, arithmetic, conversion, reduction and dot product. -/

namespace Sys2Proof.Machine

open Sys2Proof

/-- Bits of an element of a TYPE (Table 7.3). -/
def vWidth (ty : Nat) : Nat :=
  match ty with
  | 1 | 2 => 16
  | 3 | 4 | 5 => 8
  | _ => 32

/-- The floating-point format of a TYPE; none for INT8 and INT32. -/
def vFmt (ty : Nat) : Option Fmt :=
  match ty with
  | 0 => some fp32 | 1 => some bf16 | 2 => some fp16 | 3 => some e4m3 | 4 => some e5m2
  | _ => none

/-- The elements of a 512-bit vector of a width, lane 0 first. -/
def vLanes (w v : Nat) : List Nat := (List.range (512 / w)).map (fun i => v / 2 ^ (w * i) % 2 ^ w)

/-- Elements packed from lane 0 up. -/
def vPack (w : Nat) (l : List Nat) : Nat := l.foldr (fun x acc => x % 2 ^ w + 2 ^ w * acc) 0

/-- An exact result rounded to a format, ties to even; overflow gives infinity, or NaN where the format has none. -/
def vRound (f : Fmt) (v : Fv) : Nat := f.encode false (f.round upRne v)

/-- Two's complement bits of an integer; overflow wraps (R183). -/
def vWrap (w : Nat) (i : Int) : Nat := (BitVec.ofInt w i).toNat

/-- The smaller of two values; any NaN gives NaN, -0 counts as smaller than +0. -/
def Fv.mini (a b : Fv) : Fv := Fv.neg (Fv.maxi (Fv.neg a) (Fv.neg b))

/-- One lane of vector arithmetic (opcode 0x22); FMA rounds once. -/
def vArith1 (op : VArith) (ty a b c : Nat) : Nat :=
  match vFmt ty with
  | some f =>
    let x := f.decode a
    let y := f.decode b
    let z := f.decode c
    match op with
    | .add => vRound f (Fv.add x y)
    | .sub => vRound f (Fv.add x (Fv.neg y))
    | .mul => vRound f (Fv.mul x y)
    | .fma => vRound f (Fv.add (Fv.mul x y) z)
    | .min => vRound f (Fv.mini x y)
    | .max => vRound f (Fv.maxi x y)
  | none =>
    let w := vWidth ty
    let x := sInt w a
    let y := sInt w b
    match op with
    | .add => vWrap w (x + y)
    | .sub => vWrap w (x - y)
    | .mul => vWrap w (x * y)
    | .fma => vWrap w (x * y + sInt w c)
    | .min => vWrap w (min x y)
    | .max => vWrap w (max x y)

/-- Vector arithmetic over all lanes. -/
def vArith (op : VArith) (ty a b c : Nat) : Nat :=
  let w := vWidth ty
  vPack w ((List.range (512 / w)).map (fun i =>
    let l := fun (v : Nat) => v / 2 ^ (w * i) % 2 ^ w
    vArith1 op ty (l a) (l b) (l c)))

/-- A value rounded to an integer, ties to even; none for infinities and NaN. -/
def Fv.toInt? : Fv → Option Int
  | .fin n m e =>
    let k := (-e).toNat
    let kept := m / 2 ^ k
    let q := if 0 ≤ e then m * 2 ^ e.toNat else if upRne kept (m % 2 ^ k) k then kept + 1 else kept
    some (if n then -(q : Int) else q)
  | _ => none

/-- The exact value of an element of a TYPE. -/
def vVal (ty b : Nat) : Fv :=
  match vFmt ty with
  | some f => f.decode b
  | none => ofInt (sInt (vWidth ty) b)

/-- A value converted to a TYPE; `free` where an infinity or NaN goes to an integer. -/
def vConv (ty free : Nat) (v : Fv) : Nat :=
  match vFmt ty with
  | some f => vRound f v
  | none => ((v.toInt?).map (vWrap (vWidth ty))).getD (free % 2 ^ vWidth ty)

/-- Conversion and broadcast (opcode 0x23) of a vector, or of a general register: 16 lanes on either side; the bits of
the result above them are free (`seed`, log 24). -/
def vConvert (op : VConvert) (ty : Nat) (seed : List Nat) (v : Nat) : Nat :=
  let w := vWidth ty
  let free := fun (i : Nat) => Config.freeOf 160 (i :: seed)
  let lanes := fun (sw : Nat) => (List.range 16).map (fun i => v / 2 ^ (sw * i) % 2 ^ sw)
  let idx := List.range 16
  match op with
  | .fromFp32 =>
    let low := vPack w (((lanes 32).zip idx).map (fun x => vConv ty (free x.2) (fp32.decode x.1)))
    low + 2 ^ (16 * w) * (free 16 % 2 ^ (512 - 16 * w))
  | .toFp32 => vPack 32 ((lanes w).map (fun b => vRound fp32 (vVal ty b)))
  | .toInt32 => vPack 32 (((lanes w).zip idx).map (fun x => vConv 6 (free x.2) (vVal ty x.1)))
  | .broadcast => vPack w (List.replicate (512 / w) (v % 2 ^ w))

/-- Lane reduction and dot product (opcode 0x24): the result stands in lane 0, the other lanes are free (log 24). A sum of
lanes narrower than FP32 is free: its rounding is not stated. A dot product accumulates in FP32 or INT32. -/
def vReduce (op : VReduce) (ty : Nat) (seed : List Nat) (a b : Nat) : Nat :=
  let w := vWidth ty
  let xs := vLanes w a
  let rest := fun (r rw : Nat) => r % 2 ^ rw + 2 ^ rw * (Config.freeOf 161 seed % 2 ^ (512 - rw))
  match op, vFmt ty with
  | .dot, some f =>
    let ps := (xs.zip (vLanes w b)).map (fun y => Fv.mul (f.decode y.1) (f.decode y.2))
    rest (toF32 (sumFree seed ps)) 32
  | .dot, none =>
    let i := ((xs.zip (vLanes w b)).map (fun y => sInt w y.1 * sInt w y.2)).sum
    rest (vWrap 32 i) 32
  | .sum, some f =>
    if ty = 0 then rest (toF32 (sumFree seed (xs.map f.decode))) 32 else rest (Config.freeOf 162 (a :: seed)) w
  | .sum, none => rest (vWrap w ((xs.map (sInt w)).sum)) w
  | .min, some f => rest (vRound f (xs.tail.foldl (fun m y => Fv.mini m (f.decode y)) (f.decode (xs.headD 0)))) w
  | .max, some f => rest (vRound f (xs.tail.foldl (fun m y => Fv.maxi m (f.decode y)) (f.decode (xs.headD 0)))) w
  | .min, none => rest (vWrap w (xs.tail.foldl (fun m y => min m (sInt w y)) (sInt w (xs.headD 0)))) w
  | .max, none => rest (vWrap w (xs.tail.foldl (fun m y => max m (sInt w y)) (sInt w (xs.headD 0)))) w

end Sys2Proof.Machine
end

