-- ==== Sys2Proof/Machine/Drover.lean ====
section
/-! DEFINITION. Drover instructions (R181 to R199): integer, branch, memory, sync, vector, issue and launch. A row names
a thread and the instruction word it fetched; which word a fetch before ISYNC returns is open (R184), so the word is the
row's operand (log 10). -/

namespace Sys2Proof.Machine

open Sys2Proof

def ra (w : BitVec 32) : RegId := .r (wA w)
def rb (w : BitVec 32) : RegId := .r (wB w)
def rc (w : BitVec 32) : RegId := .r (wC w)
def rd3 (w : BitVec 32) : RegId := .r (wD w)

/-! ### Integer -/

/-- Number of leading zeros of a 64-bit value; 64 for zero. -/
def clz64 (a : Nat) : Nat := 64 - bitLen (a % 2 ^ 64)
/-- Number of trailing zeros; 64 for zero. -/
def ctz64 (a : Nat) : Nat := ((List.range 64).find? (bit a)).getD 64

/-- An integer operation by FUNC (Table 7.4). Shifts by 64 or more, and the quotient of the most negative number by -1,
are not stated: free values (log 3). -/
def intOp (fn : Nat) (a b : BitVec 64) (free : Nat) : Nat :=
  let x := a.toNat
  let y := b.toNat
  let m : Nat := 2 ^ 64
  match fn with
  | 0x00 => (a + b).toNat
  | 0x01 => (a - b).toNat
  | 0x02 => (a &&& b).toNat
  | 0x03 => (a ||| b).toNat
  | 0x04 => (a ^^^ b).toNat
  | 0x05 => if y < 64 then (a <<< y).toNat else free % m
  | 0x06 => if y < 64 then (a >>> y).toNat else free % m
  | 0x07 => if y < 64 then (a.sshiftRight y).toNat else free % m
  | 0x08 => (a * b).toNat
  | 0x09 => x * y / m
  | 0x0A => (BitVec.ofInt 64 (a.toInt * b.toInt / (2 ^ 64 : Int))).toNat
  | 0x0B => if y = 0 then m - 1 else x / y
  | 0x0C => if y = 0 then m - 1 else if a = BitVec.intMin 64 && b = BitVec.allOnes 64 then free % m else (a.sdiv b).toNat
  | 0x0D => if y = 0 then x else x % y
  | 0x0E => if y = 0 then x else (a.srem b).toNat
  | 0x0F => min x y
  | 0x10 => if a.slt b then x else y
  | 0x11 => max x y
  | 0x12 => if a.slt b then y else x
  | 0x13 => b2n (a.slt b)
  | 0x14 => b2n (a.ult b)
  | 0x15 => ((List.range 64).filter (bit x)).length
  | 0x16 => clz64 x
  | _ => ctz64 x

/-- The value of an immediate operation (opcodes 0x01 to 0x06). -/
def immOp (w : BitVec 32) (a : BitVec 64) : Nat :=
  let z := BitVec.ofNat 64 (wImm w)
  let n := wBits w 5 0
  match wOp w with
  | 0x01 => (a + wImmS w).toNat
  | 0x02 => (a &&& z).toNat
  | 0x03 => (a ||| z).toNat
  | 0x04 => (a ^^^ z).toNat
  | 0x05 => b2n (a.slt (wImmS w))
  | _ => match wBits w 7 6 with
    | 0 => (a <<< n).toNat
    | 1 => (a >>> n).toNat
    | _ => (a.sshiftRight n).toNat

/-- INTEGER_OP: opcode 0x00 with FUNC 0x00 to 0x17, and opcodes 0x01 to 0x06. -/
def integerOp (t : Nat) (w : BitVec 32) (s : State) : State :=
  let reg := wOp w = 0 && decide (wFn w ≤ 0x17)
  let imm := decide (1 ≤ wOp w) && decide (wOp w ≤ 6)
  insn t w (reg || imm) (if reg then [ra w, rb w, rc w] else [ra w, rb w]) .none (fun x s =>
    let a := BitVec.ofNat 64 (x.read (rb w))
    if reg then
      let d := draw s
      result t (ra w) (intOp (wFn w) a (BitVec.ofNat 64 (x.read (rc w))) d.1) (x.pois (rb w) || x.pois (rc w)) d.2
    else result t (ra w) (immOp w a) (x.pois (rb w)) s) s

def execIntegerOp (t : Nat) (w : BitVec 32) (s : State) : Host.Outcome State Fault Refusal := .next (dp (integerOp t w) s)

/-- MOVK (opcode 0x07): imm16 replaces one lane of rd. -/
def movk (t : Nat) (w : BitVec 32) (s : State) : State :=
  insn t w (wOp w = 7) [ra w] .none (fun x s =>
    let lane := wB w % 4
    let old := x.read (ra w)
    let v := old - old / 2 ^ (16 * lane) % 65536 * 2 ^ (16 * lane) + wImm w * 2 ^ (16 * lane)
    result t (ra w) v (x.pois (ra w)) s) s

def execMovk (t : Nat) (w : BitVec 32) (s : State) : Host.Outcome State Fault Refusal := .next (dp (movk t w) s)

/-- MFTS (opcode 0x00, FUNC 0x18): TS into rd (R187). -/
def mfts (t : Nat) (w : BitVec 32) (s : State) : State :=
  insn t w (wOp w = 0 && wFn w = 0x18) [ra w] .none (fun x s => result t (ra w) x.ts.toNat false s) s

def execMfts (t : Nat) (w : BitVec 32) (s : State) : Host.Outcome State Fault Refusal := .next (dp (mfts t w) s)

/-- YIELD (opcode 0x21, FUNC 0x01): the thread goes on. -/
def execYield (t : Nat) (w : BitVec 32) (s : State) : Host.Outcome State Fault Refusal :=
  .next (dp (insn t w (wOp w = 0x21 && wFn w = 1) [] .none (fun _ s => nextPc t s)) s)

/-- HALT (opcode 0x21, FUNC 0x00): the thread ends; its loads outstanding are discarded (R194). -/
def halt (t : Nat) (w : BitVec 32) (s : State) : State :=
  insn t w (wOp w = 0x21 && wFn w = 0) [] .none (fun x s =>
    groupCheck x.group (updGrp x.group (fun g => { g with halted := g.halted + 1 })
      (updThr t (fun x => { x with st := .halted, pend := [] }) s))) s

def execHalt (t : Nat) (w : BitVec 32) (s : State) : Host.Outcome State Fault Refusal := .next (dp (halt t w) s)

/-! ### Branches -/

/-- The condition of a branch (opcodes 0x08 to 0x0D). -/
def taken (op : Nat) (a b : BitVec 64) : Bool :=
  match op with
  | 0x08 => a == b
  | 0x09 => a != b
  | 0x0A => a.slt b
  | 0x0B => !a.slt b
  | 0x0C => a.ult b
  | _ => !a.ult b

/-- Go to an address. -/
def setPc (t : Nat) (a : BitVec 64) (s : State) : State := updThr t (fun x => { x with pc := a }) s

/-- BRANCH: the offset counts words from the branch (Table 7.3); a poisoned operand faults (R188). -/
def branch (t : Nat) (w : BitVec 32) (s : State) : State :=
  insn t w (decide (8 ≤ wOp w) && decide (wOp w ≤ 0x0D)) [ra w, rb w] .none (fun x s =>
    if x.pois (ra w) || x.pois (rb w) then insnFault t .faultPoison 0 s
    else if taken (wOp w) (BitVec.ofNat 64 (x.read (ra w))) (BitVec.ofNat 64 (x.read (rb w))) then
      setPc t (x.pc + wImmS w * 4) s
    else nextPc t s) s

def execBranch (t : Nat) (w : BitVec 32) (s : State) : Host.Outcome State Fault Refusal := .next (dp (branch t w) s)

/-- JAL (opcode 0x0E): rd links to the next instruction. -/
def jal (t : Nat) (w : BitVec 32) (s : State) : State :=
  insn t w (wOp w = 0x0E) [ra w] .none (fun x s =>
    setPc t (x.pc + wOffJ w * 4) (updThr t (fun y => y.write (ra w) (x.pc + 4).toNat false) s)) s

def execJal (t : Nat) (w : BitVec 32) (s : State) : Host.Outcome State Fault Refusal := .next (dp (jal t w) s)

/-- JALR (opcode 0x0F): target rs1 + imm16 with bits [1:0] cleared. -/
def jalr (t : Nat) (w : BitVec 32) (s : State) : State :=
  insn t w (wOp w = 0x0F) [ra w, rb w] .none (fun x s =>
    if x.pois (rb w) then insnFault t .faultPoison 0 s
    else
      let target := (BitVec.ofNat 64 (x.read (rb w)) + wImmS w) &&& ~~~3#64
      setPc t target (updThr t (fun y => y.write (ra w) (x.pc + 4).toNat false) s)) s

def execJalr (t : Nat) (w : BitVec 32) (s : State) : Host.Outcome State Fault Refusal := .next (dp (jalr t w) s)

/-! ### Loads and stores -/

/-- The address rs1 + imm16. -/
def effAddr (x : Thread) (w : BitVec 32) : Nat := (BitVec.ofNat 64 (x.read (rb w)) + wImmS w).toNat

/-- Load bytes at an address into a register (Table 7.5). -/
def loadAt (t : Nat) (x : Thread) (a : Acc) (rd : RegId) (k : LoadKind) (sa : Nat) (s : State) : State :=
  match route s t x a sa with
  | .fault st => insnFault t st sa s
  | .store off => nextPc t (issueLocal t [rd] { who := .thread t rd k, ctx := x.ctx, off := off, op := .rdS, len := a.size } s)
  | .remote port stages =>
    let y := Sa.of (BitVec.ofNat 64 sa)
    if y.space = 2 then
      issueSingle t port rd (.sync t rd sa) 0 { kind := .syncRd, ctx := x.ctx, sa := BitVec.ofNat 64 sa } s
    else
      nextPc t (issueRemote t port stages [rd] { who := .thread t rd k, ctx := x.ctx, off := y.off, op := .rdNc, len := a.size } sa s)
  | .spad off =>
    let p := (linesOf off a.size).any (fun o => (tget (o / 64) s.store.spadPoison).isSome)
    result t rd (loadValue k (bytesAt s.store.spad off a.size)) p s
  | .sync word => result t rd (tallyAt s word).toNat false s
  | .csr off => result t rd (cellCsr s ((off - 0x100000) / 0x10000) (off % 0x10000) % 2 ^ 64) false s

/-- The kind and bytes of a scalar load's opcode. -/
def loadForm (op : Nat) : LoadKind × Nat :=
  match op with
  | 0x10 => (.d8u, 1)
  | 0x11 => (.d16u, 2)
  | 0x12 => (.d32u, 4)
  | 0x13 => (.d32s, 4)
  | _ => (.d64, 8)

/-- LOAD (opcodes 0x10 to 0x14, R185). -/
def load (t : Nat) (w : BitVec 32) (s : State) : State :=
  insn t w (decide (0x10 ≤ wOp w) && decide (wOp w ≤ 0x14)) [ra w, rb w] .access (fun x s =>
    if x.pois (rb w) then insnFault t .faultPoison 0 s
    else
      let f := loadForm (wOp w)
      loadAt t x (.load f.2) (ra w) f.1 (effAddr x w) s) s

def execLoad (t : Nat) (w : BitVec 32) (s : State) : Host.Outcome State Fault Refusal := .next (dp (load t w) s)

/-- VLD (opcode 0x19): 64 B into a vector register. -/
def vld (t : Nat) (w : BitVec 32) (s : State) : State :=
  insn t w (wOp w = 0x19) [.v (wA w), rb w] .access (fun x s =>
    if 16 ≤ wA w then insnFault t .unsupported 0 s
    else if x.pois (rb w) then insnFault t .faultPoison 0 s
    else loadAt t x .vload (.v (wA w)) .vec (effAddr x w) s) s

def execVld (t : Nat) (w : BitVec 32) (s : State) : Host.Outcome State Fault Refusal := .next (dp (vld t w) s)

/-- A store of a thread has landed in scratchpad: its group has stored (Table 7.9). -/
def spadStored (t : Nat) (p : Bool) (s : State) : State :=
  match thr s t with
  | none => s
  | some x => updGrp x.group (fun g => { g with stored := true, poisoned := g.poisoned || p }) s

/-- Store bytes at an address (Table 7.5); on another device one request for each line. -/
def storeAt (t : Nat) (x : Thread) (a : Acc) (d : List Byte) (p : Bool) (sa : Nat) (s : State) : State :=
  let who : Who := .thread t (.r 0) .d64
  match route s t x a sa with
  | .fault st => insnFault t st sa s
  | .store off =>
    nextPc t (issueLocal t [] { who := who, ctx := x.ctx, off := off, op := .wrCached, len := d.length, data := d, poison := p } s)
  | .remote port stages =>
    let y := Sa.of (BitVec.ofNat 64 sa)
    nextPc t ((lines y.off d).foldl (fun s l =>
      issueRemote t port stages []
        { who := who, ctx := x.ctx, off := l.1, op := .wrCached, len := l.2.length, data := l.2, poison := p }
        (sa + (l.1 - y.off)) s) s)
  | .spad off => nextPc t (spadStored t p (spadWrite off d p s))
  | .sync _ | .csr _ => insnFault t .faultAccess sa s

/-- STORE (opcodes 0x15 to 0x18, R185): rs2 in the rd field. -/
def store (t : Nat) (w : BitVec 32) (s : State) : State :=
  insn t w (decide (0x15 ≤ wOp w) && decide (wOp w ≤ 0x18)) [ra w, rb w] .access (fun x s =>
    if x.pois (rb w) then insnFault t .faultPoison 0 s
    else
      let n := 2 ^ (wOp w - 0x15)
      storeAt t x (.store n) (leBytes n (x.read (ra w))) (x.pois (ra w)) (effAddr x w) s) s

def execStore (t : Nat) (w : BitVec 32) (s : State) : Host.Outcome State Fault Refusal := .next (dp (store t w) s)

/-- VST (opcode 0x1A): 64 B from a vector register. -/
def vst (t : Nat) (w : BitVec 32) (s : State) : State :=
  insn t w (wOp w = 0x1A) [.v (wA w), rb w] .access (fun x s =>
    if 16 ≤ wA w then insnFault t .unsupported 0 s
    else if x.pois (rb w) then insnFault t .faultPoison 0 s
    else storeAt t x .vstore (leBytes 64 (x.read (.v (wA w)))) (x.pois (.v (wA w))) (effAddr x w) s) s

def execVst (t : Nat) (w : BitVec 32) (s : State) : Host.Outcome State Fault Refusal := .next (dp (vst t w) s)

/-- Lanes of a VGATHER or VSCATTER: element bytes, and each lane's address (R186). -/
def laneAddrs (x : Thread) (w : BitVec 32) : Nat × List Nat :=
  let n := 2 ^ wBits w 11 10
  let idx := vLanes (8 * n) (x.read (.v (wBits w 15 12)))
  (n, idx.map (fun i => (BitVec.ofNat 64 (x.read (rb w)) + BitVec.ofNat 64 (i * n)).toNat))

/-- The first lane whose address faults: only scratchpad is reached (R186). -/
def laneFault (s : State) (t : Nat) (x : Thread) (a : Acc) (sas : List Nat) : Option (Status × Nat) :=
  sas.findSome? (fun sa =>
    match route s t x a sa with
    | .spad _ => none
    | .fault st => some (st, sa)
    | _ => some (.faultAccess, sa))

/-- The common checks of VGATHER and VSCATTER; `go` has the element bytes and the lanes' scratchpad offsets. -/
def laneOp (t : Nat) (w : BitVec 32) (ld : Bool) (go : Thread → Nat → List Nat → State → State) (s : State) : State :=
  insn t w (wOp w = 0x1B) [.v (wA w), rb w, .v (wBits w 15 12)] .access (fun x s =>
    if 16 ≤ wA w || wBits w 9 0 != 0 then insnFault t .unsupported 0 s
    else if x.pois (rb w) || x.pois (.v (wBits w 15 12)) then insnFault t .faultPoison 0 s
    else
      let l := laneAddrs x w
      match laneFault s t x (if ld then .load l.1 else .store l.1) l.2 with
      | some (st, sa) => insnFault t st sa s
      | none => go x l.1 (l.2.map (fun a => a % 2 ^ 48)) s) s

/-- VGATHER (opcode 0x1B, R186). -/
def vgather (t : Nat) (w : BitVec 32) (s : State) : State :=
  laneOp t w true (fun _ n offs s =>
    let p := offs.any (fun o => (linesOf o n).any (fun l => (tget (l / 64) s.store.spadPoison).isSome))
    result t (.v (wA w)) (vPack (8 * n) (offs.map (fun o => leNat (bytesAt s.store.spad o n)))) p s) s

def execVgather (t : Nat) (w : BitVec 32) (s : State) : Host.Outcome State Fault Refusal := .next (dp (vgather t w) s)

/-- VSCATTER (opcode 0x1B, R186): a higher lane's value lands over a lower one's. -/
def vscatter (t : Nat) (w : BitVec 32) (s : State) : State :=
  laneOp t w false (fun x n offs s =>
    let p := x.pois (.v (wA w))
    let s := (offs.zip (vLanes (8 * n) (x.read (.v (wA w))))).foldl (fun s y => spadWrite y.1 (leBytes n y.2) p s) s
    nextPc t (spadStored t p s)) s

def execVscatter (t : Nat) (w : BitVec 32) (s : State) : Host.Outcome State Fault Refusal := .next (dp (vscatter t w) s)

/-! ### Atomics -/

/-- ATOMIC (opcode 0x1C, R117, R184): `f` names the operation, whose number in FUNC [3:0] is not stated (log 12). -/
def atomic (t : Nat) (w : BitVec 32) (f : AtomOp) (s : State) : State :=
  let wide := wBits w 5 4 = 1
  let n := if wide then 16 else 8
  let hi := fun (k : Nat) => RegId.r (k + 1)
  let uses := [ra w, rb w, rc w] ++ (if wide then [hi (wA w), hi (wC w)] else [])
  insn t w (wOp w = 0x1C) uses .release (fun x s =>
    let sa := x.read (rb w)
    let pair := fun (k : Nat) => x.read (.r k) + (if wide then x.read (hi k) * 2 ^ 64 else 0)
    let bad := fun (k : Nat) => x.pois (.r k) || (wide && x.pois (hi k))
    let p := bad (wC w) || (f = .cas && bad (wA w))
    if wide && f != .swap && f != .cas then insnFault t .unsupported 0 s
    else if wide && (wA w % 2 = 1 || wC w % 2 = 1) then insnFault t .invalidArg 0 s
    else if x.pois (rb w) then insnFault t .faultPoison 0 s
    else match route s t x (.atomic n) sa with
      | .fault st => insnFault t st sa s
      | .store off =>
        nextPc t (issueLocal t (if wide then [ra w, hi (wA w)] else [ra w])
          { who := .thread t (ra w) .d64, ctx := x.ctx, off := off
            op := .atomic f n (pair (wC w)) (pair (wA w)), len := n, poison := p } s)
      | .spad off =>
        let old := leNat (bytesAt s.store.spad off 8)
        let was := (tget (off / 64) s.store.spadPoison).isSome
        let s := spadWrite off (leBytes 8 (atomicNew f old (pair (wC w)) (pair (wA w)) 8)) p s
        result t (ra w) old (was || p) (spadStored t p s)
      | _ => insnFault t .faultAccess sa s) s

def execAtomic (t : Nat) (w : BitVec 32) (f : AtomOp) (s : State) : Host.Outcome State Fault Refusal :=
  .next (dp (atomic t w f) s)

/-! ### Tally and full/empty operations (R187) -/

/-- The thread is parked on a sync operation of this device. -/
def park (t : Nat) (rd : RegId) (s : State) : State :=
  let s := issued t 0 [rd] s
  updThr t (fun x => { x with st := .parked, pc := x.pc + 4 }) s

/-- A tally operation at its word on this device, or sent to another device: a wait there needs monitor mode
(Table 5.6). -/
def tallyGo (t : Nat) (x : Thread) (w : BitVec 32) (op : TallyOp) (s : State) : State :=
  let sa := x.read (rb w)
  let opnd := BitVec.ofNat 64 (if op = .monitor then x.read (ra w) else x.read (rc w))
  let timeout := x.read (rd3 w) % 2 ^ 32
  match route s t x .tally sa with
  | .fault st => insnFault t st sa s
  | .sync word =>
    match op with
    | .add | .sub =>
      let bad := tallyRefused s word opnd
      let s := tallyApply (op = .sub) word opnd x.ctx (park t (ra w) s)
      threadSync t (ra w) (if bad then .faultSync else .done) (some (tallyAt s word).toNat) false s
    | .read => threadSync t (ra w) .done (some (tallyAt s word).toNat) false (park t (ra w) s)
    | _ => waitStart op word opnd timeout x.ctx (.thread t (ra w)) (park t (ra w) s)
  | .remote port _ =>
    let m : Msg := { kind := .syncUpd, ctx := x.ctx, sa := BitVec.ofNat 64 sa }
    if s.sync.feMode && (op = .waitGe || op = .waitEq || op = .monitor) then insnFault t .unsupported sa s else
    let o := opnd.toNat
    let m : Msg := match op with
      | .add => { m with args := [o, 0] }
      | .sub => { m with args := [o, 1] }
      | .read => { m with kind := .syncRd }
      | .waitGe => { m with kind := .syncWait, args := [o, timeout, 0] }
      | .waitEq => { m with kind := .syncWait, args := [o, timeout, 1] }
      | .monitor => { m with kind := .syncWait, args := [o, timeout, 2] }
    issueSingle t port (ra w) (.sync t (ra w) sa) 0 m s
  | _ => insnFault t .faultAccess sa s

/-- A tally instruction (opcode 0x1D): SA in rs1, operand in rs2, timeout in rs3; MONITOR's snapshot in rd. Which FUNC
names which operation is not stated: `op` does (log 12). Poisoned operands fault, then a set RSVD field (R139), then
the address. -/
def tallyInsn (t : Nat) (w : BitVec 32) (op : TallyOp) (s : State) : State :=
  let waits := op = .waitGe || op = .waitEq || op = .monitor
  let opnds : List RegId := match op with
    | .read => []
    | .monitor => [ra w]
    | _ => [rc w]
  let uses := rb w :: opnds ++ (if waits then [rd3 w] else [])
  insn t w (wOp w = 0x1D) (ra w :: uses) .release (fun x s =>
    let rsvd := opnds.any (fun r => !tRsvdZero (BitVec.ofNat 64 (x.read r))) && op != .monitor
    if uses.any x.pois then insnFault t .faultPoison 0 s
    else if rsvd then insnFault t .invalidArg 0 s
    else tallyGo t x w op s) s

/-- TALLY_ADD. -/
def execTallyAdd (t : Nat) (w : BitVec 32) (s : State) : Host.Outcome State Fault Refusal := .next (dp (tallyInsn t w .add) s)
/-- TALLY_SUB. -/
def execTallySub (t : Nat) (w : BitVec 32) (s : State) : Host.Outcome State Fault Refusal := .next (dp (tallyInsn t w .sub) s)
/-- TALLY_READ. -/
def execTallyRead (t : Nat) (w : BitVec 32) (s : State) : Host.Outcome State Fault Refusal := .next (dp (tallyInsn t w .read) s)
/-- WAIT_GE. -/
def execWaitGe (t : Nat) (w : BitVec 32) (s : State) : Host.Outcome State Fault Refusal := .next (dp (tallyInsn t w .waitGe) s)
/-- WAIT_EQ. -/
def execWaitEq (t : Nat) (w : BitVec 32) (s : State) : Host.Outcome State Fault Refusal := .next (dp (tallyInsn t w .waitEq) s)
/-- MONITOR. -/
def execMonitor (t : Nat) (w : BitVec 32) (s : State) : Host.Outcome State Fault Refusal := .next (dp (tallyInsn t w .monitor) s)

/-- Number of a full/empty operation in an FE_OP message. -/
def feCode : FeOp → Nat
  | .writeEf => 0 | .readFe => 1 | .readFf => 2 | .writeXf => 3

/-- A full/empty instruction (opcode 0x1E): SA in rs1, timeout in rs3, vector register in rd. Which FUNC names which
operation is not stated: `f` does (log 12). -/
def feInsn (t : Nat) (w : BitVec 32) (f : FeOp) (s : State) : State :=
  let v : RegId := .v (wA w)
  let wr := f = .writeEf || f = .writeXf
  insn t w (wOp w = 0x1E) [v, rb w, rc w, rd3 w] .release (fun x s =>
    let sa := x.read (rb w)
    let timeout := x.read (rd3 w) % 2 ^ 32
    let data := if wr then leBytes 64 (x.read v) else []
    if 16 ≤ wA w then insnFault t .unsupported 0 s
    else if x.pois (rb w) || x.pois (rd3 w) then insnFault t .faultPoison 0 s
    else
      let r : Req := { who := .thread t v .vec, ctx := x.ctx, off := (Sa.of (BitVec.ofNat 64 sa)).off
                       op := .fe f timeout, len := 64, data := data, poison := wr && x.pois v }
      match route s t x .fe sa with
      | .fault st => insnFault t st sa s
      | .store _ =>
        updThr t (fun x => { x with st := .parked, pc := x.pc + 4 }) (issueLocal t [v] r s)
      | .remote port _ =>
        let r := { r with id := s.coh.nextReq }
        issueSingle t port v (.thread r sa) r.id
          { kind := .feOp, ctx := x.ctx, sa := BitVec.ofNat 64 sa, args := [feCode f, timeout], data := data
            poison := r.poison } { s with coh := { s.coh with nextReq := s.coh.nextReq + 1 } }
      | _ => insnFault t .faultSync sa s) s

/-- WRITE_EF. -/
def execWriteEf (t : Nat) (w : BitVec 32) (s : State) : Host.Outcome State Fault Refusal := .next (dp (feInsn t w .writeEf) s)
/-- READ_FE. -/
def execReadFe (t : Nat) (w : BitVec 32) (s : State) : Host.Outcome State Fault Refusal := .next (dp (feInsn t w .readFe) s)
/-- READ_FF. -/
def execReadFf (t : Nat) (w : BitVec 32) (s : State) : Host.Outcome State Fault Refusal := .next (dp (feInsn t w .readFf) s)
/-- WRITE_XF. -/
def execWriteXf (t : Nat) (w : BitVec 32) (s : State) : Host.Outcome State Fault Refusal := .next (dp (feInsn t w .writeXf) s)

/-! ### Flush, issue, launch -/

/-- FLUSH_RANGE (opcode 0x1F, FUNC 0x00; R114): dirty lines of the range in the cell's caches go to their homes. -/
def flushRange (t : Nat) (w : BitVec 32) (s : State) : State :=
  insn t w (wOp w = 0x1F && wFn w = 0) [rb w, rc w] .release (fun x s =>
    let sa := x.read (rb w)
    let len := x.read (rc w)
    let a := Sa.of (BitVec.ofNat 64 sa)
    if x.pois (rb w) || x.pois (rc w) then insnFault t .faultPoison 0 s
    else if 2 ^ 40 < len then insnFault t .invalidArg sa s
    else if 3 < a.space || !devKnown s a.dev || a.space = 2 || a.space = 3 then insnFault t .faultAccess sa s
    else nextPc t (if a.space = 0 && isOwn s a.dev then flushCell (thrCell t) a.off len s else s)) s

def execFlushRange (t : Nat) (w : BitVec 32) (s : State) : Host.Outcome State Fault Refusal := .next (dp (flushRange t w) s)

/-- ISYNC (opcode 0x1F, FUNC 0x01; R184): what the thread fetches next is fetched anew. -/
def execIsync (t : Nat) (w : BitVec 32) (s : State) : Host.Outcome State Fault Refusal :=
  .next (dp (insn t w (wOp w = 0x1F && wFn w = 1) [] .release (fun _ s => nextPc t s)) s)

/-- Units an ISSUE reaches (Table 1.6): a unit's cell, or the toll-slot row of a port or of the DMA. -/
def issueTo (k : Nat) : Option (UnitKind × Nat) :=
  match k with
  | 2 => some (.matrix, 40) | 3 => some (.porter, 20) | 4 => some (.assay, 20) | 5 => some (.port, 8) | 6 => some (.dma, 1)
  | _ => none

/-- Hand a descriptor to a unit (R197, Table 7.10). -/
def issueOut (s : State) (p unit off : Nat) (entry core : Option Nat) : Status × State :=
  let n := unit % 4096
  match issueTo (unit / 4096) with
  | none => (.invalidArg, s)
  | some (k, lim) =>
    if 65536 ≤ unit || lim ≤ n then (.invalidArg, s)
    else
      let cell := if k = .matrix then n / 2 else n
      let bound := k = .matrix || k = .porter || k = .assay
      if bound && !(partCells s p).contains cell then (.faultAccess, s)
      else if !bound && !holdsSlot s p (if k = .port then n else 8) then (.quota, s)
      else if 64 ≤ queuedAt s k n p then (.busy, s)
      else (.done, enqueue k n p off 0 1 entry core false s)

/-- A descriptor address of ISSUE or LAUNCH: a store SA on this device, 64 B aligned (Table 2.12). -/
def descFault (s : State) (x : Thread) (sa : Nat) : Option Status :=
  let a := Sa.of (BitVec.ofNat 64 sa)
  if a.space != 0 || !isOwn s a.dev then some .faultAccess
  else if a.off % 64 != 0 then some .faultAlign
  else if !ctxIssues s x.ctx (thrPart s x) then some .faultAccess
  else homeCheck s x.ctx a.off false

/-- ISSUE and LAUNCH: their arguments, then the outcome to rd and TS. -/
def handOver (t : Nat) (w : BitVec 32) (fn : Nat) (go : State → Thread → Nat → Nat → Status × State) (s : State) : State :=
  insn t w (wOp w = 0x20 && wFn w = fn) [ra w, rb w, rc w] .release (fun x s =>
    let sa := x.read (rb w)
    if x.pois (rb w) || x.pois (rc w) then insnFault t .faultPoison 0 s
    else match descFault s x sa with
      | some st => insnFault t st sa s
      | none =>
        let r := go s x (Sa.of (BitVec.ofNat 64 sa)).off (x.read (rc w))
        let s := if r.1 = .busy then cnt (cellReg (thrCell t) 0x738) 1 r.2 else r.2
        let s := updThr t (fun x => { x with ts := BitVec.ofNat 8 r.1.code }) s
        result t (ra w) r.1.code false s) s

/-- ISSUE (opcode 0x20, FUNC 0x00; R197). -/
def execIssue (t : Nat) (w : BitVec 32) (s : State) : Host.Outcome State Fault Refusal :=
  .next (dp (handOver t w 0 (fun s x off unit => issueOut s (thrPart s x) unit off (thrEntry s x) (some (t / 64)))) s)

/-- LAUNCH (opcode 0x20, FUNC 0x01; R191, R192). -/
def execLaunch (t : Nat) (w : BitVec 32) (s : State) : Host.Outcome State Fault Refusal :=
  .next (dp (handOver t w 1 (fun s x off n =>
    let r := launchMany (thrPart s x) off n (thrEntry s x) s
    (r.1.1, r.2))) s)

/-! ### Vector arithmetic (opcodes 0x22 to 0x24, R183) -/

def wVd (w : BitVec 32) : Nat := wBits w 25 22
def wVs1 (w : BitVec 32) : Nat := wBits w 21 18
def wVs2 (w : BitVec 32) : Nat := wBits w 17 14
def wVs3 (w : BitVec 32) : Nat := wBits w 13 10

/-- A vector instruction: TYPE 7 is undefined (Table 7.3); `uses` are its sources, whose poison marks the result. -/
def vecInsn (t : Nat) (w : BitVec 32) (op : Nat) (uses : List RegId) (f : Thread → Nat → Nat) (s : State) : State :=
  insn t w (wOp w = op) (.v (wVd w) :: uses) .none (fun x s =>
    if wType w = 7 then insnFault t .unsupported 0 s
    else
      let d := draw s
      result t (.v (wVd w)) (f x d.1) (uses.any x.pois) d.2) s

/-- Vector arithmetic: `f` names the operation, whose FUNC is not stated (log 12). -/
def execVectorArith (t : Nat) (w : BitVec 32) (f : VArith) (s : State) : Host.Outcome State Fault Refusal :=
  let vs := [RegId.v (wVs1 w), .v (wVs2 w)] ++ (if f = .fma then [.v (wVs3 w)] else [])
  .next (dp (vecInsn t w 0x22 vs (fun x _ =>
    vArith f (wType w) (x.read (.v (wVs1 w))) (x.read (.v (wVs2 w))) (x.read (.v (wVs3 w))))) s)

/-- Vector conversion and broadcast of the general register that vs1 numbers. -/
def execVectorConvert (t : Nat) (w : BitVec 32) (f : VConvert) (s : State) : Host.Outcome State Fault Refusal :=
  let src : RegId := if f = .broadcast then .r (wVs1 w) else .v (wVs1 w)
  .next (dp (vecInsn t w 0x23 [src] (fun x d => vConvert f (wType w) [t, d, w.toNat] (x.read src))) s)

/-- Lane reduction and dot product. -/
def execVectorReduce (t : Nat) (w : BitVec 32) (f : VReduce) (s : State) : Host.Outcome State Fault Refusal :=
  let vs := [RegId.v (wVs1 w)] ++ (if f = .dot then [.v (wVs2 w)] else [])
  .next (dp (vecInsn t w 0x24 vs (fun x d =>
    vReduce f (wType w) [t, d, w.toNat] (x.read (.v (wVs1 w))) (x.read (.v (wVs2 w))))) s)

/-! ### The end of a group (R195) -/

/-- GROUP_END: the threads' batches leave first (R373). -/
def execGroupEnd (group : Nat) (s : State) : Host.Outcome State Fault Refusal :=
  .next (dp (fun s => match tget group s.drv.groups with
    | none => s
    | some g => if g.st != .ending then s else groupEnd group (g.threads.foldl (fun s t => serClose t s) s)) s)

end Sys2Proof.Machine
end

