-- ==== Sys2Proof/Machine/HostPort.lean ====
section
/-! DEFINITION. The host port (R393 to R401): BAR4 accesses, window bases, register writes, configuration requests, and
the state of the PCIe link (R408, R413). -/

namespace Sys2Proof.Machine

open Sys2Proof

def updHost (f : HostPort → HostPort) (s : State) : State := { s with host := f s.host }

/-! ### The store window (R398 to R400) -/

/-- The segment of a BAR4 offset. -/
def winSeg (s : State) (off : Nat) : WinSeg := s.host.segs.getD (off / 2 ^ 32) {}

/-- The SA a BAR4 access forms (R399). -/
def winSa (g : WinSeg) (off : Nat) : BitVec 64 :=
  Sa.bits { space := g.space, dev := 0xFFF, off := g.base * 2 ^ 32 + off % 2 ^ 32 }

/-- A BAR4 access is refused: counted (Table 16.6). -/
def winRefused (s : State) : State := cnt 0x80080 1 s

/-- Layout and alignment of a host access to sync space: 8 B, naturally aligned (R148). -/
def syncShape (x : Sa) (n : Nat) : Bool := n = 8 && x.off % 8 = 0

/-- Table 2.12 at the host port for a segment's access, without the alignment that R148 rules on. -/
def winCheck (s : State) (g : WinSeg) (x : Sa) : Option Status :=
  ingressCheck s (if x.space = 2 then { x with off := x.off / 8 * 8 } else x) g.ctx 8

/-- BAR4_READ (R400, Table 16.6): store lines are read at their homes, a tally word at once. A read that crosses a 4 KiB
boundary is no PCIe request. -/
def bar4Read (tag off len : Nat) (s : State) : State :=
  let g := winSeg s off
  let sa := winSa g off
  let x := Sa.of sa
  if 2 ^ 36 ≤ off || len = 0 || 4096 < off % 4096 + len then s
  else if s.host.d3hot then emit (.cpl tag 1 false []) s
  else if s.halted || s.pwr.trip.isSome then emit (.cpl tag 4 false []) s
  else if !g.bound then emit (.cpl tag 1 false []) (winRefused s)
  else match winCheck s g x with
    | some st =>
      let r : Req := { who := .host tag, ctx := g.ctx, off := x.off, op := .rdNc, len := len }
      if admits s g.ctx 8 then deliver r st [] false false s else admitFail r st s
    | none =>
      if x.space = 2 then
        if syncShape x len then emit (.cpl tag 0 false (leBytes 8 (tallyAt s (x.off / 8)).toNat)) s
        else emit (.cpl tag 4 false []) s
      else launchReq { who := .host tag, ctx := g.ctx, off := x.off, op := .rdNc, len := len } none s

def execBar4Read (tag off len : Nat) (s : State) : Host.Outcome State Fault Refusal := .next (bar4Read tag off len s)

/-- BAR4_WRITE (R400): a posted write waits at the port for its landing (R122). -/
def bar4Write (off : Nat) (data : List Byte) (poison : Bool) (s : State) : State :=
  let g := winSeg s off
  let sa := winSa g off
  let x := Sa.of sa
  if 2 ^ 36 ≤ off || data = [] || 4096 < off % 4096 + data.length then s
  else if s.halted then s
  else if !g.bound then winRefused s
  else match winCheck s g x with
    | some _ => winRefused (if admits s g.ctx 8 then s else cnt 0x70078 1 s)
    | none =>
      let id := s.coh.nextReq
      let n := if x.space = 2 then 1 else (lines x.off data).length
      { s with coh := { s.coh with
        nextReq := id + 1
        heldWr := s.coh.heldWr ++ [({ id := id, ctx := g.ctx, sa := sa, data := data, poison := poison }, s.coh.posted)]
        posted := s.coh.posted ++ List.replicate n id } }

def execBar4Write (off : Nat) (data : List Byte) (poison : Bool) (s : State) : Host.Outcome State Fault Refusal :=
  .next (barWrite (bar4Write off data poison) s)

/-- BAR0 takes writes from half 0 only (R394). -/
def bar0Write (half : Nat) (f : State → State) (s : State) : State := if half = 0 then barWrite f s else s

/-- WIN_SEG (R399): BASE moves; CTX, SPACE and BOUND stay. -/
def winBase (n : Nat) (v : BitVec 64) (s : State) : State :=
  if n < 16 && !s.halted then
    let g : WinSeg := { s.host.segs.getD n {} with base := bitsOf v.toNat 47 32 }
    updHost (fun h => { h with segs := h.segs.setIfInBounds n g }) s
  else s

def execWinSeg (half n : Nat) (v : BitVec 64) (s : State) : Host.Outcome State Fault Refusal :=
  .next (bar0Write half (winBase n v) s)

/-! ### Register writes (R397, R462) -/

def stgCtlBits (c : StgCfg) : Nat :=
  b2n c.enable * 2 ^ 63 + c.outmode * 2 ^ 58 + c.flywheel * 2 ^ 48 + c.vector * 2 ^ 32
def stgPeriodBits (c : StgCfg) : Nat := c.window * 2 ^ 32 + c.nominal
def xltCtlBits (c : XltCfg) : Nat := b2n c.enable * 2 ^ 63 + c.vector * 2 ^ 32 + c.timeout
def mbxCfgBits (c : MbxCfg) : Nat :=
  b2n c.enable * 2 ^ 63 + c.sqLog * 2 ^ 56 + c.cqLog * 2 ^ 52 + c.vector * 2 ^ 32 + b2n c.novec
def rasCfgBits (c : RasCfg) : Nat := b2n c.enable * 2 ^ 63 + c.vector * 2 ^ 32 + c.log2

/-- A word of the MSI-X table; an unlisted entry is masked (log 18). -/
def msixWord (s : State) (k : Nat) : Nat := tgetD s.host.msix k (if k % 2 = 1 then 2 ^ 32 else 0)

/-- Value of a writable register without a row of its own; none for any other offset. -/
def rwValue (s : State) (o : Nat) : Option Nat :=
  if 0x20000 ≤ o && o < 0x28000 then some (msixWord s ((o - 0x20000) / 8))
  else match o with
    | 0x10000 => some (mbxCfgBits (mbxOf s 0).shadow)
    | 0x10008 => some (mbxOf s 0).shadow.sqBase
    | 0x10010 => some (mbxOf s 0).shadow.cqBase
    | 0x30000 => some (stgCtlBits s.stg.shadow)
    | 0x30008 => some (stgPeriodBits s.stg.shadow)
    | 0x40000 => some 0
    | 0x60008 => some s.ras.shadow.base
    | 0x60010 => some (rasCfgBits s.ras.shadow)
    | 0x70000 => some (xltCtlBits s.xlt.shadow)
    | 0x70008 => some s.xlt.shadow.mqBase
    | 0x70010 => some s.xlt.shadow.mqLog
    | 0x70040 => some s.xlt.invVa.toNat
    | 0x70048 => some s.xlt.invLen
    | 0x70060 => some 0
    | _ => none

/-- An MSI-X table word changes; a pending vector that is unmasked is sent (R401). -/
def msixWrite (k v : Nat) (s : State) : State :=
  let s := updHost (fun h => { h with msix := tput k v h.msix }) s
  let n := k / 2
  if s.host.pba.contains n && !msixMasked s n then
    emit (.msix n) (updHost (fun h => { h with pba := h.pba.erase n }) s)
  else s

/-- The STG group's shadows, which ignore BAR0 once management owns the group (R164, R463). -/
def stgShadow (f : StgCfg → StgCfg) (s : State) : State :=
  if s.parts.mgmtOwned.contains objStage then s else { s with stg := { s.stg with shadow := f s.stg.shadow } }

/-- Write a register that has no row of its own: shadow copies take their fields, RSVD bits are dropped (R5), RW1C bits
clear. -/
def rwWrite (o v : Nat) (s : State) : State :=
  if 0x20000 ≤ o && o < 0x28000 then msixWrite ((o - 0x20000) / 8) v s
  else match o with
    | 0x10000 => updMbx 0 (fun m => { m with shadow := { m.shadow with
        enable := bit v 63, sqLog := bitsOf v 59 56, cqLog := bitsOf v 55 52, vector := bitsOf v 42 32, novec := bit v 0 } }) s
    | 0x10008 => updMbx 0 (fun m => { m with shadow := { m.shadow with sqBase := v / 4096 * 4096 } }) s
    | 0x10010 => updMbx 0 (fun m => { m with shadow := { m.shadow with cqBase := v / 4096 * 4096 } }) s
    | 0x30000 => stgShadow (fun c => { c with
        enable := bit v 63, outmode := bitsOf v 59 58, flywheel := bitsOf v 54 48, vector := bitsOf v 42 32 }) s
    | 0x30008 => stgShadow (fun c => { c with window := bitsOf v 40 32, nominal := bitsOf v 26 0 }) s
    | 0x40000 => { s with clk := { s.clk with loss := s.clk.loss &&& ~~~(BitVec.ofNat 5 (bitsOf v 52 48)) } }
    | 0x60008 => { s with ras := { s.ras with shadow := { s.ras.shadow with base := v / 4096 * 4096 } } }
    | 0x60010 => { s with ras := { s.ras with shadow := { s.ras.shadow with
        enable := bit v 63, vector := bitsOf v 42 32, log2 := bitsOf v 3 0 } } }
    | 0x70000 => updXlt (fun x => { x with shadow := { x.shadow with
        enable := bit v 63, vector := bitsOf v 42 32, timeout := bitsOf v 9 0 } }) s
    | 0x70008 => updXlt (fun x => { x with shadow := { x.shadow with mqBase := v / 4096 * 4096 } }) s
    | 0x70010 => updXlt (fun x => { x with shadow := { x.shadow with mqLog := bitsOf v 3 0 } }) s
    | 0x70040 => updXlt (fun x => { x with invVa := BitVec.ofNat 64 (bitsOf v 56 12 * 4096) }) s
    | 0x70048 => updXlt (fun x => { x with invLen := bitsOf v 31 0 }) s
    | 0x70060 => updXlt (fun x => { x with
        invDrop := x.invDrop && !bit v 18, mirrorStale := x.mirrorStale && !bit v 17 }) s
    | _ => s

/-- A BAR0 write of 4 or 8 aligned bytes; any other is dropped, and writes to other offsets are ignored (R397). While the
data path is halted only the CLK block takes writes (R488). -/
def regWrite (off size v : Nat) (s : State) : State :=
  let o := off / 8 * 8
  if (size != 4 && size != 8) || off % size != 0 then s
  else if s.halted && !(decide (0x40000 ≤ o) && decide (o < 0x50000)) && sysLost s then s
  else match rwValue s o with
    | none => s
    | some old =>
      let w := if size = 8 then v % 2 ^ 64
        else if off % 8 = 0 then old / 2 ^ 32 * 2 ^ 32 + v % 2 ^ 32
        else v % 2 ^ 32 * 2 ^ 32 + old % 2 ^ 32
      rwWrite o w s

/-- REGISTER_WRITE (R397). CLK_STATUS stays writable while REFCLK_SYS is lost (R488). -/
def execRegisterWrite (half off size v : Nat) (s : State) : Host.Outcome State Fault Refusal :=
  .next (if half != 0 || s.host.d3hot || s.pwr.trip.isSome then s else regWrite off size v s)

/-! ### Configuration requests -/

/-- The function is ready: the link is in L0 and MB0 is ready (R414, Table 19.1). -/
def functionReady (s : State) : Bool := s.host.linkUp && s.rep.boot.mb0

/-- CONFIG_SPACE_ACCESS (R393, R414): a request under a tag, which may write a power state (true: D3hot). What a read of
the header returns (Table 16.2) is not part of the row (log 114). -/
def execConfigSpaceAccess (tag : Nat) (power : Option Bool) (s : State) : Host.Outcome State Fault Refusal :=
  .next (if !functionReady s then emit (.cpl tag 2 false []) s
    else match power with
      | some d => emit (.cpl tag 0 false []) (updHost (fun h => { h with d3hot := d }) s)
      | none => emit (.cpl tag 0 false []) s)

/-! ### The end of bring-up (R456, R471) -/

/-- An anti-rollback counter as it stands: raised in the field, else as fused (R456). -/
def rollback (s : State) (n : Nat) : Nat := tgetD s.rep.counters n (Config.fusedCounter n)

/-- Raise an anti-rollback counter of 64 fuses (R456). -/
def raiseCounter (n v : Nat) (s : State) : State :=
  if rollback s n < min v 64 then { s with rep := { s.rep with counters := tput n (min v 64) s.rep.counters } } else s

/-- Every function of Table 19.2 but the PCIe link and the flash channels is READY or FAILED (R471). -/
def allReady (s : State) : Bool :=
  let b := s.rep.boot
  b.cp && b.mb0 && b.stage && b.xlt && b.ledger && b.mgmt = 3#2 && (b.ports ||| b.portsFailed) = 0xFF#8
    && (b.cells ||| b.cellsFailed) = 0xFFFFF#20 && s.store.stks.toList.all (fun x => x.ready || x.failed)

/-- ALL is set once every function is ready or failed, and the running image's SVN is committed once every channel has
CENSUS too (R456, R471). -/
def settle (s : State) : State :=
  let s := if s.rep.boot.phase = .train && allReady s then
      { s with rep := { s.rep with boot := { s.rep.boot with phase := .run } } } else s
  if s.rep.boot.phase = .run && s.store.flash.toList.all Flash.censusDone then raiseCounter 0 s.rep.boot.svn s else s

/-! ### The link -/

/-- HOST_LINK_DOWN (R413): the device keeps running, host accesses stall from now on (R100), MB0 waits (R408). -/
def hostLinkDown (half : Nat) (s : State) : State :=
  if half = 0 then
    if !s.host.linkUp then s
    else
      let busy := (mbxOf s 0).cfg.enable && !(mbxOf s 0).wedged
      let s := updMbx 0 (fun m => { m with hostwait := m.hostwait || busy }) s
      { updHost (fun h => { h with linkUp := false }) s with store := { s.store with hostDownSince := some s.now } }
  else updHost (fun h => { h with linkUp1 := false }) s

def execHostLinkDown (half : Nat) (s : State) : Host.Outcome State Fault Refusal := .next (hostLinkDown half s)

/-- Host reads that wait are issued again. -/
def reissueHost (s : State) : State :=
  let s := s.store.reads.foldl (fun s r => match r.place with
    | .host e => emit (.hostRd e r.req.off) s
    | .flash _ _ => s) s
  s.store.blocks.foldl (fun s b => match b.2.lower with
    | some (.host e) => if b.2.st = .fetching && b.2.waitSince.isNone then emit (.hostRd e 0) s else s
    | _ => s) s

/-- HOST_LINK_UP (R408): PCIE is set; MB0 becomes ready with the CP; HOSTWAIT ends with the held completion; waiting
host accesses go on and the RAS ring takes its LOST record (R512). Not before the PCIe link trains at 3 ms (Table 19.1),
and half 1 only when bifurcated (R394). -/
def hostLinkUp (half : Nat) (s : State) : State :=
  if !s.rep.boot.fused || s.pwr.trip.isSome || (tget 2 s.clk.lostAt).isSome then s
  else if half = 0 then
    if s.host.linkUp then s
    else
      let s := updHost (fun h => { h with linkUp := true }) s
      let s := { s with store := { s.store with hostDownSince := none } }
      let s := { s with rep := { s.rep with boot := { s.rep.boot with mb0 := s.rep.boot.mb0 || s.rep.boot.cp } } }
      let held := (mbxOf s 0).held
      let s := updMbx 0 (fun m => { m with hostwait := false, held := none }) s
      let s := match held with
        | some (e, nv) => writeCpl 0 e nv s
        | none => s
      settle (rasLost (reissueHost s))
  else if half = 1 && s.host.bifur then updHost (fun h => { h with linkUp1 := true }) s else s

def execHostLinkUp (half : Nat) (s : State) : Host.Outcome State Fault Refusal := .next (hostLinkUp half s)

end Sys2Proof.Machine
end

