-- ==== Sys2Proof/Machine/Reset.lean ====
section
/-! DEFINITION. The full device reset (R413, R414), its sources and its end (R465, R525, R528). -/

namespace Sys2Proof.Machine

open Sys2Proof

/-- What survives of a physical unit's record: its quarantine (R414). -/
def unitKept (u : UnitRec) : UnitRec := { quarantined := u.quarantined }

/-- What survives of a flash channel: the erase counts of its cells. -/
def flashKept (f : Flash) : Flash := { wear := f.wear }

/-- A full device reset (R413, R414): everything returns to its reset value but the repair ledger, quarantines, fuses and
boot flash, the rails' and clocks' condition, the TAP, and the world outside. -/
def fullReset (s : State) : State :=
  let r := State.reset
  { r with
    pending := s.pending, now := s.now, wall := s.wall, fresh := s.fresh, outs := s.outs
    halted := sysLost s || s.pwr.trip.isSome
    store := { r.store with flash := s.store.flash.map flashKept }
    eng := { r.eng with units := (s.eng.units.map (fun x => (x.1, unitKept x.2))).filter (fun x => x.2.quarantined) }
    clk := { r.clk with stable := s.clk.stable, lostAt := s.clk.lostAt }
    pwr := { r.pwr with vaux := s.pwr.vaux, i3cSa := s.pwr.i3cSa, i3cAt := s.pwr.i3cAt, trip := s.pwr.trip }
    tap := s.tap
    rep := { r.rep with
      ledger := s.rep.ledger, seq := s.rep.seq, counters := s.rep.counters, operator := s.rep.operator
      preferred := s.rep.preferred, images := s.rep.images
      boot := { r.rep.boot with perst := s.rep.boot.perst, resetN := s.rep.boot.resetN } } }

def updBoot (f : Boot → Boot) (s : State) : State := { s with rep := { s.rep with boot := f s.rep.boot } }

/-- The reset ends: the reference of bring-up (R465). The device draws its reset epoch, any non-zero 32-bit number (R414),
and samples BIFUR (R394); every clock present is stable, as the board must see to (R465). -/
def reference (bifur : Bool) (s : State) : State :=
  if s.rep.boot.perst || s.rep.boot.resetN || s.pwr.trip.isSome then s
  else
    let d := draw s
    let s := d.2
    let s := updBoot (fun b => { b with ref := s.wall }) s
    let lost := s.clk.lostAt.map Prod.fst
    let stable := BitVec.ofNat 5 (((List.range 5).filter (fun i => !lost.contains i)).map (2 ^ ·)).sum
    let host := { s.host with bifur := bifur }
    { s with
      rep := { s.rep with epoch := d.1 % (2 ^ 32 - 1) + 1 }
      clk := { s.clk with stable := stable }
      host := host }

/-- A reset source is accepted: ignored while THERMTRIP_N is asserted (R499). -/
def resetFrom (f : State → State) (s : State) : State := if s.pwr.trip.isSome then s else f (fullReset s)

/-- PERST_ASSERT (R413): `width` ns; under 1 µs it is ignored. -/
def execPerstAssert (width : Nat) (s : State) : Host.Outcome State Fault Refusal :=
  .next (if width < 1000 then s else resetFrom (updBoot (fun b => { b with perst := true })) s)

/-- RESET_N_ASSERT (R413). -/
def execResetNAssert (width : Nat) (s : State) : Host.Outcome State Fault Refusal :=
  .next (if width < 1000 then s else resetFrom (updBoot (fun b => { b with resetN := true })) s)

/-- HOT_RESET (R394, R413): on a link that is up; both halves reset, and the reset ends at once. -/
def execHotReset (half : Nat) (bifur : Bool) (s : State) : Host.Outcome State Fault Refusal :=
  .next (if (half = 0 && s.host.linkUp) || (half = 1 && s.host.linkUp1) then resetFrom (reference bifur) s else s)

/-- RESET_N_RELEASE (R465, R528): the TAP goes to Test-Logic-Reset; the reference, if PERST# is released. -/
def execResetNRelease (bifur : Bool) (s : State) : Host.Outcome State Fault Refusal :=
  .next (if s.rep.boot.resetN && s.pwr.vaux then
      reference bifur { updBoot (fun b => { b with resetN := false }) s with tap := { s.tap with ir := 0x01 } }
    else s)

/-- PERST_RELEASE (R465): the reference, if RESET_N is released. -/
def execPerstRelease (bifur : Bool) (s : State) : Host.Outcome State Fault Refusal :=
  .next (if s.rep.boot.perst && s.pwr.vaux then reference bifur (updBoot (fun b => { b with perst := false }) s) else s)

/-- VAUX_IN_REGULATION (R521, R525): I3C_SA is sampled and the target answers 1 ms later. RESET_N is asserted, as its
pull-down and the board hold it (R493, R525). -/
def execVauxInRegulation (sa : Nat) (s : State) : Host.Outcome State Fault Refusal :=
  .next (if s.pwr.vaux then s
    else { s with pwr := { s.pwr with vaux := true, i3cSa := sa % 4, i3cAt := s.wall + 1000000 } })

/-- VAUX_LOSS (R499): VAUX falls last, so every rail is gone (R493) and with them all that no fuse, flash or boot flash
keeps (R484); the trip latch clears. -/
def execVauxLoss (s : State) : Host.Outcome State Fault Refusal :=
  .next (
    let t := { s with pwr := { s.pwr with trip := none } }
    let r := fullReset t
    { r with
      halted := false
      clk := {}
      pwr := { r.pwr with vaux := false, i3cSa := 0, i3cAt := 0 }
      tap := {}
      rep := { r.rep with boot := {} } })

end Sys2Proof.Machine
end

