-- ==== Sys2Proof/Machine/Admin.lean ====
section
/-! DEFINITION. Groups 0x01, 0x02 and 0x04 of the catalogue: identity, partitions (R422 to R426, R439 to R447, R452,
R453) and contexts (R429), with the scrub of former cells (R443). -/

namespace Sys2Proof.Machine

open Sys2Proof

/-! ### Identity (Table 17.3) -/

/-- Every channel has CENSUS. -/
def allCensus (s : State) : Bool := s.store.flash.toList.all Flash.censusDone

/-- Usable flash capacity of the device (ID_CAP3). -/
def usableFlash (s : State) : Nat :=
  if allCensus s then ((s.store.flash.toList.map Flash.usable).sum) % 2 ^ 32 else 0

/-- ID_CAP0 to ID_CAP3 (Table 19.8). -/
def idCaps (s : State) : List Nat :=
  [0x004FFFFFFFFFFFFF, 0x00002D02010F4000, 0x004B0A8C40124010, 0x10400E1000000000 + usableFlash s]

/-- ID_GET (R422). -/
def execIdGet (mb : Nat) (s : State) : Host.Outcome State Fault Refusal :=
  .next (catalogue mb 0x0101 (fun _ _ => {})
    (fun _ s => complete mb 0 ((idCaps s).flatMap (leBytes 8) ++ leBytes 4 0x00010200 ++ leBytes 2 s.parts.devNo) s) s)

/-- Cells neither owned nor being scrubbed. -/
def freeCells (s : State) : List Nat :=
  (List.range 20).filter (fun c => (cellPart s c).isNone && !s.parts.scrubbing.contains c)

/-- A mask of numbers. -/
def maskBits (l : List Nat) : Nat := (l.map (2 ^ ·)).sum

/-- RES_GET (R422). -/
def execResGet (mb : Nat) (s : State) : Host.Outcome State Fault Refusal :=
  .next (catalogue mb 0x0102 (fun _ _ => {})
    (fun _ s =>
      let freeKeys := (s.parts.keys.toList.filter (fun k => k.st = .free)).length
      complete mb 0 (leBytes 4 (maskBits (freeCells s)) ++ leBytes 4 (maskBits s.parts.scrubbing)
        ++ leBytes 2 s.xlt.ctxs.length ++ leBytes 1 freeKeys ++ leBytes 1 s.parts.live.length
        ++ leBytes 1 (b2n s.sync.feMode)) s) s)

/-! ### Keys and signatures -/

def updKey (k : Nat) (f : KeySlot → KeySlot) (s : State) : State :=
  { s with parts := { s.parts with keys := s.parts.keys.setIfInBounds k (f (s.parts.keys.getD k {})) } }

/-- Issue a free key slot to a partition: its key is derived afresh (R446, R448). -/
def issueSlot (k p : Nat) (s : State) : State :=
  let d := draw s
  updKey k (fun x => { st := .issued, part := p, issues := x.issues + 1
                       key := Config.derive 1 [k, x.issues + 1, s.rep.epoch, d.1] }) d.2

/-- A signature block of class DEVICE over a content (Table 18.8). -/
def sigBlock (content : List Byte) : List Byte :=
  let head := [0x4F, 0x4B, 0x53, 0x47] ++ leBytes 1 4 ++ leBytes 1 0 ++ leBytes 1 0xFF ++ leBytes 1 0
    ++ leBytes 8 0 ++ leBytes 48 (Config.sha384 content)
  let tag : List Byte := [0x4F, 0x4B, 0x38, 0x32, 0x30, 0x20, 0x53, 0x49, 0x47, 0x4E]
  head ++ padTo 5357 (Config.sign (tag ++ head)) ++ List.replicate 19 0

/-- Bytes 0 to 63 of a sealed waybill key (Table 18.7a). -/
def sealHead (s : State) (p : Nat) (x : Part) : List Byte :=
  [0x57, 0x42, 0x4B, 0x31] ++ leBytes 1 p ++ leBytes 1 0 ++ leBytes 2 x.ownerCtx ++ leBytes 4 s.rep.epoch
    ++ leBytes 4 x.creation ++ leBytes 48 (Config.sha384 x.sealKeys)

/-- A fresh sealed waybill key (R453): the ephemeral values, the wrapped key and its tag follow the head. -/
def sealBlob (s : State) (p : Nat) (x : Part) (nonce : Nat) : List Byte :=
  let body := sealHead s p x
    ++ padTo 1180 (Config.sealUnder (leNat x.sealKeys) nonce (leBytes 32 x.waybillKey)) ++ List.replicate 36 0
  body ++ sigBlock body

/-! ### Creating a partition -/

/-- Bytes of a ring with its control line (R402). -/
def ringBytes (l : Nat) : Nat := 64 * 2 ^ l + 64

/-- The 64 KiB size that holds some bytes. -/
def blockSize (n : Nat) : Nat := 65536 * (n / 65536 + (if n % 65536 = 0 then 0 else 1))

/-- Placed HBM of a partition in its lowest cell. -/
def placedIn (cell p ctx n : Nat) : Alloc := { size := blockSize n, tier := .hbm, cells := [cell], ctx := ctx, part := p }

/-- Clear the counters of cells and their channels (R515). -/
def clearCells (cs : List Nat) (s : State) : State :=
  let mine := fun (a : Nat) => cs.any (fun c =>
    (decide (cellReg c 0x400 ≤ a) && decide (a < cellReg c 0x10000)) || (decide (fchReg c 0 ≤ a) && decide (a < fchReg c 0x4000)))
  { s with csr := s.csr.filter (fun x => !mine x.1) }

/-- Cells are powered within 1 ms (R495); the loop's first frequency is not stated (log 3). -/
def powerCells (cs : List Nat) (s : State) : State :=
  let d := draw s
  let s := d.2
  let f := 1200 + 100 * (d.1 % 16)
  { s with pwr := { s.pwr with cells := cs.foldl (fun (v : Vector PwrCell 20) c =>
      v.setIfInBounds c { (v.getD c {}) with cur := f }) s.pwr.cells } }

/-- The new partition's mailbox (R411, R424). -/
def newMbx (c : Cmd) (sq cq db cqt : Nat) : Mbx :=
  let cfg : MbxCfg := { enable := true, sqLog := c.arg 1 1, cqLog := c.arg 2 1, vector := c.arg 18 2
                        novec := c.arg 20 1 = 1, sqBase := sq, cqBase := cq }
  { cfg := cfg, shadow := cfg, dbTally := db, cqTally := cqt }

/-- Logical units of a cell. -/
def cellUnits (c : Nat) : List (UnitKind × Nat) :=
  (List.range 16).map (fun i => (.core, 16 * c + i)) ++ [(.matrix, 2 * c), (.matrix, 2 * c + 1), (.porter, c), (.assay, c)]

/-- The record of a new partition, its keys drawn (R452, R453). -/
def newPart (c : Cmd) (s : State) : Part × State :=
  let d := draw s
  let e := draw d.2
  let k := [c.part, s.parts.creations, s.rep.epoch]
  ({ cells := maskCells (c.arg 4 4), q := c.arg 8 4, retryLimit := c.arg 3 1, ownerCtx := c.arg 12 2
     creation := s.parts.creations, sealKeys := (c.args.drop 48).take 1216
     waybillKey := Config.derive 2 (k ++ [d.1]) % 2 ^ 256, hostTierKey := Config.derive 3 (k ++ [e.1]) % 2 ^ 256 }, e.2)

/-- The key slot, the record and the owner's context. -/
def partEnter (c : Cmd) (x : Part) (s : State) : State :=
  let s := issueSlot (c.arg 16 1) c.part s
  let s := { s with parts := { s.parts with live := tput c.part x s.parts.live } }
  let rcd : Ctx := { part := c.part, keyslot := c.arg 16 1, ingress := BitVec.ofNat 10 (c.arg 14 2), translate := false
                     mirrorHdr := 0, root := 0, lastGen := 0 }
  setGen (objCtx (c.arg 12 2)) 0 (updXlt (fun t => { t with ctxs := tput (c.arg 12 2) rcd t.ctxs }) s)

/-- The allocations of a new partition's rings and of its sealed waybill key. -/
def partPlaces (c : Cmd) (s : State) : (Option Nat × Option Nat × Option Nat) × State :=
  let mk := fun (b : Nat) (s : State) => makeAlloc (placedIn ((maskCells (c.arg 4 4)).headD 0) c.part (c.arg 12 2) b) s
  let a := mk (ringBytes (c.arg 1 1)) s
  let b := mk (ringBytes (c.arg 2 1)) a.2
  let w := mk 6720 b.2
  ((a.1, b.1, w.1), w.2)

/-- PART_CREATE's effect (R424): owner context, rings, tallies, keys, sealed waybill key. -/
def partMake (n : Nat) (c : Cmd) (s : State) : State :=
  let p := c.part
  let cells := maskCells (c.arg 4 4)
  let s := { s with parts := { s.parts with creations := s.parts.creations + 1 } }
  let x := newPart c s
  let a := partPlaces c (partEnter c x.1 x.2)
  let f := draw a.2
  let sa := fun (o : Option Nat) => (ownSa f.2 0 (o.getD 0)).toNat
  let tally := fun (i : Nat) => (ownSa f.2 2 (cells.headD 0 * 2 ^ 18 + 8 * i)).toNat
  let s := devWrite (a.1.2.2.getD 0) (sealBlob f.2 p x.1 f.1) f.2
  let s := updMbx (p + 1) (fun _ => newMbx c (sa a.1.1) (sa a.1.2.1) (tally 0) (tally 1)) (powerCells cells (clearCells cells s))
  let s := if n = 21 then ownMgmt (objRetry p) (ownMgmt (objQ p) s) else s
  let s := (cells.flatMap cellUnits).foldl (fun s x => splitLogical x.1 x.2 s) s
  complete n 0 (leBytes 8 (sa a.1.2.2) ++ leBytes 8 (sa a.1.1) ++ leBytes 8 (sa a.1.2.1) ++ leBytes 8 (tally 0) ++ leBytes 8 (tally 1)) s

/-- PART_CREATE (R424, Table 17.4). Fields outside their ranges come after the zero size and before the row's own
statuses (log 25). -/
def partCreate (n : Nat) (c : Cmd) (s : State) : State :=
  let cells := maskCells (c.arg 4 4)
  let blocks := nblk (blockSize (ringBytes (c.arg 1 1))) + nblk (blockSize (ringBytes (c.arg 2 1))) + 1
  let frames := (cells.map (fun x => stackFrames - (s.store.stks.getD x {}).retired)).sum
  let logOk := fun (l : Nat) => decide (4 ≤ l) && decide (l ≤ 12)
  let ctx := c.arg 12 2
  refuseOr n
    [(c.arg 4 4 = 0, 0x0021),
     (decide (19 < c.part) || !logOk (c.arg 1 1) || !logOk (c.arg 2 1) || decide (3 < c.arg 3 1)
        || decide (ctx < 2) || ctx = 0xFFFF || decide (63 < c.arg 16 1), 0x0021),
     ((partOf s c.part).isSome, 0x0142),
     (cells.any (fun x => (cellPart s x).isSome), 0x0242),
     (cells.any (fun x => s.parts.scrubbing.contains x), 0x0360),
     (decide (frames < blocks + c.arg 8 4), 0x0423),
     ((ctxOf s ctx).isSome, 0x0542),
     ((s.parts.keys.getD (c.arg 16 1) {}).st != .free, 0x0642),
     (!Config.sealKeysOk ((c.args.drop 48).take 1216), 0x0721),
     (decide (2047 < c.arg 18 2), 0x0821),
     (decide (4096 ≤ s.xlt.ctxs.length), 0x0B23)]
    (partMake n c) s

def execPartCreate (mb : Nat) (s : State) : Host.Outcome State Fault Refusal :=
  .next (catalogue mb 0x0201 (fun s c => { ready := cellsReady s (maskCells (c.arg 4 4)) }) (partCreate mb) s)

/-! ### Contexts (Table 17.6) -/

/-- A mirror address of CTX_CREATE and CTX_SET: zero without TRANSLATE, else a store SA of this device, aligned. -/
def mirrorBad (s : State) (sa align : Nat) (translate : Bool) : Bool :=
  if sa = 0 && !translate then false
  else !ownStore s sa || saOff sa % align != 0 || (translate && !mirrorOk s (saOff sa))

/-- Checks that CTX_CREATE and CTX_SET share, after those of the row's own (Table 17.6, R448). -/
def ctxChecks (s : State) (c : Cmd) : List (Bool × Nat) :=
  let k := s.parts.keys.getD (c.arg 6 1) {}
  let tr := c.arg 7 1 = 1
  [(mirrorBad s (c.arg 8 8) 64 tr || mirrorBad s (c.arg 16 8) (2 ^ 21) tr, 0x0321),
   (decide (63 < c.arg 6 1) || k.st = .free || k.part != c.part, 0x0421)]

/-- CTX numbers no command names (R30). -/
def ctxBad (ctx : Nat) : Bool := ctx = 0 || ctx = 1 || ctx = 0xFFFF

/-- The context record of a command, with the LAST_GEN given. -/
def ctxRecord (c : Cmd) (gen : BitVec 32) : Ctx :=
  { part := c.part, keyslot := c.arg 6 1, ingress := BitVec.ofNat 10 (c.arg 4 2), translate := c.arg 7 1 = 1
    mirrorHdr := saOff (c.arg 8 8), root := saOff (c.arg 16 8), lastGen := gen }

/-- CTX_CREATE (R429): LAST_GEN from the mirror header, 0 without one. -/
def ctxCreate (n : Nat) (c : Cmd) (s : State) : State :=
  let ctx := c.arg 2 2
  refuseOr n
    ([((ctxOf s ctx).isSome, 0x0142), (decide (4096 ≤ s.xlt.ctxs.length), 0x0223)] ++ ctxChecks s c
      ++ [(ctxBad ctx, 0x0521), (slotRevoked s (c.arg 6 1), 0x0032)])
    (fun s =>
      let r := ctxRecord c 0
      let r := { r with lastGen := if c.arg 8 8 = 0 then 0 else mirrorGen s r }
      complete n 0 [] (setGen (objCtx ctx) 0 (updXlt (fun x => { x with ctxs := tput ctx r x.ctxs }) s))) s

def execCtxCreate (mb : Nat) (s : State) : Host.Outcome State Fault Refusal :=
  .next (catalogue mb 0x0401 (fun s c => { partChk s mb c with ready := s.rep.boot.xlt }) (ctxCreate mb) s)

/-- Checks 6 and 7 of a command whose object is a context of PART. -/
def ctxChk (s : State) (n : Nat) (c : Cmd) : CChk :=
  { exist := (partOf s c.part).isSome && (ctxOf s (c.arg 2 2)).isSome
      && (mbCode n = 2 || ctxPart s (c.arg 2 2) = some c.part)
    mine := c.part + 1 = n && ctxPart s (c.arg 2 2) = some c.part
    ready := s.rep.boot.xlt }

/-- CTX_SET (R429): PART and LAST_GEN stay; pending misses re-walk under the new record. -/
def ctxSet (n : Nat) (c : Cmd) (s : State) : State :=
  let ctx := c.arg 2 2
  refuseOr n (ctxChecks s c ++ [(ctxBad ctx, 0x0521), (slotRevoked s (c.arg 6 1), 0x0032)])
    (fun s =>
      let old := ((ctxOf s ctx).map Ctx.lastGen).getD 0
      let r := ctxRecord c old
      let g := mirrorGen s r
      let s := updXlt (fun x => { x with
        ctxs := tput ctx r x.ctxs
        misses := x.misses.map (fun (m : Nat × Miss) => if m.2.ctx = ctx && m.2.st = .walk
          then (m.1, { m.2 with genFirst := g, genLast := g, repeated := false }) else m) }) s
      completeGen n (objCtx ctx) [] s) s

def execCtxSet (mb : Nat) (s : State) : Host.Outcome State Fault Refusal :=
  .next (catalogue mb 0x0402 (fun s c => { ctxChk s mb c with gen := some (objCtx (c.arg 2 2)) }) (ctxSet mb) s)

/-- A context ends (R429, Table 2.9): opens and views, pending misses, window bindings. -/
def endCtx (ctx : Nat) (s : State) : State :=
  let s := ((s.store.allocs.filter (fun a => a.2.region.isSome)).map Prod.fst).foldl
    (fun s b => endRegion b (fun x => x = ctx) true s) s
  let ms := (s.xlt.misses.filter (fun m => m.2.ctx = ctx)).map Prod.fst
  let s := ms.foldl (fun s m => missFault m .faultAccess s) s
  let s := updHost (fun h => { h with segs := h.segs.map (fun (w : WinSeg) =>
    if w.bound && w.ctx = ctx then { w with ctx := 0, space := 0, bound := false, binder := 0 } else w) }) s
  sweepKeys (updXlt (fun x => { x with ctxs := tdel ctx x.ctxs }) s)

/-- CTX_DESTROY (R429). -/
def execCtxDestroy (mb : Nat) (s : State) : Host.Outcome State Fault Refusal :=
  .next (catalogue mb 0x0403 (fun s c => ctxChk s mb c)
    (fun c s => refuseOr mb [(s.store.allocs.any (fun a => a.2.ctx = c.arg 2 2), 0x0642)]
      (fun s => complete mb 0 [] (endCtx (c.arg 2 2) s)) s) s)

/-- TLB_INVALIDATE of one context (R46, R47, R429); SCOPE 3 is rejected. -/
def tlbInvalidate (n : Nat) (c : Cmd) (s : State) : State :=
  let ctx := c.arg 2 2
  let scope := c.arg 1 1
  let gen := BitVec.ofNat 32 (c.arg 20 4)
  match ctxOf s ctx with
  | none => s
  | some x =>
    let i : Inv := { scope := scope, ctx := ctx, gen := gen, page := c.arg 8 8 / 4096 % 2 ^ 45, pages := c.arg 16 4
                     waits := [], started := true, mb := some n }
    if 2 < scope then complete n 0x0021 [] s
    else if invGenBad x gen then complete n 0x0021 [] s
    else if scope = 0 && c.arg 16 4 = 0 then complete n 0x0001 [] (setLastGen ctx gen s)
    else invQueue i s

/-- TLB_INVALIDATE waits for its completion once queued: the command of a mailbox queues it once. -/
def invOnce (n : Nat) (f : State → State) (s : State) : State :=
  if s.xlt.invs.any (fun i => i.mb = some n) then s else f s

/-- SCOPE 0 and, as it names no scope, 3. -/
def execTlbInvalidateRange (mb : Nat) (s : State) : Host.Outcome State Fault Refusal :=
  .next (catalogue mb 0x0404 (fun s c => if c.arg 1 1 = 2 then { ready := s.rep.boot.xlt } else ctxChk s mb c)
    (fun c s => if c.arg 1 1 = 1 || c.arg 1 1 = 2 then s else invOnce mb (tlbInvalidate mb c) s) s)

def execTlbInvalidateCtx (mb : Nat) (s : State) : Host.Outcome State Fault Refusal :=
  .next (catalogue mb 0x0404 (fun s c => if c.arg 1 1 = 2 then { ready := s.rep.boot.xlt } else ctxChk s mb c)
    (fun c s => if c.arg 1 1 = 1 then invOnce mb (tlbInvalidate mb c) s else s) s)

/-- SCOPE 2, on MB0 only (0x0621). -/
def execTlbInvalidateAll (mb : Nat) (s : State) : Host.Outcome State Fault Refusal :=
  .next (catalogue mb 0x0404 (fun s c => if c.arg 1 1 = 2 then { ready := s.rep.boot.xlt } else ctxChk s mb c)
    (fun c s =>
      if c.arg 1 1 != 2 then s
      else if mb != 0 then complete mb 0x0621 [] s
      else invOnce mb (invQueue { scope := 2, ctx := 0, gen := 0, page := 0, pages := 0, waits := [], started := true
                                  mb := some mb }) s) s)

/-! ### Destroying a partition -/

/-- Work of a partition ends with no waybill, tally or beacon (R414, R425). -/
def endWork (p : Nat) (s : State) : State :=
  let gone := (s.eng.ops.filter (fun o => o.2.part = p)).map Prod.fst
  let gs := (s.drv.groups.filter (fun g => g.2.part = p)).map Prod.fst
  let ts := (s.drv.threads.filter (fun t => gs.contains t.2.group)).map Prod.fst
  let s := ts.foldl (fun s t => withdraw t s) s
  let cars := (s.car.cars.filter (fun c => c.2.part = p)).map Prod.fst
  let sers := (s.car.ser.filter (fun b => b.part = p)).map SerBatch.id
  let outGone := fun (u : OutUse) => match u with
    | .leg c _ => cars.contains c
    | .batch b => sers.contains b
  { s with
    drv := { s.drv with groups := s.drv.groups.filter (fun g => g.2.part != p)
                        threads := s.drv.threads.filter (fun t => !gs.contains t.2.group) }
    eng := { s.eng with ops := s.eng.ops.filter (fun o => o.2.part != p)
                        moves := s.eng.moves.filter (fun m => !gone.contains m.op) }
    store := { s.store with shadow := s.store.shadow.filter (fun x => !gone.contains x.2) }
    car := { s.car with
      cars := s.car.cars.filter (fun c => c.2.part != p)
      streams := s.car.streams.filter (fun x => x.2.part != p)
      outs := s.car.outs.filter (fun x => !outGone x.2)
      ser := s.car.ser.filter (fun b => b.part != p)
      tables := s.car.tables.filter (fun x => x.1 / 2 ^ 32 != p)
      frb := s.car.frb.filter (fun x => x.1 / 64 != p) }
    stg := { s.stg with itin := tdel p s.stg.itin }
    dep := { s.dep with members := s.dep.members.filter (fun x => x.2.part != p)
                        appends := s.dep.appends.filter (fun x => x.1 != p) }
    idx := s.idx.filter (fun x => x.2.part != p) }

/-- Waiters on the sync words of cells are withdrawn; remote ones end with FAULT_ACCESS, as their words go (log 26). -/
def endWaiters (cs : List Nat) (s : State) : State :=
  let mine := fun (w : TWait) => cs.contains (w.word / 32768)
  let ws := s.sync.waiters.filter mine
  let s := { s with sync := { s.sync with waiters := s.sync.waiters.filter (fun w => !mine w) } }
  ws.foldl (fun s w => match w.who with
    | .remote p tag => emit (.link p { kind := .rspFault, tag := tag, ctx := w.ctx, status := Status.faultAccess.code,
                                       args := [s.parts.devNo] }) s
    | .thread _ _ => s) s

/-- Objects of a partition whose generations end with it (R533). -/
def genOf (p : Nat) (ctxs : List Nat) (o : Nat) : Bool :=
  (decide (0x10000 + p * 4096 ≤ o) && decide (o < 0x10000 + (p + 1) * 4096))
    || (decide (0x50000 + p * 256 ≤ o) && decide (o < 0x50000 + (p + 1) * 256)) || ctxs.any (fun c => o = objCtx c)

/-- PART_DESTROY (R425, Table 18.5). -/
def partDestroy (n : Nat) (c : Cmd) (s : State) : State :=
  let p := c.part
  let cells := partCells s p
  let ctxs := (s.xlt.ctxs.filter (fun x => x.2.part = p)).map Prod.fst
  let s := endWaiters cells (endWork p s)
  let s := ctxs.foldl (fun s x => endCtx x s) s
  let s := ((s.store.allocs.filter (fun a => a.2.part = p)).map Prod.fst).foldl (fun s b => freeAlloc b s) s
  let revs := s.parts.revokes.filter (fun r => r.part = p)
  let slots := (List.range 64).filter (fun k =>
    let x := s.parts.keys.getD k {}
    (x.st = .issued || x.st = .draining) && x.part = p)
  let s := slots.foldl (fun s k => retireSlot k s) s
  let s := { s with
    store := { s.store with exts := s.store.exts.filter (fun e => e.2.part != p)
                            gsets := s.store.gsets.filter (fun g => g.1 / 4096 != p) }
    pwr := { s.pwr with cells := cells.foldl (fun (v : Vector PwrCell 20) i =>
      v.setIfInBounds i { (v.getD i {}) with cur := 0, pin := 0, cause := 0, throttle := false }) s.pwr.cells }
    parts := { s.parts with
      live := tdel p s.parts.live
      scrubbing := s.parts.scrubbing ++ cells
      revokes := s.parts.revokes.filter (fun r => r.part != p)
      gens := s.parts.gens.filter (fun g => !genOf p ctxs g.1)
      mgmtOwned := s.parts.mgmtOwned.filter (fun o => o != objQ p && o != objRetry p) } }
  let s := updMbx (p + 1) (fun _ => {}) s
  let s := revs.foldl (fun s r => if mbCode r.mb = 2 then s else complete r.mb 0 [] s) s
  complete n 0 [] (sweepKeys s)

def execPartDestroy (mb : Nat) (s : State) : Host.Outcome State Fault Refusal :=
  .next (catalogue mb 0x0202 (fun s c => partChk s mb c) (partDestroy mb) s)

/-- CELL_SCRUB_DONE (R443): everything of the cell is zero, its channel's map is reset, the cell is free. -/
def cellScrubDone (c : Nat) (s : State) : State :=
  if !s.parts.scrubbing.contains c then s
  else
    let fl : Flash := s.store.flash.getD c {}
    sweepKeys { s with
      store := { s.store with
        spad := s.store.spad.filter (fun x => x.1 / 2 ^ 26 != c)
        spadPoison := s.store.spadPoison.filter (fun x => x.1 / 2 ^ 20 != c)
        flash := s.store.flash.setIfInBounds c { fl with gcUnits := 0 } }
      sync := { s.sync with words := s.sync.words.filter (fun x => x.1 / 32768 != c) }
      parts := { s.parts with scrubbing := s.parts.scrubbing.erase c } }

def execCellScrubDone (cell : Nat) (s : State) : Host.Outcome State Fault Refusal := .next (dp (cellScrubDone cell) s)

/-! ### PART_GET to EVQ_SET -/

/-- Blocks copied by working views of a partition's regions (R133). -/
def copiedBlocks (s : State) (p : Nat) : Nat :=
  ((s.store.allocs.filter (fun a => a.2.part = p)).map (fun a =>
    (a.2.region.map (fun r => (r.work.map (fun w => w.2.copied.length)).sum)).getD 0)).sum

/-- Shadow blocks held under PUBLISH_AT_END (R172). -/
def shadowBlocksOf (s : State) (p : Nat) : Nat :=
  (s.store.shadow.filter (fun x => ((tget x.2 s.eng.ops).map EngOp.part) = some p)).length

/-- PART_GET (R423). -/
def execPartGet (mb : Nat) (s : State) : Host.Outcome State Fault Refusal :=
  .next (catalogue mb 0x0203 (fun s c => partChk s mb c)
    (fun c s => match partOf s c.part with
      | none => s
      | some x =>
        let resident := ((partCells s c.part).map (managedFrames s)).sum
        complete mb 0 (leBytes 4 (maskBits x.cells) ++ leBytes 4 x.q ++ leBytes 4 (partPlaced s c.part)
          ++ leBytes 4 resident ++ leBytes 4 (pinnedFrames s c.part) ++ leBytes 1 x.retryLimit ++ leBytes 1 x.shadowN
          ++ leBytes 1 x.shadowMax ++ leBytes 1 0 ++ leBytes 4 (copiedBlocks s c.part) ++ leBytes 4 (shadowBlocksOf s c.part)
          ++ leBytes 8 0 ++ leBytes 4 x.gen.toNat) s) s)

/-- Evict managed blocks of a partition until those that stay fit a quota (R85). -/
def evictTo : Nat → Nat → Nat → State → State
  | 0, _, _, s => s
  | k + 1, p, q, s =>
    let leaving := (s.store.blocks.filter (fun x => x.2.st = .evicting && blockPart s x.2 = p)).length
    if poolUsed s p ≤ q + leaving then s
    else match pick s p (fun _ => true) with
      | none => s
      | some (b, _) => evictTo k p q (startEvict b s)

/-- PART_QUOTA_SET (R85): the excess is evicted first; the command completes at its row once the pool fits. -/
def quotaSet (n : Nat) (c : Cmd) (s : State) : State :=
  let p := c.part
  let q := c.arg 4 4
  let excess := poolUsed s p - q
  let can := if hasBacking s p then
      (s.store.blocks.filter (fun x => x.2.st = .evicting && blockPart s x.2 = p)).length
        + (s.store.blocks.filter (fun x => pickable s p x)).length
    else 0
  refuseOr n
    [(decide (partFrames s p < partPlaced s p + q), 0x0423),
     (decide (q < pinnedCount s p + 64) && decide (0 < pinnedCount s p), 0x0823),
     (decide (can < excess) || (backingSlots s p none = 0 && decide (q < managedBlocks s p)), 0x0C23)]
    (fun s =>
      if 0 < excess then evictTo excess p q s
      else
        let s := updPart p (fun x => { x with q := q }) s
        completeGen n p [] (if n = 21 then ownMgmt (objQ p) s else s)) s

def execPartQuotaSet (mb : Nat) (s : State) : Host.Outcome State Fault Refusal :=
  .next (catalogue mb 0x0204
    (fun s c => { partChk s mb c with
      gen := some c.part, mgmt := [(objQ c.part, some (c.arg 4 4) != (partOf s c.part).map Part.q)] })
    (quotaSet mb) s)

/-- A range of placed HBM of a partition, 64 B aligned (R402). -/
def placedHbm (s : State) (p sa n : Nat) : Bool :=
  ownStore s sa && saOff sa % 64 = 0 &&
    (match allocAt s (saOff sa) with
     | some (b, al) => al.tier = .hbm && al.part = p && ctxPart s al.ctx = some p && decide (saOff sa + n ≤ b + al.extent)
     | none => false)

/-- A tally word of a partition that no itinerary re-aligns (R406). -/
def mbxTallyOk (s : State) (p sa : Nat) : Bool :=
  let x := Sa.of (BitVec.ofNat 64 sa)
  let it := tgetD s.stg.itin p {}
  let rals := ([it.run, it.pending, it.held].filterMap id).flatMap Itin.rals
  x.space = 2 && isOwn s x.dev && x.off % 8 = 0 && syncLayout x.off && (partCells s p).contains (x.off / 2 ^ 18)
    && !rals.any (fun r => r.1 = x.off)

/-- MBX_SET (R426): in force once its completion stands in the old CQ. -/
def mbxSet (n : Nat) (c : Cmd) (s : State) : State :=
  let p := c.part
  let sq := c.arg 8 8
  let cq := c.arg 16 8
  let ls := ringBytes (c.arg 1 1)
  let lc := ringBytes (c.arg 2 1)
  let logOk := fun (l : Nat) => decide (4 ≤ l) && decide (l ≤ 12)
  refuseOr n
    [(!logOk (c.arg 1 1) || !logOk (c.arg 2 1), 0x0021),
     (decide (2047 < c.arg 4 2), 0x0821),
     (!placedHbm s p sq ls || !placedHbm s p cq lc
        || (decide (saOff sq < saOff cq + lc) && decide (saOff cq < saOff sq + ls)), 0x0921),
     (!mbxTallyOk s p (c.arg 24 8) || (c.arg 32 8 != 0 && !mbxTallyOk s p (c.arg 32 8)), 0x0A21)]
    (fun s =>
      let cfg : MbxCfg := { enable := true, sqLog := c.arg 1 1, cqLog := c.arg 2 1, vector := c.arg 4 2
                            novec := c.arg 6 1 = 1, sqBase := sq, cqBase := cq }
      updMbx n (fun m => { m with cfg := cfg, shadow := cfg, dbTally := c.arg 24 8, cqTally := c.arg 32 8
                                  consumed := 0, cqTail := 0, phase := true }) (completeGen n p [] s)) s

def execMbxSet (mb : Nat) (s : State) : Host.Outcome State Fault Refusal :=
  .next (catalogue mb 0x0205 (fun s c => { partChk s mb c with gen := some c.part }) (mbxSet mb) s)

/-- EVQ_SET (R510): after its own completion the queue starts empty; a LOST record comes first (R511). -/
def evqSet (n : Nat) (c : Cmd) (s : State) : State :=
  let p := c.part
  let l := c.arg 1 1
  let sa := c.arg 8 8
  refuseOr n
    [(decide (l < 6) || decide (16 < l) || decide (2047 < c.arg 2 2), 0x0021),
     (!placedHbm s p sa (ringBytes l), 0x0921)]
    (fun s =>
      let s := completeGen n p [] s
      let s := devWrite (saOff sa + 64 * 2 ^ l) (List.replicate 12 0) s
      evqLost p (updPart p (fun x => { x with evq := { x.evq with
        sa := some (saOff sa), log2 := l, vector := c.arg 2 2, tail := 0, lastSignal := none, unsignalled := false } }) s)) s

def execEvqSet (mb : Nat) (s : State) : Host.Outcome State Fault Refusal :=
  .next (catalogue mb 0x0206 (fun s c => { partChk s mb c with gen := some c.part }) (evqSet mb) s)

end Sys2Proof.Machine
end

