-- ==== Sys2Proof/Machine/Signature.lean ====
section
/-! DEFINITION. Signed objects (R454 to R456): the signature block of Table 18.8 and the checks of a verifier. -/

namespace Sys2Proof.Machine

open Sys2Proof

/-- Bytes of a signature block. -/
def sigLen : Nat := 5440

def sgClass (b : List Byte) : Nat := fld b 4 1
def sgKeyIdx (b : List Byte) : Nat := fld b 5 1
def sgCounter (b : List Byte) : Nat := fld b 6 1
def sgSvn (b : List Byte) : Nat := fld b 8 4

/-- An operator fuse slot: key hash × 4 + usage bits; 0 where blank (Table 18.9). -/
def operatorSlot (s : State) (k : Nat) : Nat := tgetD s.rep.operator k (Config.fusedSlot k)

/-- Usages of an operator key. -/
inductive KeyUse | mgmt | tables
deriving DecidableEq, Repr

def KeyUse.bit : KeyUse → Nat
  | .mgmt => 0 | .tables => 1

/-- The hash held for a class and key index has the given value, and the key the usage (Table 18.9). -/
def keyHeld (s : State) (cls idx : Nat) (use : KeyUse) (hash : Nat) : Bool :=
  if cls = 3 then
    let x := operatorSlot s idx
    decide (idx < 4) && x != 0 && x / 4 = hash && bit x use.bit
  else decide (cls < 5) && Config.keyHash cls = hash

/-- The message both signatures of a block sign (R454): "OK820 SIGN" and block bytes 0 to 63. -/
def sigMessage (b : List Byte) : List Byte :=
  [0x4F, 0x4B, 0x38, 0x32, 0x30, 0x20, 0x53, 0x49, 0x47, 0x4E] ++ b.take 64

/-- Reserved bytes of a block are zero, and KEYIDX is where the class holds one key (Table 18.8). -/
def sigForm (b : List Byte) : Bool :=
  b.length = sigLen && b.take 4 = [0x4F, 0x4B, 0x53, 0x47] && fld b 7 1 = 0 && zeroAt b 12 4 && zeroAt b 5421 19
    && (sgClass b = 3 || sgKeyIdx b = 0)

/-- The checks of R455 in order; a block that is no signature block fails the last. -/
def sigChecks (s : State) (cls : Nat) (use : KeyUse) (data b : List Byte) : List Bool :=
  let pub := (b.drop 64).take 1984
  [leNat ((b.drop 16).take 48) = Config.sha384 data,
   sgClass b = cls && keyHeld s cls (sgKeyIdx b) use (Config.sha384 pub),
   Config.sigOk (leNat pub) (sigMessage b) ((b.drop 2048).take 3373),
   sgCounter b = 0xFF || (decide (sgCounter b < 128) && decide (rollback s (sgCounter b) ≤ sgSvn b)),
   sigForm b]

/-- The number, from 1, of the first check that fails; none where the object is accepted. -/
def sigFails (s : State) (cls : Nat) (use : KeyUse) (data b : List Byte) : Option Nat :=
  ((sigChecks s cls use data b).findIdx? (fun c => !c)).map (· + 1)

/-- Bytes of a signed object before its signature block, and the block, which is its end. -/
def sigSplit (object : List Byte) : List Byte × List Byte :=
  let r := object.reverse
  ((r.drop sigLen).reverse, (r.take sigLen).reverse)

/-- Whether a signed object, its block at the end, is accepted (R455). -/
def signedOk (s : State) (cls : Nat) (use : KeyUse) (object : List Byte) : Bool :=
  let x := sigSplit object
  decide (sigLen ≤ object.length) && (sigFails s cls use x.1 x.2).isNone

end Sys2Proof.Machine
end

