-- ==== Sys2Proof/Machine/StageCmd.lean ====
section
/-! DEFINITION. Group 0x05 of the catalogue: the Stage configuration, the toll-slot table, itinerary loads and tally
initialisation (R164, R167 to R169, R174, R430). -/

namespace Sys2Proof.Machine

open Sys2Proof

/-- Every command of the group needs STAGE (Table 19.2a). -/
def stageChk (s : State) (n : Nat) (c : Cmd) : CChk := { partChk s n c with ready := s.rep.boot.stage }

/-! ### Reading an image -/

/-- Bytes of an image a command names, where its context may read them (R52, R54). -/
def imageBytes (s : State) (ctx sa n : Nat) : Option (List Byte) :=
  let off := saOff sa
  let pages := (span (off / 4096) ((off + n - 1) / 4096 - off / 4096 + 1)).map (fun p => max off (p * 4096))
  if ownStore s sa && decide (off + n ≤ 2 ^ 48) && pages.all (fun o => (homeCheck s ctx o false).isNone)
  then some (storeBytes s off n) else none

/-- Why an image cannot be used: not readable, or a line of it reads as poisoned (log 27). -/
def imageBad (s : State) (ctx sa n : Nat) : Option Nat :=
  if (imageBytes s ctx sa n).isNone then some Status.faultAccess.code
  else if (linesOf (saOff sa) n).any (poisoned s) then some Status.faultPoison.code else none

/-! ### STAGE_CONFIG and the toll-slot table -/

/-- STAGE_CONFIG (R164): checked and applied as a commit is; from now on BAR0 writes are ignored (R463). -/
def stageConfig (n : Nat) (c : Cmd) (s : State) : State :=
  let g : StgCfg :=
    { enable := c.arg 3 1 = 1, outmode := c.arg 1 1, flywheel := c.arg 2 1, vector := c.arg 10 2
      window := c.arg 8 2, nominal := c.arg 4 4 }
  let range := stgCfgOk { s with stg := { s.stg with itin := [] } } g && decide (g.vector < 2048)
  refuseOr n
    [(!range, 0x0121),
     (g.nominal != s.stg.run.nominal && !(itinRunning s).isEmpty, 0x0242)]
    (fun s => completeGen n objStage [] (ownMgmt objStage (stgApply g (updStg (fun x => { x with shadow := g }) s)))) s

def execStageConfig (mb : Nat) (s : State) : Host.Outcome State Fault Refusal :=
  .next (catalogue mb 0x0501 (fun s _ => { gen := some objStage, ready := s.rep.boot.stage }) (stageConfig mb) s)

/-- Rows of the toll-slot table (Table 6.7). -/
def tollRows : Nat := 21

/-- The 5,376 bytes of a table; an unlisted byte is 0xFF. -/
def tollBytes (t : Tab Nat) : List Byte := (List.range (tollRows * 256)).map (fun i => BitVec.ofNat 8 (tgetD t i 0xFF))

/-- SHA-384 of a table. -/
def tollDigest (t : Tab Nat) : Nat := Config.sha384 (tollBytes t)

/-- A table from its bytes. -/
def tollOf (b : List Byte) : Tab Nat :=
  ((List.range b.length).zip b).filterMap (fun x => if x.2.toNat = 0xFF then none else some (x.1, x.2.toNat))

/-- TOLL_COMMIT (R174, R430): from the next accepted boundary, or at once while no boundary is taken. -/
def tollCommit (n : Nat) (c : Cmd) (s : State) : State :=
  let b := (c.args.drop 48).take (tollRows * 256)
  let t := tollOf b
  let row := fun (r : Nat) => (b.drop (r * 256)).take 256
  let bad := fun (x : Byte) => decide (0x13 < x.toNat) && decide (x.toNat < 0xFE)
  let its := s.stg.itin.flatMap (fun x => [x.2.run, x.2.pending].filterMap id)
  refuseOr n
    [(b.any bad, 0x0121),
     ((span 8 13).any (fun r => decide (((row r).filter (fun x => x.toNat = 0xFF)).length < 2)), 0x0321),
     (its.any (fun it => it.digest != tollDigest t), 0x0442)]
    (fun s =>
      let s := if stgRuns s then updStg (fun g => { g with tollNext := some t }) s
        else updStg (fun g => { g with toll := t, tollNext := none }) s
      completeGen n objToll [] s) s

def execTollCommit (mb : Nat) (s : State) : Host.Outcome State Fault Refusal :=
  .next (catalogue mb 0x0502 (fun s _ => { gen := some objToll, ready := s.rep.boot.stage }) (tollCommit mb) s)

/-- TOLL_GET (R430). -/
def execTollGet (mb : Nat) (s : State) : Host.Outcome State Fault Refusal :=
  .next (catalogue mb 0x0503 (fun s _ => { ready := s.rep.boot.stage })
    (fun _ s => complete mb 0 (leBytes 48 (tollDigest s.stg.toll)) s) s)

/-! ### ITIN_LOAD -/

/-- A field of an entry's word (Table 6.3). -/
def entField (b : List Byte) (w hi lo : Nat) : Nat := bitsOf (fld b (8 * w) 8) hi lo

/-- An entry from its 32 bytes. -/
def entryParse (b : List Byte) : Entry :=
  { deadline := entField b 0 63 48, start := entField b 0 47 32, valid := bit (fld b 0 8) 31, publish := bit (fld b 0 8) 30
    rate := entField b 0 29 26, slot := entField b 0 25 14
    cells := entField b 1 63 44, sub := entField b 1 43 28, ukind := entField b 1 27 24
    opkind := entField b 2 63 62, opref := entField b 2 47 6 * 64
    depFirst := entField b 3 63 52, depCount := entField b 3 51 48, ralFirst := entField b 3 47 36
    ralCount := entField b 3 35 24 }

/-- The OPKIND each UKIND takes (R168). -/
def ukindOp : Nat → Option Nat
  | 0 => some 0 | 1 => some 2 | 2 => some 1 | 3 => some 1 | 4 => some 1 | 5 => some 3 | 6 => some 3
  | _ => none

/-- SUB and CELLS bits that a UKIND gives no meaning are zero (Table 6.4). -/
def maskForm (e : Entry) : Bool :=
  match e.ukind with
  | 1 => true
  | 2 => decide (e.sub < 4)
  | 5 => decide (e.sub < 256) && e.cells = 0
  | 6 => e.sub = 0 && e.cells = 0
  | _ => e.sub = 0

/-- The rules of an entry in use (R168). -/
def entryOk (s : State) (p deps rals : Nat) (b : List Byte) : Bool :=
  let e := entryParse b
  !e.valid ||
  (decide (e.start < e.deadline) && decide (e.rate ≤ 12) && decide (e.slot < 2 ^ e.rate)
    && entField b 0 13 0 = 0 && entField b 1 23 0 = 0 && entField b 2 61 48 = 0 && entField b 2 5 0 = 0
    && entField b 3 23 0 = 0
    && (maskCells e.cells).all (partCells s p).contains
    && ukindOp e.ukind = some e.opkind && maskForm e && (e.opkind = 0 || maskUnits e != [])
    && (!e.publish || e.opkind = 1)
    && decide (e.depFirst + e.depCount ≤ deps) && decide (e.ralFirst + e.ralCount ≤ rals))

/-- A sync offset of a tally word in a cell of a partition (Table 2.2). -/
def partTally (s : State) (p off : Nat) : Bool :=
  off % 8 = 0 && syncLayout off && (partCells s p).contains (off / 2 ^ 18)

/-- First descriptors of the caravans that entries issue (R357). -/
def issuedCars (es : List Entry) : List Nat :=
  es.flatMap (fun e => if e.valid && e.opkind = 3
    then (List.range (maskUnits e).length).map (fun i => e.opref + 64 * i) else [])

/-- A dependency record, where it is as R169 says. -/
def depParse (s : State) (p : Nat) (es : List Entry) (b : List Byte) : Option Dep :=
  let w := fld b 0 8
  let off := w % 2 ^ 48
  let v := fld b 8 8
  if bitsOf w 61 48 != 0 then none
  else match bitsOf w 63 62 with
    | 0 => if partTally s p off && decide (v < 2 ^ 48) then some (.tallyGe off v) else none
    | 1 => if off % 64 = 0 && v = 0 && (issuedCars es).contains off then some (.caravanDone off) else none
    | _ => none

/-- A re-alignment record as (sync offset, planned value), where it is as R169 says. -/
def ralParse (s : State) (p : Nat) (b : List Byte) : Option (Nat × Nat) :=
  let x := Sa.of (BitVec.ofNat 64 (fld b 0 8))
  let v := fld b 8 8
  if x.space = 2 && isOwn s x.dev && partTally s p x.off && decide (v < 2 ^ 48) then some (x.off, v) else none

/-- The index of the first record that conflicts with an earlier one of its word (R169). -/
def ralClash : Nat → List (Nat × Nat) → List (Nat × Nat) → Option Nat
  | _, _, [] => none
  | i, seen, r :: t => if seen.any (fun x => x.1 = r.1 && x.2 != r.2) then some i else ralClash (i + 1) (r :: seen) t

/-- The least of two indexes. -/
def firstIdx (a b : Option Nat) : Option Nat :=
  match a, b with
  | some x, some y => some (min x y)
  | some x, none => some x
  | none, y => y

/-- Cut a byte string into records of `n` bytes. -/
def recordsOf (n k : Nat) (b : List Byte) : List (List Byte) := (List.range k).map (fun i => (b.drop (n * i)).take n)

/-- An itinerary image checked (R167 to R169): the itinerary, or the status and result of the first check that fails.
An index counts within its own list, dependency records before re-alignment records (log 28). -/
def itinParse (s : State) (p : Nat) (img : List Byte) (stage : Nat) : Itin ⊕ (Nat × List Byte) :=
  let ne := fld img 0 2
  let nd := fld img 2 2
  let nr := fld img 4 2
  let idx := fun (i : Nat) => leBytes 2 i
  if decide (64 ≤ img.length) && ne = 0 then .inr (0x0021, [])
  else if img.length < 64 || 4096 < ne || 4096 < nd || 4096 < nr || !zeroAt img 6 2 || bitsOf (fld img 8 4) 31 27 != 0
      || !zeroAt img 12 4 || img.length < 64 + 32 * ne + 16 * nd + 16 * nr then .inr (0x0521, [])
  else
    let eb := recordsOf 32 ne (img.drop 64)
    let db := recordsOf 16 nd (img.drop (64 + 32 * ne))
    let rb := recordsOf 16 nr (img.drop (64 + 32 * ne + 16 * nd))
    let es := eb.map entryParse
    let deps := db.map (depParse s p es)
    let rals := rb.map (ralParse s p)
    let good := rals.filterMap id
    let m := mbxOf s (p + 1)
    let owns := fun (r : Nat × Nat) => (m.dbTally != 0 && r.1 = saOff m.dbTally) || (m.cqTally != 0 && r.1 = saOff m.cqTally)
    match eb.findIdx? (fun b => !entryOk s p nd nr b) with
    | some i => .inr (0x0621, idx i)
    | none => match deps.findIdx? Option.isNone with
      | some i => .inr (0x0721, idx i)
      | none => match firstIdx (rals.findIdx? Option.isNone) (ralClash 0 [] (rals.map (fun r => r.getD (0, 0)))) with
        | some i => .inr (0x0721, idx i)
        | none =>
          if fld img 8 4 != s.stg.run.nominal then .inr (0x0842, [])
          else if fld img 16 48 != tollDigest s.stg.toll then .inr (0x0942, [])
          else if good.any owns then .inr (0x0A21, [])
          else .inl { entries := es, deps := deps.filterMap id, rals := good, digest := fld img 16 48
                      image := Config.sha384 img
                      stage := if stage = 0 then none else some stage }

/-- ITIN_LOAD (R167, R430): the itinerary becomes pending, in place of one that was. -/
def itinLoad (n : Nat) (c : Cmd) (s : State) : State :=
  let len := c.arg 4 4
  if len = 0 then complete n 0x0021 [] s
  else match imageBad s c.ctx (c.arg 8 8) len with
    | some st => complete n st [] s
    | none => match itinParse s c.part (storeBytes s (saOff (c.arg 8 8)) len) (c.arg 16 6) with
      | .inl it => complete n 0 [] (updItin c.part (fun t => { t with pending := some it }) s)
      | .inr x => complete n x.1 x.2 s

def execItinLoad (mb : Nat) (s : State) : Host.Outcome State Fault Refusal :=
  .next (catalogue mb 0x0504 (fun s c => stageChk s mb c) (itinLoad mb) s)

/-- ITIN_START (R162, R430): at the next accepted boundary. -/
def execItinStart (mb : Nat) (s : State) : Host.Outcome State Fault Refusal :=
  .next (catalogue mb 0x0505 (fun s c =>
      let t := itinOf s c.part
      { stageChk s mb c with exist := (partOf s c.part).isSome && (t.isHeld || t.pending.isSome) })
    (fun c s => complete mb 0 [] (updItin c.part (fun t => { t with startReq := true }) s)) s)

/-- ITIN_STOP (R430): at the next boundary. -/
def execItinStop (mb : Nat) (s : State) : Host.Outcome State Fault Refusal :=
  .next (catalogue mb 0x0506 (fun s c => stageChk s mb c)
    (fun c s => complete mb 0 [] (updItin c.part (fun t => { t with stopReq := true }) s)) s)

/-! ### TALLY_INIT and STAGE_GET -/

/-- Write one tally word whole (R430): its waiters are evaluated again; one that checks EPOCH and no longer matches ends
with FAULT_SYNC. -/
def tallyWrite (v : BitVec 64) (word : Nat) (s : State) : State :=
  let s := setTally word v s
  let ends := fun (x : TWait) => x.word = word && waitChecks x.op && !tNochk x.operand && tEpoch x.operand != tEpoch v
  let gone := s.sync.waiters.filter ends
  let s := { s with sync := { s.sync with waiters := s.sync.waiters.filter (fun x => !ends x) } }
  wake word (gone.foldl (fun s x => endWait x .faultSync s) s)

/-- TALLY_INIT (R430). -/
def tallyInit (n : Nat) (c : Cmd) (s : State) : State :=
  let k := c.arg 4 4
  let x := Sa.of (BitVec.ofNat 64 (c.arg 8 8))
  let inCell := x.space = 2 && isOwn s x.dev && partTally s c.part x.off && decide (x.off % 2 ^ 18 + 8 * k ≤ 2 ^ 18)
  if k = 0 then complete n Status.doneEmpty.code [] s
  else refuseOr n [(!inCell, 0x0B21)]
    (fun s => complete n 0 []
      ((List.range k).foldl (fun s i => tallyWrite (BitVec.ofNat 64 (c.arg 16 8)) (x.off / 8 + i) s) s)) s

def execTallyInit (mb : Nat) (s : State) : Host.Outcome State Fault Refusal :=
  .next (catalogue mb 0x0507 (fun s c => stageChk s mb c) (tallyInit mb) s)

/-- STATE of STG_STATUS (Table 6.12). -/
def StgSt.code : StgSt → Nat
  | .off => 0 | .acquire => 1 | .locked => 2 | .flywheel => 3 | .lost => 4

/-- STG_STATUS (Table 6.12). -/
def stgStatus (s : State) : Nat :=
  let pend := s.stg.itin.any (fun x => x.2.pending.isSome)
  s.stg.st.code * 2 ^ 61 + min s.stg.missed 65 * 2 ^ 48 + (if s.stg.st = .acquire then min s.stg.good 3 else 0) * 2 ^ 42
    + b2n s.stg.ptmValid * 2 ^ 41 + b2n pend * 2 ^ 20 + maskBits ((itinRunning s).filter (· < 20))

/-- STG_ESTIMATE (R159); the intervals of ACQUIRE span no accepted boundary yet. -/
def stgEstimate (s : State) : Nat := if s.stg.st = .acquire then 0 else est10 s.stg

/-- STAGE_GET (R430). -/
def execStageGet (mb : Nat) (s : State) : Host.Outcome State Fault Refusal :=
  .next (catalogue mb 0x0508 (fun s _ => { ready := s.rep.boot.stage })
    (fun _ s => complete mb 0 (leBytes 8 (stgNow s) ++ leBytes 8 (stgStatus s) ++ leBytes 4 (stgEstimate s)) s) s)

end Sys2Proof.Machine
end

