-- ==== Sys2Proof/Machine/Fabric.lean ====
section
/-! DEFINITION. Groups 0x06 and 0x09 of the catalogue: launches (R431), the store's devices and routes, port settings,
sync mode, timers and FRB (R150, R371, R379 to R382, R434). -/

namespace Sys2Proof.Machine

open Sys2Proof

/-! ### LAUNCH and ISSUE -/

/-- Why descriptors at an SA cannot be read: as an ISSUE instruction of the command's context (Table 2.12). -/
def descArg (s : State) (ctx sa : Nat) : Option Nat :=
  if !ownStore s sa then some Status.faultAccess.code
  else if saOff sa % 64 != 0 then some Status.faultAlign.code
  else (homeCheck s ctx (saOff sa) false).map Status.code

/-- Cells of the cores that an array of group descriptors names. -/
def launchCells (s : State) (off n : Nat) : List Nat :=
  if 320 < n then []
  else ((List.range n).map (fun i => gCore (storeBytes s (off + 64 * i) 64) / 16)).filter (· < 20)

/-- LAUNCH (R191, R192, R431). -/
def launchCmd (n : Nat) (c : Cmd) (s : State) : State :=
  let k := c.arg 4 4
  if k = 0 then complete n Status.doneEmpty.code [] s
  else match descArg s c.ctx (c.arg 8 8) with
    | some st => complete n st [] s
    | none =>
      let r := launchMany c.part (saOff (c.arg 8 8)) k none s
      complete n r.1.1.code (leBytes 4 r.1.2) r.2

def execLaunchCmd (mb : Nat) (s : State) : Host.Outcome State Fault Refusal :=
  .next (dp (catalogue mb 0x0601 (fun s c =>
    { partChk s mb c with ready := cellsReady s (launchCells s (saOff (c.arg 8 8)) (c.arg 4 4)) }) (launchCmd mb)) s)

/-- The cell of a unit as ISSUE names it (R197). -/
def issueCells (unit : Nat) : List Nat :=
  match issueTo (unit / 4096) with
  | some (.matrix, _) => [unit % 4096 / 2].filter (· < 20)
  | some (.porter, _) => [unit % 4096].filter (· < 20)
  | some (.assay, _) => [unit % 4096].filter (· < 20)
  | _ => []

/-- ISSUE (Table 7.10, R431). -/
def issueCmd (n : Nat) (c : Cmd) (s : State) : State :=
  match descArg s c.ctx (c.arg 8 8) with
  | some st => complete n st [] s
  | none =>
    let r := issueOut s c.part (c.arg 2 2) (saOff (c.arg 8 8)) none none
    complete n r.1.code [] r.2

def execIssueCmd (mb : Nat) (s : State) : Host.Outcome State Fault Refusal :=
  .next (dp (catalogue mb 0x0602 (fun s c =>
    { partChk s mb c with ready := cellsReady s (issueCells (c.arg 2 2)) }) (issueCmd mb)) s)

/-! ### Devices, routes, ports -/

/-- STORE_SET (R27, R150, R434). Device number 4,095 is the alias of R27, so its bit is no device. -/
def storeSet (n : Nat) (c : Cmd) (s : State) : State :=
  let d := c.arg 0 2
  let bits := (c.args.drop 48).take 512
  let on := fun (i : Nat) => bit (bits.getD (i / 8) 0).toNat (i % 8)
  let devs := (List.range 4096).filter on
  refuseOr n
    [(decide (4094 < d) || !on d || on 4095, 0x0121),
     (!s.sync.feMode && decide (8 < devs.length), 0x0242),
     (d != s.parts.devNo && ((List.range 8).any (portActive s) || s.parts.live != []), 0x0360)]
    (fun s => completeGen n objStore [] { s with parts := { s.parts with devNo := d, assigned := devs } }) s

def execStoreSet (mb : Nat) (s : State) : Host.Outcome State Fault Refusal :=
  .next (catalogue mb 0x0901 (fun _ _ => { gen := some objStore }) (storeSet mb) s)

/-- ROUTE_SET (R371): 4,096 entries of 4 B. -/
def routeSet (n : Nat) (c : Cmd) (s : State) : State :=
  let b := c.args.drop 48
  let es := (List.range 4096).map (fun i => fld b (4 * i) 4)
  let bad := fun (v : Nat) => bitsOf v 30 12 != 0 || bitsOf v 7 3 != 0
  let routes := ((List.range 4096).zip es).filterMap (fun (x : Nat × Nat) =>
    if bit x.2 31 then some (x.1, ({ stages := bitsOf x.2 11 8, port := bitsOf x.2 2 0 } : Route)) else none)
  refuseOr n [(es.any bad, 0x0421)]
    (fun s => completeGen n objRoute [] { s with car := { s.car with routes := routes } }) s

def execRouteSet (mb : Nat) (s : State) : Host.Outcome State Fault Refusal :=
  .next (catalogue mb 0x0902 (fun _ _ => { gen := some objRoute }) (routeSet mb) s)

/-- PORT_CONFIG (R337, R340, R372, R434); ENABLE stays. -/
def portConfig (n : Nat) (c : Cmd) (s : State) : State :=
  let p := c.arg 1 1
  let x := c.arg 5 1
  let m := c.arg 6 1
  let serBad := m = 0 || decide (9 < m) || decide (m * 10 ^ 6 < 10 ^ x) || decide (10 ^ x < m * 10 ^ 3)
  let win := c.arg 10 2
  let kib := c.arg 12 1
  refuseOr n
    [(decide (15 < c.arg 3 1) || decide (127 < c.arg 4 1) || decide (4095 < c.arg 8 2) || serBad
        || decide (win < 10) || decide (200 < win) || decide (kib < 4) || decide (64 < kib), 0x0121),
     (portActive s p && c.arg 8 2 != (port s p).cfg.sptag, 0x0560)]
    (fun s => completeGen n (objPort p) [] (updPort p (fun y => { y with
      cfg := { y.cfg with remapEn := bit (c.arg 2 1) 0, coherent := bit (c.arg 2 1) 1, serExp := x, serMant := m
                          sptag := c.arg 8 2, modAddr := c.arg 4 1, wavelength := c.arg 3 1 }
      serWindow := win, serBytes := kib }) s)) s

def execPortConfig (mb : Nat) (s : State) : Host.Outcome State Fault Refusal :=
  .next (catalogue mb 0x0903 (fun s c =>
    { exist := decide (c.arg 1 1 < 8), gen := some (objPort (c.arg 1 1)), ready := s.rep.boot.ports.getLsbD (c.arg 1 1) })
    (portConfig mb) s)

/-- SYNC_MODE (R150): 0 monitor, 1 full/empty. -/
def syncModeSet (n : Nat) (c : Cmd) (s : State) : State :=
  let m := c.arg 1 1
  refuseOr n [(decide (1 < m), 0x0021), (m = 0 && decide (8 < s.parts.assigned.length), 0x0242)]
    (fun s => completeGen n objSyncMode [] { s with sync := { s.sync with feMode := m = 1 } }) s

def execSyncMode (mb : Nat) (s : State) : Host.Outcome State Fault Refusal :=
  .next (catalogue mb 0x0905 (fun _ _ => { gen := some objSyncMode }) (syncModeSet mb) s)

/-- FABRIC_TIMERS (R125, R364). -/
def fabricTimers (n : Nat) (c : Cmd) (s : State) : State :=
  let b := c.arg 4 4
  let a := c.arg 8 4
  refuseOr n [(decide (b < 10) || decide (100000 < b) || decide (a < 100) || decide (1000000 < a), 0x0121)]
    (fun s =>
      let s := { s with sync := { s.sync with beaconHold := b * 1000 }, car := { s.car with ackTimeout := a * 1000 } }
      completeGen n objTimers [] s) s

def execFabricTimers (mb : Nat) (s : State) : Host.Outcome State Fault Refusal :=
  .next (catalogue mb 0x0906 (fun _ _ => { gen := some objTimers }) (fabricTimers mb) s)

/-! ### FRB -/

/-- Key of a table set. -/
def frbTableKey (p t : Nat) : Nat := p * 2 ^ 32 + t
/-- Key of a stream. -/
def frbKey (p st : Nat) : Nat := p * 64 + st

/-- Table sets a partition holds. -/
def frbHeld (s : State) (p : Nat) : Nat := (s.car.tables.filter (fun x => x.1 / 2 ^ 32 = p)).length

/-- FRB_TABLE_LOAD (R379, R380). -/
def frbTableLoad (n : Nat) (c : Cmd) (s : State) : State :=
  let p := c.part
  let len := c.arg 4 4
  if len = 0 then complete n 0x0021 [] s
  else match imageBad s c.ctx (c.arg 8 8) len with
    | some st => complete n st [] s
    | none =>
      let obj := storeBytes s (saOff (c.arg 8 8)) len
      let img := (sigSplit obj).1
      let old := tget (frbTableKey p (fld img 4 4)) s.car.tables
      if !signedOk s 3 .tables obj then complete n Status.invalidArg.code [] s
      else if (old.map FrbTable.image) = some img then complete n 0 (leBytes 4 (fld img 4 4)) s
      else match frbParse img with
        | none => complete n (if frbHeld s p < 16 then Status.invalidArg.code else Status.quota.code) [] s
        | some (id, t) =>
          if 16 ≤ frbHeld s p then complete n Status.quota.code [] s
          else if old.isSome then complete n Status.conflict.code [] s
          else complete n 0 (leBytes 4 id)
            { s with car := { s.car with tables := tput (frbTableKey p id) t s.car.tables } }

def execFrbTableLoad (mb : Nat) (s : State) : Host.Outcome State Fault Refusal :=
  .next (catalogue mb 0x0907 (fun s c => partChk s mb c) (frbTableLoad mb) s)

/-- FRB_TABLE_FREE (R380). -/
def frbTableFree (n : Nat) (c : Cmd) (s : State) : State :=
  let p := c.part
  let named := s.car.frb.any (fun x => x.1 / 64 = p && x.2.table = c.arg 4 4)
  refuseOr n [(named, Status.busy.code)]
    (fun s => complete n 0 [] { s with car := { s.car with tables := tdel (frbTableKey p (c.arg 4 4)) s.car.tables } }) s

def execFrbTableFree (mb : Nat) (s : State) : Host.Outcome State Fault Refusal :=
  .next (catalogue mb 0x0908 (fun s c =>
    { partChk s mb c with
      exist := (partOf s c.part).isSome && (tget (frbTableKey c.part (c.arg 4 4)) s.car.tables).isSome })
    (frbTableFree mb) s)

/-- Descriptors of the legs of a chain that its carrier has not read, from the first, as they stand in the store. -/
def chainDescs (s : State) : Nat → Nat → List (List Byte)
  | 0, _ => []
  | k + 1, off =>
    if off = 0 || (allocAt s off).isNone then []
    else
      let d := storeBytes s off 64
      d :: chainDescs s k (lNext d)

/-- A leg of a stream of a partition is queued or running (R381): 65,536 legs of each chain are looked at (log 29). -/
def frbBusy (s : State) (p st : Nat) : Bool :=
  match tget (frbKey p st) s.car.frb with
  | none => false
  | some f =>
    let hits := fun (d : List Byte) => lFrb d && lFrbStream s p f.port d = some f
    let queued := (unitOps s .port f.port).filter (fun o => o.part = p && o.st = .queued)
    let cars := (s.car.cars.map Prod.snd).filter (fun k => k.kind = .port && k.unit = f.port && k.part = p)
    queued.any (fun o => (chainDescs s 65536 (saOff o.sa)).any hits)
      || cars.any (fun k => k.legs.any (fun l => l.st != .written && hits l.desc) || (chainDescs s 65536 k.next).any hits)

/-- Free a stream's residual. -/
def frbDrop (p st : Nat) (s : State) : State :=
  match tget (frbKey p st) s.car.frb with
  | none => s
  | some f =>
    let s := match f.resid with
      | some b => freeAlloc b s
      | none => s
    { s with car := { s.car with frb := tdel (frbKey p st) s.car.frb } }

/-- The residual of a stream (R382): placed HBM of the device's own, charged to the partition. -/
def frbResid (s : State) (p es len : Nat) : Alloc :=
  { size := blockSize (len / es * 4), tier := .hbm, cells := partCells s p, ctx := 0, part := p }

/-- Placed HBM fits the partition's quota and its stacks (R85). -/
def placedFits (s : State) (p : Nat) (al : Alloc) : Bool :=
  let q := ((partOf s p).map Part.q).getD 0
  decide (partPlaced s p + nblk al.size + q ≤ partFrames s p) && al.cells.all (fun x => decide (allocShare al x ≤ stackRoom s x))

/-- FRB_STREAM_SET (R381, R382). -/
def frbStreamSet (n : Nat) (c : Cmd) (s : State) : State :=
  let p := c.part
  let st := c.arg 1 1
  let sfmt := c.arg 3 1
  let es := frbEs sfmt
  let base := saOff (c.arg 8 8)
  let len := c.arg 16 8
  let ef := c.arg 24 1 = 1
  let overI := s.car.frb.any (fun x => x.1 / 64 = p && x.1 != frbKey p st
    && decide (x.2.base < base + len) && decide (base < x.2.base + x.2.length))
  let freed := frbDrop p st s
  let al := frbResid s p es len
  refuseOr n
    [(len = 0, Status.invalidArg.code),
     (decide (63 < st) || decide (7 < c.arg 2 1) || !holdsSlot s p (c.arg 2 1) || decide (1 < sfmt)
        || (tget (frbTableKey p (c.arg 4 4)) s.car.tables).isNone || !ownStore s (c.arg 8 8) || base % (256 * es) != 0
        || len % (256 * es) != 0 || decide (2 ^ 48 < base + len) || overI, Status.invalidArg.code),
     (frbBusy s p st, Status.busy.code),
     (ef && !placedFits freed p al, Status.quota.code)]
    (fun s =>
      let s := frbDrop p st s
      let r := if ef then makeAlloc al s else (none, s)
      if ef && r.1.isNone then complete n Status.quota.code [] r.2
      else
        let s := if ef then al.cells.foldl (fun s x => clearStack (managedFrames s x) x s) r.2 else r.2
        let f : FrbStream := { port := c.arg 2 1, sfmt := sfmt, table := c.arg 4 4, base := base, length := len, ef := ef
                               resid := r.1 }
        completeGen n (objFrb p st) [] { s with car := { s.car with frb := tput (frbKey p st) f s.car.frb } }) s

def execFrbStreamSet (mb : Nat) (s : State) : Host.Outcome State Fault Refusal :=
  .next (catalogue mb 0x0909 (fun s c =>
    { partChk s mb c with
      gen := some (objFrb c.part (c.arg 1 1))
      ready := decide (7 < c.arg 2 1) || s.rep.boot.ports.getLsbD (c.arg 2 1) }) (frbStreamSet mb) s)

/-- Checks of FRB_STREAM_FREE and FRB_STREAM_CLEAR: the stream exists. -/
def frbChk (s : State) (n : Nat) (c : Cmd) : CChk :=
  { partChk s n c with
    exist := (partOf s c.part).isSome && decide (c.arg 1 1 < 64) && (tget (frbKey c.part (c.arg 1 1)) s.car.frb).isSome }

/-- FRB_STREAM_FREE (R381): the generation returns to 0 (Table 17.1a). -/
def execFrbStreamFree (mb : Nat) (s : State) : Host.Outcome State Fault Refusal :=
  .next (catalogue mb 0x090A (fun s c => frbChk s mb c)
    (fun c s => refuseOr mb [(frbBusy s c.part (c.arg 1 1), Status.busy.code)]
      (fun s => complete mb 0 [] (setGen (objFrb c.part (c.arg 1 1)) 0 (frbDrop c.part (c.arg 1 1) s))) s) s)

/-- FRB_STREAM_CLEAR (R382): the residual reads as zero. -/
def frbClear (p st : Nat) (s : State) : State :=
  match (tget (frbKey p st) s.car.frb).bind FrbStream.resid with
  | none => s
  | some b => match tget b s.store.allocs with
    | none => s
    | some al => scrubBlocks (allocBlocks b al) s

def execFrbStreamClear (mb : Nat) (s : State) : Host.Outcome State Fault Refusal :=
  .next (catalogue mb 0x090B (fun s c => frbChk s mb c)
    (fun c s => refuseOr mb [(frbBusy s c.part (c.arg 1 1), Status.busy.code)]
      (fun s => complete mb 0 [] (frbClear c.part (c.arg 1 1) s)) s) s)

end Sys2Proof.Machine
end

