-- ==== Sys2Proof/Machine/Security.lean ====
section
/-! DEFINITION. Group 0x0A of the catalogue: attestation, sealed keys, firmware staging and key slots (R435, R446 to R448,
R453, R456, R457). -/

namespace Sys2Proof.Machine

open Sys2Proof

/-! ### Writing to a command's buffer -/

/-- Whether a command's context may write a buffer: a store SA of this device; on MB0 a host bus address always. -/
def bufferOk (s : State) (n ctx sa len : Nat) : Bool :=
  if n = 0 then true
  else
    let off := saOff sa
    let pages := (span (off / 4096) ((off + len - 1) / 4096 - off / 4096 + 1)).map (fun p => max off (p * 4096))
    ownStore s sa && decide (off + len ≤ 2 ^ 48) && pages.all (fun o => (homeCheck s ctx o true).isNone)

/-- Write bytes to a command's buffer. -/
def bufferWrite (n sa : Nat) (b : List Byte) (s : State) : State :=
  if n = 0 then emit (.hostWr sa b) s else devWrite (saOff sa) b s

/-! ### ATTEST -/

/-- A SHA-384 over a content whose layout is not stated: a free value of the kind and of what it measures (log 30). -/
def measureFree (l : List Nat) : Nat := Config.freeOf 130 l % 2 ^ 384

def ctxNums (c : Nat × Ctx) : List Nat :=
  [c.1, c.2.part, c.2.keyslot, c.2.ingress.toNat, b2n c.2.translate, c.2.mirrorHdr, c.2.root]

/-- Quarantined physical units (R476). -/
def quarantineList (s : State) : List Nat := (s.eng.units.filter (fun x => x.2.quarantined)).map Prod.fst

/-- Digest of the running image: as FW_STAGE recorded it, else a free value of its slot and SVN. -/
def imageDigest (s : State) : Nat :=
  match tget s.rep.boot.slot s.rep.images with
  | some x => x.2
  | none => measureFree [2, s.rep.boot.slot, s.rep.boot.svn]

/-- Measurements of the device: (kind, subject, digest) (R457). -/
def deviceMeasures (s : State) : List (Nat × Nat × Nat) :=
  let c := s.stg.run
  [(0x01, 0, measureFree [1]),
   (0x02, 0, imageDigest s),
   (0x03, 0, measureFree (3 :: (List.range 128).map (rollback s) ++ (List.range 4).map (operatorSlot s) ++ quarantineList s)),
   (0x04, 0, measureFree (4 :: (List.range 320).map (coreSlot s) ++ (List.range 40).map (mxuSlot s) ++ s.eng.unbound)),
   (0x05, 0, tollDigest s.stg.toll),
   (0x06, 0, measureFree [6, b2n c.enable, c.outmode, c.flywheel, c.vector, c.window, c.nominal]),
   (0x07, 0, measureFree (7 :: s.parts.devNo :: s.parts.assigned
      ++ s.car.routes.flatMap (fun (x : Nat × Route) => [x.1, x.2.stages, x.2.port])))]

/-- Measurements of a partition. -/
def partMeasures (s : State) (p : Nat) (x : Part) : List (Nat × Nat × Nat) :=
  let ctxs := s.xlt.ctxs.filter (fun c => c.2.part = p)
  let segs := (s.host.segs.toList.zip (List.range 16)).filter (fun w => w.1.bound && ctxPart s w.1.ctx = some p)
  [(0x10, p, measureFree [0x10, p, maskBits x.cells, x.q, x.retryLimit, x.shadowMax, x.ownerCtx]),
   (0x11, p, Config.sha384 x.sealKeys),
   (0x12, p, measureFree (0x12 :: ctxs.flatMap ctxNums))]
  ++ (((itinOf s p).run.map (fun it => [(0x13, p, it.image)])).getD [])
  ++ (s.car.tables.filter (fun t => t.1 / 2 ^ 32 = p)).map (fun t => (0x14, t.1 % 2 ^ 32, Config.sha384 t.2.image))
  ++ (s.dep.members.filter (fun m => m.2.part = p)).map (fun m => (0x15, m.2.depot, m.2.digest))
  ++ [(0x16, p, measureFree (0x16 :: segs.flatMap (fun w => [w.2, w.1.ctx, w.1.base, w.1.space])))]

/-- Measurement entries of a report. -/
def measures (s : State) (p : Nat) : List (Nat × Nat × Nat) :=
  deviceMeasures s ++ ((partOf s p).map (partMeasures s p)).getD []

/-- An attestation report (Table 18.10); the sequence of an entry is its place (log 30). -/
def attestReport (s : State) (p : Nat) (nonce : List Byte) : List Byte :=
  let ms := measures s p
  let entry := fun (i : Nat) (m : Nat × Nat × Nat) =>
    leBytes 1 m.1 ++ leBytes 3 0 ++ leBytes 4 i ++ leBytes 8 m.2.1 ++ leBytes 48 m.2.2
  let body := [0x4F, 0x4B, 0x41, 0x54] ++ leBytes 2 1 ++ leBytes 2 ms.length ++ leBytes 4 (128 + 64 * ms.length + sigLen)
    ++ leBytes 4 0x00010200 ++ leBytes 8 Config.fusedSerial ++ leBytes 2 s.parts.devNo ++ leBytes 1 p ++ leBytes 1 0
    ++ leBytes 4 s.rep.epoch ++ padTo 32 nonce ++ leBytes 1 (rollback s 0) ++ leBytes 1 (rollback s 1)
    ++ leBytes 1 (rollback s 2) ++ leBytes 61 0
    ++ (((List.range ms.length).zip ms).flatMap (fun x => entry x.1 x.2))
  body ++ sigBlock body

/-- ATTEST (R457). -/
def attest (n : Nat) (c : Cmd) (s : State) : State :=
  let r := attestReport s c.part ((c.args.drop 16).take 32)
  if c.arg 4 4 < r.length then complete n 0x0121 (leBytes 4 r.length) s
  else if !bufferOk s n c.ctx (c.arg 8 8) r.length then complete n Status.faultAccess.code [] s
  else complete n 0 (leBytes 4 r.length) (bufferWrite n (c.arg 8 8) r s)

def execAttest (mb : Nat) (s : State) : Host.Outcome State Fault Refusal :=
  .next (catalogue mb 0x0A01 (fun s c =>
    { partChk s mb c with exist := c.part = 0xFF || (partOf s c.part).isSome, ready := s.rep.boot.ledger }) (attest mb) s)

/-! ### WAYBILL_KEY_SEAL -/

/-- Bytes of the allocation that remain from a store offset: the room of a buffer. -/
def bufferRoom (s : State) (n sa : Nat) : Nat :=
  if n = 0 then 2 ^ 64
  else match allocAt s (saOff sa) with
    | some (b, al) => b + al.extent - saOff sa
    | none => 0

/-- WAYBILL_KEY_SEAL (R453): a buffer is short where its allocation ends before the blob does (log 32). -/
def keySeal (n : Nat) (c : Cmd) (s : State) : State :=
  match partOf s c.part with
  | none => s
  | some x =>
    let d := draw s
    let b := sealBlob s c.part x d.1
    if n != 0 && !ownStore s (c.arg 8 8) then complete n Status.faultAccess.code [] s
    else if bufferRoom s n (c.arg 8 8) < b.length then complete n 0x0121 (leBytes 4 b.length) s
    else if !bufferOk s n c.ctx (c.arg 8 8) b.length then complete n Status.faultAccess.code [] s
    else complete n 0 (leBytes 4 b.length) (bufferWrite n (c.arg 8 8) b d.2)

def execWaybillKeySeal (mb : Nat) (s : State) : Host.Outcome State Fault Refusal :=
  .next (catalogue mb 0x0A02 (fun s c => partChk s mb c) (keySeal mb) s)

/-! ### FW_STAGE -/

/-- FW_STAGE (R456, R467): the image of the command's PMP session is written to the slot not running, which is preferred
from the next reset on. -/
def fwStage (n : Nat) (c : Cmd) (s : State) : State :=
  let len := c.arg 4 4
  let img := tgetD s.pmp.image c.session []
  let x := sigSplit img
  let checks := sigChecks s 0 .mgmt x.1 x.2
  let good := img.length = len && decide (sigLen ≤ len)
    && ((checks.zip (List.range 5)).all (fun y => y.1 || y.2 = 3)) && sgCounter x.2 = 0
  let slot := 1 - s.rep.boot.slot
  refuseOr n
    [(len = 0 || decide (2 ^ 23 < len), 0x0021),
     (!good, 0x0221),
     (decide (sgSvn x.2 < rollback s 0), 0x0342),
     (Config.sha384 img != c.arg 8 48, 0x0421)]
    (fun s => complete n 0 [] { s with
      rep := { s.rep with images := tput slot (sgSvn x.2, Config.sha384 x.1) s.rep.images, preferred := slot }
      pmp := { s.pmp with image := tdel c.session s.pmp.image } }) s

def execFwStage (mb : Nat) (s : State) : Host.Outcome State Fault Refusal :=
  .next (catalogue mb 0x0A03 (fun _ _ => {}) (fwStage mb) s)

/-! ### Key slots -/

/-- KEYSLOT_ALLOC (R447): which free slot is open (log 3). -/
def keyAlloc (n : Nat) (c : Cmd) (s : State) : State :=
  let free := (List.range 64).filter (fun k => (s.parts.keys.getD k {}).st = .free)
  match pickFree free s with
  | (none, s) => complete n 0x0523 [] s
  | (some k, s) => complete n 0 (leBytes 1 k) (issueSlot k c.part s)

def execKeyslotAlloc (mb : Nat) (s : State) : Host.Outcome State Fault Refusal :=
  .next (catalogue mb 0x0A04 (fun s c => partChk s mb c) (keyAlloc mb) s)

/-- KEYSLOT_RETIRE (R448, Table 18.4): the state of the slot is looked at before the contexts that name it (log 33). -/
def keyRetire (n : Nat) (c : Cmd) (s : State) : State :=
  let k := c.arg 1 1
  let st := (s.parts.keys.getD k {}).st
  if st = .retired then complete n 0 [] s
  else refuseOr n
    [(st = .draining, 0x0860), (s.xlt.ctxs.any (fun x => x.2.keyslot = k), 0x0660)]
    (fun s => complete n 0 [] (sweepKeys (retireSlot k s))) s

def execKeyslotRetire (mb : Nat) (s : State) : Host.Outcome State Fault Refusal :=
  .next (catalogue mb 0x0A05 (fun s c =>
    let k := s.parts.keys.getD (c.arg 1 1) {}
    { exist := (partOf s c.part).isSome && decide (c.arg 1 1 < 64) && k.st != .free && (mb != 0 || k.part = c.part)
      mine := c.part + 1 = mb && k.part = c.part }) (keyRetire mb) s)

end Sys2Proof.Machine
end

