-- ==== Sys2Proof/Machine/Ledger.lean ====
section
/-! DEFINITION. The repair ledger (R473 to R476, R478): its entries as bytes, writing, compaction, and the merge and replay
of bring-up. -/

namespace Sys2Proof.Machine

open Sys2Proof

def updRep (f : Rep → Rep) (s : State) : State := { s with rep := f s.rep }

/-- A ledger entry as its 64 bytes (Table 19.3). -/
def ledgerBytes (e : LedEnt) : List Byte :=
  let b := leBytes 4 e.seq ++ leBytes 1 e.type ++ leBytes 1 e.cause ++ leBytes 2 e.unit ++ leBytes 1 e.cell
    ++ leBytes 1 e.target ++ leBytes 2 e.logical ++ leBytes 4 e.epoch ++ leBytes 8 e.object ++ leBytes 8 e.detail
    ++ leBytes 24 0
  b ++ leBytes 8 (crc64 b)

/-- Channels whose target 0 is admitted (R473). -/
def ledgerChannels (s : State) : List Nat :=
  (List.range 20).filter (fun c => (s.store.flash.getD c {}).admitted.getLsbD 0)

/-- A mask of channels. -/
def chMask (l : List Nat) : BitVec 20 := BitVec.ofNat 20 ((l.eraseDups.map (2 ^ ·)).sum)

/-! ### Writing -/

/-- A self-test that quarantined its unit is reported once its entry stands in the ledger (R436, R474). -/
def testReport (s : State) (t : SelfTest) : Bool :=
  t.cmd != [] && decide (2 ≤ t.state) && !(t.state = 3 && (match t.unit with
    | .phys u => s.rep.writes.any (fun w => w.ent.type = 0x02 && w.ent.unit = u)
    | .bank c b => s.rep.writes.any (fun w => w.ent.type = 0x07 && w.ent.cell = c && w.ent.object = b)))

/-- Post the ASYNC records of ended self-tests (R436): state, failure detail, TEST_ID. -/
def testReports (s : State) : State :=
  let ready := s.rep.tests.filter (testReport s)
  let s := updRep (fun r => { r with tests := r.tests.map (fun t => if testReport s t then { t with cmd := [] } else t) }) s
  ready.foldl (fun s t => asyncRecord 21 t.cmd 0
    (leBytes 1 t.state ++ leBytes 3 0 ++ leBytes 4 t.detail ++ leBytes 4 t.id) s) s

/-- Write the entry at the head of the queue to the channels among `ok` that can take it (R473, R474). With none, LEDGER_FAIL
is raised and the change stays in force. -/
def ledgerTake (ok : List Nat) (s : State) : State :=
  match s.rep.writes with
  | [] => s
  | w :: rest =>
    let took := (ledgerChannels s).filter (fun c => ok.contains c)
    if took.isEmpty then
      let s := updRep (fun r => { r with fail := true, writes := { w with since := s.wall } :: rest }) s
      evPlatform 3 0 0 s
    else
      let s := updRep (fun r => { r with
        ledger := r.ledger ++ [{ w.ent with seq := r.seq }], seq := r.seq + 1, writes := rest, fail := false
        copies := r.copies &&& chMask took }) s
      testReports (match w.mb with | some n => complete n 0 [] s | none => s)

/-- LEDGER_WRITE (R474): within 10 ms of a repair; a write that failed waits for its retry. -/
def execLedgerWrite (ok : List Nat) (s : State) : Host.Outcome State Fault Refusal :=
  .next (dp (fun s => if s.rep.boot.ledger && !s.rep.fail then ledgerTake ok s else s) s)

/-- LEDGER_RETRY (R474): 1 s after a write that no channel took. -/
def execLedgerRetry (ok : List Nat) (s : State) : Host.Outcome State Fault Refusal :=
  .next (dp (fun s =>
    if s.rep.boot.ledger && s.rep.fail then
      ledgerTake ok (reachWall ((s.rep.writes.headD { ent := { type := 0, cause := 0 }, since := 0, mb := none }).since + 10 ^ 9) s)
    else s) s)

/-! ### What is in force -/

/-- KIND of an entry's unit. -/
def LedEnt.kind (e : LedEnt) : Nat := e.unit / 4096

/-- A later entry that supersedes an earlier one (R475): a binding of the same logical unit, a quarantine or lift of the same
unit, an enrolment of the same target. -/
def superseded (e later : LedEnt) : Bool :=
  let binds := fun (x : LedEnt) => x.type = 0x01 || x.type = 0x04 || (x.type = 0x03 && x.logical != 0xFFFF)
  let sameTarget := later.cell = e.cell && later.target = e.target
  match e.type with
  | 0x01 | 0x04 => binds later && later.logical = e.logical && later.kind = e.kind
  | 0x02 => (later.type = 0x02 || later.type = 0x03) && later.unit = e.unit
  | 0x08 | 0x09 | 0x0A => later.type = 0x0A && sameTarget
  | _ => false

/-- Entries of the state in force, in order: a lift stands only as the binding it restored. -/
def inForce : List LedEnt → List LedEnt
  | [] => []
  | e :: t =>
    if e.type = 0x0C || t.any (superseded e) then inForce t
    else if e.type = 0x03 then
      if e.logical != 0xFFFF && (e.kind = 1 || e.kind = 2) && !t.any (superseded { e with type := 0x01 })
      then { e with type := 0x01 } :: inForce t else inForce t
    else e :: inForce t

/-- LEDGER_COMPACT (R475): one COMPACT entry and the snapshot, under fresh sequence numbers; the channels of `ok` hold it. -/
def ledgerCompact (ok : List Nat) (s : State) : State :=
  let took := (ledgerChannels s).filter (fun c => ok.contains c)
  if !s.rep.boot.ledger || s.rep.ledger.isEmpty || took.isEmpty then s
  else
    let es := ({ type := 0x0C, cause := 0 } : LedEnt) :: inForce s.rep.ledger
    let es := (es.zip (List.range es.length)).map (fun (x : LedEnt × Nat) =>
      { x.1 with seq := s.rep.seq + x.2, epoch := s.rep.epoch })
    updRep (fun r => { r with ledger := es, seq := r.seq + es.length, copies := chMask took }) s

def execLedgerCompact (ok : List Nat) (s : State) : Host.Outcome State Fault Refusal := .next (dp (ledgerCompact ok) s)

/-! ### Replay (R478) -/

/-- Bind a logical core to a slot of its cell. -/
def bindCore (l slot : Nat) (s : State) : State :=
  { s with drv := { s.drv with slot := tput l slot s.drv.slot, unbound := s.drv.unbound.erase l } }

/-- Bind a logical matrix unit to a slot of its tile; 15 unbinds. -/
def bindMatrix (m slot : Nat) (s : State) : State := { s with eng := { s.eng with mslot := tput m slot s.eng.mslot } }

/-- One entry of the replay. -/
def replayEntry (s : State) (e : LedEnt) : State :=
  let i := e.unit % 4096
  let key := fun (f : UnitRec → UnitRec) (s : State) =>
    { s with eng := { s.eng with units := tput e.unit (f (tgetD s.eng.units e.unit {})) s.eng.units } }
  let bind := fun (s : State) =>
    if e.kind = 1 then bindCore e.logical (i % 17) s
    else if e.kind = 2 then bindMatrix e.logical (i % 11) s
    else { s with eng := { s.eng with unbound := s.eng.unbound.erase (e.kind * 4096 + e.logical) } }
  match e.type with
  | 0x01 => bind s
  | 0x02 => key (fun r => { r with quarantined := true }) s
  | 0x03 =>
    let s := key (fun r => { r with quarantined := false }) s
    if e.logical = 0xFFFF then s else bind s
  | 0x04 =>
    if e.kind = 1 then { s with drv := { s.drv with unbound := e.logical :: s.drv.unbound.erase e.logical } }
    else if e.kind = 2 then bindMatrix e.logical 15 s
    else
      let k := e.kind * 4096 + e.logical
      { s with eng := { s.eng with unbound := k :: s.eng.unbound.erase k } }
  | 0x05 => updStack e.cell (fun x => { x with spared := x.spared + 1 }) s
  | 0x06 => updStack e.cell (fun x => { x with retired := x.retired + rowFrames e.cell e.object }) s
  | 0x07 => updRep (fun r => { r with banks := tput e.cell (tgetD r.banks e.cell 0 + 1) r.banks }) s
  | 0x08 => updFlash e.cell (fun f => { f with bad := f.bad + 1 }) s
  | 0x09 => updFlash e.cell (fun f => { f with failedT := f.failedT ||| (1#16 <<< e.target) }) s
  | 0x0A => updFlash e.cell (fun f => { f with failedT := f.failedT &&& ~~~(1#16 <<< e.target) }) s
  | 0x0B => updPort e.logical (fun x => { x with dead := x.dead ||| (1#9 <<< e.object) }) s
  | _ => s

/-- A binding that names a unit whose image failed is changed at once (R478). -/
def rebindFailed (s : State) (unit : Nat) : State :=
  let i := unit % 4096
  match unit / 4096 with
  | 1 => ((coreOf s i).map (fun l => rebindCore l s)).getD s
  | 2 => ((matrixOf s i).map (fun m => rebindMatrix m 2 s)).getD s
  | 3 => if unitUnbound s .porter i then s else unbindEngine .porter i 2 s
  | 4 => if unitUnbound s .assay i then s else unbindEngine .assay i 2 s
  | _ => s

/-- Target 0 of every channel is censused or refused. -/
def firstTargets (s : State) : Bool := (List.range 20).all (fun c => decide (0 < tgetD s.rep.boot.census c 0))

/-- Units held out of service by the data path are splits of management's state (R461). -/
def splitsAll (s : State) : State :=
  let units := (s.eng.units.filter (fun u => decide (u.1 < 65536) && u.2.quarantined)).map Prod.fst
  units.foldl (fun s u => splitNote u false true false s) s

/-- LEDGER_MERGE (R478): `held` are the channels that hold a ledger; with none the fused map stands alone. -/
def ledgerMerge (held : List Nat) (s : State) : State :=
  if s.rep.boot.ledger || !firstTargets s then s
  else
    let some' := (ledgerChannels s).any (fun c => held.contains c)
    let s := { s with eng := { s.eng with units := s.eng.units.map (fun u => (u.1, { u.2 with quarantined := false })) } }
    let s := if some' then s.rep.ledger.foldl replayEntry s
      else evPlatform 4 0 0 (updRep (fun r => { r with ledger := [] }) s)
    let s := updRep (fun r => { r with
      seq := (r.ledger.map LedEnt.seq).foldl max 0 + 1
      copies := chMask (ledgerChannels s) }) s
    let s := s.rep.boot.imageFail.foldl rebindFailed s
    settle (splitsAll (updBoot (fun b => { b with ledger := true }) s))

def execLedgerMerge (held : List Nat) (s : State) : Host.Outcome State Fault Refusal := .next (dp (ledgerMerge held) s)

end Sys2Proof.Machine
end

