-- ==== Sys2Proof/Machine/SelfTest.lean ====
section
/-! DEFINITION. Self-tests of units (R480 to R482, R436), their idle windows, and lifting a quarantine. -/

namespace Sys2Proof.Machine

open Sys2Proof

/-! ### Units of Table 19.7 -/

/-- Key of a unit's record. -/
def testKey : TestUnit → Nat
  | .phys u => u
  | .bank c b => 65536 + 2048 * c + b

/-- The kind of a physical unit that has a self-test, with its index in range and not fused off (Tables 17.13, 19.7). -/
def testKind (u : Nat) : Option UnitKind :=
  let i := u % 4096
  match u / 4096 with
  | 1 => if i < 340 && !bit (Config.fusedBadCores (i / 17)) (i % 17) then some .core else none
  | 2 => if i < 44 && !bit (Config.fusedBadMatrix (i / 11)) (i % 11) then some .matrix else none
  | 3 => if i < 20 then some .porter else none
  | 4 => if i < 20 then some .assay else none
  | _ => none

/-- Length of a unit's test in nanoseconds (Table 19.7). -/
def testLen (t : TestUnit) : Nat :=
  match t with
  | .bank _ _ => 40000
  | .phys u =>
    match testKind u with
    | some .core => 150000
    | some .matrix => 120000
    | some .porter => 80000
    | _ => 60000

/-- The logical unit bound to a physical one. -/
def logicalOf (s : State) (k : UnitKind) (i : Nat) : Option Nat :=
  match k with
  | .core => coreOf s i
  | .matrix => matrixOf s i
  | _ => if unitUnbound s k i then none else some i

/-- Cell named for a physical unit (Table 19.3): tile × 5 for a matrix unit. -/
def physCell (k : UnitKind) (i : Nat) : Nat :=
  match k with
  | .core => i / 17
  | .matrix => i / 11 * 5
  | _ => i

/-! ### Idle windows (R480) -/

/-- Time in units of 10 ns / 840 from now to the next START of an entry. -/
def nextStart (s : State) (e : Entry) : Nat :=
  let n := 2 ^ e.rate
  let k := (e.slot + n - s.stg.stage.toNat % n) % n
  let k := if k = 0 && e.start ≤ phase s then n else k
  let est := est840 s.stg
  k * est + e.start * est / 65536 - (t840 s.now - s.stg.date)

/-- The itinerary that names a logical unit's cell leaves it idle for some nanoseconds. -/
def itinIdle (s : State) (k : UnitKind) (l len : Nat) : Bool :=
  match ((unitCell k l).bind (cellPart s)).bind (fun p => (itinOf s p).run) with
  | none => true
  | some it =>
    (s.stg.st != .locked && s.stg.st != .flywheel)
      || (it.entries.filter (fun e => e.valid && e.ukind = k.code && (entryUnits e).contains l)).all
          (fun e => !entryNow s e && decide (t840 (len + 2000) ≤ nextStart s e))

/-- A logical unit has no work: nothing runs or waits on it. -/
def unitQuiet (s : State) (k : UnitKind) (l : Nat) : Bool :=
  match k with
  | .core => !s.drv.groups.any (fun g => g.2.core = l)
  | _ => (unitOps s k l).isEmpty

/-- The present moment lies in an idle window of a unit, long enough for its test. -/
def testWindow (s : State) (t : TestUnit) : Bool :=
  match t with
  | .bank c _ => (cellPart s c).isNone
  | .phys u =>
    match testKind u with
    | none => false
    | some k =>
      match logicalOf s k (u % 4096) with
      | none => !(k = .core && s.drv.groups.any (fun g => g.2.phys = u % 4096 && g.2.st != .queued))
      | some l => unitQuiet s k l && itinIdle s k l (testLen t)

/-! ### Starting, ending, starving -/

/-- A unit is tested daily: it exists and is in service. -/
def testable (s : State) (t : TestUnit) : Bool :=
  match t with
  | .bank c b => decide (c < 20) && decide (b < 1024)
  | .phys u =>
    match testKind u with
    | none => false
    | some k => inService s k (u % 4096)

/-- When a unit's daily test falls due: 24 h after the last, or after bring-up. -/
def testDue (s : State) (t : TestUnit) : Nat :=
  max (tgetD s.eng.units (testKey t) {}).lastTest s.rep.boot.ref + 86400000000000

def updTested (t : TestUnit) (f : UnitRec → UnitRec) (s : State) : State :=
  { s with eng := { s.eng with units := tput (testKey t) (f (tgetD s.eng.units (testKey t) {})) s.eng.units } }

def updTest (t : TestUnit) (f : SelfTest → SelfTest) (s : State) : State :=
  updRep (fun r => { r with tests := r.tests.map (fun x => if x.unit = t && decide (x.state < 2) then f x else x) }) s

/-- The test of a unit that is queued or running. -/
def testOf (s : State) (t : TestUnit) : Option SelfTest := s.rep.tests.find? (fun x => x.unit = t && decide (x.state < 2))

/-- Queue a test. -/
def testQueue (t : TestUnit) (mgmt : Bool) (cmd : List Byte) (s : State) : State :=
  updRep (fun r => { r with
    tests := r.tests ++ [{ id := r.nextTest, unit := t, mgmt := mgmt, since := s.wall, cmd := cmd }]
    nextTest := r.nextTest + 1 }) s

/-- SELFTEST_RUN (R480): the test queued by management, or the daily test once due, starts. -/
def selftestRun (t : TestUnit) (s : State) : State :=
  if !testWindow s t then s
  else
    let go := fun (s : State) => updTested t (fun r => { r with testing := true, starved := false })
      (updTest t (fun x => { x with state := 1, started := s.now }) s)
    match testOf s t with
    | some x => if x.state = 0 then go s else s
    | none =>
      if testable s t then
        let s := reachWall (testDue s t) s
        if testWindow s t then go (testQueue t false [] s) else s
      else s

def execSelftestRun (unit : TestUnit) (s : State) : Host.Outcome State Fault Refusal := .next (dp (selftestRun unit) s)

/-- A unit that passed keeps the logical unit still bound to it. -/
def notDue (t : TestUnit) (s : State) : State :=
  match t with
  | .bank _ _ => s
  | .phys u =>
    match testKind u with
    | none => s
    | some k =>
      if !inService s k (u % 4096) then s
      else match k, logicalOf s k (u % 4096) with
        | .core, some l => { s with drv := { s.drv with due := s.drv.due.erase l } }
        | .matrix, some m => { s with eng := { s.eng with due := s.eng.due.erase m } }
        | _, _ => s

/-- A test ends: state 2 on a pass, 3 with a detail on a failure (R481, R482). -/
def testEnd (t : TestUnit) (fail : Option Nat) (s : State) : State :=
  let s := updTest t (fun x => { x with state := if fail.isSome then 3 else 2, detail := fail.getD 0 % 2 ^ 32 }) s
  let r := tgetD s.eng.units (testKey t) {}
  let s := updTested t (fun r => { r with testing := false, lastTest := s.wall
                                          passed := r.quarantined && fail.isNone }) s
  let s := if fail.isNone then notDue t s
    else match t with
      | .bank c b => bankRetire 1 c b s
      | .phys u =>
        match testKind u with
        | some k => if r.quarantined then s else quarantine k (u % 4096) (physCell k (u % 4096)) 1 s
        | none => s
  testReports s

/-- SELFTEST_DONE (R481): the running test of a unit ends after its length; `fail` is the failure detail. -/
def selftestDone (t : TestUnit) (fail : Option Nat) (s : State) : State :=
  match testOf s t with
  | some x => if x.state = 1 then testEnd t fail (reach (x.started + testLen t) s) else s
  | none => s

def execSelftestDone (unit : TestUnit) (fail : Option Nat) (s : State) : Host.Outcome State Fault Refusal :=
  .next (dp (selftestDone unit fail) s)

/-- SELFTEST_STARVED (R480): a test has waited 7 days; an SRAM bank has no UNIT number, so its record names its cell. -/
def selftestStarved (t : TestUnit) (s : State) : State :=
  let since := match testOf s t with
    | some x => if x.state = 0 then some x.since else none
    | none => if testable s t then some (testDue s t) else none
  match since with
  | none => s
  | some w =>
    if (tgetD s.eng.units (testKey t) {}).starved then s
    else
      let s := updTested t (fun r => { r with starved := true }) (reachWall (w + 604800000000000) s)
      match t with
      | .bank c _ => evUnit 4 0 0xFFFF c s
      | .phys u =>
        match testKind u with
        | some k => evUnit 4 u ((logicalOf s k (u % 4096)).getD 0xFFFF) (physCell k (u % 4096)) s
        | none => s

def execSelftestStarved (unit : TestUnit) (s : State) : Host.Outcome State Fault Refusal :=
  .next (dp (selftestStarved unit) s)

/-! ### SELFTEST, TEST_GET, QUARANTINE_LIFT -/

/-- The logical unit that a physical one left unbound, by the last UNBIND entry that names it. -/
def unboundBy (s : State) (k : UnitKind) (u : Nat) : Option Nat :=
  let es := s.rep.ledger ++ s.rep.writes.map LedWrite.ent
  match es.reverse.find? (fun e => e.type = 0x04 && e.unit = u) with
  | some e => if unitUnbound s k e.logical then some e.logical else none
  | none => none

/-- Splits of a unit, and of the logical unit it was the last of, end (Table 18.12). -/
def splitsEnd (k : UnitKind) (u : Nat) (s : State) : State :=
  let x := physStates s k (u % 4096)
  let s := splitEnd u false x.1 x.2 s
  match unboundBy s k u with
  | some l => splitEnd (k.code * 4096 + l) true true (!unitUnbound s k l) s
  | none => s

/-- A free spare stands for the logical unit. -/
def spareFor (s : State) (k : UnitKind) (l : Nat) : Bool :=
  match k with
  | .core => (cellSpare s (l / 16)).isSome
  | .matrix => (tileSpare s (l / 10)).isSome
  | _ => false

/-- SELFTEST (R436, R482): the unit leaves service for management at once; the test is queued. -/
def selftest (n : Nat) (c : Cmd) (s : State) : State :=
  let u := c.arg 2 2
  refuseOr n [((testOf s (.phys u)).isSome, 0x0260), ((testKind u).isNone, 0x0421)]
    (fun s =>
      match testKind u with
      | none => s
      | some k =>
        let id := s.rep.nextTest
        let s := testQueue (.phys u) true c.entry (updTested (.phys u) (fun r => { r with testing := true }) s)
        let s := match logicalOf s k (u % 4096) with
          | some l => if spareFor s k l then markDue k l s else s
          | none => s
        complete n 0 (leBytes 4 id) (splitsEnd k u s)) s

def execSelftest (mb : Nat) (s : State) : Host.Outcome State Fault Refusal :=
  .next (catalogue mb 0x0B03 (fun s _ => { ready := s.rep.boot.ledger }) (selftest mb) s)

/-- TEST_GET (R436). -/
def execTestGet (mb : Nat) (s : State) : Host.Outcome State Fault Refusal :=
  .next (catalogue mb 0x0B04 (fun s c => { exist := s.rep.tests.any (fun t => t.id = c.arg 0 4) })
    (fun c s => match s.rep.tests.find? (fun t => t.id = c.arg 0 4) with
      | some t => complete mb 0 (leBytes 1 t.state ++ leBytes 3 0 ++ leBytes 4 t.detail) s
      | none => s) s)

/-- The unit returns to service (R257, R482): it takes back a logical unit it left unbound; its LIFT entry says so. -/
def liftUnit (k : UnitKind) (u n : Nat) (s : State) : State :=
  let i := u % 4096
  let s := updTested (.phys u) (fun r => { r with quarantined := false, passed := false, fails := [] }) s
  let back := unboundBy s k u
  let s := match k, back with
    | .core, some l => bindCore l (i % 17) s
    | .matrix, some m => bindMatrix m (i % 11) s
    | _, some l => { s with eng := { s.eng with unbound := s.eng.unbound.erase (k.code * 4096 + l) } }
    | _, none => s
  let s := match k, logicalOf s k i with
    | .core, some l => { s with drv := { s.drv with due := s.drv.due.erase l } }
    | .matrix, some m => { s with eng := { s.eng with due := s.eng.due.erase m } }
    | _, _ => s
  let s := splitEnd u false true true s
  let s := (back.map (fun l => splitEnd (k.code * 4096 + l) true true true s)).getD s
  ledgerAdd { type := 0x03, cause := 6, unit := u, cell := physCell k i, logical := back.getD 0xFFFF } (some n) s

/-- QUARANTINE_LIFT (R436, R474, R482): completes once its entry stands in the ledger. -/
def quarantineLift (n : Nat) (c : Cmd) (s : State) : State :=
  let u := c.arg 2 2
  if s.rep.writes.any (fun w => w.mb = some n) then s
  else match testKind u with
    | none => complete n 0x0421 [] s
    | some k =>
      let r := tgetD s.eng.units u {}
      if !r.quarantined || !r.passed then complete n 0x0342 [] s else liftUnit k u n s

def execQuarantineLift (mb : Nat) (s : State) : Host.Outcome State Fault Refusal :=
  .next (catalogue mb 0x0B05 (fun s _ => { ready := s.rep.boot.ledger }) (quarantineLift mb) s)

end Sys2Proof.Machine
end

