-- ==== Sys2Proof/Machine/Service.lean ====
section
/-! DEFINITION. Groups 0x0B to 0x0D of the catalogue beside self-tests: checking, the ledger, scrub, watchdog, power and
clocks, debug (R436 to R438). -/

namespace Sys2Proof.Machine

open Sys2Proof

/-! ### Group 0x0B -/

/-- CHECK_SET (R254, R420): SHADOW_N up to SHADOW_MAX, RETRY_LIMIT 0 to 3. -/
def checkSet (n : Nat) (c : Cmd) (s : State) : State :=
  let p := c.part
  let top := ((partOf s p).map Part.shadowMax).getD 0
  refuseOr n [(decide (top < c.arg 1 1) || decide (3 < c.arg 2 1), 0x0121)]
    (fun s => completeGen n p [] (updPart p (fun x => { x with shadowN := c.arg 1 1, retryLimit := c.arg 2 1 }) s)) s

def execCheckSet (mb : Nat) (s : State) : Host.Outcome State Fault Refusal :=
  .next (catalogue mb 0x0B01 (fun s c => { partChk s mb c with
    gen := some c.part
    mgmt := [(objRetry c.part, some (c.arg 2 1) != (partOf s c.part).map Part.retryLimit)] }) (checkSet mb) s)

/-- SHADOW_MAX_SET (R254). -/
def shadowMaxSet (n : Nat) (c : Cmd) (s : State) : State :=
  let p := c.part
  refuseOr n [(decide (16 < c.arg 1 1), 0x0121)]
    (fun s => completeGen n p [] (updPart p (fun x =>
      { x with shadowMax := c.arg 1 1, shadowN := min x.shadowN (c.arg 1 1) }) s)) s

def execShadowMaxSet (mb : Nat) (s : State) : Host.Outcome State Fault Refusal :=
  .next (catalogue mb 0x0B02 (fun s c => { partChk s mb c with gen := some c.part }) (shadowMaxSet mb) s)

/-- LEDGER_READ (R475): up to `count` entries from the given one, in SEQ order; to the host's buffer on MB0, after the
completion on MB21. -/
def ledgerRead (n : Nat) (c : Cmd) (s : State) : State :=
  let count := c.arg 16 4
  let es := (s.rep.ledger.drop (c.arg 4 4)).take count
  let b := es.flatMap ledgerBytes
  let res := leBytes 4 es.length ++ leBytes 4 s.rep.ledger.length
  if 4096 < count then complete n 0x0021 [] s
  else if count = 0 then complete n 0x0001 res s
  else if n = 21 then completeX n 0 res b s
  else complete n 0 res (if b.isEmpty then s else emit (.hostWr (c.arg 8 8) b) s)

def execLedgerRead (mb : Nat) (s : State) : Host.Outcome State Fault Refusal :=
  .next (catalogue mb 0x0B06 (fun s _ => { ready := s.rep.boot.ledger }) (ledgerRead mb) s)

/-- SCRUB_SET (R102, R104). -/
def scrubSet (n : Nat) (c : Cmd) (s : State) : State :=
  let h := c.arg 1 1
  let r := c.arg 2 1
  refuseOr n [(h = 0 || decide (168 < h) || r = 0 || decide (15 < r), 0x0121)]
    (fun s => completeGen n objScrub [] { s with store := { s.store with scrubHours := h, retryMax := r } }) s

def execScrubSet (mb : Nat) (s : State) : Host.Outcome State Fault Refusal :=
  .next (catalogue mb 0x0B07 (fun _ _ => { gen := some objScrub }) (scrubSet mb) s)

/-- MBX_WDOG_SET (R408). -/
def mbxWdogSet (n : Nat) (c : Cmd) (s : State) : State :=
  let v := c.arg 4 4
  refuseOr n [(decide (v < 10000) || decide (60000000 < v), 0x0121)]
    (fun s => completeGen n objWdog [] (updHost (fun h => { h with wdog := v }) s)) s

def execMbxWdogSet (mb : Nat) (s : State) : Host.Outcome State Fault Refusal :=
  .next (catalogue mb 0x0B08 (fun _ _ => { gen := some objWdog }) (mbxWdogSet mb) s)

/-! ### Group 0x0C -/

def updPwr (f : Pwr → Pwr) (s : State) : State := { s with pwr := f s.pwr }
def updClk (f : Clk → Clk) (s : State) : State := { s with clk := f s.clk }

/-- A frequency of the envelope: 1,200 to 2,700 MHz in steps of 100. -/
def freqOk (f : Nat) : Bool := decide (1200 ≤ f) && decide (f ≤ 2700) && f % 100 = 0

/-- POWER_ENVELOPE (R496, Table 17.14). -/
def powerEnvelope (n : Nat) (c : Cmd) (s : State) : State :=
  let fmax := c.arg 4 2
  let fmin := c.arg 6 2
  let l := c.arg 8 4
  let k := c.arg 12 4
  refuseOr n
    [(!freqOk fmax || !freqOk fmin || decide (fmax < fmin) || decide (l < 410) || decide (960 < l)
        || decide (k < 200) || decide (640 < k), 0x0121)]
    (fun s => completeGen n objPower [] (updPwr (fun p => { p with fmax := fmax, fmin := fmin, logic := l, stack := k }) s)) s

def execPowerEnvelope (mb : Nat) (s : State) : Host.Outcome State Fault Refusal :=
  .next (catalogue mb 0x0C01 (fun _ _ => { gen := some objPower }) (powerEnvelope mb) s)

/-- CELL_FREQ_PIN (R498): 0 unpins. -/
def cellFreqPin (n : Nat) (c : Cmd) (s : State) : State :=
  let f := c.arg 4 2
  refuseOr n
    [(f != 0 && (decide (f < s.pwr.fmin) || decide (s.pwr.fmax < f) || f % 100 != 0), 0x0221)]
    (fun s => completeGen n c.part [] (updPwr (fun p => { p with
      cells := (maskCells (c.arg 8 4)).foldl (fun (v : Vector PwrCell 20) i =>
        v.setIfInBounds i { (v.getD i {}) with pin := f }) p.cells }) s)) s

def execCellFreqPin (mb : Nat) (s : State) : Host.Outcome State Fault Refusal :=
  .next (catalogue mb 0x0C02 (fun s c => { partChk s mb c with
    gen := some c.part
    mine := c.part + 1 = mb && (maskCells (c.arg 8 4)).all (fun i => (partCells s c.part).contains i) }) (cellFreqPin mb) s)

/-- CLKOUT_SET (R489). -/
def clkoutSet (n : Nat) (c : Cmd) (s : State) : State :=
  let o := c.arg 1 1
  let en := c.arg 2 1
  let sp := c.arg 3 1
  let r := c.arg 4 1
  refuseOr n [(decide (10 < sp) || decide (6 < r), 0x0121)]
    (fun s => completeGen n (objClkout o) [] (updClk (fun k => { k with
      out := k.out.setIfInBounds o { en := en = 1, spread := sp, rate := r } }) s)) s

def execClkoutSet (mb : Nat) (s : State) : Host.Outcome State Fault Refusal :=
  .next (catalogue mb 0x0C03 (fun _ c => { exist := decide (c.arg 1 1 < 2), gen := some (objClkout (c.arg 1 1)) })
    (clkoutSet mb) s)

/-- The hottest junction. -/
def hottest (s : State) : Nat := ((s.pwr.cells.toList.map PwrCell.tj) ++ s.pwr.tileTj).foldl max 0

/-- POWER_GET (R437): the arithmetic clock is that of the fastest cell. -/
def execPowerGet (mb : Nat) (s : State) : Host.Outcome State Fault Refusal :=
  .next (catalogue mb 0x0C04 (fun _ _ => {})
    (fun _ s => complete mb 0 (leBytes 2 s.pwr.pkgW ++ leBytes 2 s.pwr.logicW ++ leBytes 2 s.pwr.stackW
      ++ leBytes 2 ((s.pwr.cells.toList.map PwrCell.cur).foldl max 0) ++ leBytes 1 (hottest s)
      ++ leBytes 1 (s.pwr.inlet.getD 0 / 10)) s) s)

/-! ### Group 0x0D -/

/-- The signed token of an argument block: the payload without the zero bytes, fewer than 64, that fill its last line. -/
def dbgToken (s : State) (b : List Byte) : Option (List Byte) :=
  ((List.range 64).map (fun k => b.take (b.length - k))).find? (fun t =>
    (b.drop t.length).all (· == 0) && signedOk s 1 .mgmt t)

/-- DBG_UNLOCK (R438, R456): a token of class IZ_DEBUG; counter 1 is raised to its SVN. -/
def dbgUnlock (n : Nat) (c : Cmd) (s : State) : State :=
  match dbgToken s (c.args.drop 48) with
  | none => complete n 0x0121 [] s
  | some t =>
    let v := sgSvn (sigSplit t).2
    complete n 0 [] (raiseCounter 1 v { s with ras := { s.ras with dbgUnlocked := true, dbgSvn := v } })

def execDbgUnlock (mb : Nat) (s : State) : Host.Outcome State Fault Refusal :=
  .next (catalogue mb 0x0D01 (fun _ _ => {}) (dbgUnlock mb) s)

/-- A cell that no partition owns, nothing of a former one left in it. -/
def cellFree (s : State) (c : Nat) : Bool := (cellPart s c).isNone && !s.parts.scrubbing.contains c

/-- DBG_DUMP (R438): what a dump holds is not stated; its bytes and their number are free (log 3). -/
def dbgDump (n : Nat) (c : Cmd) (s : State) : State :=
  let x := Sa.of (BitVec.ofNat 64 (c.arg 8 8))
  let len := c.arg 4 4
  let at' := x.off / 2 ^ 26
  refuseOr n
    [(!cellFree s (c.arg 0 1), 0x0244),
     (!s.ras.dbgUnlocked, 0x0360),
     (x.space != 1 || !isOwn s x.dev || decide (20 ≤ at') || !cellFree s at'
        || decide (spadBytes s at' < x.off % 2 ^ 26 + len), 0x0011)]
    (fun s =>
      let d := draw s
      let k := d.1 % (len + 1)
      let s := { d.2 with store := { d.2.store with
        spad := putBytes x.off ((List.range k).map (fun i => BitVec.ofNat 8 (Config.freeOf 150 [d.1, i]))) d.2.store.spad } }
      complete n 0 (leBytes 4 k) (cnt 0x90008 1 s)) s

def execDbgDump (mb : Nat) (s : State) : Host.Outcome State Fault Refusal :=
  .next (catalogue mb 0x0D02 (fun _ c => { exist := decide (c.arg 0 1 < 20) }) (dbgDump mb) s)

/-- DBG_LOCK (R438). -/
def execDbgLock (mb : Nat) (s : State) : Host.Outcome State Fault Refusal :=
  .next (catalogue mb 0x0D03 (fun _ _ => {})
    (fun _ s => complete mb 0 [] { s with ras := { s.ras with dbgUnlocked := false, dbgSvn := 0 } }) s)

end Sys2Proof.Machine
end

