-- ==== Sys2Proof/Machine/Boot.lean ====
section
/-! DEFINITION. Bring-up (R465 to R472): fuses, boot image, broadcast, stacks, cells, ports, and the flash census. -/

namespace Sys2Proof.Machine

open Sys2Proof

/-- Both resets are released and the device has not tripped. -/
def released (s : State) : Bool := !s.rep.boot.perst && !s.rep.boot.resetN && s.pwr.trip.isNone

/-- A step of the CP's part of bring-up, in a phase. -/
def inPhase (ph : BootPhase) (f : State → State) (s : State) : State :=
  if released s && s.rep.boot.phase = ph && (tget 0 s.clk.lostAt).isNone then f s else s

/-- A step of the local state machines, which start once the image is broadcast (Table 19.1). -/
def trained (f : State → State) (s : State) : State :=
  if released s && (s.rep.boot.phase = .train || s.rep.boot.phase = .run) then dp f s else s

/-! ### Fuses (R466, R477) -/

/-- Good slots of a cell or tile, ascending. -/
def goodSlots (n bad : Nat) : List Nat := (List.range n).filter (fun i => !bit bad i)

/-- Bind logical units of one cell or tile to its good slots in ascending order: those not bound to their own slot. -/
def fusedBinding (per base slots bad : Nat) : Tab Nat :=
  (((List.range per).zip (goodSlots slots bad)).filter (fun x => x.1 != x.2)).map (fun x => (base + x.1, x.2))

/-- Records of physical units that the map marks bad. -/
def fusedOff (k : UnitKind) (base slots bad : Nat) : Tab UnitRec :=
  ((List.range slots).filter (bit bad)).map (fun i => (k.code * 4096 + base + i, { off := true }))

/-- Ports with two lanes failed at test. -/
def fusedPorts : BitVec 8 :=
  BitVec.ofNat 8 (maskBits ((List.range 8).filter (fun p => decide (2 ≤ ((List.range 9).filter (bit (Config.fusedBadLanes p))).length))))

/-- The manufacturing repair map is latched. -/
def latchMap (s : State) : State :=
  let cells := List.range 20
  let tiles := List.range 4
  let offs := cells.flatMap (fun c => fusedOff .core (17 * c) 17 (Config.fusedBadCores c))
    ++ tiles.flatMap (fun t => fusedOff .matrix (11 * t) 11 (Config.fusedBadMatrix t))
  { s with
    drv := { s.drv with slot := cells.flatMap (fun c => fusedBinding 16 (16 * c) 17 (Config.fusedBadCores c)) }
    eng := { s.eng with
      mslot := tiles.flatMap (fun t => fusedBinding 10 (10 * t) 11 (Config.fusedBadMatrix t))
      units := offs.foldl (fun u x => tput x.1 { (tgetD u x.1 {}) with off := true } u) s.eng.units }
    ports := Vector.ofFn (fun (p : Fin 8) => { s.ports[p] with dead := BitVec.ofNat 9 (Config.fusedBadLanes p) }) }

/-- FUSE_READ_DONE (R466): both reads agree and the arrays' parity holds, or the reads are repeated up to three times. -/
def fuseReadDone (agree parity : Bool) (s : State) : State :=
  if s.rep.epoch = 0 then s
  else inPhase .fuse (fun s =>
    if !parity then updBoot (fun b => { b with phase := .fuseFail }) s
    else if agree then updBoot (fun b => { b with phase := .rom, fused := true, portsFailed := fusedPorts }) (latchMap s)
    else if s.rep.boot.fuseTries < 3 then updBoot (fun b => { b with fuseTries := b.fuseTries + 1 }) s
    else updBoot (fun b => { b with phase := .fuseFail }) s) s

def execFuseReadDone (agree parity : Bool) (s : State) : Host.Outcome State Fault Refusal := .next (fuseReadDone agree parity s)

/-! ### The boot image (R467, R468) -/

/-- The CP starts: MB0 is ready where the link is up, and VCORE is set 20 mV above what the cells need, which is not stated
(R492, log 3). -/
def cpStart (s : State) : State :=
  let d := draw s
  let mv := 600 + d.1 % 201
  let s := updPwr (fun p => { p with vcore := mv }) d.2
  put (.pin "VR" mv) (updBoot (fun b => { b with cp := true, mb0 := s.host.linkUp, phase := .broadcast }) s)

/-- BOOT_IMAGE_VERIFY (R455, R467): the slot being tried holds an image of an SVN, or fails a check; the preferred slot
first, then the other. -/
def bootImageVerify (fail : Option Nat) (svn : Nat) (s : State) : State :=
  inPhase .rom (fun s =>
    let slot := if s.rep.boot.fallback then 1 - s.rep.preferred else s.rep.preferred
    let fail := match fail with
      | some k => some k
      | none => if svn < rollback s 0 then some 4 else none
    match fail with
    | none =>
      let s := updRep (fun r => { r with
        images := if (tget slot r.images).map Prod.fst = some svn then r.images else tdel slot r.images }) s
      cpStart (updBoot (fun b => { b with slot := slot, svn := svn }) s)
    | some k =>
      if s.rep.boot.fallback then updBoot (fun b => { b with phase := .halt, haltCheck := k % 256 }) s
      else updBoot (fun b => { b with fallback := true }) s) s

def execBootImageVerify (fail : Option Nat) (svn : BitVec 32) (s : State) : Host.Outcome State Fault Refusal :=
  .next (bootImageVerify fail svn.toNat s)

/-- One unit's image failed its check (R468): it is treated as failing at manufacture for this bring-up. -/
def imageFailed (s : State) (u : Nat) : State :=
  if u / 4096 = 5 then
    if u % 4096 < 8 then
      evUnit 3 u (u % 4096) 0xFF (updBoot (fun b => { b with portsFailed := b.portsFailed ||| (1#8 <<< (u % 4096)) }) s)
    else s
  else match testKind u with
    | none => s
    | some k =>
      let s := updTested (.phys u) (fun r => { r with off := true }) s
      evUnit 3 u ((logicalOf s k (u % 4096)).getD 0xFFFF) (physCell k (u % 4096))
        (updBoot (fun b => { b with imageFail := b.imageFail ++ [u] }) s)

/-- IMAGE_BROADCAST (R468): the physical units whose load failed; the Stage unit and XLT are ready from then on. -/
def imageBroadcast (fails : List Nat) (s : State) : State :=
  inPhase .broadcast (fun s =>
    dp (fun s => updBoot (fun b => { b with phase := .train, stage := true, xlt := true }) (fails.eraseDups.foldl imageFailed s)) s) s

def execImageBroadcast (fails : List Nat) (s : State) : Host.Outcome State Fault Refusal := .next (imageBroadcast fails s)

/-! ### Stacks, cells, ports (R469, R470) -/

/-- STACK_WAVE_START (R469): wave `w` starts 28 + 25w ms after the reference. -/
def stackWaveStart (w : Nat) (s : State) : State :=
  trained (fun s =>
    if 4 < w || s.rep.boot.waves.contains w then s
    else updBoot (fun b => { b with waves := b.waves ++ [w] }) (reachWall (s.rep.boot.ref + (28 + 25 * w) * 1000000) s)) s

def execStackWaveStart (w : Nat) (s : State) : Host.Outcome State Fault Refusal := .next (stackWaveStart w s)

/-- STACK_TRAINING_DONE (R469): a failed attempt is repeated once; after the second the stack is failed for this bring-up. -/
def stackTrainingDone (c : Nat) (okay : Bool) (s : State) : State :=
  trained (fun s =>
    let st := s.store.stks.getD c {}
    if 20 ≤ c || !s.rep.boot.waves.contains (c % 5) || st.ready || st.failed then s
    else if okay then settle (updStack c (fun x => { x with ready := true, attempts := x.attempts + 1 }) s)
    else if st.attempts = 0 then updStack c (fun x => { x with attempts := 1 }) s
    else
      let s := updStack c (fun x => { x with attempts := 2, failed := true }) s
      settle (evUnit 5 0 0xFFFF c (updBoot (fun b => { b with cellsFailed := b.cellsFailed ||| (1#20 <<< c) }) s))) s

def execStackTrainingDone (stack : Nat) (okay : Bool) (s : State) : Host.Outcome State Fault Refusal :=
  .next (stackTrainingDone stack okay s)

/-- CELL_READY (R470): its SRAM test and microcode are ready; it needs its stack and LEDGER. -/
def cellReady (c : Nat) (s : State) : State :=
  trained (fun s =>
    if 20 ≤ c || !(s.store.stks.getD c {}).ready || !s.rep.boot.ledger then s
    else settle (updBoot (fun b => { b with cells := b.cells ||| (1#20 <<< c) }) s)) s

def execCellReady (cell : Nat) (s : State) : Host.Outcome State Fault Refusal := .next (cellReady cell s)

/-- PORT_CALIBRATED (R470): an edge port's PHY is calibrated, or fails. -/
def portCalibrated (p : Nat) (okay : Bool) (s : State) : State :=
  trained (fun s =>
    if 8 ≤ p || s.rep.boot.ports.getLsbD p || s.rep.boot.portsFailed.getLsbD p then s
    else settle (updBoot (fun b =>
      if okay then { b with ports := b.ports ||| (1#8 <<< p) } else { b with portsFailed := b.portsFailed ||| (1#8 <<< p) }) s)) s

def execPortCalibrated (p : Nat) (okay : Bool) (s : State) : Host.Outcome State Fault Refusal := .next (portCalibrated p okay s)

/-- MGMT_PORT_READY (R470): port A (0) or B (1). -/
def mgmtPortReady (x : Nat) (s : State) : State :=
  if released s && (s.rep.boot.phase = .train || s.rep.boot.phase = .run) && decide (x < 2) && cpRuns s then
    settle { updBoot (fun b => { b with mgmt := b.mgmt ||| (1#2 <<< x) }) s with
      pmp := { s.pmp with links := s.pmp.links ||| (1#2 <<< x) } }
  else s

def execMgmtPortReady (port : Nat) (s : State) : Host.Outcome State Fault Refusal := .next (mgmtPortReady port s)

/-! ### The census (R73, R76, R472) -/

/-- A target meets Table 3.6. -/
def targetFit (t : TargetPage) : Bool :=
  t.good && t.main = 16384 && decide (1904 ≤ t.spare) && decide (1 ≤ t.luns) && decide (t.luns ≤ 4)
    && decide (1 ≤ t.planes) && decide (t.planes ≤ 4) && decide (0 < t.pages) && decide (0 < t.blocks)

/-- What admitted targets of a channel share: page size, block size, LUNs, planes. -/
def targetGeo (t : TargetPage) : Nat × Nat × Nat × Nat := (t.main, t.pages, t.luns, t.planes)

/-- Entries of the ledger in force about a target. -/
def targetEntries (s : State) (ch target : Nat) : List LedEnt :=
  (inForce (s.rep.ledger ++ s.rep.writes.map LedWrite.ent)).filter (fun e =>
    e.cell = ch && e.target = target && (e.type = 0x08 || e.type = 0x0A))

/-- The ledger knows a target by its unique ID. -/
def targetKnown (s : State) (ch target : Nat) (t : TargetPage) : Bool :=
  (targetEntries s ch target).any (fun e => e.type = 0x0A && e.detail = t.uid % 2 ^ 64)

/-- Erase blocks of a target that are retired. -/
def targetRetired (s : State) (ch target : Nat) : Nat :=
  ((targetEntries s ch target).filter (fun e => e.type = 0x08)).length

/-- Usable capacity in 64 KiB units: 93 % of good raw capacity after 64 erase blocks of target 0, at most 4 TiB (R76). -/
def usableOf (f : Flash) : Nat :=
  min (2 ^ 26) ((f.good - (if f.admitted.getLsbD 0 then 64 * f.perBlock / 4 else 0)) * 93 / 100)

/-- A channel's census goes on to its next CE_N; after the sixteenth its CENSUS bit is set. -/
def censusNext (ch : Nat) (s : State) : State :=
  let n := tgetD s.rep.boot.census ch 0 + 1
  let s := updBoot (fun b => { b with census := tput ch n b.census, scan := tdel ch b.scan }) s
  if n < 16 then s
  else
    let f := s.store.flash.getD ch {}
    if f.admitted = 0 then
      settle (evFlash 3 ch 0xFF 0 (updFlash ch (fun f => { f with censusDone := true, censusFail := true, usable := 0 }) s))
    else settle (updFlash ch (fun f => { f with censusDone := true, usable := usableOf f }) s)

/-- Admit a target. -/
def admitTarget (ch target : Nat) (t : TargetPage) (s : State) : State :=
  let blocks := t.luns * t.blocks - targetRetired s ch target
  censusNext ch (updFlash ch (fun f => { f with
    admitted := f.admitted ||| (1#16 <<< target), geometry := some (f.geometry.getD (targetGeo t))
    good := f.good + blocks * t.pages / 4, perBlock := t.pages }) s)

/-- CENSUS_TARGET (R73, R472): what the census finds at the next CE_N of a channel; none where no target answers. -/
def censusTarget (ch target : Nat) (t : Option TargetPage) (s : State) : State :=
  trained (fun s =>
    let f := s.store.flash.getD ch {}
    if 20 ≤ ch || f.censusDone || target != tgetD s.rep.boot.census ch 0 || (tget ch s.rep.boot.scan).isSome then s
    else match t with
      | none => censusNext ch s
      | some t =>
        if !targetFit t || f.geometry.getD (targetGeo t) != targetGeo t then censusNext ch (evFlash 0 ch target 0 s)
        else if targetKnown s ch target t then admitTarget ch target t s
        else updBoot (fun b => { b with scan := tput ch t b.scan }) s) s

def execCensusTarget (ch target : Nat) (t : Option TargetPage) (s : State) : Host.Outcome State Fault Refusal :=
  .next (censusTarget ch target t s)

/-- ENROL_SCAN_DONE (R472): an ENROL entry, an entry for each retired block, then the target is admitted. -/
def enrolScanDone (ch : Nat) (bad : List Nat) (s : State) : State :=
  trained (fun s =>
    match tget ch s.rep.boot.scan with
    | none => s
    | some t =>
      let target := tgetD s.rep.boot.census ch 0
      let bad := bad.eraseDups
      let s := ledgerAdd { type := 0x0A, cause := 7, cell := ch, target := target, object := bad.length
                           detail := t.uid % 2 ^ 64 } none s
      let s := bad.foldl (fun s b => ledgerAdd { type := 0x08, cause := 7, cell := ch, target := target, object := b } none s) s
      admitTarget ch target t (evFlash 4 ch target 0 s)) s

def execEnrolScanDone (ch : Nat) (bad : List Nat) (s : State) : Host.Outcome State Fault Refusal :=
  .next (enrolScanDone ch bad s)

/-- BACKGROUND_ERASE (R472): after the census the channel erases blocks outside the ledger. -/
def backgroundErase (ch : Nat) (blocks : List Nat) (s : State) : State :=
  let f := s.store.flash.getD ch {}
  if 20 ≤ ch || !f.censusDone || f.admitted = 0 then s
  else releaseWrites ch (updFlash ch (fun f => { f with
    erased := min (f.good * 4 - (if f.admitted.getLsbD 0 then 64 * f.perBlock else 0)) (f.erased + blocks.length * f.perBlock)
    wear := blocks.foldl (fun w b => tput b (tgetD w b 0 + 1) w) f.wear }) s)

def execBackgroundErase (ch : Nat) (erased : List Nat) (s : State) : Host.Outcome State Fault Refusal :=
  .next (dp (backgroundErase ch erased) s)

end Sys2Proof.Machine
end

