-- ==== Sys2Proof/Machine/Port.lean ====
section
/-! DEFINITION. Edge ports (13_edge_ports.md): training, lanes and spares, flits, link rows of caravans and Serai,
fences. -/

namespace Sys2Proof.Machine

open Sys2Proof

/-! ### Leaving and entering ACTIVE -/

/-- A port enters a training state. -/
def enter (p : Nat) (st : PortSt) (s : State) : State := updPort p (fun x => { x with st := st, since := s.now }) s

/-- The link layer starts afresh: no state is carried across a retrain (R339). -/
def linkReset (x : Port) : Port :=
  { x with txSeq := 0, replay := [], txq := [], credits := [2048, 2048, 1024, 16384], rxSeq := 0, rxCount := 0
           retrySent := false, retries := 0, rxHeld := [0, 0, 0, 0], badTags := [], nonce := 0, subst := none }

/-- Devices reached through a port. -/
def routedVia (s : State) (p : Nat) : List Nat := (s.car.routes.filter (fun r => r.2.port = p)).map Prod.fst

/-- What leaving ACTIVE ends (R339): the agent's copies, parked waits, requests out, caravans, batches, Depot messages. -/
def linkLost (p : Nat) (s : State) : State :=
  let s := resumePublish (agentLost p s)
  let s := tagsLost p (withdrawRemote p s)
  let s := serLost p (streamsLost p (carsLost p .linkLost false s))
  (routedVia s p).foldl (fun s d => depLinkLost d s) s

/-- A port leaves ACTIVE for another state. -/
def leaveActive (p : Nat) (st : PortSt) (s : State) : State :=
  let was := (port s p).st = .active
  let s := updPort p (fun x => { linkReset x with st := st, since := s.now, coherent := if st = .recover then x.coherent else false }) s
  if was then linkLost p s else s

/-- A port becomes ACTIVE with a new key (R339, R343). -/
def enterActive (p : Nat) (s : State) : State :=
  updPort p (fun x => { linkReset x with st := .active, since := s.now, keys := x.keys + 1, win := List.replicate 9 0
                                         winAt := s.now, cause := 0 }) s

/-- The SerDes reference of a port is lost (R487). -/
def serdesDown (s : State) (p : Nat) : Bool := (tget (3 + p / 4) s.clk.lostAt).isSome

/-- A training event in a state. -/
def inState (p : Nat) (st : PortSt) (f : State → State) (s : State) : State :=
  if p < 8 && (port s p).st = st && !serdesDown s p then f s else s

/-- A training timeout. -/
def stateTimeout (p : Nat) (st next : PortSt) (ns : Nat) (s : State) : State :=
  inState p st (fun s => timer ((port s p).since + ns) (enter p next) s) s

/-! ### Training (Table 13.2) -/

/-- PARTNER_DETECT (R338): a partner signal on `lanes` physical lanes. -/
def execPartnerDetect (p lanes : Nat) (s : State) : Host.Outcome State Fault Refusal :=
  .next (dp (inState p .detect (fun s => if 4 ≤ lanes then enter p .eq s else s)) s)

/-- DETECT_TIMEOUT (R338). -/
def execDetectTimeout (p : Nat) (s : State) : Host.Outcome State Fault Refusal :=
  .next (stateTimeout p .detect .detect 100000000 s)

/-- Physical lanes that may be used, of those that meet the target (R338, R479). -/
def usable (good : List Nat) (x : Port) : List Nat := (good.filter (fun l => decide (l < 9) && !x.dead.getLsbD l)).eraseDups

/-- Lanes after equalisation: `good` are the physical lanes that meet the target, in rising order of error ratio. -/
def assign (good : List Nat) (x : Port) : Port :=
  let g := usable good x
  let bad := (List.range 9).filter (fun l => !g.contains l)
  let failed := BitVec.ofNat 9 ((bad.map (2 ^ ·)).sum)
  if 8 ≤ g.length then
    match bad.filter (· < 8) with
    | f :: _ => { x with width := 8, failed := failed, spareUsed := true
                         lanes := (List.range 9).map (fun i => if i = f then 8 else if i = 8 then f else i) }
    | [] => { x with width := 8, failed := failed, spareUsed := false, lanes := List.range 9 }
  else
    let four := g.take 4
    { x with width := 4, failed := failed, spareUsed := false, lanes := four ++ bad ++ g.drop 4 }

/-- Equalisation ends (R338): ALIGN at width 8 or 4, or DETECT with fewer than 4 lanes. -/
def eqDone (p : Nat) (good : List Nat) (s : State) : State :=
  if (usable good (port s p)).length < 4 then updPort p (fun x => { x with cause := 3, width := 0 }) (enter p .detect s)
  else enter p .align (updPort p (assign good) s)

/-- EQ_DONE (R338). -/
def execEqDone (p : Nat) (good : List Nat) (s : State) : Host.Outcome State Fault Refusal :=
  .next (dp (inState p .eq (eqDone p good)) s)
/-- EQ_TIMEOUT (R338). -/
def execEqTimeout (p : Nat) (s : State) : Host.Outcome State Fault Refusal := .next (stateTimeout p .eq .detect 60000000 s)
/-- ALIGN_DONE (R338). -/
def execAlignDone (p : Nat) (s : State) : Host.Outcome State Fault Refusal := .next (dp (inState p .align (enter p .auth)) s)
/-- ALIGN_TIMEOUT (R338). -/
def execAlignTimeout (p : Nat) (s : State) : Host.Outcome State Fault Refusal := .next (stateTimeout p .align .detect 2000000 s)

/-- The port goes DOWN with a cause; management, which enabled it, still holds it in service (R461). -/
def goDown (p cause : Nat) (s : State) : State :=
  splitNote (unitField .port p) false true false (updPort p (fun x => { x with cause := cause }) (enter p .down s))

/-- LINK_AUTH_DONE (R343): the partner is verified and the key derived, or a signature fails. -/
def execLinkAuthDone (p : Nat) (okay : Bool) (s : State) : Host.Outcome State Fault Refusal :=
  .next (dp (inState p .auth (fun s => if okay then enter p .config s else evPort 0 p 0xFF (port s p).partner (goDown p 1 s))) s)
/-- AUTH_TIMEOUT (R338). -/
def execAuthTimeout (p : Nat) (s : State) : Host.Outcome State Fault Refusal := .next (stateTimeout p .auth .detect 5000000 s)

/-- CONFIG_DONE (R338, R346): the partner's device number, SPTAG and whether it names itself coherent. -/
def execConfigDone (p partner sptag : Nat) (coherent : Bool) (s : State) : Host.Outcome State Fault Refusal :=
  .next (dp (inState p .config (fun s =>
    let s := updPort p (fun x => { x with partner := partner % 4096, psptag := sptag % 4096 }) s
    if sptag % 4096 != (port s p).cfg.sptag then evPort 2 p 0xFF (partner % 4096) (goDown p 2 s)
    else enterActive p (updPort p (fun x => { x with coherent := coherent && x.cfg.coherent }) s))) s)
/-- CONFIG_TIMEOUT (R338). -/
def execConfigTimeout (p : Nat) (s : State) : Host.Outcome State Fault Refusal := .next (stateTimeout p .config .detect 1000000 s)

/-- RECOVER_DONE (R338): ALIGN and AUTH pass, with EQ over `good` too where a lane failed. -/
def execRecoverDone (p : Nat) (good : List Nat) (s : State) : Host.Outcome State Fault Refusal :=
  .next (dp (inState p .recover (fun s =>
    let x := port s p
    if x.needEq && (usable good x).length < 4 then s
    else
      let s := if x.needEq then updPort p (assign good) s else s
      cnt (portReg p 0x70) 1 (enterActive p (updPort p (fun x => { x with needEq := false }) s)))) s)
/-- RECOVER_TIMEOUT (R338). -/
def execRecoverTimeout (p : Nat) (s : State) : Host.Outcome State Fault Refusal :=
  .next (stateTimeout p .recover .detect 10000000 s)

/-- FEC_LOCK_LOSS (R338). -/
def execFecLockLoss (p : Nat) (s : State) : Host.Outcome State Fault Refusal :=
  .next (dp (inState p .active (leaveActive p .recover)) s)

/-! ### Lanes (R337, R340, R341) -/

/-- A lane's failure is noted; the third within 24 h takes it out of use for good (Table 19.6). -/
def laneNote (p phys : Nat) (s : State) : State :=
  let day := 86400000000000
  let old := (port s p).laneLog.filter (fun y => decide (s.wall < y.2 + day))
  let n := (old.filter (fun y => y.1 = phys)).length
  let s := updPort p (fun x => { x with laneLog := old ++ [(phys, s.wall)] }) s
  if n < 2 || (port s p).dead.getLsbD phys then s
  else ledgerAdd { type := 0x0B, cause := 2, unit := unitField .port p, logical := p, object := phys } none
    (updPort p (fun x => { x with dead := x.dead ||| (1#9 <<< phys) }) s)

/-- A physical lane fails: a working lane goes to the spare if it is free, else a port at width 8 retrains. -/
def laneFails (p phys : Nat) (s : State) : State :=
  let x := port s p
  if x.st != .active || 9 ≤ phys || x.failed.getLsbD phys then s
  else
    let spare := x.lanes.getD 8 8
    let free := !x.spareUsed && !x.failed.getLsbD spare
    let s := laneNote p phys (updPort p (fun x => { x with failed := x.failed ||| (1#9 <<< phys) }) s)
    match (List.range x.width).find? (fun i => x.lanes.getD i 9 = phys) with
    | none => s
    | some i =>
      if free && x.subst.isNone then emit (.ctl p 1 i) (updPort p (fun x => { x with subst := some i }) s)
      else if x.width = 8 then leaveActive p .recover (updPort p (fun x => { x with needEq := true }) s)
      else s

/-- The symbol error ratio of a lane over the 1 ms window exceeds LANE_SER_MAX: 42,500,000 symbols of 10 bits at
425 Gb/s (Table 13.1). -/
def serOver (c : PortCfg) (errs : Nat) : Bool :=
  if c.serMant = 0 then decide (42500000 < errs * 10 ^ 4) else decide (c.serMant * 42500000 < errs * 10 ^ c.serExp)

/-- LANE_SER_WINDOW (R337). -/
def laneWindow (p : Nat) (s : State) : State :=
  let x := port s p
  if x.st != .active then s
  else timer (x.winAt + 1000000) (fun s =>
    let bad := (List.range 9).filter (fun l => serOver x.cfg (x.win.getD l 0))
    let s := updPort p (fun x => { x with win := List.replicate 9 0, winAt := s.now }) s
    bad.foldl (fun s l => laneFails p l s) s) s
def execLaneSerWindow (p : Nat) (s : State) : Host.Outcome State Fault Refusal := .next (if p < 8 then laneWindow p s else s)

/-- CLOCK_RECOVERY_LOSS (R337). -/
def execClockRecoveryLoss (p lane : Nat) (s : State) : Host.Outcome State Fault Refusal :=
  .next (dp (fun s => if p < 8 then laneFails p lane s else s) s)

/-- Ask the module to move the failed lane to the spare wavelength (Table 13.3): address, then the four bytes. -/
def remapAsk (p : Nat) (s : State) : State :=
  let x := port s p
  emit (.i3c x.cfg.modAddr (0xA1 + 256 * x.remapLane + 65536 * x.cfg.wavelength + 16777216 * x.remapSeq))
    (updPort p (fun x => { x with remapPend := true, remapAt := s.now }) s)

/-- SUBSTITUTE (R340): a logical lane, this port's or named by the partner, moves to the spare's physical lane. -/
def substitute (p lane : Nat) (s : State) : State :=
  let x := port s p
  if x.st != .active || x.spareUsed || 8 ≤ lane || (match x.subst with | some i => i != lane | none => false) then s
  else
    let a := x.lanes.getD lane lane
    let b := x.lanes.getD 8 8
    let s := cnt (portReg p 0x58) 1 (updPort p (fun x => { x with
      lanes := (x.lanes.set lane b).set 8 a, spareUsed := true, subst := none, failed := x.failed ||| (1#9 <<< a) }) s)
    if x.cfg.remapEn && !x.dead.getLsbD a then
      remapAsk p (updPort p (fun x => { x with remapSeq := (x.remapSeq + 1) % 256, remapTries := 1, remapLane := a }) s)
    else s
def execSubstitute (p lane : Nat) (s : State) : Host.Outcome State Fault Refusal :=
  .next (dp (fun s => if p < 8 then substitute p lane s else s) s)

/-- The remap is given up (R341). -/
def remapFail (p : Nat) (s : State) : State :=
  evPort 3 p (port s p).remapLane (port s p).partner
    (cnt (portReg p 0x68) 1 (updPort p (fun x => { x with remapPend := false }) s))

/-- REMAP_ANSWER (R341): the module's sequence and answer. -/
def remapAnswer (p seq ans : Nat) (s : State) : State :=
  let x := port s p
  if !x.remapPend || seq != x.remapSeq then s
  else if ans = 0 then updPort p (fun x => { x with remapEq := true }) s
  else remapFail p s
def execRemapAnswer (p seq ans : Nat) (s : State) : Host.Outcome State Fault Refusal :=
  .next (dp (fun s => if p < 8 then remapAnswer p seq ans s else s) s)

/-- REMAP_TIMEOUT (R341): once more, then given up. -/
def remapTimeout (p : Nat) (s : State) : State :=
  let x := port s p
  if !x.remapPend || x.remapEq then s
  else timer (x.remapAt + 50000000) (fun s =>
    if x.remapTries = 1 then
      remapAsk p (updPort p (fun x => { x with remapTries := 2, remapSeq := (x.remapSeq + 1) % 256 }) s)
    else remapFail p s) s
def execRemapTimeout (p : Nat) (s : State) : Host.Outcome State Fault Refusal := .next (if p < 8 then remapTimeout p s else s)

/-- SPARE_EQ_DONE (R341): the remapped lane becomes the new spare; the logical map stays. -/
def spareEq (p : Nat) (s : State) : State :=
  let x := port s p
  if !x.remapEq then s
  else cnt (portReg p 0x60) 1 (updPort p (fun x => { x with
    remapEq := false, remapPend := false, spareUsed := false, failed := x.failed &&& ~~~(1#9 <<< x.remapLane) }) s)
def execSpareEqDone (p : Nat) (s : State) : Host.Outcome State Fault Refusal :=
  .next (dp (fun s => if p < 8 then spareEq p s else s) s)

/-! ### Flits (R342 to R344, R349) -/

/-- Ask the partner to send again from the expected SEQ. -/
def askRetry (p : Nat) (s : State) : State :=
  emit (.ctl p 2 (port s p).rxSeq.toNat) (updPort p (fun x => { x with retrySent := true }) s)

/-- Take the ACK and CREDITS of an accepted flit. -/
def flitAck (p : Nat) (f : Flit) (s : State) : State :=
  let a := BitVec.ofNat 20 f.ack
  pump p (updPort p (fun x =>
    let n := if x.replay.any (fun r => r.1 = a) then (x.replay.takeWhile (fun r => r.1 != a)).length + 1 else 0
    let cap := [2048, 2048, 1024, 16384].getD f.cclass 0
    { x with replay := x.replay.drop n
             credits := x.credits.set f.cclass (min cap (x.credits.getD f.cclass 0 + f.credits)) }) s)

/-- Note what the FEC says of an arriving flit and its symbol errors by lane (R337, Table 13.9). -/
def flitNote (p : Nat) (f : Flit) (s : State) : State :=
  let s := cnt (portReg p 0x30) f.uncorrectable (cnt (portReg p 0x28) f.corrected s)
  let s := (List.range 9).foldl (fun s l => let n := f.symbols.getD l 0
    if n = 0 then s else cnt (portReg p (0x100 + 8 * l)) n s) s
  updPort p (fun x => { x with win := (List.range 9).map (fun l => x.win.getD l 0 + f.symbols.getD l 0) }) s

/-- The expected SEQ moves past an accepted flit; one of FTYPE 0 takes no SEQ (R342). -/
def flitStep (p : Nat) (f : Flit) (s : State) : State :=
  updPort p (fun x => { x with
    rxSeq := if f.ftype = 0 then x.rxSeq else x.rxSeq + 1, retrySent := false, rxCount := x.rxCount + 1 }) s

/-- FLIT_RECEIVE (Table 13.8): the checks of an arriving flit in order; its messages arrive as rows of their own. -/
def flitReceive (p : Nat) (f : Flit) (s : State) : State :=
  let x := port s p
  if x.st != .active then s
  else
    let s := flitNote p f s
    if !f.crc || 3 < f.ftype || 3 < f.cclass then askRetry p (cnt (portReg p 0x38) 1 s)
    else if BitVec.ofNat 20 f.seq != x.rxSeq then (if x.retrySent then s else askRetry p s)
    else if !f.tag then
      let recent := (s.now :: x.badTags).filter (fun t => decide (s.now < t + 1000000))
      let s := cnt (portReg p 0x48) 1 (updPort p (fun x => { x with badTags := recent }) s)
      if 3 ≤ recent.length then leaveActive p .recover (evPort 1 p 0xFF x.partner s) else askRetry p s
    else if f.sptag != x.cfg.sptag then cnt (portReg p 0x50) 1 (flitStep p f s)
    else if x.fenceLog then cnt (portReg p 0x50) 1 (flitStep p f s)
    else flitAck p f (flitStep p f (if f.ftype = 0 then s else cnt (portReg p 0x20) 1 s))
def execFlitReceive (p : Nat) (f : Flit) (s : State) : Host.Outcome State Fault Refusal :=
  .next (dp (fun s => if p < 8 then flitReceive p f s else s) s)

/-- RETRY (R342): resend from the named SEQ; eight in a row for one SEQ take the link to RECOVER. -/
def retry (p seq : Nat) (s : State) : State :=
  let x := port s p
  let q := BitVec.ofNat 20 seq
  if x.st != .active then s
  else
    let n := if x.retrySeq = q then x.retries + 1 else 1
    let again := x.replay.dropWhile (fun r => r.1 != q)
    let s := updPort p (fun x => { x with retrySeq := q, retries := n }) s
    if 8 ≤ n then leaveActive p .recover s
    else again.foldl (fun s r => put (.link p r.2) s) (cnt (portReg p 0x40) again.length s)
def execRetry (p seq : Nat) (s : State) : Host.Outcome State Fault Refusal :=
  .next (dp (fun s => if p < 8 then retry p seq s else s) s)

/-- KEYUPDATE (R343): both directions move to the next key; `own` where this port sends it. -/
def keyUpdate (p : Nat) (own : Bool) (s : State) : State :=
  if (port s p).st != .active then s
  else
    let s := if own then emit (.ctl p 3 0) s else s
    pump p (updPort p (fun x => { x with keys := x.keys + 1, nonce := 0 }) s)
def execKeyupdate (p : Nat) (own : Bool) (s : State) : Host.Outcome State Fault Refusal :=
  .next (dp (fun s => if p < 8 then keyUpdate p own s else s) s)

/-- FLIT_ACK_SEND (R342): acknowledge what has arrived, and return the credits of taken messages (R348). -/
def flitAckSend (p : Nat) (s : State) : State :=
  let x := port s p
  if x.st != .active || x.rxCount = 0 then s
  else
    let s := emit (.ctl p 4 (x.rxSeq - 1).toNat) (updPort p (fun x => { x with rxCount := 0, rxHeld := [0, 0, 0, 0] }) s)
    (List.range 4).foldl (fun s c => if x.rxHeld.getD c 0 = 0 then s else emit (.ctl p (16 + c) (x.rxHeld.getD c 0)) s) s
def execFlitAckSend (p : Nat) (s : State) : Host.Outcome State Fault Refusal :=
  .next (dp (fun s => if p < 8 then flitAckSend p s else s) s)

/-! ### Messages -/

/-- A message of an accepted flit: without credit it is a protocol error and the link retrains (R348). -/
def arrive (p : Nat) (k : MsgKind) (data : List Byte) (f : State → State) (s : State) : State :=
  let x := port s p
  if 8 ≤ p || s.halted || x.st != .active || x.fenceLog then s
  else
    let c := msgClass k
    let n := x.rxHeld.getD c 0 + msgSlots { kind := k, data := data }
    if [2048, 2048, 1024, 16384].getD c 0 < n then leaveActive p .recover (updPort p (fun x => { x with cause := 5 }) s)
    else f (updPort p (fun x => { x with rxHeld := x.rxHeld.set c n }) s)

/-- RD_S (R346). -/
def execRdS (p tag ctx : Nat) (addr : Addr) (s : State) : Host.Outcome State Fault Refusal :=
  .next (arrive p .rdS [] (agentReq p tag ctx addr .rdS) s)
/-- RD_M (R346). -/
def execRdM (p tag ctx : Nat) (addr : Addr) (s : State) : Host.Outcome State Fault Refusal :=
  .next (arrive p .rdM [] (agentReq p tag ctx addr .rdM) s)
/-- UPG_M (R346). -/
def execUpgM (p tag ctx : Nat) (addr : Addr) (s : State) : Host.Outcome State Fault Refusal :=
  .next (arrive p .upgM [] (agentReq p tag ctx addr .upgM) s)
/-- WB (R345). -/
def execWb (p tag ctx : Nat) (addr : Addr) (data : List Byte) (s : State) : Host.Outcome State Fault Refusal :=
  .next (arrive p .wb [] (agentGives p tag ctx addr (some data)) s)
/-- EVICT (R345). -/
def execEvict (p tag ctx : Nat) (addr : Addr) (s : State) : Host.Outcome State Fault Refusal :=
  .next (arrive p .evict [] (agentGives p tag ctx addr none) s)
/-- RD_NC (R346). -/
def execRdNc (p tag ctx : Nat) (addr : Addr) (s : State) : Host.Outcome State Fault Refusal :=
  .next (arrive p .rdNc [] (linkReq p tag ctx addr .rdNc [] []) s)
/-- WR_LINE (R346). -/
def execWrLine (p tag ctx : Nat) (addr : Addr) (data : List Byte) (s : State) : Host.Outcome State Fault Refusal :=
  .next (arrive p .wrLine [] (linkReq p tag ctx addr .wrInv (padTo 64 data) []) s)
/-- WR_PART (R346): bit i of the mask for byte i. -/
def execWrPart (p tag ctx : Nat) (addr : Addr) (data : List Byte) (mask : BitVec 64) (s : State) :
    Host.Outcome State Fault Refusal :=
  .next (arrive p .wrPart [] (linkReq p tag ctx addr .wrInv (padTo 64 data) ((List.range 64).map mask.getLsbD)) s)
/-- SYNC_UPD (R347). -/
def execSyncUpd (p tag ctx : Nat) (sa opnd : BitVec 64) (sub : Bool) (s : State) : Host.Outcome State Fault Refusal :=
  .next (arrive p .syncUpd [] (syncUpd p tag ctx sa opnd sub) s)
/-- SYNC_RD (R347). -/
def execSyncRd (p tag ctx : Nat) (sa : BitVec 64) (s : State) : Host.Outcome State Fault Refusal :=
  .next (arrive p .syncRd [] (syncRd p tag ctx sa) s)
/-- SYNC_WAIT (R347): kind 0 WAIT_GE, 1 WAIT_EQ, 2 MONITOR; another kind is refused. -/
def execSyncWait (p tag ctx : Nat) (sa opnd : BitVec 64) (timeout : BitVec 32) (kind : Nat) (s : State) :
    Host.Outcome State Fault Refusal :=
  .next (arrive p .syncWait [] (match kind with
    | 0 => syncWait p tag ctx sa opnd timeout.toNat .waitGe
    | 1 => syncWait p tag ctx sa opnd timeout.toNat .waitEq
    | 2 => syncWait p tag ctx sa opnd timeout.toNat .monitor
    | _ => rspFault p tag ctx .unsupported) s)
/-- FE_OP (R347). -/
def execFeOp (p tag ctx : Nat) (sa : BitVec 64) (f : FeOp) (timeout : BitVec 32) (data : List Byte) (s : State) :
    Host.Outcome State Fault Refusal :=
  .next (arrive p .feOp [] (feOpMsg p tag ctx sa f timeout.toNat data) s)
/-- SNP_INV (R345): the home demands the copy of a line that the agent of port `p` holds. -/
def execSnpInv (p line : Nat) (s : State) : Host.Outcome State Fault Refusal :=
  .next (dp (fun s => if p < 8 then demand p line true s else s) s)
/-- SNP_SHR (R345). -/
def execSnpShr (p line : Nat) (s : State) : Host.Outcome State Fault Refusal :=
  .next (dp (fun s => if p < 8 then demand p line false s else s) s)
/-- RSP_DATA (R345). -/
def execRspData (p tag : Nat) (data : List Byte) (poison : Bool) (s : State) : Host.Outcome State Fault Refusal :=
  .next (arrive p .rspData [] (answer p tag .done (padTo 64 data) poison none) s)
/-- RSP_ACK (R345). -/
def execRspAck (p tag : Nat) (s : State) : Host.Outcome State Fault Refusal :=
  .next (arrive p .rspAck [] (answer p tag .done [] false none) s)
/-- RSP_SNP (R345). -/
def execRspSnp (p line : Nat) (data : Option (List Byte)) (poison : Bool) (s : State) : Host.Outcome State Fault Refusal :=
  .next (arrive p .rspSnp (data.getD []) (snoopAnswer p line data poison) s)
/-- RSP_FAULT (R345). -/
def execRspFault (p tag status : Nat) (s : State) : Host.Outcome State Fault Refusal :=
  .next (arrive p .rspFault [] (fun s => if (statusOf status).ok then s else answer p tag (statusOf status) [] false none s) s)
/-- RSP_SYNC (R347). -/
def execRspSync (p tag status : Nat) (word : BitVec 64) (s : State) : Host.Outcome State Fault Refusal :=
  .next (arrive p .rspSync [] (answer p tag (statusOf status) [] false (some word.toNat)) s)

/-! ### Caravan and Serai rows -/

/-- CARAVAN_START (R352). -/
def execCaravanStart (kind : UnitKind) (unit id : Nat) (host : Option (List Byte)) (s : State) :
    Host.Outcome State Fault Refusal := .next (dp (caravanStart kind unit id host) s)
/-- OPEN (R358). -/
def execOpen (p : Nat) (m : Msg) (s : State) : Host.Outcome State Fault Refusal := .next (arrive p .openStream [] (landOpen p m) s)
/-- PULL (R355). -/
def execPull (p : Nat) (m : Msg) (s : State) : Host.Outcome State Fault Refusal := .next (arrive p .pull [] (pullArrives p m) s)
/-- DATA_FLIT (R358). -/
def execDataFlit (p stream chunk : Nat) (data : List Byte) (lane : Lane) (s : State) : Host.Outcome State Fault Refusal :=
  .next (arrive p .chunk [] (landChunk p stream chunk data lane) s)
/-- CLOSE (R358). -/
def execClose (p : Nat) (m : Msg) (s : State) : Host.Outcome State Fault Refusal := .next (arrive p .close [] (landClose p m) s)
/-- POISON (R358). -/
def execPoison (p : Nat) (m : Msg) (s : State) : Host.Outcome State Fault Refusal := .next (arrive p .poisonLines [] (landPoison p m) s)
/-- BEACON (R124). -/
def execBeacon (p : Nat) (m : Msg) (s : State) : Host.Outcome State Fault Refusal := .next (arrive p .beacon [] (beaconArrives p m) s)
/-- ACK (R358). -/
def execAck (p : Nat) (m : Msg) (s : State) : Host.Outcome State Fault Refusal := .next (arrive p .ack [] (ackArrives p m) s)
/-- LEG_CLOSE (R361): port 8 for the PCIe DMA engine. -/
def execLegClose (p stream : Nat) (lane : Lane) (s : State) : Host.Outcome State Fault Refusal :=
  .next (dp (legClose p stream lane) s)
/-- FINAL (R362). -/
def execFinal (p : Nat) (m : Msg) (s : State) : Host.Outcome State Fault Refusal := .next (arrive p .final [] (finalArrives p m) s)
/-- ABANDON (R358). -/
def execAbandon (p : Nat) (m : Msg) (s : State) : Host.Outcome State Fault Refusal := .next (arrive p .abandon [] (abandonArrives p m) s)
/-- BCN_RESULT (R362). -/
def execBcnResult (p : Nat) (m : Msg) (s : State) : Host.Outcome State Fault Refusal := .next (arrive p .bcnResult [] (bcnResult p m) s)
/-- BATCH (R374). -/
def execBatch (p : Nat) (m : Msg) (s : State) : Host.Outcome State Fault Refusal := .next (arrive p .batch [] (batchArrives p m) s)
/-- BATCH_RESULT (R374). -/
def execBatchResult (p : Nat) (m : Msg) (s : State) : Host.Outcome State Fault Refusal := .next (arrive p .batchResult [] (batchResult p m) s)
/-- BATCH_DONE (R374): with no status, this far port has performed the batch and answers; with one, the answer arrives. -/
def execBatchDone (p stream : Nat) (status : Option Nat) (s : State) : Host.Outcome State Fault Refusal :=
  .next (match status with
    | none => dp (batchFarDone p stream) s
    | some st => arrive p .batchDone [] (batchDoneArrives p stream (statusOf st)) s)
/-- ACK_TIMEOUT (R364, R366, R375). -/
def execAckTimeout (u : OutUse) (s : State) : Host.Outcome State Fault Refusal :=
  .next (match u with
    | .leg c i => legTimeout c i s
    | .batch b => batchTimeout b s)
/-- STREAM_IDLE_FREE (R366). -/
def execStreamIdleFree (p stream : Nat) (s : State) : Host.Outcome State Fault Refusal := .next (streamIdle p stream s)
/-- FENCE_DONE (R363). -/
def execFenceDone (car : Nat) (s : State) : Host.Outcome State Fault Refusal := .next (dp (fenceDone car) s)
/-- SERAI_WINDOW_EXPIRY (R373). -/
def execSeraiWindowExpiry (batch : Nat) (s : State) : Host.Outcome State Fault Refusal := .next (serExpiry batch s)
/-- BEACON_RELEASE (R124). -/
def execBeaconRelease (p stream : Nat) (s : State) : Host.Outcome State Fault Refusal := .next (dp (beaconRelease p stream) s)
/-- BEACON_HOLD_EXPIRY (R125). -/
def execBeaconHoldExpiry (p stream : Nat) (s : State) : Host.Outcome State Fault Refusal := .next (beaconExpiry p stream s)

/-! ### Fences and PORT_STATE (R338, R350, Table 17.11) -/

/-- Ports a PORT_STATE command names. -/
def cmdPorts (c : Cmd) : List Nat := (List.range 8).filter (bit (c.arg 1 1))

/-- Complete PORT_STATE fences whose every port is FENCED (R350). -/
def fencesDone (s : State) : State :=
  (List.range 22).foldl (fun s n => match (mbxOf s n).run with
    | some c => if c.op = 0x0904 && c.arg 2 1 = 2 && (cmdPorts c).all (fun p => (port s p).st = .fenced) then complete n 0 [] s else s
    | none => s) s

/-- ELECTRICAL_FENCE (R350, step 3): every lane idle, the port FENCED. -/
def electricalFence (p : Nat) (s : State) : State :=
  let x := port s p
  if !x.fenceLog || x.fenceElec then s
  else
    let s := leaveActive p .fenced s
    fencesDone (updPort p (fun x => { x with fenceElec := true, width := 0 }) s)
def execElectricalFence (p : Nat) (s : State) : Host.Outcome State Fault Refusal :=
  .next (dp (fun s => if p < 8 then electricalFence p s else s) s)

/-- PORT_STATE's checks (Table 17.11, R532). -/
def portCmd (mb action : Nat) (act : Nat → State → State) (wait : Bool) (s : State) : State :=
  catalogue mb 0x0904 (fun s c => { ready := (cmdPorts c).all (fun p => s.rep.boot.ports.getLsbD p) }) (fun c s =>
    if c.arg 2 1 = action then
      let s := (cmdPorts c).foldl (fun s p =>
        let s := act p s
        splitEnd (unitField .port p) false (action = 1 || action = 3) ((port s p).st != .down) s) s
      if wait then fencesDone s else complete mb 0 [] s
    else s) s

/-- PORT_DISABLE (R338). -/
def execPortDisable (mb : Nat) (s : State) : Host.Outcome State Fault Refusal :=
  .next (portCmd mb 0 (fun p s =>
    if (port s p).st = .fenced then updPort p (fun x => { x with cfg := { x.cfg with enable := false } }) s
    else updPort p (fun x => { x with cause := 4, width := 0, cfg := { x.cfg with enable := false } }) (leaveActive p .disabled s)) false s)

/-- PORT_ENABLE (R338). -/
def execPortEnable (mb : Nat) (s : State) : Host.Outcome State Fault Refusal :=
  .next (portCmd mb 1 (fun p s =>
    let s := updPort p (fun x => { x with cfg := { x.cfg with enable := true } }) s
    if (port s p).st = .disabled || (port s p).st = .down then updPort p (fun x => { x with cause := 0 }) (enter p .detect s) else s) false s)

/-- PORT_FENCE (R350, steps 1 and 2); it completes with the electrical fence. -/
def execPortFence (mb : Nat) (s : State) : Host.Outcome State Fault Refusal :=
  .next (portCmd mb 2 (fun p s =>
    if (port s p).fenceLog then s
    else carsLost p .abortedFenced true (updPort p (fun x => { x with fenceLog := true, fenceAt := s.now }) s)) true s)

/-- PORT_UNFENCE (R350): the port retrains from DETECT. -/
def execPortUnfence (mb : Nat) (s : State) : Host.Outcome State Fault Refusal :=
  .next (portCmd mb 3 (fun p s =>
    if (port s p).st = .fenced then
      updPort p (fun x => { x with fenceLog := false, fenceElec := false }) (enter p .detect s)
    else s) false s)

end Sys2Proof.Machine
end

