-- ==== Sys2Proof/Machine/Power.lean ====
section
/-! DEFINITION. Clocks and their loss (R486 to R488), power loops and safety limits (R491 to R500), and core faults (R23). -/

namespace Sys2Proof.Machine

open Sys2Proof

/-! ### Safe states (Table 20.2) -/

/-- A port in training or ACTIVE. -/
def portTrains (x : Port) : Bool :=
  x.st != .disabled && x.st != .fenced && x.st != .down

/-- The safe states of REFCLK_SYS: stacks in self-refresh, flash deselected and write-protected, clock outputs low. -/
def safePins (s : State) : State :=
  let s := { s with store := { s.store with stks := s.store.stks.map (fun (x : Stack) => { x with srf := true }) } }
  put (.pin "CLKOUT" 0) (put (.pin "FLASH_WP_N" 0) (put (.pin "FLASH_CE_N" 1) s))

/-- Ports fall out of ACTIVE with the data path halted: nothing more is written (R499, R504). -/
def portsSilent (s : State) : State :=
  { s with ports := s.ports.map (fun (x : Port) => if portTrains x then { linkReset x with st := .detect, since := s.now } else x) }

/-- The data path halts for good: a fatal error or a trip. -/
def haltDead (s : State) : State := { portsSilent (safePins s) with halted := true }

/-! ### Clocks (R487, R488) -/

/-- CLK_LAST_LOSS (Table 20.10). -/
def clkLastLoss (s : State) : Nat := s.clk.lastLoss.1 * 2 ^ 61 + s.clk.lastLoss.2 % 2 ^ 40

/-- Ports of a SerDes reference leave ACTIVE. -/
def portsDetect (ps : List Nat) (s : State) : State :=
  ps.foldl (fun s p => if portTrains (port s p) then leaveActive p .detect s else s) s

/-- CLOCK_LOSS (R487): sources 0 XTAL_IN, 1 REFCLK_SYS, 2 REFCLK_PCIE, 3 and 4 REFCLK_SER0 and 1. -/
def clockLoss (src : Nat) (s : State) : State :=
  if 5 ≤ src || !s.clk.stable.getLsbD src || (tget src s.clk.lostAt).isSome then s
  else
    let dead := s.halted
    let s := match src with
      | 2 => hostLinkDown 1 (hostLinkDown 0 s)
      | 3 => if dead then s else portsDetect [0, 1, 2, 3] s
      | 4 => if dead then s else portsDetect [4, 5, 6, 7] s
      | _ => s
    let s := if src = 1 && !dead then { safePins (portsDetect (List.range 8) s) with halted := true } else s
    let s := updClk (fun c => { c with
      stable := c.stable &&& ~~~(1#5 <<< src), loss := c.loss ||| (1#5 <<< src), lostAt := tput src s.wall c.lostAt }) s
    evPlatform 0 src (clkLastLoss s) (cnt (0x40018 + 8 * src) 1 s)

def execClockLoss (source : Nat) (s : State) : Host.Outcome State Fault Refusal := .next (clockLoss source s)

/-- 65,536 periods of a source, in nanoseconds (R486, Table 20.1). -/
def stabilityNs (src : Nat) : Nat := if src = 0 then 2621440 else if src < 3 then 655360 else 419431

/-- Every lease this device holds as OWNER or TAKING ends (R488). -/
def leasesEnd (s : State) : State :=
  (s.dep.members.map Prod.snd).foldl (fun s m =>
    (m.leases.filter (fun l => l.2.role = .owner || l.2.role = .taking)).foldl
      (fun s l => leaseOver m.part m.depot l.1 s) s) s

/-- The data path goes on after REFCLK_SYS (R488): first the Stage unit's period and the leases end. -/
def sysRestart (s : State) : State :=
  if s.ras.fatal.isSome || s.pwr.trip.isSome then s
  else
    let s := { s with store := { s.store with stks := s.store.stks.map (fun (x : Stack) => { x with srf := false }) } }
    let s := { s with halted := false }
    let missed := s.stg.missed
    let s := if s.stg.st = .off || s.stg.st = .lost then s else updStg (fun g => { g with missed := missed }) (stageLost s)
    leasesEnd s

/-- CLOCK_RESTART (R487): a lost source has passed its stability count and its domains restart. -/
def clockRestart (src : Nat) (s : State) : State :=
  match tget src s.clk.lostAt with
  | none => s
  | some t =>
    let s := reachWall (t + stabilityNs src) s
    let s := updClk (fun c => { c with
      stable := c.stable ||| (1#5 <<< src), lostAt := tdel src c.lostAt, lastLoss := (src, (s.wall - t) / 1000) }) s
    if src = 1 then sysRestart s else s

def execClockRestart (source : Nat) (s : State) : Host.Outcome State Fault Refusal := .next (clockRestart source s)

/-! ### Trips and rails (R491, R492, R499) -/

/-- A trip: cause 1 junction, 2 stack, 3 rail (Table 20.9); every domain halts and THERMTRIP_N is asserted. -/
def trip (cause rail : Nat) (s : State) : State :=
  if s.pwr.trip.isSome then s
  else
    let s := haltDead (updPwr (fun p => { p with trip := some (cause, rail) }) s)
    put (.pin "THERMTRIP_N" 0) (updHost (fun h => { h with linkUp := false, linkUp1 := false }) s)

/-- RAIL_FAULT (R491, R492): a rail outside its window for `ns`, or a regulator silent for 1 ms. -/
def railFault (rail ns : Nat) (silent : Bool) (s : State) : State :=
  if !s.pwr.vaux then s
  else if silent then (if 1000000 ≤ ns then trip 3 rail s else s)
  else if 10000 < ns then trip 3 rail s else s

def execRailFault (rail ns : Nat) (silent : Bool) (s : State) : Host.Outcome State Fault Refusal :=
  .next (railFault rail ns silent s)

/-- VCORE_OVERCURRENT (R499): current or droop over its limit, or both clear for 1 µs. -/
def execVcoreOvercurrent (overI : Bool) (s : State) : Host.Outcome State Fault Refusal :=
  .next (dp (updPwr (fun p => { p with overI := overI })) s)

/-! ### The loops (R496 to R498) -/

/-- Add one interval to a 32-bit half of PWR_CNT_CONTEND. -/
def cnt32 (a : Nat) (s : State) : State :=
  { s with csr := tput a (min (tgetD s.csr a 0 + 1) (2 ^ 32 - 1)) s.csr }

/-- The frequency management and the pin ask of a cell: the pin or FMAX, within the envelope. -/
def askedFreq (p : Pwr) (x : PwrCell) : Nat := max p.fmin (min p.fmax (if x.pin = 0 then p.fmax else x.pin))

/-- A thermal limit applies to a cell: its own junction or its tile's. -/
def cellHot (p : Pwr) (c : Nat) : Bool := (p.cells.getD c {}).hot || p.tileHot.getLsbD (c / 5)

/-- Target of a cell's loop: within its share, and under the safety limits (R498, R499). -/
def dvfsTarget (p : Pwr) (c : Nat) (o : DvfsObs) : Nat :=
  let x := p.cells.getD c {}
  let t := max p.fmin (min (askedFreq p x) o.fit)
  let t := if p.coolFault then min t 2000 else t
  if cellHot p c then max 1200 (min t (x.cur - 100)) else t

/-- CAUSE of Table 20.12. -/
def dvfsCause (p : Pwr) (c : Nat) (o : DvfsObs) : Nat :=
  let x := p.cells.getD c {}
  if p.overI then 6
  else if cellHot p c then 4
  else if p.coolFault && decide (2000 < max p.fmin (min (askedFreq p x) o.fit)) then 5
  else if o.fit < p.fmin then 7
  else if o.fit < askedFreq p x then 3
  else if x.pin = 0 || decide (p.fmax < x.pin) then 1
  else 2

/-- A safety limit of Table 20.8 applies to a cell. -/
def cellSafety (p : Pwr) (c : Nat) : Bool := p.overI || cellHot p c || p.coolFault

/-- The loop would leave the envelope: its pin lies outside, or its share asks for less than FMIN. -/
def cellContends (p : Pwr) (c : Nat) (o : DvfsObs) : Bool :=
  let x := p.cells.getD c {}
  !cellSafety p c && ((x.pin != 0 && x.pin != askedFreq p x) || decide (o.fit < p.fmin))

/-- One 10 µs interval of a powered cell. -/
def dvfsCell (s : State) (x : Nat × DvfsObs) : State :=
  let c := x.1
  let o := x.2
  let y := s.pwr.cells.getD c {}
  if 20 ≤ c || y.cur = 0 then s
  else
    let t := dvfsTarget s.pwr c o
    let cur := if y.cur < t then y.cur + 100 else if t < y.cur then y.cur - 100 else t
    let p := s.pwr
    let n : PwrCell := { y with cur := cur, cause := dvfsCause p c o, power := o.power, throttle := p.overI || decide (o.fit < p.fmin) }
    let s := updPwr (fun p => { p with cells := p.cells.setIfInBounds c n }) s
    let s := if cellSafety p c then cnt32 (0x50108 + 16 * c + 4) s else s
    if cellContends p c o then cnt32 (0x50108 + 16 * c) s else s

/-- DVFS_INTERVAL (R498): what each cell measures, and the package's, the logic's and the stacks' power in watts. -/
def dvfsInterval (cells : List DvfsObs) (pkg logic stks : Nat) (s : State) : State :=
  let s := ((List.range 20).zip cells).foldl dvfsCell s
  let s := if s.pwr.stkThr.isEmpty then s else cnt 0x50020 1 s
  updPwr (fun p => { p with pkgW := pkg % 65536, logicW := logic % 65536, stackW := stks % 65536 }) s

def execDvfsInterval (cells : List DvfsObs) (pkg logic stks : Nat) (s : State) : Host.Outcome State Fault Refusal :=
  .next (dp (dvfsInterval cells pkg logic stks) s)

/-! ### Sensors and coolant (R499, R500) -/

/-- A limit that sets at one value and is released below another. -/
def hyst (old : Bool) (v hi lo : Int) : Bool := decide (hi ≤ v) || (old && decide (lo ≤ v))

/-- A sensor's reading, in °C. -/
def reading (l : List Nat) (i : Nat) : Nat := l.getD i 0 % 256

/-- The readings are taken, each limit set or released by its own (R499). -/
def sensed (cells tiles stks : List Nat) (s : State) : State :=
  let newCells := Vector.ofFn (fun (c : Fin 20) =>
    let x := s.pwr.cells[c]
    { x with tj := reading cells c, hot := hyst x.hot (reading cells c) 100 97 })
  let hotTiles := (List.range 4).filter (fun t => hyst (s.pwr.tileHot.getLsbD t) (reading tiles t) 100 97)
  let thr := (List.range 20).filter (fun c => hyst (s.pwr.stkThr.contains c) (reading stks c) 95 92)
  let newStacks := Vector.ofFn (fun (c : Fin 20) =>
    let x := s.store.stks[c]
    { x with temp := (reading stks c : Int), hotref := hyst x.hotref (reading stks c) 85 83 })
  let s := updPwr (fun p => { p with
    cells := newCells, tileTj := (List.range 4).map (reading tiles), tileHot := BitVec.ofNat 4 (maskBits hotTiles), stkThr := thr }) s
  { s with store := { s.store with stks := newStacks } }

/-- A junction of 115 °C, of a cell or a tile (R499). -/
def junctionTrip (cells tiles : List Nat) : Bool :=
  (List.range 20).any (fun c => decide (115 ≤ reading cells c)) || (List.range 4).any (fun t => decide (115 ≤ reading tiles t))

/-- A stack of 105 °C (R499). -/
def stackTrip (stks : List Nat) : Bool := (List.range 20).any (fun c => decide (105 ≤ reading stks c))

/-- SENSOR_READ (R499): junctions of cells and tiles and temperatures of stacks, in °C. -/
def sensorRead (cells tiles stks : List Nat) (s : State) : State :=
  if s.pwr.trip.isSome then s
  else
    let s := sensed cells tiles stks s
    if junctionTrip cells tiles then trip 1 0 s else if stackTrip stks then trip 2 0 s else s

def execSensorRead (cells tiles stks : List Nat) (s : State) : Host.Outcome State Fault Refusal :=
  .next (sensorRead cells tiles stks s)

/-- Coolant values as the COOLANT event carries them: inlet above flow. -/
def coolValues (s : State) : Nat := s.pwr.inlet.getD 0 * 2 ^ 32 + s.pwr.flow.getD 0

/-- A coolant value is plausible and within its limits (R500). -/
def inletGood (v : Nat) : Bool := decide (180 ≤ v) && decide (v ≤ 400)
def flowGood (v : Nat) : Bool := decide (120 ≤ v) && decide (v ≤ 2000)

/-- Every coolant value written so far is good. -/
def coolGood (p : Pwr) : Bool := p.inlet.all inletGood && p.flow.all flowGood

/-- A coolant fault begins. -/
def coolBegin (s : State) : State :=
  let s := updPwr (fun p => { p with good := 0 }) s
  if s.pwr.coolFault then s
  else evPlatform 1 0 (coolValues s) (cnt 0x50018 1 (updPwr (fun p => { p with coolFault := true }) s))

/-- An update of the coolant values: ten good ones in a row end a fault. -/
def coolUpdate (s : State) : State :=
  let s := updPwr (fun p => { p with coolAt := s.wall, stale := false }) s
  if !coolGood s.pwr then coolBegin s
  else if !s.pwr.coolFault then s
  else
    let s := updPwr (fun p => { p with good := p.good + 1 }) s
    if s.pwr.good < 10 then s
    else evPlatform 2 0 (coolValues s) (updPwr (fun p => { p with coolFault := false, good := 0 }) s)

/-- The I3C target answers: VAUX up for 1 ms and XTAL_IN present (R521), both bytes in one transaction (Table 21.9). -/
def i3cUp (s : State) : Bool :=
  s.pwr.vaux && decide (s.pwr.i3cAt ≤ s.wall) && (tget 0 s.clk.lostAt).isNone

/-- COOL_INLET (R500): in 0.1 °C. An implausible value is kept out and begins a fault. -/
def coolInlet (v : Nat) (s : State) : State :=
  if !i3cUp s then s
  else if 800 < v then coolBegin (inputRefused s)
  else coolUpdate (updPwr (fun p => { p with inlet := some v }) s)

def execCoolInlet (value : BitVec 16) (s : State) : Host.Outcome State Fault Refusal := .next (coolInlet value.toNat s)

/-- COOL_FLOW (R500): in 0.01 L/min. -/
def coolFlow (v : Nat) (s : State) : State :=
  if !i3cUp s then s
  else if 2000 < v then coolBegin (inputRefused s)
  else coolUpdate (updPwr (fun p => { p with flow := some v }) s)

def execCoolFlow (value : BitVec 16) (s : State) : Host.Outcome State Fault Refusal := .next (coolFlow value.toNat s)

/-- COOLANT_STALE (R500): 300 ms without an update. -/
def coolantStale (s : State) : State :=
  if s.pwr.trip.isSome || !s.pwr.vaux || s.pwr.stale then s
  else
    let s := reachWall (max s.pwr.coolAt s.rep.boot.ref + 300000000) s
    coolBegin (updPwr (fun p => { p with stale := true }) s)

def execCoolantStale (s : State) : Host.Outcome State Fault Refusal := .next (coolantStale s)

/-! ### Core faults (R23) -/

/-- CORE_UNCORRECTABLE_FAULT (R23, Table 19.6): live threads of the physical core stop with INTERNAL; a test that runs on it
ends as failed; the core is quarantined and its logical core due for rebinding. -/
def coreFault (phys : Nat) (s : State) : State :=
  let u := unitField .core phys
  if (testKind u).isNone || phys ≥ 340 || (unitRec s .core phys).quarantined then s
  else
    let c := phys / 17
    let gs := (s.drv.groups.filter (fun g => g.2.phys = phys && g.2.st != .queued)).map Prod.fst
    let ts := (s.drv.threads.filter (fun t => gs.contains t.2.group)).map Prod.fst
    let s := evUnit 6 u ((coreOf s phys).getD 0xFFFF) c s
    let s := ts.foldl (fun s t => faultThread t .internal 0 false s) s
    let run := (testOf s (.phys u)).any (fun x => x.state = 1)
    let s := if run then updTested (.phys u) (fun r => { r with testing := false, lastTest := s.wall })
        (updTest (.phys u) (fun x => { x with state := 3 }) s) else s
    testReports (quarantine .core phys c 2 s)

def execCoreUncorrectableFault (core : Nat) (s : State) : Host.Outcome State Fault Refusal := .next (dp (coreFault core) s)

end Sys2Proof.Machine
end

