-- ==== Sys2Proof/Machine/Ras.lean ====
section
/-! DEFINITION. Fatal errors (R504) and the queues' rows (R510, R512, R462). -/

namespace Sys2Proof.Machine

open Sys2Proof

/-- FATAL_ERROR (R504): cause 1 crossing, 2 crossbar stop, 3 directory, 4 configuration copy, at a tile or cell. The event
is posted, the data path halts, and its READY bits clear. -/
def fatalError (cause loc : Nat) (s : State) : State :=
  if s.halted || s.ras.fatal.isSome || cause = 0 || 4 < cause then s
  else
    let s := haltDead (rasPost 0x1007 4 0xFF (leBytes 1 cause ++ leBytes 1 loc) s)
    let s := updBoot (fun b => { b with stage := false, xlt := false, ledger := false, ports := 0, cells := 0 }) s
    { s with
      store := { s.store with stks := s.store.stks.map (fun (x : Stack) => { x with ready := false }) }
      ras := { s.ras with fatal := some (cause, loc % 256) } }

def execFatalError (cause loc : Nat) (s : State) : Host.Outcome State Fault Refusal := .next (fatalError cause loc s)

/-- EVENT_SIGNAL (R510): 1 µs after a queue's last signal, records left without one are signalled. -/
def eventSignal (p : Nat) (s : State) : State :=
  match (partOf s p).map Part.evq with
  | none => s
  | some q =>
    match q.unsignalled, q.lastSignal with
    | true, some t => timer (t + 1000) (evqSignal p) s
    | _, _ => s

def execEventSignal (part : Nat) (s : State) : Host.Outcome State Fault Refusal := .next (eventSignal part s)

/-- A commit of the RAS ring (R462, R512, R517, R535). -/
def rasCommit (gen : BitVec 32) (s : State) : State :=
  let r := s.ras
  let w := r.shadow
  if gen != r.gen + 1 || (w.enable && (decide (w.log2 < 6) || decide (12 < w.log2))) then
    { s with ras := { r with err := true } }
  else
    let moved := w.base != r.run.base || w.log2 != r.run.log2 || (w.enable && !r.run.enable)
    let r := { r with run := w, gen := gen }
    rasLost { s with ras := if moved then { r with tail := 0, head := 0 } else r }

/-- RAS_COMMIT (R462). -/
def execRasCommit (gen : BitVec 32) (s : State) : Host.Outcome State Fault Refusal := .next (barWrite (rasCommit gen) s)

/-- RAS_COMMIT_ERR_CLEAR (R462). -/
def execRasCommitErrClear (s : State) : Host.Outcome State Fault Refusal :=
  .next (barWrite (fun s => { s with ras := { s.ras with err := false } }) s)

/-- RAS_Q_HEAD (R512): the driver frees entries; a LOST record then finds room. -/
def execRasQHead (head : Nat) (s : State) : Host.Outcome State Fault Refusal :=
  .next (barWrite (fun s => rasLost { s with ras := { s.ras with head := head % 4096 % 2 ^ s.ras.run.log2 } }) s)

end Sys2Proof.Machine
end

