-- ==== Sys2Proof/Machine/Pmp.lean ====
section
/-! DEFINITION. Pusousk Management Protocol (R458 to R460): handshakes, sessions, frames, enrolment, and the management
links (R495). -/

namespace Sys2Proof.Machine

open Sys2Proof

def updPmp (f : Pmp → Pmp) (s : State) : State := { s with pmp := f s.pmp }

/-- A management port accepts PMP: its PCS is ready, its link up, and the CP runs. -/
def pmpUp (s : State) (p : Nat) : Bool :=
  decide (p < 2) && s.rep.boot.mgmt.getLsbD p && s.pmp.links.getLsbD p && cpRuns s

/-! ### The handshake (R459) -/

/-- The device's half of a handshake: ephemeral key, ML-KEM ciphertext, nonce, certificate; fresh, so free values (log 3). -/
def helloAck (d : Nat) (transcript : List Byte) : List Byte :=
  let own := (List.range 1216).map (fun i => BitVec.ofNat 8 (Config.freeOf 160 [d, i]))
  own ++ leBytes 48 (Config.keyHash 4) ++ sigBlock (transcript ++ own)

/-- HELLO (R459): management's ephemeral keys and nonce, and an operator KEYIDX; at most 16 a second on a port. -/
def hello (p keyIdx : Nat) (payload : List Byte) (s : State) : State :=
  if !pmpUp s p then s
  else
    let recent := (tgetD s.pmp.hellos p []).filter (fun t => decide (s.wall < t + 1000000000))
    if 16 ≤ recent.length then s
    else
      let d := draw s
      let first := payload ++ leBytes 1 keyIdx
      let ack := helloAck d.1 first
      let s := updPmp (fun x => { x with
        hellos := tput p (s.wall :: recent) x.hellos, shakes := x.shakes ++ [(p, keyIdx, first ++ ack, s.wall)] }) d.2
      put (.pmp 0 0x02 ack) s

def execHello (port keyIdx : Nat) (payload : List Byte) (s : State) : Host.Outcome State Fault Refusal :=
  .next (hello port keyIdx payload s)

/-- AUTH (R459): an operator's signature with usage MGMT over a handshake's transcript; a session opens, of at most four. -/
def auth (p : Nat) (block : List Byte) (s : State) : State :=
  if !pmpUp s p || 4 ≤ s.pmp.sessions.length then s
  else
    let good := fun (h : Nat × Nat × List Byte × Nat) =>
      h.1 = p && sgKeyIdx block = h.2.1 && (sigFails s 3 .mgmt h.2.2.1 block).isNone
    match s.pmp.shakes.find? good with
    | none => s
    | some h =>
      let n := s.pmp.nextSession
      let x : Session := { port := p, key := Config.derive 4 [n, Config.sha384 (h.2.2.1 ++ block)], lastFrame := s.wall }
      let s := updPmp (fun m => { m with
        shakes := m.shakes.erase h, sessions := tput n x m.sessions, nextSession := n + 1 }) s
      put (.pmp n 0x04 []) s

def execAuth (port : Nat) (block : List Byte) (s : State) : Host.Outcome State Fault Refusal := .next (auth port block s)

/-- HANDSHAKE_TIMEOUT (R459): the oldest handshake of a port is discarded after 2 s. -/
def handshakeTimeout (p : Nat) (s : State) : State :=
  match s.pmp.shakes.find? (fun h => h.1 = p) with
  | none => s
  | some h =>
    let s := reachWall (h.2.2.2 + 2000000000) s
    updPmp (fun m => { m with shakes := m.shakes.erase h }) s

def execHandshakeTimeout (port : Nat) (s : State) : Host.Outcome State Fault Refusal := .next (handshakeTimeout port s)

/-! ### Sessions and frames (R460) -/

/-- A session ends, with what it had sent and the CP has not taken. -/
def closeSession (n : Nat) (s : State) : State :=
  updPmp (fun m => { m with
    sessions := tdel n m.sessions, image := tdel n m.image, mq := m.mq.filter (fun x => x.1 != n) }) s

def updSession (n : Nat) (f : Session → Session) (s : State) : State :=
  updPmp (fun m => { m with sessions := tupd n f m.sessions }) s

/-- A frame is accepted: its tag is good, its session known on the port it came in by, its SEQ neither more than 1,024 below
the highest accepted nor repeated. A session closes before its sequence reaches 2^32. -/
def pmpFrame (f : PmpFrame) (go : State → State) (s : State) : State :=
  match tget f.session s.pmp.sessions with
  | none => s
  | some x =>
    if !f.good || x.port != f.port || !pmpUp s f.port || f.seq = 0 || f.seq + 1024 < x.rxSeq || x.seen.contains f.seq then s
    else if 2 ^ 32 - 1 ≤ f.seq then closeSession f.session s
    else
      let top := max x.rxSeq f.seq
      go (updSession f.session (fun x => { x with
        lastFrame := s.wall, rxSeq := top, seen := (f.seq :: x.seen).filter (fun q => decide (top ≤ q + 1024)) }) s)

/-- A frame's payload as a fragment of its message; `go` takes the message once it is whole. -/
def pmpMessage (f : PmpFrame) (go : List Byte → State → State) (s : State) : State :=
  match tget f.session s.pmp.sessions with
  | none => s
  | some x =>
    if f.frags = 0 || 4096 < f.frags || f.frags ≤ f.frag then s
    else
      let fresh := x.frags.isEmpty || x.fragMsg != f.msg || x.fragTotal != f.frags
      let got := tput f.frag f.payload (if fresh then [] else x.frags)
      if got.length = f.frags then
        go (got.flatMap Prod.snd) (updSession f.session (fun x => { x with frags := [], fragTotal := 0 }) s)
      else updSession f.session (fun x => { x with
        frags := got, fragTotal := f.frags, fragMsg := f.msg, fragSince := if fresh then s.wall else x.fragSince }) s

/-- CMD (R460): a whole message is an entry of MB21 and its argument block. -/
def execCmd (f : PmpFrame) (s : State) : Host.Outcome State Fault Refusal :=
  .next (pmpFrame f (pmpMessage f (fun b s => updPmp (fun m => { m with mq := m.mq ++ [(f.session, b)] }) s)) s)

/-- IMAGE (R460): image bytes for FW_STAGE, gathered by session. -/
def execImage (f : PmpFrame) (s : State) : Host.Outcome State Fault Refusal :=
  .next (pmpFrame f (pmpMessage f (fun b s =>
    updPmp (fun m => { m with image := tput f.session (tgetD m.image f.session [] ++ b) m.image }) s)) s)

/-- KEEPALIVE (R460). -/
def execKeepalive (f : PmpFrame) (s : State) : Host.Outcome State Fault Refusal := .next (pmpFrame f id s)

/-- FULL_RESET (R413). -/
def execFullReset (f : PmpFrame) (bifur : Bool) (s : State) : Host.Outcome State Fault Refusal :=
  .next (pmpFrame f (resetFrom (reference bifur)) s)

/-- CLOSE (R459). -/
def execPmpClose (f : PmpFrame) (s : State) : Host.Outcome State Fault Refusal :=
  .next (pmpFrame f (closeSession f.session) s)

/-- SESSION_TIMEOUT (R459): 60 s without a valid frame. -/
def sessionTimeout (n : Nat) (s : State) : State :=
  match tget n s.pmp.sessions with
  | none => s
  | some x => closeSession n (reachWall (x.lastFrame + 60000000000) s)

def execSessionTimeout (session : Nat) (s : State) : Host.Outcome State Fault Refusal := .next (sessionTimeout session s)

/-- FRAGMENT_TIMEOUT (R460): a message not whole after 1 s is discarded. -/
def fragmentTimeout (n : Nat) (s : State) : State :=
  match tget n s.pmp.sessions with
  | none => s
  | some x =>
    if x.frags.isEmpty then s
    else updSession n (fun x => { x with frags := [], fragTotal := 0 }) (reachWall (x.fragSince + 1000000000) s)

def execFragmentTimeout (session : Nat) (s : State) : Host.Outcome State Fault Refusal := .next (fragmentTimeout session s)

/-! ### Enrolment (R456) -/

/-- Content of an operator enrolment; its layout is not stated (log 34). -/
def enrolContent (slot hash usage serial : Nat) : List Byte :=
  leBytes 1 slot ++ leBytes 1 usage ++ leBytes 8 serial ++ leBytes 48 hash

/-- ENROL (R456): writes a blank operator fuse slot, under an IZ_CA signature that names the device serial. -/
def enrol (p slot hash usage serial : Nat) (block : List Byte) (s : State) : State :=
  if !pmpUp s p || 4 ≤ slot || operatorSlot s slot != 0 || serial != Config.fusedSerial || usage = 0 || 4 ≤ usage
      || 2 ^ 384 ≤ hash || (sigFails s 2 .mgmt (enrolContent slot hash usage serial) block).isSome then s
  else updRep (fun r => { r with operator := tput slot (hash * 4 + usage) r.operator }) s

def execEnrol (port slot hash usage serial : Nat) (block : List Byte) (s : State) : Host.Outcome State Fault Refusal :=
  .next (enrol port slot hash usage serial block s)

/-! ### Management links (R495) -/

/-- MGMT_LINK_DOWN (R495): the port's domain turns off and its sessions and handshakes are lost. -/
def mgmtLinkDown (p : Nat) (s : State) : State :=
  if 2 ≤ p || !s.pmp.links.getLsbD p then s
  else
    let ns := (s.pmp.sessions.filter (fun x => x.2.port = p)).map Prod.fst
    let s := ns.foldl (fun s n => closeSession n s) s
    updPmp (fun m => { m with links := m.links &&& ~~~(1#2 <<< p), shakes := m.shakes.filter (fun h => h.1 != p) }) s

def execMgmtLinkDown (port : Nat) (s : State) : Host.Outcome State Fault Refusal := .next (mgmtLinkDown port s)

/-- MGMT_LINK_UP (R495): where the port has been ready since the reset. -/
def execMgmtLinkUp (port : Nat) (s : State) : Host.Outcome State Fault Refusal :=
  .next (if port < 2 && s.rep.boot.mgmt.getLsbD port && s.pwr.trip.isNone then
      updPmp (fun m => { m with links := m.links ||| (1#2 <<< port) }) s else s)

end Sys2Proof.Machine
end

