-- ==== Sys2Proof/Machine/TestPort.lean ====
section
/-! DEFINITION. The test access port (R526 to R528). Codes of the instruction register are those of Table 22.6. -/

namespace Sys2Proof.Machine

open Sys2Proof

def updTap (f : Tap → Tap) (s : State) : State := { s with tap := f s.tap }

/-- Instructions act in full: RESET_N asserted, rails in regulation, no trip (R528). -/
def tapFull (s : State) : Bool := s.rep.boot.resetN && s.pwr.vaux && s.pwr.trip.isNone

/-- The IDCODE register; Izwell's JEP106 code stands in the BSDL file only: a free value (log 3). -/
def idcode : Nat := 0x1 * 2 ^ 28 + 0x0820 * 2 ^ 12 + Config.freeOf 170 [] % 2 ^ 11 * 2 + 1

/-- An instruction that acts in full only under R528, and as BYPASS otherwise. -/
def tapRun (code : Nat) (go : State → State) (s : State) : State :=
  if !s.pwr.vaux then s
  else if tapFull s then go (updTap (fun t => { t with ir := code }) s)
  else updTap (fun t => { t with ir := 0xFF }) s

/-- Capture the pins, shift the captured cells out and the next ones in. -/
def tapScan (pins next : BitVec 2944) (s : State) : State :=
  put (.pin "TDO" pins.toNat) (updTap (fun t => { t with boundary := next }) s)

/-- The boundary register drives the pins; every WP_N is held low (R527). -/
def tapDrive (s : State) : State := put (.pin "FLASH_WP_N" 0) (put (.pin "BOUNDARY" s.tap.boundary.toNat) s)

/-- IDCODE: acts whenever the device is powered. -/
def execIdcode (s : State) : Host.Outcome State Fault Refusal :=
  .next (if s.pwr.vaux then put (.pin "TDO" idcode) (updTap (fun t => { t with ir := 0x01 }) s) else s)

/-- SAMPLE/PRELOAD: the pins' levels are sampled and the boundary register preloaded. -/
def execSamplePreload (pins next : BitVec 2944) (s : State) : Host.Outcome State Fault Refusal :=
  .next (tapRun 0x02 (tapScan pins next) s)

/-- EXTEST (R527). -/
def execExtest (pins next : BitVec 2944) (s : State) : Host.Outcome State Fault Refusal :=
  .next (tapRun 0x03 (fun s => tapDrive (tapScan pins next s)) s)

/-- CLAMP: the boundary register holds the outputs; bypass is selected. -/
def execClamp (s : State) : Host.Outcome State Fault Refusal :=
  .next (tapRun 0x04 (fun s => put (.pin "BOUNDARY" s.tap.boundary.toNat) s) s)

/-- HIGHZ. -/
def execHighz (s : State) : Host.Outcome State Fault Refusal :=
  .next (tapRun 0x05 (put (.pin "HIGHZ" 1)) s)

/-- EXTEST_PULSE (R527). -/
def execExtestPulse (pins next : BitVec 2944) (s : State) : Host.Outcome State Fault Refusal :=
  .next (tapRun 0x06 (fun s => tapDrive (tapScan pins next s)) s)

/-- EXTEST_TRAIN (R527). -/
def execExtestTrain (pins next : BitVec 2944) (s : State) : Host.Outcome State Fault Refusal :=
  .next (tapRun 0x07 (fun s => tapDrive (tapScan pins next s)) s)

/-- BYPASS, and every code of no instruction. -/
def execBypass (s : State) : Host.Outcome State Fault Refusal :=
  .next (if s.pwr.vaux then updTap (fun t => { t with ir := 0xFF }) s else s)

/-- TEST_LOGIC_RESET (R526): IDCODE is selected. -/
def execTestLogicReset (s : State) : Host.Outcome State Fault Refusal :=
  .next (updTap (fun t => { t with ir := 0x01 }) s)

end Sys2Proof.Machine
end

