-- ==== Sys2Proof/Machine/Csr.lean ====
section
/-! DEFINITION. What every register reads as: BAR0 (Table 16.4) and the I3C target (Table 20.9). Offsets that no table lists
read as zero (R397). -/

namespace Sys2Proof.Machine

open Sys2Proof

/-! ### ID (Tables 19.8, 19.9) -/

/-- ID_READY0. -/
def idReady0 (s : State) : Nat :=
  let b := s.rep.boot
  at_ 63 (b2n (b.phase = .run && s.ras.fatal.isNone)) + at_ 62 (b2n b.cp) + at_ 61 (b2n b.mb0) + at_ 60 (b2n s.host.linkUp)
    + at_ 59 (b2n b.stage) + at_ 58 (b2n b.xlt) + at_ 57 (b2n (b.mgmt.getLsbD 0)) + at_ 56 (b2n (b.mgmt.getLsbD 1))
    + at_ 48 b.ports.toNat + at_ 47 (b2n b.ledger) + at_ 20 (maskOf 20 (fun c => (s.store.stks.getD c {}).ready))
    + b.cells.toNat

/-- ID_READY1. -/
def idReady1 (s : State) : Nat :=
  at_ 40 s.rep.boot.portsFailed.toNat + at_ 20 s.rep.boot.cellsFailed.toNat
    + maskOf 20 (fun c => (s.store.flash.getD c {}).censusDone)

/-- PHASE of ID_BOOT. -/
def phaseCode : BootPhase → Nat
  | .fuse => 0 | .rom => 1 | .broadcast => 2 | .train => 3 | .run => 4 | .halt => 14 | .fuseFail => 15

/-- ID_BOOT. -/
def idBoot (s : State) : Nat :=
  let b := s.rep.boot
  at_ 60 (phaseCode b.phase) + at_ 59 (b2n b.fallback) + at_ 58 b.slot + at_ 40 b.haltCheck + b.svn % 2 ^ 32

def idCsr (s : State) (o : Nat) : Nat :=
  match o with
  | 0x00 => 0x000000000820B114
  | 0x08 => Config.fusedSerial % 2 ^ 64
  | 0x10 | 0x18 | 0x20 | 0x28 => (idCaps s).getD ((o - 0x10) / 8) 0
  | 0x30 => idReady0 s
  | 0x38 => idReady1 s
  | 0x40 => idBoot s
  | 0x48 => s.rep.epoch
  | 0x50 => 0x00010200
  | 0x58 => at_ 32 s.rep.copies.toNat + (if s.rep.boot.ledger then s.rep.ledger.length % 2 ^ 32 else 0)
  | _ => 0

/-! ### MBX, IRQ, WIN, XLT -/

/-- MBX_STATUS (Table 16.16). -/
def mbxStatus (s : State) (n : Nat) : Nat :=
  let m := mbxOf s n
  at_ 61 (mbxState s n) + at_ 60 (b2n m.overrun) + at_ 32 (m.consumed % 65536)
    + at_ 16 (m.consumed % ringLen m.cfg.sqLog % 4096) + m.cqTail % 4096

/-- A mailbox's registers (Table 16.15): MB0's shadowed ones read their shadows (R462). -/
def mbxCsr (s : State) (n o : Nat) : Nat :=
  let m := mbxOf s n
  match o with
  | 0x00 => mbxCfgBits m.shadow
  | 0x08 => m.shadow.sqBase
  | 0x10 => m.shadow.cqBase
  | 0x18 => at_ 63 (b2n m.err) + m.gen.toNat
  | 0x20 => mbxStatus s n
  | 0x28 => m.dbTally
  | 0x30 => m.cqTally
  | _ => counter s (mbxReg n o)

/-- The MSI-X table and pending bits (R401). -/
def irqCsr (s : State) (o : Nat) : Nat :=
  if o < 0x8000 then msixWord s (o / 8)
  else if o < 0x8100 then ((List.range 64).map (fun i => if s.host.pba.contains ((o - 0x8000) * 8 + i) then 2 ^ i else 0)).sum
  else 0

/-- A segment register (Table 16.5). -/
def segBits (w : WinSeg) : Nat := at_ 48 w.ctx + at_ 32 w.base + at_ 28 w.space + b2n w.bound

def winCsr (s : State) (o : Nat) : Nat :=
  if o < 0x80 then segBits (s.host.segs.getD (o / 8) {})
  else if o = 0x200 then (s.car.cars.filter (fun (x : Nat × Caravan) => x.2.kind = .dma)).length
  else counter s (0x80000 + o)

/-- XLT_STATUS (Table 2.16). -/
def xltStatus (s : State) : Nat :=
  at_ 18 (b2n s.xlt.invDrop) + at_ 17 (b2n s.xlt.mirrorStale)
    + at_ 16 (b2n (!missRoom s && s.xlt.misses.any (fun m => m.2.st = .post))) + s.xlt.misses.length

def xltCsr (s : State) (o : Nat) : Nat :=
  match o with
  | 0x00 => xltCtlBits s.xlt.shadow
  | 0x08 => s.xlt.shadow.mqBase
  | 0x10 => s.xlt.shadow.mqLog
  | 0x18 => at_ 63 (b2n s.xlt.err) + s.xlt.gen.toNat
  | 0x20 => s.xlt.mqTail
  | 0x28 => s.xlt.mqHead
  | 0x30 | 0x50 => 0
  | 0x40 => s.xlt.invVa.toNat
  | 0x48 => s.xlt.invLen
  | 0x58 => at_ 63 (b2n (invBusy s)) + s.xlt.invStatus
  | 0x60 => xltStatus s
  | _ => counter s (0x70000 + o)

/-! ### STG, CLK, PWR, RAS, DBG -/

/-- Table 6.9. -/
def stgCsr (s : State) (o : Nat) : Nat :=
  let g := s.stg
  match o with
  | 0x00 => stgCtlBits g.shadow
  | 0x08 => stgPeriodBits g.shadow
  | 0x10 => at_ 63 (b2n g.err) + g.gen.toNat
  | 0x18 => stgStatus s
  | 0x20 => stgNow s
  | 0x28 => stgEstimate s
  | 0x30 => g.lastRej % 2 ^ 32
  | 0x60 => g.ptmSeq.toNat
  | 0x68 => g.ptmStage.toNat
  | 0x70 => g.ptmHost.toNat
  | _ => counter s (0x30000 + o)

/-- CLK_STATUS (Table 20.11): an output runs while its source does. -/
def clkStatus (s : State) : Nat :=
  at_ 48 s.clk.loss.toNat + at_ 32 s.clk.stable.toNat
    + at_ 16 (maskOf 2 (fun n => (s.clk.out.getD n {}).en && !s.halted)) + at_ 8 (b2n (s.clk.lostAt != []))

def clkoutBits (c : ClkOut) : Nat := at_ 63 (b2n c.en) + at_ 8 c.spread + c.rate

def clkCsr (s : State) (o : Nat) : Nat :=
  match o with
  | 0x00 => clkStatus s
  | 0x08 => clkoutBits (s.clk.out.getD 0 {})
  | 0x10 => clkoutBits (s.clk.out.getD 1 {})
  | 0x40 => clkLastLoss s
  | _ => counter s (0x40000 + o)

/-- PWR_CELLc (Table 20.12). -/
def pwrCell (x : PwrCell) : Nat :=
  at_ 52 x.cur + at_ 36 x.pin + at_ 32 x.cause + at_ 16 (x.power % 65536) + at_ 8 (x.tj % 256)

def pwrCsr (s : State) (o : Nat) : Nat :=
  let p := s.pwr
  if 0x100 ≤ o && o < 0x240 then
    if o % 16 = 0 then pwrCell (p.cells.getD ((o - 0x100) / 16) {})
    else at_ 32 (counter s (0x50000 + o + 4)) + counter s (0x50000 + o)
  else match o with
    | 0x00 => at_ 63 (b2n (p.cells.toList.any PwrCell.throttle)) + at_ 62 (b2n p.coolFault) + at_ 61 (b2n p.stale)
        + at_ 48 (hottest s) + at_ 32 p.pkgW + at_ 16 p.logicW + p.stackW
    | 0x08 => at_ 52 p.fmax + at_ 36 p.fmin + at_ 16 p.logic + p.stack
    | 0x10 => at_ 63 (b2n p.stale) + at_ 32 (p.inlet.getD 0) + p.flow.getD 0
    | _ => counter s (0x50000 + o)

/-- RAS_STATUS (Table 21.11). -/
def rasStatus (s : State) : Nat :=
  let full := (s.ras.tail + 1) % 2 ^ s.ras.run.log2 = s.ras.head
  at_ 63 (b2n s.ras.fatal.isSome) + at_ 62 (b2n (s.ras.run.enable && full)) + at_ 61 (b2n (s.ras.splits != []))
    + at_ 60 (b2n s.rep.fail)
    + maskOf 20 (fun p => match partOf s p with
        | some r => !evqRoom s r.evq 1
        | none => false)

def rasCsr (s : State) (o : Nat) : Nat :=
  match o with
  | 0x00 => rasStatus s
  | 0x08 => s.ras.shadow.base
  | 0x10 => rasCfgBits s.ras.shadow
  | 0x18 => at_ 63 (b2n s.ras.err) + s.ras.gen.toNat
  | 0x20 => s.ras.tail
  | 0x28 => s.ras.head
  | 0x48 => match s.ras.fatal with
    | some (c, w) => at_ 56 c + at_ 48 w
    | none => 0
  | _ => counter s (0x60000 + o)

def dbgCsr (s : State) (o : Nat) : Nat :=
  if o = 0 then at_ 63 (b2n s.ras.dbgUnlocked) + s.ras.dbgSvn else counter s (0x90000 + o)

/-! ### BAR0 -/

/-- What a register of BAR0 reads as, by the offset of its 8 bytes (R397, R398). -/
def csrRead (s : State) (a : Nat) : Nat :=
  let o := a % 65536
  match a / 65536 with
  | 0 => idCsr s o
  | 1 => if o < 22 * 256 then mbxCsr s (o / 256) (o % 256)
    else if o = 0xF000 then s.host.wdog else counter s a
  | 2 => irqCsr s o
  | 3 => stgCsr s o
  | 4 => clkCsr s o
  | 5 => pwrCsr s o
  | 6 => rasCsr s o
  | 7 => xltCsr s o
  | 8 => winCsr s o
  | 9 => dbgCsr s o
  | b =>
    if 0x10 ≤ b && b < 0x24 && 0x400 ≤ o then cellCsr s (b - 0x10) o
    else if 0x20 ≤ b && b < 0x28 && o < 0x400 then portCsr s (b - 0x20) o
    else if 0x300000 ≤ a && a < 0x350000 then fchCsr s ((a - 0x300000) / 0x4000) (a % 0x4000)
    else 0

/-! ### The I3C target (Table 20.9) -/

/-- A byte of the I3C target's registers; zero before the reference but for the trip (R521). -/
def i3cRead (s : State) (a : Nat) : Nat :=
  let t := s.pwr.trip
  let stk := (s.store.stks.toList.map (fun (x : Stack) => x.temp.toNat)).foldl max 0
  if s.rep.epoch = 0 then 0
  else match a with
    | 0x00 => at_ 7 (b2n t.isSome) + at_ 6 (b2n s.pwr.coolFault) + at_ 5 (b2n (s.pwr.cells.toList.any PwrCell.throttle))
        + at_ 4 (b2n (t.any (fun x => x.1 = 3)))
    | 0x01 => match t with
      | some (c, r) => at_ 4 (r % 16) + c
      | none => 0
    | 0x02 => hottest s
    | 0x03 => stk
    | 0x04 => s.pwr.pkgW % 256
    | 0x05 => s.pwr.pkgW / 256
    | 0x28 => at_ 4 (phaseCode s.rep.boot.phase) + at_ 3 (b2n s.rep.boot.fallback) + at_ 2 s.rep.boot.slot
    | 0x29 => s.rep.boot.haltCheck
    | _ =>
      if 0x20 ≤ a && a < 0x24 then s.rep.boot.svn / 256 ^ (a - 0x20) % 256
      else if 0x24 ≤ a && a < 0x28 then s.rep.epoch / 256 ^ (a - 0x24) % 256
      else 0

end Sys2Proof.Machine
end

