-- ==== Sys2Proof/Machine/Dispatch.lean ====
section
/-! DEFINITION. One arm per command: its meaning. -/

namespace Sys2Proof.Machine

def exec (i : Instr) (s : State) : Host.Outcome State Fault Refusal :=
  match i with
  | .requestAdmit ing tag ctx addr op len data => Sys2Proof.Machine.execRequestAdmit ing tag ctx addr op len data s
  | .mirrorWalkDone miss => Sys2Proof.Machine.execMirrorWalkDone miss s
  | .genReread miss => Sys2Proof.Machine.execGenReread miss s
  | .missPost miss => Sys2Proof.Machine.execMissPost miss s
  | .pendingMissFreed => Sys2Proof.Machine.execPendingMissFreed s
  | .xltResp missId result => Sys2Proof.Machine.execXltResp missId result s
  | .rewalkDone miss => Sys2Proof.Machine.execRewalkDone miss s
  | .missTimeout miss => Sys2Proof.Machine.execMissTimeout miss s
  | .xltInvRange ctx gen => Sys2Proof.Machine.execXltInvRange ctx gen s
  | .xltInvCtx ctx gen => Sys2Proof.Machine.execXltInvCtx ctx gen s
  | .xltInvAll => Sys2Proof.Machine.execXltInvAll s
  | .xltInvRejected => Sys2Proof.Machine.execXltInvRejected s
  | .invalidationComplete => Sys2Proof.Machine.execInvalidationComplete s
  | .xltCommit gen => Sys2Proof.Machine.execXltCommit gen s
  | .xltCommitErrClear => Sys2Proof.Machine.execXltCommitErrClear s
  | .xltMqHead head => Sys2Proof.Machine.execXltMqHead head s
  | .homeAccess k obs => Sys2Proof.Machine.execHomeAccess k obs s
  | .idleEviction part => Sys2Proof.Machine.execIdleEviction part s
  | .fetchUnitLanded block unit retried bad => Sys2Proof.Machine.execFetchUnitLanded block unit retried bad s
  | .evictionWriteDone block => Sys2Proof.Machine.execEvictionWriteDone block s
  | .evictionWriteFail block => Sys2Proof.Machine.execEvictionWriteFail block s
  | .shootdownComplete block => Sys2Proof.Machine.execShootdownComplete block s
  | .flashBufferProgram unit => Sys2Proof.Machine.execFlashBufferProgram unit s
  | .flashProgramFail ch target eraseBlock => Sys2Proof.Machine.execFlashProgramFail ch target eraseBlock s
  | .flashTimeout op => Sys2Proof.Machine.execFlashTimeout op s
  | .hostTimeout op => Sys2Proof.Machine.execHostTimeout op s
  | .hostReadCompletion op okay bad marked => Sys2Proof.Machine.execHostReadCompletion op okay bad marked s
  | .garbageCollection ch moved erased => Sys2Proof.Machine.execGarbageCollection ch moved erased s
  | .wearLevelling ch eraseBlock => Sys2Proof.Machine.execWearLevelling ch eraseBlock s
  | .hbmPatrolScrub stack row line obs progress => Sys2Proof.Machine.execHbmPatrolScrub stack row line obs progress s
  | .rowSpare stack row => Sys2Proof.Machine.execRowSpare stack row s
  | .flashPatrol ch retried weak => Sys2Proof.Machine.execFlashPatrol ch retried weak s
  | .snoopTimeout line => Sys2Proof.Machine.execSnoopTimeout line s
  | .beaconRelease port stream => Sys2Proof.Machine.execBeaconRelease port stream s
  | .beaconHoldExpiry port stream => Sys2Proof.Machine.execBeaconHoldExpiry port stream s
  | .hostWrite id => Sys2Proof.Machine.execHostWrite id s
  | .waitTimeout k => Sys2Proof.Machine.execWaitTimeout k s
  | .waitPoll k => Sys2Proof.Machine.execWaitPoll k s
  | .feWaitTimeout k => Sys2Proof.Machine.execFeWaitTimeout k s
  | .pulse edge width => Sys2Proof.Machine.execPulse edge width s
  | .windowClose => Sys2Proof.Machine.execWindowClose s
  | .periodReport part => Sys2Proof.Machine.execPeriodReport part s
  | .entryStart part entry => Sys2Proof.Machine.execEntryStart part entry s
  | .entryDeadline part entry => Sys2Proof.Machine.execEntryDeadline part entry s
  | .ptmRefresh master => Sys2Proof.Machine.execPtmRefresh master s
  | .stgCommit gen => Sys2Proof.Machine.execStgCommit gen s
  | .stgCommitErrClear => Sys2Proof.Machine.execStgCommitErrClear s
  | .integerOp t w => Sys2Proof.Machine.execIntegerOp t w s
  | .movk t w => Sys2Proof.Machine.execMovk t w s
  | .mfts t w => Sys2Proof.Machine.execMfts t w s
  | .branch t w => Sys2Proof.Machine.execBranch t w s
  | .jal t w => Sys2Proof.Machine.execJal t w s
  | .jalr t w => Sys2Proof.Machine.execJalr t w s
  | .loadOp t w => Sys2Proof.Machine.execLoad t w s
  | .storeOp t w => Sys2Proof.Machine.execStore t w s
  | .vld t w => Sys2Proof.Machine.execVld t w s
  | .vst t w => Sys2Proof.Machine.execVst t w s
  | .vgather t w => Sys2Proof.Machine.execVgather t w s
  | .vscatter t w => Sys2Proof.Machine.execVscatter t w s
  | .atomicOp t w f => Sys2Proof.Machine.execAtomic t w f s
  | .tallyAdd t w => Sys2Proof.Machine.execTallyAdd t w s
  | .tallySub t w => Sys2Proof.Machine.execTallySub t w s
  | .tallyRead t w => Sys2Proof.Machine.execTallyRead t w s
  | .waitGe t w => Sys2Proof.Machine.execWaitGe t w s
  | .waitEq t w => Sys2Proof.Machine.execWaitEq t w s
  | .monitor t w => Sys2Proof.Machine.execMonitor t w s
  | .writeEf t w => Sys2Proof.Machine.execWriteEf t w s
  | .readFe t w => Sys2Proof.Machine.execReadFe t w s
  | .readFf t w => Sys2Proof.Machine.execReadFf t w s
  | .writeXf t w => Sys2Proof.Machine.execWriteXf t w s
  | .flushRange t w => Sys2Proof.Machine.execFlushRange t w s
  | .isync t w => Sys2Proof.Machine.execIsync t w s
  | .issueOp t w => Sys2Proof.Machine.execIssue t w s
  | .launchOp t w => Sys2Proof.Machine.execLaunch t w s
  | .haltOp t w => Sys2Proof.Machine.execHalt t w s
  | .yieldOp t w => Sys2Proof.Machine.execYield t w s
  | .vectorArith t w f => Sys2Proof.Machine.execVectorArith t w f s
  | .vectorConvert t w f => Sys2Proof.Machine.execVectorConvert t w f s
  | .vectorReduce t w f => Sys2Proof.Machine.execVectorReduce t w f s
  | .groupStart core => Sys2Proof.Machine.execGroupStart core s
  | .groupEnd group => Sys2Proof.Machine.execGroupEnd group s
  | .unitRebind kind logical => Sys2Proof.Machine.execUnitRebind kind logical s
  | .matmul unit => Sys2Proof.Machine.execMatmul unit s
  | .expertFfn unit => Sys2Proof.Machine.execExpertFfn unit s
  | .attend unit lane => Sys2Proof.Machine.execAttend unit lane s
  | .operationComplete kind unit lane shadow => Sys2Proof.Machine.execOperationComplete kind unit lane shadow s
  | .gather unit => Sys2Proof.Machine.execGather unit s
  | .scatterAdd unit => Sys2Proof.Machine.execScatterAdd unit s
  | .moveRows unit => Sys2Proof.Machine.execMoveRows unit s
  | .rowUpdate unit lane => Sys2Proof.Machine.execRowUpdate unit lane s
  | .moveSnapshotWritten move => Sys2Proof.Machine.execMoveSnapshotWritten move s
  | .moveReplay move => Sys2Proof.Machine.execMoveReplay move s
  | .moveCommit move => Sys2Proof.Machine.execMoveCommit move s
  | .scan unit obs => Sys2Proof.Machine.execScan unit obs s
  | .walk unit obs => Sys2Proof.Machine.execWalk unit obs s
  | .rerank unit obs => Sys2Proof.Machine.execRerank unit obs s
  | .repairQueueWork part index => Sys2Proof.Machine.execRepairQueueWork part index s
  | .sweep part index => Sys2Proof.Machine.execSweep part index s
  | .leaseRenewalSend part depot key => Sys2Proof.Machine.execLeaseRenewalSend part depot key s
  | .leaseRenewal port m => Sys2Proof.Machine.execLeaseRenewal port m s
  | .renewalAnswer part depot key ans => Sys2Proof.Machine.execRenewalAnswer part depot key ans s
  | .leaseEnd part depot key => Sys2Proof.Machine.execLeaseEnd part depot key s
  | .homeExpiry part depot key => Sys2Proof.Machine.execHomeExpiry part depot key s
  | .lostHoldExpiry part depot key => Sys2Proof.Machine.execLostHoldExpiry part depot key s
  | .handoffCopyDone x => Sys2Proof.Machine.execHandoffCopyDone x s
  | .handoffCommit port m => Sys2Proof.Machine.execHandoffCommit port m s
  | .commitAck part depot key ans => Sys2Proof.Machine.execCommitAck part depot key ans s
  | .sourceDiscard part depot key => Sys2Proof.Machine.execSourceDiscard part depot key s
  | .resolve part depot key => Sys2Proof.Machine.execResolve part depot key s
  | .resolveAnswer part depot key ans => Sys2Proof.Machine.execResolveAnswer part depot key ans s
  | .homeRecordsReceived part depot rs => Sys2Proof.Machine.execHomeRecordsReceived part depot rs s
  | .endMarker part depot slot => Sys2Proof.Machine.execEndMarker part depot slot s
  | .recordsAcknowledged part depot slot => Sys2Proof.Machine.execRecordsAcknowledged part depot slot s
  | .heldRequestTimeout part depot k => Sys2Proof.Machine.execHeldRequestTimeout part depot k s
  | .partnerDetect p lanes => Sys2Proof.Machine.execPartnerDetect p lanes s
  | .detectTimeout p => Sys2Proof.Machine.execDetectTimeout p s
  | .eqDone p good => Sys2Proof.Machine.execEqDone p good s
  | .eqTimeout p => Sys2Proof.Machine.execEqTimeout p s
  | .alignDone p => Sys2Proof.Machine.execAlignDone p s
  | .alignTimeout p => Sys2Proof.Machine.execAlignTimeout p s
  | .linkAuthDone p okay => Sys2Proof.Machine.execLinkAuthDone p okay s
  | .authTimeout p => Sys2Proof.Machine.execAuthTimeout p s
  | .configDone p partner sptag coherent => Sys2Proof.Machine.execConfigDone p partner sptag coherent s
  | .configTimeout p => Sys2Proof.Machine.execConfigTimeout p s
  | .recoverDone p good => Sys2Proof.Machine.execRecoverDone p good s
  | .recoverTimeout p => Sys2Proof.Machine.execRecoverTimeout p s
  | .laneSerWindow p => Sys2Proof.Machine.execLaneSerWindow p s
  | .clockRecoveryLoss p lane => Sys2Proof.Machine.execClockRecoveryLoss p lane s
  | .substitute p lane => Sys2Proof.Machine.execSubstitute p lane s
  | .remapAnswer p seq ans => Sys2Proof.Machine.execRemapAnswer p seq ans s
  | .remapTimeout p => Sys2Proof.Machine.execRemapTimeout p s
  | .spareEqDone p => Sys2Proof.Machine.execSpareEqDone p s
  | .flitReceive p f => Sys2Proof.Machine.execFlitReceive p f s
  | .retry p seq => Sys2Proof.Machine.execRetry p seq s
  | .keyupdate p own => Sys2Proof.Machine.execKeyupdate p own s
  | .flitAckSend p => Sys2Proof.Machine.execFlitAckSend p s
  | .rdS p tag ctx addr => Sys2Proof.Machine.execRdS p tag ctx addr s
  | .rdM p tag ctx addr => Sys2Proof.Machine.execRdM p tag ctx addr s
  | .upgM p tag ctx addr => Sys2Proof.Machine.execUpgM p tag ctx addr s
  | .wb p tag ctx addr data => Sys2Proof.Machine.execWb p tag ctx addr data s
  | .evict p tag ctx addr => Sys2Proof.Machine.execEvict p tag ctx addr s
  | .rdNc p tag ctx addr => Sys2Proof.Machine.execRdNc p tag ctx addr s
  | .wrLine p tag ctx addr data => Sys2Proof.Machine.execWrLine p tag ctx addr data s
  | .wrPart p tag ctx addr data mask => Sys2Proof.Machine.execWrPart p tag ctx addr data mask s
  | .syncUpd p tag ctx sa opnd sub => Sys2Proof.Machine.execSyncUpd p tag ctx sa opnd sub s
  | .syncRd p tag ctx sa => Sys2Proof.Machine.execSyncRd p tag ctx sa s
  | .syncWait p tag ctx sa opnd timeout kind => Sys2Proof.Machine.execSyncWait p tag ctx sa opnd timeout kind s
  | .feOp p tag ctx sa f timeout data => Sys2Proof.Machine.execFeOp p tag ctx sa f timeout data s
  | .snpInv p line => Sys2Proof.Machine.execSnpInv p line s
  | .snpShr p line => Sys2Proof.Machine.execSnpShr p line s
  | .rspData p tag data poison => Sys2Proof.Machine.execRspData p tag data poison s
  | .rspAck p tag => Sys2Proof.Machine.execRspAck p tag s
  | .rspSnp p line data poison => Sys2Proof.Machine.execRspSnp p line data poison s
  | .rspFault p tag status => Sys2Proof.Machine.execRspFault p tag status s
  | .rspSync p tag status word => Sys2Proof.Machine.execRspSync p tag status word s
  | .electricalFence p => Sys2Proof.Machine.execElectricalFence p s
  | .caravanStart kind unit id host => Sys2Proof.Machine.execCaravanStart kind unit id host s
  | .openStream p m => Sys2Proof.Machine.execOpen p m s
  | .pull p m => Sys2Proof.Machine.execPull p m s
  | .dataFlit p stream chunk data lane => Sys2Proof.Machine.execDataFlit p stream chunk data lane s
  | .close p m => Sys2Proof.Machine.execClose p m s
  | .poison p m => Sys2Proof.Machine.execPoison p m s
  | .beacon p m => Sys2Proof.Machine.execBeacon p m s
  | .ack p m => Sys2Proof.Machine.execAck p m s
  | .legClose p stream lane => Sys2Proof.Machine.execLegClose p stream lane s
  | .final p m => Sys2Proof.Machine.execFinal p m s
  | .abandon p m => Sys2Proof.Machine.execAbandon p m s
  | .bcnResult p m => Sys2Proof.Machine.execBcnResult p m s
  | .batch p m => Sys2Proof.Machine.execBatch p m s
  | .batchResult p m => Sys2Proof.Machine.execBatchResult p m s
  | .batchDone p stream status => Sys2Proof.Machine.execBatchDone p stream status s
  | .ackTimeout u => Sys2Proof.Machine.execAckTimeout u s
  | .streamIdleFree p stream => Sys2Proof.Machine.execStreamIdleFree p stream s
  | .fenceDone car => Sys2Proof.Machine.execFenceDone car s
  | .seraiWindowExpiry batch => Sys2Proof.Machine.execSeraiWindowExpiry batch s
  | .bar4Read tag off len => Sys2Proof.Machine.execBar4Read tag off len s
  | .bar4Write off data poison => Sys2Proof.Machine.execBar4Write off data poison s
  | .winSeg half n v => Sys2Proof.Machine.execWinSeg half n v s
  | .registerWrite half off size v => Sys2Proof.Machine.execRegisterWrite half off size v s
  | .dbSq mb tail => Sys2Proof.Machine.execDbSq mb tail s
  | .dbCq mb head => Sys2Proof.Machine.execDbCq mb head s
  | .doorbellWake mb => Sys2Proof.Machine.execDoorbellWake mb s
  | .commandFetch mb bytes block poison => Sys2Proof.Machine.execCommandFetch mb bytes block poison s
  | .mbxCommit gen => Sys2Proof.Machine.execMbxCommit gen s
  | .mbxCommitErrClear => Sys2Proof.Machine.execMbxCommitErrClear s
  | .mbxHeartbeat => Sys2Proof.Machine.execMbxHeartbeat s
  | .mbxWdogExpiry mb => Sys2Proof.Machine.execMbxWdogExpiry mb s
  | .hostLinkDown half => Sys2Proof.Machine.execHostLinkDown half s
  | .hostLinkUp half => Sys2Proof.Machine.execHostLinkUp half s
  | .perstAssert width => Sys2Proof.Machine.execPerstAssert width s
  | .resetNAssert width => Sys2Proof.Machine.execResetNAssert width s
  | .hotReset half bifur => Sys2Proof.Machine.execHotReset half bifur s
  | .idGet mb => Sys2Proof.Machine.execIdGet mb s
  | .resGet mb => Sys2Proof.Machine.execResGet mb s
  | .partCreate mb => Sys2Proof.Machine.execPartCreate mb s
  | .partDestroy mb => Sys2Proof.Machine.execPartDestroy mb s
  | .cellScrubDone cell => Sys2Proof.Machine.execCellScrubDone cell s
  | .partGet mb => Sys2Proof.Machine.execPartGet mb s
  | .partQuotaSet mb => Sys2Proof.Machine.execPartQuotaSet mb s
  | .mbxSet mb => Sys2Proof.Machine.execMbxSet mb s
  | .evqSet mb => Sys2Proof.Machine.execEvqSet mb s
  | .alloc mb => Sys2Proof.Machine.execAlloc mb s
  | .free mb => Sys2Proof.Machine.execFree mb s
  | .pin mb => Sys2Proof.Machine.execPin mb s
  | .unpin mb => Sys2Proof.Machine.execUnpin mb s
  | .gsetWrite mb => Sys2Proof.Machine.execGsetWrite mb s
  | .protSet mb => Sys2Proof.Machine.execProtSet mb s
  | .extentCreate mb pages => Sys2Proof.Machine.execExtentCreate mb pages s
  | .extentRevoke mb => Sys2Proof.Machine.execExtentRevoke mb s
  | .revocationDrainEnd ext => Sys2Proof.Machine.execRevocationDrainEnd ext s
  | .extentDestroy mb => Sys2Proof.Machine.execExtentDestroy mb s
  | .evictReserveSet mb => Sys2Proof.Machine.execEvictReserveSet mb s
  | .tierTimeoutsSet mb => Sys2Proof.Machine.execTierTimeoutsSet mb s
  | .windowBind mb => Sys2Proof.Machine.execWindowBind mb s
  | .windowUnbind mb => Sys2Proof.Machine.execWindowUnbind mb s
  | .regionOpen mb => Sys2Proof.Machine.execRegionOpen mb s
  | .regionClose mb => Sys2Proof.Machine.execRegionClose mb s
  | .regionBegin mb => Sys2Proof.Machine.execRegionBegin mb s
  | .regionPublish mb => Sys2Proof.Machine.execRegionPublish mb s
  | .regionAbort mb => Sys2Proof.Machine.execRegionAbort mb s
  | .regionCloseAll mb => Sys2Proof.Machine.execRegionCloseAll mb s
  | .ctxCreate mb => Sys2Proof.Machine.execCtxCreate mb s
  | .ctxSet mb => Sys2Proof.Machine.execCtxSet mb s
  | .ctxDestroy mb => Sys2Proof.Machine.execCtxDestroy mb s
  | .tlbInvalidateRange mb => Sys2Proof.Machine.execTlbInvalidateRange mb s
  | .tlbInvalidateCtx mb => Sys2Proof.Machine.execTlbInvalidateCtx mb s
  | .tlbInvalidateAll mb => Sys2Proof.Machine.execTlbInvalidateAll mb s
  | .stageConfig mb => Sys2Proof.Machine.execStageConfig mb s
  | .tollCommit mb => Sys2Proof.Machine.execTollCommit mb s
  | .tollGet mb => Sys2Proof.Machine.execTollGet mb s
  | .itinLoad mb => Sys2Proof.Machine.execItinLoad mb s
  | .itinStart mb => Sys2Proof.Machine.execItinStart mb s
  | .itinStop mb => Sys2Proof.Machine.execItinStop mb s
  | .tallyInit mb => Sys2Proof.Machine.execTallyInit mb s
  | .stageGet mb => Sys2Proof.Machine.execStageGet mb s
  | .launchCmd mb => Sys2Proof.Machine.execLaunchCmd mb s
  | .issueCmd mb => Sys2Proof.Machine.execIssueCmd mb s
  | .depotCreate mb => Sys2Proof.Machine.execDepotCreate mb s
  | .depotMapSet mb => Sys2Proof.Machine.execDepotMapSet mb s
  | .depotOpen x => Sys2Proof.Machine.execDepotOpen x s
  | .depotRelease x => Sys2Proof.Machine.execDepotRelease x s
  | .depotAcquire x => Sys2Proof.Machine.execDepotAcquire x s
  | .depotClose x => Sys2Proof.Machine.execDepotClose x s
  | .depotDestroy mb => Sys2Proof.Machine.execDepotDestroy mb s
  | .depotGet mb => Sys2Proof.Machine.execDepotGet mb s
  | .indexCreate mb => Sys2Proof.Machine.execIndexCreate mb s
  | .indexDestroy mb => Sys2Proof.Machine.execIndexDestroy mb s
  | .indexInsert mb => Sys2Proof.Machine.execIndexInsert mb s
  | .indexDelete mb => Sys2Proof.Machine.execIndexDelete mb s
  | .indexLink mb => Sys2Proof.Machine.execIndexLink mb s
  | .indexPublish mb => Sys2Proof.Machine.execIndexPublish mb s
  | .indexHold mb => Sys2Proof.Machine.execIndexHold mb s
  | .indexRelease mb => Sys2Proof.Machine.execIndexRelease mb s
  | .indexState mb => Sys2Proof.Machine.execIndexState mb s
  | .storeSet mb => Sys2Proof.Machine.execStoreSet mb s
  | .routeSet mb => Sys2Proof.Machine.execRouteSet mb s
  | .portConfig mb => Sys2Proof.Machine.execPortConfig mb s
  | .portDisable mb => Sys2Proof.Machine.execPortDisable mb s
  | .portEnable mb => Sys2Proof.Machine.execPortEnable mb s
  | .portFence mb => Sys2Proof.Machine.execPortFence mb s
  | .portUnfence mb => Sys2Proof.Machine.execPortUnfence mb s
  | .syncMode mb => Sys2Proof.Machine.execSyncMode mb s
  | .fabricTimers mb => Sys2Proof.Machine.execFabricTimers mb s
  | .frbTableLoad mb => Sys2Proof.Machine.execFrbTableLoad mb s
  | .frbTableFree mb => Sys2Proof.Machine.execFrbTableFree mb s
  | .frbStreamSet mb => Sys2Proof.Machine.execFrbStreamSet mb s
  | .frbStreamFree mb => Sys2Proof.Machine.execFrbStreamFree mb s
  | .frbStreamClear mb => Sys2Proof.Machine.execFrbStreamClear mb s
  | .attest mb => Sys2Proof.Machine.execAttest mb s
  | .waybillKeySeal mb => Sys2Proof.Machine.execWaybillKeySeal mb s
  | .fwStage mb => Sys2Proof.Machine.execFwStage mb s
  | .keyslotAlloc mb => Sys2Proof.Machine.execKeyslotAlloc mb s
  | .keyslotRetire mb => Sys2Proof.Machine.execKeyslotRetire mb s
  | .checkSet mb => Sys2Proof.Machine.execCheckSet mb s
  | .shadowMaxSet mb => Sys2Proof.Machine.execShadowMaxSet mb s
  | .selftest mb => Sys2Proof.Machine.execSelftest mb s
  | .testGet mb => Sys2Proof.Machine.execTestGet mb s
  | .quarantineLift mb => Sys2Proof.Machine.execQuarantineLift mb s
  | .ledgerRead mb => Sys2Proof.Machine.execLedgerRead mb s
  | .scrubSet mb => Sys2Proof.Machine.execScrubSet mb s
  | .mbxWdogSet mb => Sys2Proof.Machine.execMbxWdogSet mb s
  | .powerEnvelope mb => Sys2Proof.Machine.execPowerEnvelope mb s
  | .cellFreqPin mb => Sys2Proof.Machine.execCellFreqPin mb s
  | .clkoutSet mb => Sys2Proof.Machine.execClkoutSet mb s
  | .powerGet mb => Sys2Proof.Machine.execPowerGet mb s
  | .dbgUnlock mb => Sys2Proof.Machine.execDbgUnlock mb s
  | .dbgDump mb => Sys2Proof.Machine.execDbgDump mb s
  | .dbgLock mb => Sys2Proof.Machine.execDbgLock mb s
  | .fuseReadDone agree parity => Sys2Proof.Machine.execFuseReadDone agree parity s
  | .bootImageVerify fail svn => Sys2Proof.Machine.execBootImageVerify fail svn s
  | .imageBroadcast fails => Sys2Proof.Machine.execImageBroadcast fails s
  | .stackWaveStart w => Sys2Proof.Machine.execStackWaveStart w s
  | .stackTrainingDone stack okay => Sys2Proof.Machine.execStackTrainingDone stack okay s
  | .cellReady cell => Sys2Proof.Machine.execCellReady cell s
  | .portCalibrated p okay => Sys2Proof.Machine.execPortCalibrated p okay s
  | .mgmtPortReady port => Sys2Proof.Machine.execMgmtPortReady port s
  | .censusTarget ch target t => Sys2Proof.Machine.execCensusTarget ch target t s
  | .enrolScanDone ch bad => Sys2Proof.Machine.execEnrolScanDone ch bad s
  | .backgroundErase ch erased => Sys2Proof.Machine.execBackgroundErase ch erased s
  | .ledgerMerge held => Sys2Proof.Machine.execLedgerMerge held s
  | .ledgerWrite ok => Sys2Proof.Machine.execLedgerWrite ok s
  | .ledgerRetry ok => Sys2Proof.Machine.execLedgerRetry ok s
  | .ledgerCompact ok => Sys2Proof.Machine.execLedgerCompact ok s
  | .selftestRun unit => Sys2Proof.Machine.execSelftestRun unit s
  | .selftestDone unit fail => Sys2Proof.Machine.execSelftestDone unit fail s
  | .selftestStarved unit => Sys2Proof.Machine.execSelftestStarved unit s
  | .clockLoss source => Sys2Proof.Machine.execClockLoss source s
  | .clockRestart source => Sys2Proof.Machine.execClockRestart source s
  | .dvfsInterval cells pkg logic stks => Sys2Proof.Machine.execDvfsInterval cells pkg logic stks s
  | .sensorRead cells tiles stks => Sys2Proof.Machine.execSensorRead cells tiles stks s
  | .railFault rail ns silent => Sys2Proof.Machine.execRailFault rail ns silent s
  | .vauxLoss => Sys2Proof.Machine.execVauxLoss s
  | .coolInlet value => Sys2Proof.Machine.execCoolInlet value s
  | .coolFlow value => Sys2Proof.Machine.execCoolFlow value s
  | .coolantStale => Sys2Proof.Machine.execCoolantStale s
  | .fatalError cause loc => Sys2Proof.Machine.execFatalError cause loc s
  | .eventSignal part => Sys2Proof.Machine.execEventSignal part s
  | .rasCommit gen => Sys2Proof.Machine.execRasCommit gen s
  | .rasCommitErrClear => Sys2Proof.Machine.execRasCommitErrClear s
  | .rasQHead head => Sys2Proof.Machine.execRasQHead head s
  | .hello port keyIdx payload => Sys2Proof.Machine.execHello port keyIdx payload s
  | .auth port block => Sys2Proof.Machine.execAuth port block s
  | .cmd f => Sys2Proof.Machine.execCmd f s
  | .image f => Sys2Proof.Machine.execImage f s
  | .keepalive f => Sys2Proof.Machine.execKeepalive f s
  | .fullReset f bifur => Sys2Proof.Machine.execFullReset f bifur s
  | .pmpClose f => Sys2Proof.Machine.execPmpClose f s
  | .enrol port slot hash usage serial block => Sys2Proof.Machine.execEnrol port slot hash usage serial block s
  | .handshakeTimeout port => Sys2Proof.Machine.execHandshakeTimeout port s
  | .sessionTimeout session => Sys2Proof.Machine.execSessionTimeout session s
  | .fragmentTimeout session => Sys2Proof.Machine.execFragmentTimeout session s
  | .idcode => Sys2Proof.Machine.execIdcode s
  | .samplePreload pins next => Sys2Proof.Machine.execSamplePreload pins next s
  | .extest pins next => Sys2Proof.Machine.execExtest pins next s
  | .clamp => Sys2Proof.Machine.execClamp s
  | .highz => Sys2Proof.Machine.execHighz s
  | .extestPulse pins next => Sys2Proof.Machine.execExtestPulse pins next s
  | .extestTrain pins next => Sys2Proof.Machine.execExtestTrain pins next s
  | .bypass => Sys2Proof.Machine.execBypass s
  | .resetNRelease bifur => Sys2Proof.Machine.execResetNRelease bifur s
  | .perstRelease bifur => Sys2Proof.Machine.execPerstRelease bifur s
  | .vauxInRegulation sa => Sys2Proof.Machine.execVauxInRegulation sa s
  | .fecLockLoss p => Sys2Proof.Machine.execFecLockLoss p s
  | .mgmtLinkDown port => Sys2Proof.Machine.execMgmtLinkDown port s
  | .mgmtLinkUp port => Sys2Proof.Machine.execMgmtLinkUp port s
  | .configSpaceAccess tag power => Sys2Proof.Machine.execConfigSpaceAccess tag power s
  | .coreUncorrectableFault core => Sys2Proof.Machine.execCoreUncorrectableFault core s
  | .vcoreOvercurrent overI => Sys2Proof.Machine.execVcoreOvercurrent overI s
  | .testLogicReset => Sys2Proof.Machine.execTestLogicReset s
  | .flashReadDone id retried bad => Sys2Proof.Machine.execFlashReadDone id retried bad s
  | .ptmContextExpiry => Sys2Proof.Machine.execPtmContextExpiry s

end Sys2Proof.Machine
end

