-- ==== Sys2Proof/Machine/Step.lean ====
section
/-! DEFINITION. One step of the block: the command at the front of the queue, or a tick of the clocks. -/

namespace Sys2Proof.Machine

/-- What the block does with no command waiting: its clocks advance by one nanosecond, the data path's only while it is
not halted (R487, R499, R504; log 35). -/
def State.tick (s : State) : State := reachWall (s.wall + 1) s

/-- One step: the front command acts on the rest; with none waiting the clocks tick. -/
def step (s : State) : Host.Outcome State Fault Refusal :=
  match s.pending with
  | [] => .next s.tick
  | c :: rest => exec c { s with pending := rest }

/-- The state with the command a word spells at the front of its queue; unchanged where the word spells none. -/
def State.withFetchWord (s : State) (nbits w : Nat) : State :=
  match decodeTableWord nbits w with
  | some c => { s with pending := c :: s.pending }
  | none => s

end Sys2Proof.Machine
end

