-- ==== Sys2Proof/WellFormed.lean ====
section
/-! DEFINITION. Which operands name something the device has: ports, mailboxes, units, cells (R14, R16, R21, R402), and
lines of 64 bytes. The meanings need no such check: a command that names no object of the device changes nothing
(log 7). -/

namespace Sys2Proof

/-- Built units of a kind (Table 1.6). -/
def UnitKind.built : UnitKind → Nat
  | .core => 340 | .matrix => 44 | .porter => 20 | .assay => 20 | .port => 8 | .dma => 1

/-- Logical units of a kind (R14, R16). -/
def UnitKind.logical : UnitKind → Nat
  | .core => 320 | .matrix => 40 | .porter => 20 | .assay => 20 | .port => 8 | .dma => 1

/-- A unit or a bank that a self-test can name (Table 19.7). -/
def TestUnit.ok : TestUnit → Bool
  | .phys u => (decide (u / 4096 = 1) && decide (u % 4096 < 340)) || (decide (u / 4096 = 2) && decide (u % 4096 < 44)) ||
      ((decide (u / 4096 = 3) || decide (u / 4096 = 4)) && decide (u % 4096 < 20))
  | .bank cell b => decide (cell < 20) && decide (b < 1024)

/-- Every operand that names an object names one the device has. -/
def Instr.wellFormed : Instr → Bool
  | .requestAdmit _ _ _ _ _ _ _ => true
  | .mirrorWalkDone _ => true
  | .genReread _ => true
  | .missPost _ => true
  | .pendingMissFreed => true
  | .xltResp _ _ => true
  | .rewalkDone _ => true
  | .missTimeout _ => true
  | .xltInvRange _ _ => true
  | .xltInvCtx _ _ => true
  | .xltInvAll => true
  | .xltInvRejected => true
  | .invalidationComplete => true
  | .xltCommit _ => true
  | .xltCommitErrClear => true
  | .xltMqHead _ => true
  | .homeAccess _ _ => true
  | .idleEviction part => decide (part < 256)
  | .fetchUnitLanded _ _ _ _ => true
  | .evictionWriteDone _ => true
  | .evictionWriteFail _ => true
  | .shootdownComplete _ => true
  | .flashBufferProgram _ => true
  | .flashProgramFail ch target _ => decide (ch < 20) && decide (target < 16)
  | .flashTimeout _ => true
  | .hostTimeout _ => true
  | .hostReadCompletion _ _ _ _ => true
  | .garbageCollection ch _ _ => decide (ch < 20)
  | .wearLevelling ch _ => decide (ch < 20)
  | .hbmPatrolScrub stack _ _ _ _ => decide (stack < 20)
  | .rowSpare stack _ => decide (stack < 20)
  | .flashPatrol ch _ _ => decide (ch < 20)
  | .snoopTimeout _ => true
  | .beaconRelease port _ => decide (port < 9)
  | .beaconHoldExpiry port _ => decide (port < 9)
  | .hostWrite _ => true
  | .waitTimeout _ => true
  | .waitPoll _ => true
  | .feWaitTimeout _ => true
  | .pulse _ _ => true
  | .windowClose => true
  | .periodReport part => decide (part < 256)
  | .entryStart part _ => decide (part < 256)
  | .entryDeadline part _ => decide (part < 256)
  | .ptmRefresh _ => true
  | .stgCommit _ => true
  | .stgCommitErrClear => true
  | .integerOp t _ => decide (t < 20480)
  | .movk t _ => decide (t < 20480)
  | .mfts t _ => decide (t < 20480)
  | .branch t _ => decide (t < 20480)
  | .jal t _ => decide (t < 20480)
  | .jalr t _ => decide (t < 20480)
  | .loadOp t _ => decide (t < 20480)
  | .storeOp t _ => decide (t < 20480)
  | .vld t _ => decide (t < 20480)
  | .vst t _ => decide (t < 20480)
  | .vgather t _ => decide (t < 20480)
  | .vscatter t _ => decide (t < 20480)
  | .atomicOp t _ _ => decide (t < 20480)
  | .tallyAdd t _ => decide (t < 20480)
  | .tallySub t _ => decide (t < 20480)
  | .tallyRead t _ => decide (t < 20480)
  | .waitGe t _ => decide (t < 20480)
  | .waitEq t _ => decide (t < 20480)
  | .monitor t _ => decide (t < 20480)
  | .writeEf t _ => decide (t < 20480)
  | .readFe t _ => decide (t < 20480)
  | .readFf t _ => decide (t < 20480)
  | .writeXf t _ => decide (t < 20480)
  | .flushRange t _ => decide (t < 20480)
  | .isync t _ => decide (t < 20480)
  | .issueOp t _ => decide (t < 20480)
  | .launchOp t _ => decide (t < 20480)
  | .haltOp t _ => decide (t < 20480)
  | .yieldOp t _ => decide (t < 20480)
  | .vectorArith t _ _ => decide (t < 20480)
  | .vectorConvert t _ _ => decide (t < 20480)
  | .vectorReduce t _ _ => decide (t < 20480)
  | .groupStart core => decide (core < 320)
  | .groupEnd _ => true
  | .unitRebind kind logical => decide (logical < kind.logical)
  | .matmul unit => decide (unit < 40)
  | .expertFfn unit => decide (unit < 40)
  | .attend unit _ => decide (unit < 40)
  | .operationComplete kind unit _ _ => decide (unit < kind.built)
  | .gather unit => decide (unit < 20)
  | .scatterAdd unit => decide (unit < 20)
  | .moveRows unit => decide (unit < 20)
  | .rowUpdate unit _ => decide (unit < 20)
  | .moveSnapshotWritten _ => true
  | .moveReplay _ => true
  | .moveCommit _ => true
  | .scan unit _ => decide (unit < 20)
  | .walk unit _ => decide (unit < 20)
  | .rerank unit _ => decide (unit < 20)
  | .repairQueueWork part _ => decide (part < 256)
  | .sweep part _ => decide (part < 256)
  | .leaseRenewalSend part _ _ => decide (part < 256)
  | .leaseRenewal port _ => decide (port < 8)
  | .renewalAnswer part _ _ _ => decide (part < 256)
  | .leaseEnd part _ _ => decide (part < 256)
  | .homeExpiry part _ _ => decide (part < 256)
  | .lostHoldExpiry part _ _ => decide (part < 256)
  | .handoffCopyDone _ => true
  | .handoffCommit port _ => decide (port < 8)
  | .commitAck part _ _ _ => decide (part < 256)
  | .sourceDiscard part _ _ => decide (part < 256)
  | .resolve part _ _ => decide (part < 256)
  | .resolveAnswer part _ _ _ => decide (part < 256)
  | .homeRecordsReceived part _ _ => decide (part < 256)
  | .endMarker part _ _ => decide (part < 256)
  | .recordsAcknowledged part _ _ => decide (part < 256)
  | .heldRequestTimeout part _ _ => decide (part < 256)
  | .partnerDetect p _ => decide (p < 8)
  | .detectTimeout p => decide (p < 8)
  | .eqDone p _ => decide (p < 8)
  | .eqTimeout p => decide (p < 8)
  | .alignDone p => decide (p < 8)
  | .alignTimeout p => decide (p < 8)
  | .linkAuthDone p _ => decide (p < 8)
  | .authTimeout p => decide (p < 8)
  | .configDone p _ _ _ => decide (p < 8)
  | .configTimeout p => decide (p < 8)
  | .recoverDone p _ => decide (p < 8)
  | .recoverTimeout p => decide (p < 8)
  | .laneSerWindow p => decide (p < 8)
  | .clockRecoveryLoss p lane => decide (p < 8) && decide (lane < 64)
  | .substitute p lane => decide (p < 8) && decide (lane < 64)
  | .remapAnswer p _ _ => decide (p < 8)
  | .remapTimeout p => decide (p < 8)
  | .spareEqDone p => decide (p < 8)
  | .flitReceive p _ => decide (p < 8)
  | .retry p _ => decide (p < 8)
  | .keyupdate p _ => decide (p < 8)
  | .flitAckSend p => decide (p < 8)
  | .rdS p _ _ _ => decide (p < 8)
  | .rdM p _ _ _ => decide (p < 8)
  | .upgM p _ _ _ => decide (p < 8)
  | .wb p _ _ _ data => decide (p < 8) && decide (data.length = 64)
  | .evict p _ _ _ => decide (p < 8)
  | .rdNc p _ _ _ => decide (p < 8)
  | .wrLine p _ _ _ data => decide (p < 8) && decide (data.length = 64)
  | .wrPart p _ _ _ data _ => decide (p < 8) && decide (data.length = 64)
  | .syncUpd p _ _ _ _ _ => decide (p < 8)
  | .syncRd p _ _ _ => decide (p < 8)
  | .syncWait p _ _ _ _ _ _ => decide (p < 8)
  | .feOp p _ _ _ _ _ _ => decide (p < 8)
  | .snpInv p _ => decide (p < 8)
  | .snpShr p _ => decide (p < 8)
  | .rspData p _ _ _ => decide (p < 8)
  | .rspAck p _ => decide (p < 8)
  | .rspSnp p _ _ _ => decide (p < 8)
  | .rspFault p _ _ => decide (p < 8)
  | .rspSync p _ _ _ => decide (p < 8)
  | .electricalFence p => decide (p < 8)
  | .caravanStart kind unit _ _ => decide (unit < kind.built)
  | .openStream p _ => decide (p < 8)
  | .pull p _ => decide (p < 8)
  | .dataFlit p _ _ _ _ => decide (p < 8)
  | .close p _ => decide (p < 8)
  | .poison p _ => decide (p < 8)
  | .beacon p _ => decide (p < 8)
  | .ack p _ => decide (p < 8)
  | .legClose p _ _ => decide (p < 8)
  | .final p _ => decide (p < 8)
  | .abandon p _ => decide (p < 8)
  | .bcnResult p _ => decide (p < 8)
  | .batch p _ => decide (p < 8)
  | .batchResult p _ => decide (p < 8)
  | .batchDone p _ _ => decide (p < 8)
  | .ackTimeout _ => true
  | .streamIdleFree p _ => decide (p < 9)
  | .fenceDone _ => true
  | .seraiWindowExpiry _ => true
  | .bar4Read _ _ _ => true
  | .bar4Write _ _ _ => true
  | .winSeg half n _ => decide (half < 2) && decide (n < 16)
  | .registerWrite half _ size _ => decide (half < 2) && (decide (size = 4) || decide (size = 8))
  | .dbSq mb _ => decide (mb < 22)
  | .dbCq mb _ => decide (mb < 22)
  | .doorbellWake mb => decide (mb < 22)
  | .commandFetch mb bytes _ _ => decide (mb < 22) && decide (bytes.length = 64)
  | .mbxCommit _ => true
  | .mbxCommitErrClear => true
  | .mbxHeartbeat => true
  | .mbxWdogExpiry mb => decide (mb < 22)
  | .hostLinkDown half => decide (half < 2)
  | .hostLinkUp half => decide (half < 2)
  | .perstAssert _ => true
  | .resetNAssert _ => true
  | .hotReset half _ => decide (half < 2)
  | .idGet mb => decide (mb < 22)
  | .resGet mb => decide (mb < 22)
  | .partCreate mb => decide (mb < 22)
  | .partDestroy mb => decide (mb < 22)
  | .cellScrubDone cell => decide (cell < 20)
  | .partGet mb => decide (mb < 22)
  | .partQuotaSet mb => decide (mb < 22)
  | .mbxSet mb => decide (mb < 22)
  | .evqSet mb => decide (mb < 22)
  | .alloc mb => decide (mb < 22)
  | .free mb => decide (mb < 22)
  | .pin mb => decide (mb < 22)
  | .unpin mb => decide (mb < 22)
  | .gsetWrite mb => decide (mb < 22)
  | .protSet mb => decide (mb < 22)
  | .extentCreate mb _ => decide (mb < 22)
  | .extentRevoke mb => decide (mb < 22)
  | .revocationDrainEnd _ => true
  | .extentDestroy mb => decide (mb < 22)
  | .evictReserveSet mb => decide (mb < 22)
  | .tierTimeoutsSet mb => decide (mb < 22)
  | .windowBind mb => decide (mb < 22)
  | .windowUnbind mb => decide (mb < 22)
  | .regionOpen mb => decide (mb < 22)
  | .regionClose mb => decide (mb < 22)
  | .regionBegin mb => decide (mb < 22)
  | .regionPublish mb => decide (mb < 22)
  | .regionAbort mb => decide (mb < 22)
  | .regionCloseAll mb => decide (mb < 22)
  | .ctxCreate mb => decide (mb < 22)
  | .ctxSet mb => decide (mb < 22)
  | .ctxDestroy mb => decide (mb < 22)
  | .tlbInvalidateRange mb => decide (mb < 22)
  | .tlbInvalidateCtx mb => decide (mb < 22)
  | .tlbInvalidateAll mb => decide (mb < 22)
  | .stageConfig mb => decide (mb < 22)
  | .tollCommit mb => decide (mb < 22)
  | .tollGet mb => decide (mb < 22)
  | .itinLoad mb => decide (mb < 22)
  | .itinStart mb => decide (mb < 22)
  | .itinStop mb => decide (mb < 22)
  | .tallyInit mb => decide (mb < 22)
  | .stageGet mb => decide (mb < 22)
  | .launchCmd mb => decide (mb < 22)
  | .issueCmd mb => decide (mb < 22)
  | .depotCreate mb => decide (mb < 22)
  | .depotMapSet mb => decide (mb < 22)
  | .depotOpen _ => true
  | .depotRelease _ => true
  | .depotAcquire _ => true
  | .depotClose _ => true
  | .depotDestroy mb => decide (mb < 22)
  | .depotGet mb => decide (mb < 22)
  | .indexCreate mb => decide (mb < 22)
  | .indexDestroy mb => decide (mb < 22)
  | .indexInsert mb => decide (mb < 22)
  | .indexDelete mb => decide (mb < 22)
  | .indexLink mb => decide (mb < 22)
  | .indexPublish mb => decide (mb < 22)
  | .indexHold mb => decide (mb < 22)
  | .indexRelease mb => decide (mb < 22)
  | .indexState mb => decide (mb < 22)
  | .storeSet mb => decide (mb < 22)
  | .routeSet mb => decide (mb < 22)
  | .portConfig mb => decide (mb < 22)
  | .portDisable mb => decide (mb < 22)
  | .portEnable mb => decide (mb < 22)
  | .portFence mb => decide (mb < 22)
  | .portUnfence mb => decide (mb < 22)
  | .syncMode mb => decide (mb < 22)
  | .fabricTimers mb => decide (mb < 22)
  | .frbTableLoad mb => decide (mb < 22)
  | .frbTableFree mb => decide (mb < 22)
  | .frbStreamSet mb => decide (mb < 22)
  | .frbStreamFree mb => decide (mb < 22)
  | .frbStreamClear mb => decide (mb < 22)
  | .attest mb => decide (mb < 22)
  | .waybillKeySeal mb => decide (mb < 22)
  | .fwStage mb => decide (mb < 22)
  | .keyslotAlloc mb => decide (mb < 22)
  | .keyslotRetire mb => decide (mb < 22)
  | .checkSet mb => decide (mb < 22)
  | .shadowMaxSet mb => decide (mb < 22)
  | .selftest mb => decide (mb < 22)
  | .testGet mb => decide (mb < 22)
  | .quarantineLift mb => decide (mb < 22)
  | .ledgerRead mb => decide (mb < 22)
  | .scrubSet mb => decide (mb < 22)
  | .mbxWdogSet mb => decide (mb < 22)
  | .powerEnvelope mb => decide (mb < 22)
  | .cellFreqPin mb => decide (mb < 22)
  | .clkoutSet mb => decide (mb < 22)
  | .powerGet mb => decide (mb < 22)
  | .dbgUnlock mb => decide (mb < 22)
  | .dbgDump mb => decide (mb < 22)
  | .dbgLock mb => decide (mb < 22)
  | .fuseReadDone _ _ => true
  | .bootImageVerify _ _ => true
  | .imageBroadcast _ => true
  | .stackWaveStart _ => true
  | .stackTrainingDone stack _ => decide (stack < 20)
  | .cellReady cell => decide (cell < 20)
  | .portCalibrated p _ => decide (p < 8)
  | .mgmtPortReady port => decide (port < 2)
  | .censusTarget ch target _ => decide (ch < 20) && decide (target < 16)
  | .enrolScanDone ch _ => decide (ch < 20)
  | .backgroundErase ch _ => decide (ch < 20)
  | .ledgerMerge _ => true
  | .ledgerWrite _ => true
  | .ledgerRetry _ => true
  | .ledgerCompact _ => true
  | .selftestRun unit => unit.ok
  | .selftestDone unit _ => unit.ok
  | .selftestStarved unit => unit.ok
  | .clockLoss _ => true
  | .clockRestart _ => true
  | .dvfsInterval cells _ _ _ => decide (cells.length = 20)
  | .sensorRead cells tiles _ => decide (cells.length = 20) && decide (tiles.length = 4)
  | .railFault _ _ _ => true
  | .vauxLoss => true
  | .coolInlet _ => true
  | .coolFlow _ => true
  | .coolantStale => true
  | .fatalError _ _ => true
  | .eventSignal part => decide (part < 256)
  | .rasCommit _ => true
  | .rasCommitErrClear => true
  | .rasQHead _ => true
  | .hello port _ _ => decide (port < 2)
  | .auth port _ => decide (port < 2)
  | .cmd f => decide (f.port < 2)
  | .image f => decide (f.port < 2)
  | .keepalive f => decide (f.port < 2)
  | .fullReset f _ => decide (f.port < 2)
  | .pmpClose f => decide (f.port < 2)
  | .enrol port slot _ _ _ _ => decide (port < 2) && decide (slot < 32)
  | .handshakeTimeout port => decide (port < 2)
  | .sessionTimeout _ => true
  | .fragmentTimeout _ => true
  | .idcode => true
  | .samplePreload _ _ => true
  | .extest _ _ => true
  | .clamp => true
  | .highz => true
  | .extestPulse _ _ => true
  | .extestTrain _ _ => true
  | .bypass => true
  | .resetNRelease _ => true
  | .perstRelease _ => true
  | .vauxInRegulation _ => true
  | .fecLockLoss p => decide (p < 8)
  | .mgmtLinkDown port => decide (port < 2)
  | .mgmtLinkUp port => decide (port < 2)
  | .configSpaceAccess _ _ => true
  | .coreUncorrectableFault core => decide (core < 320)
  | .vcoreOvercurrent _ => true
  | .testLogicReset => true
  | .flashReadDone _ _ _ => true
  | .ptmContextExpiry => true

end Sys2Proof
end

