-- ==== Sys2Proof/Safety.lean ====
section
/-! DEFINITION. What counts as a sound state of the block, and the standing conditions under which its parts answer, in
the terms the statements use. -/

namespace Sys2Proof.Machine

/-- The data path runs: no FATAL, no loss of REFCLK_SYS, no trip (R487, R499, R504). -/
def State.runs (s : State) : Prop := s.halted = false

/-- BAR accesses are decoded: not in D3hot, no loss of REFCLK_SYS, no trip (R393, R488, R499). -/
def State.barOpen (s : State) : Prop := s.host.d3hot = false ∧ sysLost s = false ∧ s.pwr.trip = none

/-- The control processor runs (R467, R487, R499). -/
def State.cpUp (s : State) : Prop := cpRuns s = true

/-- Every byte of store memory reads in `t` as it did in `s`. -/
def sameMemory (s t : State) : Prop := ∀ a : Nat, byteAt t.store.mem a = byteAt s.store.mem a

/-- Thread `t`, in state `x`, has fetched the word `w` and may issue it: it runs, the fetch does not fault, the word is
defined, no register it uses is pending, and its place among the thread's accesses is free (R112, R180 to R182). -/
def Fetched (s : State) (t : Nat) (w : BitVec 32) (x : Thread) (uses : List RegId) (o : Ord) : Prop :=
  s.halted = false ∧ thr s t = some x ∧ x.st = .running ∧ fetchFault s x = none ∧ wDefined w = true ∧
    mayIssue s t x uses o = true

/-- An instruction of thread `t`, in state `x` before it, leaves alone every other thread, and in its own the TS, the
context and every register but those in `ds`; r0 reads as zero (Table 7.1). -/
structure LeavesThreads (s v : State) (t : Nat) (x : Thread) (ds : List RegId) : Prop where
  others : ∀ z, z ≠ t → thr v z = thr s z
  own : ∃ y, thr v t = some y ∧ y.ts = x.ts ∧ y.ctx = x.ctx ∧ y.read (.r 0) = 0 ∧
    ∀ r, r ∉ ds → y.read r = x.read r ∧ y.pois r = x.pois r

/-- The state in which an issued instruction acts: its word noted, the cell's ISSUED count one higher. -/
def issuing (t : Nat) (w : BitVec 32) (s : State) : State :=
  cnt (cellReg (thrCell t) 0x710) 1 (updThr t (fun x => { x with insn := w }) s)

/-- Unit `u` of kind `k` may take the operation `o` at the head of its queue: it runs none, is neither due to be re-bound,
under test nor unbound, and the descriptor is readable and names a waybill of this device (R24, R202, R212, R480). -/
structure Takes (s : State) (k : UnitKind) (u : Nat) (o : EngOp) : Prop where
  runs : s.halted = false
  idle : (runningOp s k u).isSome = false
  due : (s.eng.due.contains u && decide (k = .matrix)) = false
  test : (unitRec s k (physOf s k u)).testing = false
  head : headOp s k u = some o
  readable : (linesOf o.sa 128).any (fun l => poisoned s l || (allocAt s l).isNone) = false
  waybill : waybillOk s (readDesc s o) = true
  bound : unitUnbound s k u = false

/-- The operation as its unit takes it, with `n` elements. -/
def takenOp (s : State) (k : UnitKind) (u : Nat) (o : EngOp) (n : Nat) : EngOp :=
  { o with desc := readDesc s o, ctx := dCtx (readDesc s o), phys := physOf s k u, total := n }

/-- A Depot message reaches a home that decides it: the member addressed, with equal parameters, whose map names the
sender, is not older than the sender's, and gives this member the key's slot, which is at rest (R284, R287, R299). -/
structure Homed (s : State) (x : DepMsg) (m : Member) : Prop where
  runs : s.halted = false
  member : memberOf s x.part x.depot = some m
  digest : x.digest = m.digest
  named : m.names x.dev x.sender = true
  map : x.mapgen ≤ m.mapgen
  still : (tget (homeSlot x.key) m.moving).isSome = false
  mine : m.mine s (homeSlot x.key) = true

/-- Port `p` trains in the state `st` with its SerDes reference present (R338, R487). -/
structure Trains (s : State) (p : Nat) (st : PortSt) : Prop where
  runs : s.halted = false
  port : p < 8
  state : (Machine.port s p).st = st
  clock : serdesDown s p = false

/-- An ACTIVE port that is not fenced, of a running data path (R338, R350). -/
structure Open (s : State) (p : Nat) : Prop where
  runs : s.halted = false
  port : p < 8
  active : (Machine.port s p).st = .active
  fence : (Machine.port s p).fenceLog = false

/-- The message class of `k` has credit left for a message of `data` (R348). -/
def creditLeft (s : State) (p : Nat) (k : MsgKind) (data : List Byte) : Prop :=
  (port s p).rxHeld.getD (msgClass k) 0 + msgSlots { kind := k, data := data } ≤ [2048, 2048, 1024, 16384].getD (msgClass k) 0

/-- The state in which an arriving message is taken: its slots held until their credits return (R348). -/
def heard (p : Nat) (k : MsgKind) (data : List Byte) (s : State) : State :=
  let n := (port s p).rxHeld.getD (msgClass k) 0 + msgSlots { kind := k, data := data }
  updPort p (fun x => { x with rxHeld := x.rxHeld.set (msgClass k) n }) s

/-- Mailbox `n` runs the command `c` of opcode `op`, which passes the common checks `k` (R404, R418 to R420, R532). -/
def Serves (s : State) (n op : Nat) (c : Cmd) (k : CChk) : Prop :=
  (mbxOf s n).run = some c ∧ c.op = op ∧ cpRuns s = true ∧ commonChecks s n c k = none

/-- The control processor's part of bring-up stands in phase `ph` and goes on (Table 19.1, R487). -/
def State.inBoot (s : State) (ph : BootPhase) : Prop :=
  released s = true ∧ s.rep.boot.phase = ph ∧ (tget 0 s.clk.lostAt).isNone = true

/-- The local state machines of bring-up go on: the image is broadcast and the data path runs (Table 19.1). -/
def State.trains (s : State) : Prop :=
  s.runs ∧ released s = true ∧ (s.rep.boot.phase = .train ∨ s.rep.boot.phase = .run)

/-- The state once the ledger entry at the head of the queue stands in the channels `took` (R473, R474). -/
def ledgerLanded (w : LedWrite) (rest : List LedWrite) (took : List Nat) (s : State) : State :=
  updRep (fun r => { r with
    ledger := r.ledger ++ [{ w.ent with seq := r.seq }], seq := r.seq + 1, writes := rest, fail := false
    copies := r.copies &&& chMask took }) s

/-- A frame of the session `x` is accepted: its tag is good, it came in by the session's port, which is up, and its SEQ is
neither too old, nor a repeat, nor the last (R459, R460). -/
structure Framed (s : State) (f : PmpFrame) (x : Session) : Prop where
  session : tget f.session s.pmp.sessions = some x
  good : f.good = true
  port : x.port = f.port
  up : pmpUp s f.port = true
  low : 0 < f.seq
  high : f.seq < 2 ^ 32 - 1
  recent : x.rxSeq ≤ f.seq + 1024
  fresh : x.seen.contains f.seq = false

/-- The state in which an accepted frame acts (R460). -/
def framed (f : PmpFrame) (x : Session) (s : State) : State :=
  updSession f.session (fun y => { y with
    lastFrame := s.wall, rxSeq := max x.rxSeq f.seq
    seen := (f.seq :: y.seen).filter (fun q => decide (max x.rxSeq f.seq ≤ q + 1024)) }) s

/-- A sound state: memory in its canonical form, and the data path's clock not ahead of the wall's. -/
structure State.Sound (s : State) : Prop where
  mem : memWf s.store.mem = true
  clock : s.now ≤ s.wall

end Sys2Proof.Machine
end

