-- ==== Sys2Proof/Certificates/Slice0/Obligations.lean ====
section
/-! DEFINITION. The statements for the provers. -/

open Sys2Proof Sys2Proof.Machine

/-- A step takes the command at the front of the queue and answers what `exec` answers for it on the queue's rest. -/
def Obligations.StepRunsTheFrontCommand : Prop :=
  ∀ (c : Instr) (rest : List Instr) (s : State),
    step { s with pending := c :: rest } = exec c { s with pending := rest }

/-- Where the rows of admission, walks and misses complete (R33 to R51). -/
def Obligations.RequestsWalksAndMissesComplete : Prop :=
  (∀ (s : State) (ing tag ctx : Nat) (a : BitVec 64) (op : ReqOp) (len : Nat) (data : List Byte),
    s.runs → ing < 9 → (Sa.of a).space = 0 → ingressCheck s (Sa.of a) ctx ing = none →
    exec (.requestAdmit ing tag ctx (.sa a) op len data) s = .next { s with coh := { s.coh with
      fly := s.coh.fly ++ [{ req := { who := ingressWho ing tag, ctx := ctx, off := (Sa.of a).off, op := op, len := len,
                                      data := data, id := s.coh.nextReq }, tr := none }]
      nextReq := s.coh.nextReq + 1 } }) ∧
  (∀ (s : State) (m : Nat) (x : Miss) (c : Ctx), s.runs → tget m s.xlt.misses = some x → x.st = .walk →
    ctxOf s x.ctx = some c → mirrorOk s c.mirrorHdr = true → poisoned s c.mirrorHdr = false →
    x.genFirst.getLsbD 0 = false → mirrorGen s c = x.genFirst → older x.genFirst c.lastGen = false →
    (∀ l off e, walkFrom s x.page 4 c.root = .leaf l off e →
      exec (.mirrorWalkDone m) s = .next (missDone m l off e x.genFirst s)) ∧
    (walkFrom s x.page 4 c.root = .none → s.xlt.run.enable = true → s.xlt.run.timeout ≠ 0 → missExpired s x = false →
      exec (.mirrorWalkDone m) s = .next { s with xlt := { s.xlt with
        misses := tput m { x with genLast := x.genFirst, st := .post } s.xlt.misses } })) ∧
  (∀ (s : State) (m : Nat) (x : Miss) (c : Ctx), s.runs → tget m s.xlt.misses = some x → x.st = .walk →
    x.genFirst.getLsbD 0 = true → ctxOf s x.ctx = some c → (mirrorGen s c).getLsbD 0 = false →
    exec (.genReread m) s = .next { s with xlt := { s.xlt with
      misses := tput m { x with genFirst := mirrorGen s c, genLast := mirrorGen s c, oddReads := 0 } s.xlt.misses } }) ∧
  (∀ (s : State) (m : Nat) (x : Miss), s.runs → tget m s.xlt.misses = some x → x.st = .post →
    (s.xlt.mqTail + 1) % 2 ^ s.xlt.run.mqLog ≠ s.xlt.mqHead → s.host.linkUp = true →
    ∃ t, exec (.missPost m) s = .next t ∧
      t.xlt = { s.xlt with misses := tput m { x with st := .wait, missId := some s.xlt.missId } s.xlt.misses,
                           missId := s.xlt.missId + 1, mqTail := (s.xlt.mqTail + 1) % 2 ^ s.xlt.run.mqLog } ∧
      tgetD t.csr 0x70068 0 = min (tgetD s.csr 0x70068 0 + 1) (2 ^ 64 - 1) ∧
      Out.hostWr (s.xlt.run.mqBase + s.xlt.mqTail * 32) (missMessage s.xlt.missId x) ∈ t.outs) ∧
  (∀ (s : State) (v : VReq) (rest : List VReq), s.runs → s.xlt.held = v :: rest → s.xlt.misses.length < 1024 →
    exec .pendingMissFreed s = .next (translate v { s with xlt := { s.xlt with held := rest } })) ∧
  (∀ (s : State) (id : BitVec 32) (m : Nat) (x y : Miss) (c : Ctx), s.barOpen →
    s.xlt.misses.find? (fun z => z.2.st = .wait && z.2.missId = some id) = some (m, y) →
    tget m s.xlt.misses = some x → ctxOf s x.ctx = some c →
    exec (.xltResp id 0) s = .next { s with xlt := { s.xlt with misses := tput m { x with
      st := .rewalk, genFirst := mirrorGen s c, genLast := mirrorGen s c, repeated := false } s.xlt.misses } }) ∧
  (∀ (s : State) (m : Nat) (x : Miss) (c : Ctx), s.runs → tget m s.xlt.misses = some x → x.st = .rewalk →
    ctxOf s x.ctx = some c → mirrorOk s c.mirrorHdr = true → mirrorGen s c = x.genFirst →
    x.genFirst.getLsbD 0 = false → older x.genFirst c.lastGen = false →
    (∀ l off e, walkFrom s x.page 4 c.root = .leaf l off e →
      exec (.rewalkDone m) s = .next (missDone m l off e x.genFirst s)) ∧
    (walkFrom s x.page 4 c.root = .none → exec (.rewalkDone m) s = .next (missFault m .faultTranslation s))) ∧
  (∀ (s : State) (m : Nat) (x : Miss), s.runs → tget m s.xlt.misses = some x → x.st ≠ .walk →
    exec (.missTimeout m) s =
      .next (missFault m .faultTranslation (reach (x.since + s.xlt.run.timeout * 10000) s)))

/-- Where the invalidation rows and the XLT register rows complete (R46 to R48, R56, R57, R462). -/
def Obligations.InvalidationsAndXltRegistersComplete : Prop :=
  (∀ (s : State) (ctx : Nat) (gen : BitVec 32) (c : Ctx), s.barOpen → invBusy s = false → ctxOf s ctx = some c →
    gen.getLsbD 0 = false → older c.lastGen gen = true →
    (∃ t, exec (.xltInvCtx ctx gen) s = .next t ∧ (∀ e ∈ t.xlt.tlb, e.ctx ≠ ctx) ∧
      t.xlt.invs.length = s.xlt.invs.length + 1) ∧
    (s.xlt.invLen ≠ 0 → ∃ t, exec (.xltInvRange ctx gen) s = .next t ∧
      t.xlt.invs.length = s.xlt.invs.length + 1 ∧
      ∀ e ∈ t.xlt.tlb, ∀ page, (s.xlt.invVa.extractLsb' 12 45).toNat ≤ page →
        page < (s.xlt.invVa.extractLsb' 12 45).toNat + s.xlt.invLen → e.covers ctx page = false)) ∧
  (∀ (s : State) (ctx : Nat) (gen : BitVec 32) (c : Ctx), s.barOpen → invBusy s = false → ctxOf s ctx = some c →
    (gen.getLsbD 0 = true ∨ older c.lastGen gen = false) →
    exec (.xltInvCtx ctx gen) s = .next { s with xlt := { s.xlt with invStatus := Status.invalidArg.code } } ∧
    exec (.xltInvRange ctx gen) s = .next { s with xlt := { s.xlt with invStatus := Status.invalidArg.code } }) ∧
  (∀ s : State, s.barOpen → invBusy s = false →
    (∃ t, exec .xltInvAll s = .next t ∧ t.xlt.tlb = [] ∧ t.xlt.invs.length = s.xlt.invs.length + 1) ∧
    exec .xltInvRejected s = .next { s with xlt := { s.xlt with invStatus := Status.invalidArg.code } }) ∧
  (∀ (s : State) (i : Inv), s.runs → s.xlt.invs = [i] → i.waits = [] → i.started = true → i.mb = none →
    (i.scope < 2 → exec .invalidationComplete s = .next { s with xlt := { s.xlt with
      invs := [], ctxs := tupd i.ctx (fun c => { c with lastGen := i.gen }) s.xlt.ctxs,
      invStatus := Status.done.code } }) ∧
    (2 ≤ i.scope → exec .invalidationComplete s = .next { s with xlt := { s.xlt with
      invs := [], invStatus := Status.done.code } })) ∧
  (∀ (s : State) (gen : BitVec 32), s.barOpen → s.parts.mgmtOwned.contains 0x70000 = false → gen = s.xlt.gen + 1 →
    s.xlt.shadow.timeout ≤ 1000 → 6 ≤ s.xlt.shadow.mqLog → s.xlt.shadow.mqLog ≤ 12 →
    ∃ t, exec (.xltCommit gen) s = .next t ∧ t.xlt.run = s.xlt.shadow ∧ t.xlt.gen = gen ∧ t.xlt.err = s.xlt.err) ∧
  (∀ s : State, s.barOpen → exec .xltCommitErrClear s = .next { s with xlt := { s.xlt with err := false } }) ∧
  (∀ (s : State) (head : Nat), s.barOpen →
    exec (.xltMqHead head) s = .next { s with xlt := { s.xlt with mqHead := head % 4096 } })

/-- Where the rows of homes, fetches and evictions complete (R52, R75, R89, R93 to R96). -/
def Obligations.HomeFetchAndEvictionRowsComplete : Prop :=
  (∀ (s : State) (i : Nat) (f : Fly) (obs : LineObs) (base : Nat) (al : Alloc) (s0 s1 s2 : State), s.runs →
    s.coh.fly[i]? = some f →
    ((s.coh.fly.take i).any (fun g => sameThreadLine g.req f.req)) = false → f.req.op = .rdNc →
    s0 = sramMet obs { s with coh := { s.coh with fly := dropAt i s.coh.fly } } → s1 = ordered f.req.id s0 →
    s2 = lineRead f.req.off obs s1 →
    homeCheck s1 f.req.ctx f.req.off false = none → homeCheck s1 f.req.ctx (f.req.off + (f.req.len - 1)) false = none →
    mayCross s1 f.req.who f.req.ctx f.req.off = true → allocAt s1 f.req.off = some (base, al) → al.tier = .hbm →
    exec (.homeAccess i obs) s = .next (repick (((allocAt s0 f.req.off).map (fun x => x.2.part)).getD 20)
      (deliver f.req .done (storeBytes s2 f.req.off f.req.len) ((linesOf f.req.off f.req.len).any (poisoned s2)) false s2))) ∧
  (∀ (s : State) (p : Nat) (pt : Part), s.runs → partOf s p = some pt → (partCells s p).all (idleWindow s) = true →
    pt.q < poolUsed s p + evictReserve pt →
    exec (.idleEviction p) s = .next (evictOne p (pt.cells.headD 0) s)) ∧
  (∀ (s : State) (b ch : Nat) (ts : List Nat) (x : Block), s.runs → tget b s.store.blocks = some x →
    x.lower = some (.flash ch ts) → x.st = .fetching → x.waitSince = none →
    exec (.fetchUnitLanded b ((x.first + x.landed.length) % 4) 0 []) s =
      .next (landUnit b ((x.first + x.landed.length) % 4) (poisonContent [] (cnt (fchReg ch 0x28) 0
        (targetAlive ch (ts.getD ((x.first + x.landed.length) % 4) 0) (cnt (fchReg ch 0x18) 1 s)))))) ∧
  (∀ (s : State) (b : Nat) (x : Block), s.runs → tget b s.store.blocks = some x → x.st = .evicting → noOwners s b = true →
    (∀ ch ts, x.lower = some (.flash ch ts) → gcState (s.store.flash.getD ch {}) ≠ 3 →
      exec (.evictionWriteDone b) s = .next (toLower b (programUnits ch 4 s))) ∧
    (∀ e, x.lower = some (.host e) → s.host.linkUp = true →
      exec (.evictionWriteDone b) s = .next (toLower b (emit (.hostBlk e b (x.epoch + 1))
        { s with store := { s.store with blocks := tput b { x with epoch := x.epoch + 1 } s.store.blocks } })))) ∧
  (∀ (s : State) (b : Nat) (x : Block), s.runs → tget b s.store.blocks = some x → x.st = .evicting →
    exec (.evictionWriteFail b) s = .next (repick (blockPart
        { s with store := { s.store with blocks := tput b { x with st := .hbm, lower := none, lowerValid := false } s.store.blocks } } x)
      (evMemory 7 (b * 65536) 0 1 3 { s with store := { s.store with
        blocks := tput b { x with st := .hbm, lower := none, lowerValid := false } s.store.blocks } }))) ∧
  (∀ (s : State) (b : Nat), s.runs → s.store.shoot.any (fun x => x.block = b) = true →
    exec (.shootdownComplete b) s = .next (frameFreed { s with store := { s.store with
      shoot := s.store.shoot.filter (fun x => x.block != b) } })) ∧
  (∀ (s : State) (u : Nat) (x : BufUnit), s.runs → tget u s.store.buf = some x →
    (x.lines.length = 256 → exec (.flashBufferProgram u) s = .next (programUnits (unitChannel s u) 1
      { s with store := { s.store with buf := tdel u s.store.buf } })) ∧
    (x.lines.length ≠ 256 → ∃ t, exec (.flashBufferProgram u) s = .next t ∧ t.store.buf = tdel u s.store.buf ∧
      x.since + 1000000 ≤ t.now))

/-- Where the rows of tier failures, upkeep and scrub complete (R78, R79, R82, R99, R100, R102, R103). -/
def Obligations.LowerTierFailureAndUpkeepRowsComplete : Prop :=
  (∀ (s : State) (ch target eb : Nat), s.runs → ch < 20 → target < 16 →
    (s.store.flash.getD ch {}).admitted.getLsbD target = true →
    ∃ t, exec (.flashProgramFail ch target eb) s = .next t ∧ t = ledgerAdd
      { type := 0x08, cause := 4, cell := ch, target := target, object := eb } none
      (evFlash 2 ch target eb (cnt (fchReg ch 0x50) 1
        (updFlash ch (fun f => { f with bad := f.bad + 1, erased := f.erased - f.perBlock }) s)))) ∧
  (∀ (s : State) (b unit : Nat) (x : Block), s.runs → tget b s.store.blocks = some x → x.st = .fetching →
    x.waitSince = none →
    (∀ ch ts, x.lower = some (.flash ch ts) → x.landed.contains unit = false →
      exec (.flashTimeout (.fetch b unit)) s = .next (targetTimeout ch (ts.getD unit 0)
        (failBlock b (reach (x.issued + s.store.flashTimeout) s)))) ∧
    (∀ e, x.lower = some (.host e) → s.store.hostDownSince = none →
      exec (.hostTimeout (.fetch b unit)) s = .next (failExtent e
        (failBlock b (reach (x.issued + s.store.hostTimeout) s))))) ∧
  (∀ (s : State) (b e : Nat) (x : Block), s.runs → tget b s.store.blocks = some x → x.lower = some (.host e) →
    x.st = .fetching → x.waitSince = none → s.host.linkUp = true →
    exec (.hostReadCompletion (.fetch b ((x.first + x.landed.length) % 4)) true [] []) s =
      .next (landUnit b ((x.first + x.landed.length) % 4) (poisonContent [] s))) ∧
  (∀ (s : State) (ch moved : Nat) (er : List Nat), s.runs → ch < 20 → gcState (s.store.flash.getD ch {}) ≠ 0 →
    (gcState (s.store.flash.getD ch {}) = 1 → idleWindow s ch = true) →
    exec (.garbageCollection ch moved er) s = .next (releaseWrites ch (cnt (fchReg ch 0x38) moved (updFlash ch (fun f =>
      { f with erased := min (f.good * 4) (f.erased + er.length * f.perBlock),
               wear := er.foldl (fun w b => tput b (tgetD w b 0 + 1) w) f.wear,
               gcUnits := f.gcUnits + moved }) s)))) ∧
  (∀ (s : State) (ch eb : Nat), s.runs → ch < 20 → 256 < wearSpread (s.store.flash.getD ch {}) → idleWindow s ch = true →
    (tget eb (s.store.flash.getD ch {}).wear).isSome = true →
    exec (.wearLevelling ch eb) s =
      .next (cnt (fchReg ch 0x38) 1 (updFlash ch (fun f => { f with gcUnits := f.gcUnits + 1 }) s))) ∧
  (∀ (s : State) (c row line : Nat) (progress : BitVec 32), s.runs → c < 20 → (s.store.stks.getD c {}).ready = true →
    exec (.hbmPatrolScrub c row line .clean progress) s = .next (updStack c (fun x => { x with
      progress := progress.toNat
      passes := x.passes + b2n (decide (progress.toNat < (s.store.stks.getD c {}).progress)) }) s)) ∧
  (∀ (s : State) (c row : Nat), s.runs → c < 20 → 3 ≤ rowStreak (s.store.stks.getD c {}) row → idleWindow s c = true →
    ((s.store.stks.getD c {}).spared < spareRows c →
      exec (.rowSpare c row) s = .next (ledgerAdd { type := 0x05, cause := 3, cell := c, object := row } none
        (updStack c (fun x => { x with spared := x.spared + 1 })
          (updStack c (fun x => { x with rows := tdel row x.rows }) s)))) ∧
    (spareRows c ≤ (s.store.stks.getD c {}).spared →
      exec (.rowSpare c row) s = .next (ledgerAdd { type := 0x06, cause := 3, cell := c, object := row } none
        (evMemory 4 row c (rowFrames c row) 3 (updStack c (fun x => { x with retired := x.retired + rowFrames c row })
          (updStack c (fun x => { x with rows := tdel row x.rows }) s)))))) ∧
  (∀ (s : State) (ch : Nat), s.runs → ch < 20 → (s.store.flash.getD ch {}).censusDone = true →
    exec (.flashPatrol ch 0 true) s = .next (programUnits ch 1 (cnt (fchReg ch 0x18) 1 s)) ∧
    exec (.flashPatrol ch 0 false) s = .next (cnt (fchReg ch 0x18) 1 s))

/-- Where the rows of lost agents, held beacons, posted writes and sync waits complete (R122, R124, R125, R127, R145, R146,
R152). -/
def Obligations.AgentsHostWritesAndWaitsComplete : Prop :=
  (∀ (s : State) (line : Nat) (x : Snoop), s.runs → s.coh.snoops.filter (fun x => x.line = line) = [x] →
    exec (.snoopTimeout line) s = .next (resumePublish (agentLost x.port (reach (x.since + 10000) s)))) ∧
  (∀ (s : State) (p id : Nat) (x : Stream) (b : Beacon), s.runs → strOf s p id = some x → x.bcn = some b →
    (beaconState s p x = some .done → exec (.beaconRelease p id) s =
      .next (beaconDone p id x (applyBeacon x.ctx b.target b.opnd s).1 (applyBeacon x.ctx b.target b.opnd s).2)) ∧
    (∃ t, exec (.beaconHoldExpiry p id) s = .next t ∧ ∃ st, (st = Status.timeout ∨ st = Status.checkFail) ∧
      t = beaconDone p id x st (cnt (cellReg (beaconCell (reach (b.since + s.sync.beaconHold) s) b.target) 0x520) 1
        (reach (b.since + s.sync.beaconHold) s)))) ∧
  (∀ (s : State) (id : Nat) (w : HeldWr), s.runs → s.coh.heldWr.find? (fun x => x.1.id = id) = some (w, []) →
    exec (.hostWrite id) s = .next (landPosted w
      { s with coh := { s.coh with heldWr := s.coh.heldWr.filter (fun x => x.1.id != id) } })) ∧
  (∀ (s : State) (i : Nat) (w : TWait), s.runs → s.sync.waiters[i]? = some w →
    exec (.waitTimeout i) s = .next (endWait w .timeout (dropWaiter i (reach (w.since + w.timeout * 10) s))) ∧
    (w.poll = true → waitHolds w.op (tallyAt s w.word) w.operand = true →
      exec (.waitPoll i) s = .next (endWait w .done (dropWaiter i s)))) ∧
  (∀ (s u0 u1 : State) (i : Nat) (w : FWait), s.runs → s.sync.feq[i]? = some w →
    u0 = { reach (w.since + w.timeout * 10) s with sync := { s.sync with feq := dropAt i s.sync.feq } } →
    u1 = feServe u0.sync.feq.length (w.line * 64) (feOf u0 (w.line * 64) != feEmpty) u0 →
    exec (.feWaitTimeout i) s =
      .next (endFe w .timeout [] false (cnt (cellReg (homeCell u1 (w.line * 64)) 0x628) 1 u1)))

/-- Where the rows of the Stage and the itinerary complete (R159 to R165, R170, R462, R513). -/
def Obligations.StageRowsComplete : Prop :=
  (∀ (s : State) (edge width : Nat), s.runs → 20 ≤ width → s.stg.st = .acquire → s.stg.seen = false →
    ∃ t, exec (.pulse edge width) s = .next t ∧ t.stg = { s.stg with seen := true, good := 1, date := edge * 840, intervals := [] } ∧
      edge * 10 + 20 ≤ t.now ∧ t.store = s.store) ∧
  (∀ (s : State) (edge width : Nat), s.runs → 20 ≤ width → s.stg.st = .locked → s.stg.date ≤ edge * 840 →
    edge * 840 * 10000 ≤ windowEnd s.stg →
    within (edge * 840 - s.stg.date) (est840 s.stg) s.stg.run.window (est840 s.stg) = true →
    within (edge * 840 - s.stg.date) (s.stg.run.nominal * 840) s.stg.run.window (s.stg.run.nominal * 840) = true →
    s.stg.lastFly = true →
    exec (.pulse edge width) s = .next (pulseTaken edge (reach (edge * 10 + 20) s))) ∧
  (∀ s u : State, s.runs → stgRuns s = true → u = reach ((windowEnd s.stg + 840000 - 1) / 840000 + 20) s →
    (s.stg.run.flywheel < s.stg.missed + 1 → exec .windowClose s = .next (stageLost u)) ∧
    (s.stg.missed + 1 ≤ s.stg.run.flywheel → s.stg.run.outmode ≠ 2 → exec .windowClose s =
      .next (boundary (s.stg.date + est840 s.stg) true (cnt 0x30050 1
        (updStg (fun g => { g with st := .flywheel, missed := g.missed + 1 }) u))))) ∧
  (∀ (s u : State) (p i : Nat) (e : Entry), s.runs → entryOf s p i = some e → tget i (itinOf s p).ents = some .due →
    u = reach (phaseTime s e.start) s → entryWaits u p i e = true → unitsFree u p e = true → entryBehind u p i e = false →
    exec (.entryStart p i) s = .next (entryEnded p (some i) (entryIssue p i e (updItin p (fun t => { t with
      ents := tput i .started t.ents, started := t.started + 1, delayed := t.delayed + b2n (decide (e.start < phase u)) }) u)))) ∧
  (∀ (s : State) (p i : Nat) (e : Entry), s.runs → entryOf s p i = some e → e.deadline ≠ 65535 →
    (tget i (itinOf s p).ents = some .due ∨ tget i (itinOf s p).ents = some .started) →
    exec (.entryDeadline p i) s = .next (entryDrop p i e (reach (phaseTime s (e.deadline + 1)) s))) ∧
  (∀ (s u : State) (p : Nat) (r : Report) (rest : List Report) (x : Part), s.runs → (itinOf s p).reports = r :: rest →
    u = evqLost p (updItin p (fun t => { t with reports := rest }) s) → partOf u p = some x → x.evq.dropped = 0 →
    evqRoom u x.evq (reportRecords u p r).length = true →
    exec (.periodReport p) s = .next ((reportRecords u p r).foldl (fun s y => evqPost p y.1 0 y.2 s) u)) ∧
  (∀ (s : State) (master : BitVec 64), s.runs → s.host.linkUp = true → exec (.ptmRefresh master) s =
    .next { s with stg := { s.stg with ptm := some (s.now, (master.toNat : Int) - (s.now : Int)), ptmValid := true } }) ∧
  (∀ (s : State) (t : Nat) (o : Int), s.runs → s.stg.ptm = some (t, o) → exec .ptmContextExpiry s =
    .next { reach (t + 10000001) s with stg := { s.stg with ptmValid := false } }) ∧
  (∀ (s : State) (gen : BitVec 32), s.barOpen → s.parts.mgmtOwned.contains 0x70001 = false → gen = s.stg.gen + 1 →
    stgCfgOk s s.stg.shadow = true →
    exec (.stgCommit gen) s = .next (stgApply s.stg.shadow { s with stg := { s.stg with gen := gen } })) ∧
  (∀ s : State, s.barOpen → exec .stgCommitErrClear s = .next { s with stg := { s.stg with err := false } })

/-- Where the integer, branch and control instructions complete, and with what result (R181, R187, R188, R194). -/
def Obligations.ScalarInstructionsComplete : Prop :=
  (∀ (s : State) (t : Nat) (w : BitVec 32) (x : Thread), wOp w = 0 → wFn w < 0x18 →
    Fetched s t w x [ra w, rb w, rc w] .none →
    exec (.integerOp t w) s = .next (result t (ra w)
      (intOp (wFn w) (BitVec.ofNat 64 (x.read (rb w))) (BitVec.ofNat 64 (x.read (rc w))) (Config.freeNat s.fresh))
      (x.pois (rb w) || x.pois (rc w)) { issuing t w s with fresh := s.fresh + 1 })) ∧
  (∀ (s : State) (t : Nat) (w : BitVec 32) (x : Thread), 1 ≤ wOp w → wOp w ≤ 6 → Fetched s t w x [ra w, rb w] .none →
    exec (.integerOp t w) s =
      .next (result t (ra w) (immOp w (BitVec.ofNat 64 (x.read (rb w)))) (x.pois (rb w)) (issuing t w s))) ∧
  (∀ (s : State) (t : Nat) (w : BitVec 32) (x : Thread), wOp w = 7 → Fetched s t w x [ra w] .none →
    exec (.movk t w) s = .next (result t (ra w)
      (x.read (ra w) - x.read (ra w) / 2 ^ (16 * (wB w % 4)) % 65536 * 2 ^ (16 * (wB w % 4)) + wImm w * 2 ^ (16 * (wB w % 4)))
      (x.pois (ra w)) (issuing t w s))) ∧
  (∀ (s : State) (t : Nat) (w : BitVec 32) (x : Thread), wOp w = 0 → wFn w = 0x18 → Fetched s t w x [ra w] .none →
    exec (.mfts t w) s = .next (result t (ra w) x.ts.toNat false (issuing t w s))) ∧
  (∀ (s : State) (t : Nat) (w : BitVec 32) (x : Thread), wOp w = 0x21 → wFn w = 1 → Fetched s t w x [] .none →
    exec (.yieldOp t w) s = .next (nextPc t (issuing t w s))) ∧
  (∀ (s : State) (t : Nat) (w : BitVec 32) (x : Thread), wOp w = 0x21 → wFn w = 0 → Fetched s t w x [] .none →
    exec (.haltOp t w) s = .next (groupCheck x.group (updGrp x.group (fun g => { g with halted := g.halted + 1 })
      (updThr t (fun x => { x with st := .halted, pend := [] }) (issuing t w s))))) ∧
  (∀ (s : State) (t : Nat) (w : BitVec 32) (x : Thread), 8 ≤ wOp w → wOp w ≤ 0x0D → x.pois (ra w) = false →
    x.pois (rb w) = false → Fetched s t w x [ra w, rb w] .none →
    exec (.branch t w) s = .next
      (if taken (wOp w) (BitVec.ofNat 64 (x.read (ra w))) (BitVec.ofNat 64 (x.read (rb w)))
       then setPc t (x.pc + wImmS w * 4) (issuing t w s) else nextPc t (issuing t w s))) ∧
  (∀ (s : State) (t : Nat) (w : BitVec 32) (x : Thread), wOp w = 0x0E → Fetched s t w x [ra w] .none →
    exec (.jal t w) s = .next (setPc t (x.pc + wOffJ w * 4)
      (updThr t (fun y => y.write (ra w) (x.pc + 4).toNat false) (issuing t w s)))) ∧
  (∀ (s : State) (t : Nat) (w : BitVec 32) (x : Thread), wOp w = 0x0F → x.pois (rb w) = false →
    Fetched s t w x [ra w, rb w] .none →
    exec (.jalr t w) s = .next (setPc t ((BitVec.ofNat 64 (x.read (rb w)) + wImmS w) &&& ~~~3#64)
      (updThr t (fun y => y.write (ra w) (x.pc + 4).toNat false) (issuing t w s))))

/-- Where the memory instructions complete (R117, R184 to R188). -/
def Obligations.MemoryInstructionsComplete : Prop :=
  (∀ (s u : State) (t off : Nat) (w : BitVec 32) (x : Thread), 0x10 ≤ wOp w → wOp w ≤ 0x14 → x.pois (rb w) = false →
    Fetched s t w x [ra w, rb w] .access → u = issuing t w s →
    route u t { x with insn := w } (.load (loadForm (wOp w)).2) (effAddr x w) = .store off →
    exec (.loadOp t w) s = .next (nextPc t (issueLocal t [ra w]
      { who := .thread t (ra w) (loadForm (wOp w)).1, ctx := x.ctx, off := off, op := .rdS, len := (loadForm (wOp w)).2 } u))) ∧
  (∀ (s u : State) (t off : Nat) (w : BitVec 32) (x : Thread), wOp w = 0x19 → wA w < 16 → x.pois (rb w) = false →
    Fetched s t w x [.v (wA w), rb w] .access → u = issuing t w s →
    route u t { x with insn := w } .vload (effAddr x w) = .store off →
    exec (.vld t w) s = .next (nextPc t (issueLocal t [.v (wA w)]
      { who := .thread t (.v (wA w)) .vec, ctx := x.ctx, off := off, op := .rdS, len := 64 } u))) ∧
  (∀ (s u : State) (t off : Nat) (w : BitVec 32) (x : Thread), 0x15 ≤ wOp w → wOp w ≤ 0x18 → x.pois (rb w) = false →
    Fetched s t w x [ra w, rb w] .access → u = issuing t w s →
    route u t { x with insn := w } (.store (2 ^ (wOp w - 0x15))) (effAddr x w) = .store off →
    exec (.storeOp t w) s = .next (nextPc t (issueLocal t []
      { who := .thread t (.r 0) .d64, ctx := x.ctx, off := off, op := .wrCached, len := 2 ^ (wOp w - 0x15),
        data := leBytes (2 ^ (wOp w - 0x15)) (x.read (ra w)), poison := x.pois (ra w) } u))) ∧
  (∀ (s u : State) (t off : Nat) (w : BitVec 32) (x : Thread), wOp w = 0x1A → wA w < 16 → x.pois (rb w) = false →
    Fetched s t w x [.v (wA w), rb w] .access → u = issuing t w s →
    route u t { x with insn := w } .vstore (effAddr x w) = .store off →
    exec (.vst t w) s = .next (nextPc t (issueLocal t []
      { who := .thread t (.r 0) .d64, ctx := x.ctx, off := off, op := .wrCached, len := 64,
        data := leBytes 64 (x.read (.v (wA w))), poison := x.pois (.v (wA w)) } u))) ∧
  (∀ (s u : State) (t : Nat) (w : BitVec 32) (x : Thread), wOp w = 0x1B → wA w < 16 → wBits w 9 0 = 0 →
    x.pois (rb w) = false → x.pois (.v (wBits w 15 12)) = false →
    Fetched s t w x [.v (wA w), rb w, .v (wBits w 15 12)] .access → u = issuing t w s →
    (laneFault u t { x with insn := w } (.load (laneAddrs x w).1) (laneAddrs x w).2 = none →
      ∃ p, exec (.vgather t w) s = .next (result t (.v (wA w)) (vPack (8 * (laneAddrs x w).1)
        (((laneAddrs x w).2.map (fun a => a % 2 ^ 48)).map (fun o => leNat (bytesAt u.store.spad o (laneAddrs x w).1)))) p u)) ∧
    (laneFault u t { x with insn := w } (.store (laneAddrs x w).1) (laneAddrs x w).2 = none →
      exec (.vscatter t w) s = .next (nextPc t (spadStored t (x.pois (.v (wA w)))
        ((((laneAddrs x w).2.map (fun a => a % 2 ^ 48)).zip (vLanes (8 * (laneAddrs x w).1) (x.read (.v (wA w))))).foldl
          (fun s y => spadWrite y.1 (leBytes (laneAddrs x w).1 y.2) (x.pois (.v (wA w))) s) u))))) ∧
  (∀ (s u : State) (t off : Nat) (w : BitVec 32) (f : AtomOp) (x : Thread), wOp w = 0x1C → wBits w 5 4 ≠ 1 →
    x.pois (rb w) = false → x.pois (rc w) = false → x.pois (ra w) = false →
    Fetched s t w x [ra w, rb w, rc w] .release → u = issuing t w s →
    route u t { x with insn := w } (.atomic 8) (x.read (rb w)) = .spad off →
    exec (.atomicOp t w f) s = .next (result t (ra w) (leNat (bytesAt u.store.spad off 8))
      (tget (off / 64) u.store.spadPoison).isSome (spadStored t false (spadWrite off
        (leBytes 8 (atomicNew f (leNat (bytesAt u.store.spad off 8)) (x.read (rc w)) (x.read (ra w)) 8)) false u))))

/-- Where the tally, wait and full/empty instructions complete (R138 to R152, R187). -/
def Obligations.SyncInstructionsComplete : Prop :=
  (∀ (s u : State) (t word : Nat) (w : BitVec 32) (x : Thread), wOp w = 0x1D → x.pois (rb w) = false →
    x.pois (rc w) = false → tRsvdZero (BitVec.ofNat 64 (x.read (rc w))) = true →
    Fetched s t w x [ra w, rb w, rc w] .release → u = issuing t w s →
    route u t { x with insn := w } .tally (x.read (rb w)) = .sync word →
    (∃ v : State, v = tallyApply false word (BitVec.ofNat 64 (x.read (rc w))) x.ctx (park t (ra w) u) ∧
      exec (.tallyAdd t w) s = .next (threadSync t (ra w)
        (if tallyRefused u word (BitVec.ofNat 64 (x.read (rc w))) then .faultSync else .done) (some (tallyAt v word).toNat) false v)) ∧
    (∃ v : State, v = tallyApply true word (BitVec.ofNat 64 (x.read (rc w))) x.ctx (park t (ra w) u) ∧
      exec (.tallySub t w) s = .next (threadSync t (ra w)
        (if tallyRefused u word (BitVec.ofNat 64 (x.read (rc w))) then .faultSync else .done) (some (tallyAt v word).toNat) false v))) ∧
  (∀ (s u : State) (t word : Nat) (w : BitVec 32) (x : Thread), wOp w = 0x1D → x.pois (rb w) = false →
    Fetched s t w x [ra w, rb w] .release → u = issuing t w s →
    route u t { x with insn := w } .tally (x.read (rb w)) = .sync word →
    exec (.tallyRead t w) s = .next (threadSync t (ra w) .done (some (tallyAt u word).toNat) false (park t (ra w) u))) ∧
  (∀ (s u : State) (t word : Nat) (w : BitVec 32) (x : Thread), wOp w = 0x1D → x.pois (rb w) = false →
    x.pois (rc w) = false → x.pois (rd3 w) = false → tRsvdZero (BitVec.ofNat 64 (x.read (rc w))) = true →
    Fetched s t w x [ra w, rb w, rc w, rd3 w] .release → u = issuing t w s →
    route u t { x with insn := w } .tally (x.read (rb w)) = .sync word →
    exec (.waitGe t w) s = .next (waitStart .waitGe word (BitVec.ofNat 64 (x.read (rc w))) (x.read (rd3 w) % 2 ^ 32) x.ctx
      (.thread t (ra w)) (park t (ra w) u)) ∧
    exec (.waitEq t w) s = .next (waitStart .waitEq word (BitVec.ofNat 64 (x.read (rc w))) (x.read (rd3 w) % 2 ^ 32) x.ctx
      (.thread t (ra w)) (park t (ra w) u))) ∧
  (∀ (s u : State) (t word : Nat) (w : BitVec 32) (x : Thread), wOp w = 0x1D → x.pois (rb w) = false →
    x.pois (ra w) = false → x.pois (rd3 w) = false →
    Fetched s t w x [ra w, rb w, ra w, rd3 w] .release → u = issuing t w s →
    route u t { x with insn := w } .tally (x.read (rb w)) = .sync word →
    exec (.monitor t w) s = .next (waitStart .monitor word (BitVec.ofNat 64 (x.read (ra w))) (x.read (rd3 w) % 2 ^ 32) x.ctx
      (.thread t (ra w)) (park t (ra w) u))) ∧
  (∀ (s u : State) (t off : Nat) (w : BitVec 32) (x : Thread), wOp w = 0x1E → wA w < 16 → x.pois (rb w) = false →
    x.pois (rd3 w) = false → Fetched s t w x [.v (wA w), rb w, rc w, rd3 w] .release → u = issuing t w s →
    route u t { x with insn := w } .fe (x.read (rb w)) = .store off →
    ∀ req : FeOp → Bool → Req, (req = fun f wr =>
      { who := .thread t (.v (wA w)) .vec, ctx := x.ctx, off := (Sa.of (BitVec.ofNat 64 (x.read (rb w)))).off,
        op := .fe f (x.read (rd3 w) % 2 ^ 32), len := 64, data := if wr then leBytes 64 (x.read (.v (wA w))) else [],
        poison := wr && x.pois (.v (wA w)) }) →
    ∀ go : Req → State, (go = fun r => updThr t (fun x => { x with st := .parked, pc := x.pc + 4 }) (issueLocal t [.v (wA w)] r u)) →
    exec (.writeEf t w) s = .next (go (req .writeEf true)) ∧ exec (.readFe t w) s = .next (go (req .readFe false)) ∧
    exec (.readFf t w) s = .next (go (req .readFf false)) ∧ exec (.writeXf t w) s = .next (go (req .writeXf true)))

/-- Where the flush, issue, launch, vector and group rows complete (R114, R183, R191 to R197, R24). -/
def Obligations.IssueVectorAndGroupRowsComplete : Prop :=
  (∀ (s u : State) (t : Nat) (w : BitVec 32) (x : Thread), wOp w = 0x1F → wFn w = 0 → x.pois (rb w) = false →
    x.pois (rc w) = false → x.read (rc w) ≤ 2 ^ 40 → (Sa.of (BitVec.ofNat 64 (x.read (rb w)))).space = 0 →
    isOwn u (Sa.of (BitVec.ofNat 64 (x.read (rb w)))).dev = true →
    Fetched s t w x [rb w, rc w] .release → u = issuing t w s →
    exec (.flushRange t w) s = .next (nextPc t
      (flushCell (thrCell t) (Sa.of (BitVec.ofNat 64 (x.read (rb w)))).off (x.read (rc w)) u))) ∧
  (∀ (s : State) (t : Nat) (w : BitVec 32) (x : Thread), wOp w = 0x1F → wFn w = 1 → Fetched s t w x [] .release →
    exec (.isync t w) s = .next (nextPc t (issuing t w s))) ∧
  (∀ (s u : State) (t n : Nat) (w : BitVec 32) (x : Thread), wOp w = 0x20 → wFn w = 0 → x.pois (rb w) = false →
    x.pois (rc w) = false → Fetched s t w x [ra w, rb w, rc w] .release → u = issuing t w s →
    descFault u { x with insn := w } (x.read (rb w)) = none → n < 40 → x.read (rc w) = 0x2000 + n →
    (partCells u (thrPart u { x with insn := w })).contains (n / 2) = true →
    queuedAt u .matrix n (thrPart u { x with insn := w }) < 64 →
    exec (.issueOp t w) s = .next (result t (ra w) 0 false (updThr t (fun x => { x with ts := 0 })
      (enqueue .matrix n (thrPart u { x with insn := w }) (Sa.of (BitVec.ofNat 64 (x.read (rb w)))).off 0 1
        (thrEntry u { x with insn := w }) (some (t / 64)) false u)))) ∧
  (∀ (s u : State) (t n : Nat) (w : BitVec 32) (x : Thread) (v : (Status × Nat) × State), wOp w = 0x20 → wFn w = 1 →
    x.pois (rb w) = false → x.pois (rc w) = false → Fetched s t w x [ra w, rb w, rc w] .release → u = issuing t w s →
    descFault u { x with insn := w } (x.read (rb w)) = none → x.read (rc w) = n →
    v = launchMany (thrPart u { x with insn := w }) (Sa.of (BitVec.ofNat 64 (x.read (rb w)))).off n
      (thrEntry u { x with insn := w }) u → v.1.1 ≠ .busy →
    exec (.launchOp t w) s = .next (result t (ra w) v.1.1.code false
      (updThr t (fun x => { x with ts := BitVec.ofNat 8 v.1.1.code }) v.2))) ∧
  (∀ (s : State) (t : Nat) (w : BitVec 32) (f : VArith) (x : Thread), wOp w = 0x22 → wType w ≠ 7 → f ≠ .fma →
    Fetched s t w x [.v (wVd w), .v (wVs1 w), .v (wVs2 w)] .none →
    exec (.vectorArith t w f) s = .next (result t (.v (wVd w))
      (vArith f (wType w) (x.read (.v (wVs1 w))) (x.read (.v (wVs2 w))) (x.read (.v (wVs3 w))))
      (x.pois (.v (wVs1 w)) || x.pois (.v (wVs2 w))) { issuing t w s with fresh := s.fresh + 1 })) ∧
  (∀ (s : State) (t : Nat) (w : BitVec 32) (f : VConvert) (x : Thread), wOp w = 0x23 → wType w ≠ 7 → f ≠ .broadcast →
    Fetched s t w x [.v (wVd w), .v (wVs1 w)] .none →
    exec (.vectorConvert t w f) s = .next (result t (.v (wVd w))
      (vConvert f (wType w) [t, Config.freeNat s.fresh, w.toNat] (x.read (.v (wVs1 w)))) (x.pois (.v (wVs1 w)))
      { issuing t w s with fresh := s.fresh + 1 })) ∧
  (∀ (s : State) (t : Nat) (w : BitVec 32) (f : VReduce) (x : Thread), wOp w = 0x24 → wType w ≠ 7 → f ≠ .dot →
    Fetched s t w x [.v (wVd w), .v (wVs1 w)] .none →
    exec (.vectorReduce t w f) s = .next (result t (.v (wVd w))
      (vReduce f (wType w) [t, Config.freeNat s.fresh, w.toNat] (x.read (.v (wVs1 w))) (x.read (.v (wVs2 w))))
      (x.pois (.v (wVs1 w))) { issuing t w s with fresh := s.fresh + 1 })) ∧
  (∀ (s : State) (core i : Nat) (g : Group), s.runs →
    s.drv.groups.find? (fun x => x.2.core = core && x.2.st = .queued) = some (i, g) → tget i s.drv.groups = some g →
    s.drv.unbound.contains core = false → gThreads g.desc ≠ 0 → s.drv.due.contains core = false →
    (unitRec s .core (physOf s .core core)).testing = false → gThreads g.desc ≤ (ctxFree s core).length →
    ∃ t, exec (.groupStart core) s = .next t ∧
      tget i t.drv.groups = some { g with st := .running, phys := physOf s .core core
                                          threads := ((ctxFree s core).take (gThreads g.desc)).map (fun c => core * 64 + c) } ∧
      t.store = s.store) ∧
  (∀ (s : State) (i : Nat) (g : Group), s.runs → tget i s.drv.groups = some g → g.st = .ending →
    exec (.groupEnd i) s = .next (groupEnd i (g.threads.foldl (fun s t => serClose t s) s))) ∧
  (∀ (s : State) (l : Nat), s.runs → s.eng.due.contains l = true → runningOp s .matrix l = none →
    onlyTesting s .matrix (physOf s .matrix l) = false →
    exec (.unitRebind .matrix l) s = .next (rebindMatrix l (unitCause s (unitField .matrix (physOf s .matrix l))) s))

/-- Where the rows that start an engine operation complete (R215, R225, R269, R270, R281, R304, R326 to R328). -/
def Obligations.EngineStartRowsComplete : Prop :=
  (∀ (s s' : State) (u : Nat) (o o' : EngOp), Takes s .matrix u o → dOp (readDesc s o) ≠ 2 → dOp (readDesc s o) ≠ 3 →
    o' = takenOp s .matrix u o (fld (readDesc s o) 36 2 * fld (readDesc s o) 38 2) → matCheck o' s = none →
    (matRows o' (matBody o'.desc (o'.unit / 2))).2 ≠ 0 → takeShadows (matRun o' s) s = some s' →
    exec (.matmul u) s = .next (updOp o'.id (fun _ => matRun o' s) s')) ∧
  (∀ (s s1 s2 : State) (u t : Nat) (o o' : EngOp), Takes s .matrix u o → dOp (readDesc s o) = 2 →
    o' = takenOp s .matrix u o (fld (readDesc s o) 36 2) → ffnCheck o' s = none →
    t = min (ffnBody o'.desc).tmax (ffnCount s o'.ctx (ffnBody o'.desc)) →
    bulkOp o' o'.ctx (((ffnBody o'.desc).tokens t ++ (ffnBody o'.desc).weights).map (fun r => (r.1, r.2, false)))
      (ffnFlush o' (ffnBody o'.desc) t s) = (.ok, s1) →
    takeShadows (ffnRun o' t (ffnCount s o'.ctx (ffnBody o'.desc)) s1) s1 = some s2 →
    exec (.expertFfn u) s = .next (updOp o'.id (fun _ => ffnRun o' t (ffnCount s o'.ctx (ffnBody o'.desc)) s1) s2)) ∧
  (∀ (s s1 s2 s3 : State) (u : Nat) (lane : Lane) (o o' : EngOp) (m : Member) (b : AttB), Takes s .matrix u o →
    dOp (readDesc s o) = 3 → o' = takenOp s .matrix u o (attTotal (decide (o.slot = 0)) (readDesc s o)) → b = attBody o'.desc →
    o'.resolving = false → attMember s o'.part b.key = some m → attCheck o' m s = none → leaseCheck s m b = none → b.new = 0 →
    bulkOp o' o'.ctx ((b.inputs m.params).map (fun r => (r.1, r.2, false))) s = (.ok, s1) →
    bulkOp o' 0 (attRanges s1 o' b m) s1 = (.ok, s2) →
    takeShadows (attRun o' b m s2).1 (attRun o' b m s2).2 = some s3 →
    exec (.attend u lane) s = .next (updOp o'.id (fun _ => (attRun o' b m s2).1) s3)) ∧
  (∀ (s s1 s2 s3 : State) (u : Nat) (o o' o1 : EngOp) (x : PorIn) (got : Tab GotRow), Takes s .porter u o →
    dOp (readDesc s o) ≠ 0x11 → dOp (readDesc s o) ≠ 0x12 → o' = takenOp s .porter u o (porTotal (readDesc s o)) →
    porCheck o' s = none → porPrep o' s = .inl (x, o1, s1) → gatherRows x o1 s1 = (.ok, got, s2) →
    takeShadows (gatherRun x got o1 (gatherCount x o1.unit got s2)) (gatherCount x o1.unit got s2) = some s3 →
    exec (.gather u) s = .next (updOp o1.id (fun _ => gatherRun x got o1 (gatherCount x o1.unit got s2)) s3)) ∧
  (∀ (s s1 s2 s3 : State) (u : Nat) (o o' o1 : EngOp) (x : PorIn), Takes s .porter u o → dOp (readDesc s o) = 0x11 →
    o' = takenOp s .porter u o (porTotal (readDesc s o)) → porCheck o' s = none → porPrep o' s = .inl (x, o1, s1) →
    s2 = cnt (cellReg o1.unit 0xA28) x.b.count s1 → takeShadows (scatterBlocks (scatterRun x o1 s2)) s2 = some s3 →
    exec (.scatterAdd u) s = .next (updOp o1.id (fun _ => scatterRun x o1 s2) s3)) ∧
  (∀ (s s1 : State) (u : Nat) (o o' : EngOp) (b : PorB) (r : List Byte), Takes s .porter u o → dOp (readDesc s o) = 0x12 →
    o' = takenOp s .porter u o (porTotal (readDesc s o)) → porCheck o' s = none → b = porBody o'.desc →
    r = storeBytes s (saOff b.table) 64 →
    bulkOp o' o'.ctx (b.inputs.map (fun x => (x.1, x.2, false))) (porFlush o' b (tblOf r) s) = (.ok, s1) →
    rangePoison s1 b.idx (16 * b.count) = false →
    exec (.moveRows u) s = .next (moveRun o' r s1)) ∧
  (∀ (s s1 s2 : State) (u : Nat) (g : AsyObs) (o o' : EngOp) (b : AsyB) (x : Index), Takes s .assay u o →
    o' = { takenOp s .assay u o (asyTotal s o.part u o.id (readDesc s o)) with
           hold := if b.op = 0x22 then o.hold else some (idxKey o.part b.index, b.version x) } →
    b = asyBody (readDesc s o) → asyCheck (takenOp s .assay u o (asyTotal s o.part u o.id (readDesc s o))) s = none →
    idxOf s o.part b.index = some x →
    bulkOp o' o'.ctx ((b.inputs x).map (fun r => (r.1, r.2, false))) (asyFlush o' b x (updOp o'.id (fun _ => o') s)) = (.ok, s1) →
    (b.inputs x).any (fun r => rangePoison s1 r.1 r.2) = false → inIndexBad b x s1 = none →
    takeShadows (asyRun o' b x g s1).1 (asyRun o' b x g s1).2 = some s2 →
    (b.op ≠ 0x21 → b.op ≠ 0x22 → exec (.scan u g) s = .next (updOp o'.id (fun _ => (asyRun o' b x g s1).1) s2)) ∧
    (b.op = 0x21 → exec (.walk u g) s = .next (updOp o'.id (fun _ => (asyRun o' b x g s1).1) s2)) ∧
    (b.op = 0x22 → unitUnbound s .matrix (b.munit u) = false →
      exec (.rerank u g) s = .next (updOp o'.id (fun _ => (asyRun o' b x g s1).1) s2)))

/-- Where the rows that carry an engine operation on complete (R213, R264, R281, R332, R333). -/
def Obligations.EngineProgressRowsComplete : Prop :=
  (∀ (s s' : State) (u : Nat) (o : EngOp), s.runs → runningOp s .matrix u = some o → o.st = .running → dOp o.desc ≠ 3 →
    o.publish = false → bulkOp o o.ctx o.outRanges (dropShadows o s) = (.ok, s') →
    exec (.operationComplete .matrix u .pass {}) s = .next (endOp { o with shadowed := false } (o.check != .none)
      (landAll o (cnt (cellReg (o.cell s') 0x928) 0 (cnt (cellReg (o.cell s') 0x938) 0 s'))))) ∧
  (∀ (s s' : State) (unit : Nat) (o : EngOp) (u : RowUpd) (rest : List RowUpd) (t : Tbl), s.runs →
    runningOp s .porter unit = some o → o.st = .running → dOp o.desc = 0x11 → o.rows = u :: rest → o.publish = false →
    t = tblOf (storeBytes s (saOff (porBody o.desc).table) 64) →
    bulkOpStore o u.loc t.rb true (dropShadows o s) = (.ok, s') → isSyncLine s' u.loc = false →
    s'.store.shadow = s.store.shadow → rowAgents u.loc t.rb s' = [] →
    exec (.rowUpdate unit .pass) s = .next (routeUpd o.id o t u (updOp o.id (fun o => { o with rows := rest }) s'))) ∧
  (∀ (s s' : State) (k : Nat) (m : RowMove) (o : EngOp), s.runs → s.eng.moves.find? (fun m => m.id = k) = some m →
    m.st = .copying → tget m.op s.eng.ops = some o → bulkOpStore o m.dst m.rb true s = (.ok, s') → isSyncLine s' m.dst = false →
    exec (.moveSnapshotWritten k) s = .next (updMove m.id (fun m => { m with st := .replay }) (landRow o.ctx m.dst m.snap m.poison s'))) ∧
  (∀ (s : State) (k : Nat) (m : RowMove), s.runs → s.eng.moves.find? (fun m => m.id = k) = some m → m.st = .replay →
    (m.log = [] → exec (.moveReplay k) s = .next (updMove m.id (fun m => { m with st := .commit }) s)) ∧
    (∀ (i : Nat) (u : RowUpd) (rest : List (Nat × RowUpd)), m.log = (i, u) :: rest → m.held = [] →
      exec (.moveReplay k) s = .next (updMove m.id (fun m => { m with log := rest })
        (landRow (dCtx u.desc) m.dst (rowAdd u.desc (updTbl s u) u (storeBytes s m.dst m.rb)).1
          (u.poison || (linesOf m.dst m.rb).any (poisoned s)) s)))) ∧
  (∀ (s s1 s2 : State) (k : Nat) (m : RowMove), s.runs → s.eng.moves.find? (fun m => m.id = k) = some m → m.st = .commit →
    crc64 (storeBytes s m.src m.rb) = crc64 (storeBytes s m.dst m.rb) →
    s1 = updMove m.id (fun m => { m with st := .forward, held := [], log := [] }) (mapWrite m.ent false (m.seq + 1) m.dst s) →
    s2 = updOp m.op (fun o => { o with rowsDone := tupd m.item (fun r => (r.1, storeBytes s m.dst m.rb)) o.rowsDone })
      (releaseHeld { m with st := .forward } s1) →
    exec (.moveCommit k) s = .next (sweepMoves (cnt (cellReg (homeCell s2 m.src) 0xA40) 1
      (moveResult m.op m.item Status.done.code s2)))) ∧
  (∀ (s : State) (p n : Nat) (x : Index) (e : Nat × Nat) (rest : List (Nat × Nat)), s.runs → idxOf s p n = some x →
    x.repq = e :: rest → idleWindow s (x.chan (x.listPage e.1)) = true →
    exec (.repairQueueWork p n) s = .next (repairEdge p n e.1 e.2 (updIdx p n (fun x => { x with repq := rest }) s))) ∧
  (∀ (s s2 : State) (p n ch : Nat) (x y : Index), s.runs → idxOf s p n = some x → x.sweeping = true →
    x.channels.find? (fun c => !x.sweeping || !x.swept.contains c) = some ch → x.degree ≠ 0 → x.repq = [] →
    idleWindow s ch = true →
    s2 = updIdx p n (fun x => { x with swept := x.swept ++ [ch] }) ((sweepLists x ch).foldl (fun s k =>
      ((x.listOf k).filter (fun t => t != ones32)).foldl (fun s t => repairEdge p n k t s) s) s) →
    idxOf s2 p n = some y →
    (y.channels.all y.swept.contains = false → exec (.sweep p n) s = .next s2) ∧
    (y.channels.all y.swept.contains = true → exec (.sweep p n) s = .next (freeSlots y y.freeing
      (updIdx p n (fun x => { x with sweeping := false, swept := [], freeing := [], sweeps := x.sweeps + 1 }) s2))))

/-- Where the Depot's rows complete (R284 to R300). -/
def Obligations.DepotRowsComplete : Prop :=
  (∀ (s s1 : State) (p d key : Nat) (m : Member) (l : Lease), s.runs → memberOf s p d = some m → tget key m.leases = some l →
    l.role = .owner → l.sent = none → s1 = reach l.nextRenew s →
    exec (.leaseRenewalSend p d key) s = .next (askHome .renew p d key l.epoch none
      (updLease p d key (fun l => { l with sent := some s1.now, nextRenew := s1.now + m.params.lease * 250000 }) s1))) ∧
  (∀ (s : State) (port : Nat) (x : DepMsg) (m : Member) (h : HomeEnt), Homed s x m → tget x.key m.homes = some h →
    h.r.st = .held → h.r.owner = x.dev → h.r.ownerPart = x.sender → h.r.epoch = x.epoch →
    exec (.leaseRenewal port x) s = .next (sendAnswer .renew (some port) x (.granted x.epoch)
      (putHome x.part x.depot x.key { h.r with left := m.params.lease * 1000 } s))) ∧
  (∀ (s : State) (p d key e : Nat) (m : Member), s.runs → memberOf s p d = some m →
    exec (.renewalAnswer p d key (.granted e)) s = .next (updLease p d key (fun l => { l with acked := l.sent.getD l.acked, sent := none }) s)) ∧
  (∀ (s : State) (p d key : Nat) (m : Member) (l : Lease), s.runs → memberOf s p d = some m → tget key m.leases = some l →
    l.role = .owner → exec (.leaseEnd p d key) s = .next (leaseOver p d key (reach (m.leaseEnd l) s))) ∧
  (∀ (s : State) (p d key : Nat) (m : Member) (h : HomeEnt), s.runs → memberOf s p d = some m → tget key m.homes = some h →
    h.r.st ≠ .lost → (tget (homeSlot key) m.moving).isSome = false →
    exec (.homeExpiry p d key) s = .next (depCnt m key 0xB38 (putHome p d key { h.r with st := .lost, left := 0 }
      (reach (h.set + h.r.left * 1000) s)))) ∧
  (∀ (s : State) (p d key : Nat) (m : Member) (h : HomeEnt), s.runs → memberOf s p d = some m → tget key m.homes = some h →
    h.r.st = .lost → tget key m.leases = none →
    exec (.lostHoldExpiry p d key) s = .next (updMem p d (fun m => { m with homes := tdel key m.homes })
      (reach (h.set + m.params.lostHold * 1000000) s))) ∧
  (∀ (s s1 : State) (p d key : Nat) (m m' : Member) (l : Lease) (ls : List (Nat × List PageCopy)) (es : Tab (List LadEnt)) (ns : Tab Nat),
    s.runs → memberOf s p d = some m → tget key m.leases = some l → l.role = .taking → l.committing = false →
    isOwn s l.src.1 = false →
    ls.all (fun y => y.2.all (fun g => pageDigest m.params (padTo 262144 g.data) g.tokens = g.digest)) = true →
    landLayers m.params ls m s = (some (es, ns, m'), s1) →
    exec (.handoffCopyDone (.taker p d key true ls)) s = .next (askHome .commit p d key l.epoch none (updMem p d (fun m =>
      { m with used := m'.used, leases := tput key { l with layers := es, lens := ns, committing := true, since := s1.now } m.leases }) s1))) ∧
  (∀ (s : State) (port : Nat) (x : DepMsg) (m : Member) (h : HomeEnt), Homed s x m → tget x.key m.homes = some h →
    h.r.st = .taking → h.r.taker = x.dev → h.r.takerPart = x.sender → x.epoch = h.r.epoch + 1 →
    exec (.handoffCommit port x) s = .next (sendAnswer .commit (some port) x (.granted x.epoch)
      (tellDiscard x.depot x.key h.r.owner h.r.ownerPart (depCnt m x.key 0xB48 (putHome x.part x.depot x.key
        { epoch := x.epoch, owner := x.dev, ownerPart := x.sender, st := .held, left := m.params.lease * 1000 } s))))) ∧
  (∀ (s : State) (p d key e : Nat) (m : Member), s.runs → memberOf s p d = some m →
    exec (.commitAck p d key (.granted e)) s = .next (becomeOwner p d key e s)) ∧
  (∀ (s : State) (p d key : Nat) (m : Member) (l : Lease), s.runs → memberOf s p d = some m → tget key m.leases = some l →
    l.role = .released → exec (.sourceDiscard p d key) s = .next (dropLease p d key .notOwner s)) ∧
  (∀ (s s1 : State) (p d key : Nat) (m : Member) (l : Lease), s.runs → memberOf s p d = some m → tget key m.leases = some l →
    l.role = .released → s1 = reach (l.since + m.params.handoff * 1000) s →
    exec (.resolve p d key) s = .next (askHome .resolve p d key l.epoch none (depCnt m key 0xB40
      (updMem p d (fun m => { m with resolving := tput key (tgetD m.resolving key s1.now) m.resolving }) s1)))) ∧
  (∀ (s : State) (p d key t : Nat) (r : Option HomeRec) (m : Member), s.runs → memberOf s p d = some m →
    tget key m.resolving = some t →
    exec (.resolveAnswer p d key (.found r)) s = .next (updMem p d (fun m => { m with resolving := tdel key m.resolving })
      (onAnswer .resolve p d key (.found r) s))) ∧
  (∀ (s : State) (p d key : Nat) (r : HomeRec) (m : Member) (v : SlotMove), s.runs → memberOf s p d = some m →
    tget (homeSlot key) m.moving = some v → v.sending = false →
    exec (.homeRecordsReceived p d [(key, r)]) s = .next (putHome p d key r s)) ∧
  (∀ (s : State) (p d i : Nat) (m : Member) (v : SlotMove), s.runs → memberOf s p d = some m → tget i m.moving = some v →
    (v.sending = false → exec (.endMarker p d i) s = .next (slotOwned p d i s)) ∧
    (v.sending = true → exec (.recordsAcknowledged p d i) s = .next (slotSent p d i s))) ∧
  (∀ (s : State) (p d i : Nat) (m : Member) (h : DepHeld), s.runs → memberOf s p d = some m → m.held[i]? = some h →
    exec (.heldRequestTimeout p d i) s = .next (sendAnswer h.kind h.port h.m (.refused .busy)
      (updMem p d (fun m => { m with held := dropAt i m.held }) (reach (h.since + m.params.handoff * 1000) s))))

/-- Where the training, lane and remap rows of an edge port complete (R337 to R346). -/
def Obligations.EdgePortTrainingRowsComplete : Prop :=
  (∀ (s : State) (p n : Nat), Trains s p .detect → 4 ≤ n → exec (.partnerDetect p n) s = .next (enter p .eq s)) ∧
  (∀ (s : State) (p : Nat), Trains s p .detect →
    exec (.detectTimeout p) s = .next (enter p .detect (reach ((port s p).since + 100000000) s))) ∧
  (∀ (s : State) (p : Nat) (good : List Nat), Trains s p .eq → 4 ≤ (usable good (port s p)).length →
    exec (.eqDone p good) s = .next (enter p .align (updPort p (assign good) s))) ∧
  (∀ (s : State) (p : Nat), Trains s p .eq →
    exec (.eqTimeout p) s = .next (enter p .detect (reach ((port s p).since + 60000000) s))) ∧
  (∀ (s : State) (p : Nat), Trains s p .align → exec (.alignDone p) s = .next (enter p .auth s)) ∧
  (∀ (s : State) (p : Nat), Trains s p .align →
    exec (.alignTimeout p) s = .next (enter p .detect (reach ((port s p).since + 2000000) s))) ∧
  (∀ (s : State) (p : Nat), Trains s p .auth →
    exec (.linkAuthDone p true) s = .next (enter p .config s) ∧
    exec (.linkAuthDone p false) s = .next (evPort 0 p 0xFF (port s p).partner (goDown p 1 s))) ∧
  (∀ (s : State) (p : Nat), Trains s p .auth →
    exec (.authTimeout p) s = .next (enter p .detect (reach ((port s p).since + 5000000) s))) ∧
  (∀ (s s1 : State) (p dev tag : Nat) (c : Bool), Trains s p .config →
    s1 = updPort p (fun x => { x with partner := dev % 4096, psptag := tag % 4096 }) s → tag % 4096 = (port s1 p).cfg.sptag →
    exec (.configDone p dev tag c) s = .next (enterActive p (updPort p (fun x => { x with coherent := c && x.cfg.coherent }) s1))) ∧
  (∀ (s : State) (p : Nat), Trains s p .config →
    exec (.configTimeout p) s = .next (enter p .detect (reach ((port s p).since + 1000000) s))) ∧
  (∀ (s : State) (p : Nat) (good : List Nat), Trains s p .recover → (port s p).needEq = false →
    exec (.recoverDone p good) s = .next (cnt (portReg p 0x70) 1 (enterActive p (updPort p (fun x => { x with needEq := false }) s)))) ∧
  (∀ (s : State) (p : Nat), Trains s p .recover →
    exec (.recoverTimeout p) s = .next (enter p .detect (reach ((port s p).since + 10000000) s))) ∧
  (∀ (s : State) (p : Nat), Trains s p .active → exec (.fecLockLoss p) s = .next (leaveActive p .recover s)) ∧
  (∀ (s s1 : State) (p : Nat), Open s p → s1 = reach ((port s p).winAt + 1000000) s →
    exec (.laneSerWindow p) s = .next (((List.range 9).filter (fun l => serOver (port s p).cfg ((port s p).win.getD l 0))).foldl
      (fun s l => laneFails p l s) (updPort p (fun x => { x with win := List.replicate 9 0, winAt := s1.now }) s1))) ∧
  (∀ (s : State) (p lane : Nat), Open s p → exec (.clockRecoveryLoss p lane) s = .next (laneFails p lane s)) ∧
  (∀ (s : State) (p lane a b : Nat), Open s p → (port s p).spareUsed = false → lane < 8 → (port s p).subst = none →
    (port s p).cfg.remapEn = false → a = (port s p).lanes.getD lane lane → b = (port s p).lanes.getD 8 8 →
    exec (.substitute p lane) s = .next (cnt (portReg p 0x58) 1 (updPort p (fun y => { y with
      lanes := ((port s p).lanes.set lane b).set 8 a, spareUsed := true, subst := none, failed := (port s p).failed ||| (1#9 <<< a) }) s))) ∧
  (∀ (s : State) (p seq : Nat), s.runs → p < 8 → (port s p).remapPend = true → seq = (port s p).remapSeq →
    exec (.remapAnswer p seq 0) s = .next (updPort p (fun x => { x with remapEq := true }) s)) ∧
  (∀ (s : State) (p : Nat), s.runs → p < 8 → (port s p).remapPend = true → (port s p).remapEq = false → (port s p).remapTries = 1 →
    exec (.remapTimeout p) s = .next (remapAsk p (updPort p (fun y => { y with remapTries := 2, remapSeq := ((port s p).remapSeq + 1) % 256 })
      (reach ((port s p).remapAt + 50000000) s)))) ∧
  (∀ (s : State) (p : Nat), s.runs → p < 8 → (port s p).remapEq = true →
    exec (.spareEqDone p) s = .next (cnt (portReg p 0x60) 1 (updPort p (fun y => { y with
      remapEq := false, remapPend := false, spareUsed := false,
      failed := (port s p).failed &&& ~~~(1#9 <<< (port s p).remapLane) }) s)))

/-- Where the flit and message rows of an edge port complete (R342 to R348). -/
def Obligations.LinkMessageRowsComplete : Prop :=
  (∀ (s u : State) (p : Nat) (f : Flit), Open s p → f.crc = true → f.ftype ≤ 3 → f.cclass ≤ 3 → f.tag = true →
    BitVec.ofNat 20 f.seq = (port s p).rxSeq → f.sptag = (port s p).cfg.sptag → u = flitNote p f s →
    exec (.flitReceive p f) s = .next (flitAck p f (flitStep p f (if f.ftype = 0 then u else cnt (portReg p 0x20) 1 u)))) ∧
  (∀ (s : State) (p seq n : Nat) (l : List (BitVec 20 × Msg)), Open s p →
    n = (if (port s p).retrySeq = BitVec.ofNat 20 seq then (port s p).retries + 1 else 1) → n < 8 →
    l = (port s p).replay.dropWhile (fun r => r.1 != BitVec.ofNat 20 seq) →
    exec (.retry p seq) s = .next (l.foldl (fun s r => put (.link p r.2) s) (cnt (portReg p 0x40) l.length
      (updPort p (fun x => { x with retrySeq := BitVec.ofNat 20 seq, retries := n }) s)))) ∧
  (∀ (s : State) (p : Nat), Open s p →
    exec (.keyupdate p false) s = .next (pump p (updPort p (fun x => { x with keys := x.keys + 1, nonce := 0 }) s))) ∧
  (∀ (s : State) (p : Nat), Open s p → (port s p).rxCount ≠ 0 → (port s p).rxHeld = [0, 0, 0, 0] →
    exec (.flitAckSend p) s = .next (emit (.ctl p 4 ((port s p).rxSeq - 1).toNat)
      (updPort p (fun x => { x with rxCount := 0, rxHeld := [0, 0, 0, 0] }) s))) ∧
  (∀ (s u : State) (p tag ctx : Nat) (a : Addr), Open s p → (port s p).coherent = true →
    (creditLeft s p .rdS [] → u = heard p .rdS [] s →
      exec (.rdS p tag ctx a) s = .next (linkReq p tag ctx a .rdS [] [] u)) ∧
    (creditLeft s p .rdM [] → u = heard p .rdM [] s →
      exec (.rdM p tag ctx a) s = .next (linkReq p tag ctx a .rdM [] [] u)) ∧
    (creditLeft s p .upgM [] → u = heard p .upgM [] s →
      exec (.upgM p tag ctx a) s = .next (linkReq p tag ctx a .upgM [] [] u))) ∧
  (∀ (s u : State) (p tag ctx off : Nat) (a : Addr) (d : List Byte) (e : DirEnt), Open s p → (port s p).coherent = true →
    agentLine u p ctx a = some off → tget (off / 64) u.coh.dir = some e → e.m = true → e.owner = 0x40 + p →
    (creditLeft s p .wb [] → u = heard p .wb [] s → homeCheck u ctx off true = none →
      exec (.wb p tag ctx a d) s = .next (emit (.link p { kind := .rspAck, tag := tag, ctx := ctx, status := 0, args := [u.parts.devNo] })
        { landLine off (padTo 64 d) [] false u with coh := { u.coh with dir := tdel (off / 64) u.coh.dir } })) ∧
    (creditLeft s p .evict [] → u = heard p .evict [] s → homeCheck u ctx off false = none →
      exec (.evict p tag ctx a) s = .next (emit (.link p { kind := .rspAck, tag := tag, ctx := ctx, status := 0, args := [u.parts.devNo] })
        { u with coh := { u.coh with dir := tdel (off / 64) u.coh.dir } }))) ∧
  (∀ (s u : State) (p tag ctx : Nat) (a : Addr) (d : List Byte) (m : BitVec 64), Open s p →
    (creditLeft s p .rdNc [] → u = heard p .rdNc [] s →
      exec (.rdNc p tag ctx a) s = .next (linkReq p tag ctx a .rdNc [] [] u)) ∧
    (creditLeft s p .wrLine [] → u = heard p .wrLine [] s →
      exec (.wrLine p tag ctx a d) s = .next (linkReq p tag ctx a .wrInv (padTo 64 d) [] u)) ∧
    (creditLeft s p .wrPart [] → u = heard p .wrPart [] s →
      exec (.wrPart p tag ctx a d m) s = .next (linkReq p tag ctx a .wrInv (padTo 64 d) ((List.range 64).map m.getLsbD) u))) ∧
  (∀ (s u t : State) (p tag ctx w : Nat) (sa v : BitVec 64) (sub : Bool) (lim : BitVec 32), Open s p → w = (Sa.of sa).off / 8 →
    syncCheck u p ctx sa = none →
    (creditLeft s p .syncUpd [] → u = heard p .syncUpd [] s → t = tallyApply sub w v ctx u → tallyRefused u w v = false →
      exec (.syncUpd p tag ctx sa v sub) s = .next (emit (.link p { kind := .rspSync, tag := tag, ctx := ctx, status := 0, args := [(tallyAt t w).toNat] }) t)) ∧
    (creditLeft s p .syncRd [] → u = heard p .syncRd [] s →
      exec (.syncRd p tag ctx sa) s = .next (emit (.link p { kind := .rspSync, tag := tag, ctx := ctx, status := 0, args := [(tallyAt u w).toNat] }) u)) ∧
    (creditLeft s p .syncWait [] → u = heard p .syncWait [] s → u.sync.feMode = false →
      exec (.syncWait p tag ctx sa v lim 0) s = .next (waitStart .waitGe w v (lim.toNat % 2 ^ 32) ctx (.remote p tag) u) ∧
      exec (.syncWait p tag ctx sa v lim 1) s = .next (waitStart .waitEq w v (lim.toNat % 2 ^ 32) ctx (.remote p tag) u) ∧
      exec (.syncWait p tag ctx sa v lim 2) s = .next (waitStart .monitor w v (lim.toNat % 2 ^ 32) ctx (.remote p tag) u))) ∧
  (∀ (s u : State) (p tag ctx : Nat) (sa : BitVec 64) (f : FeOp) (lim : BitVec 32) (d : List Byte), Open s p →
    creditLeft s p .feOp [] → u = heard p .feOp [] s → u.sync.feMode = true → (Sa.of sa).off % 64 = 0 →
    exec (.feOp p tag ctx sa f lim d) s = .next (linkReq p tag ctx (.sa sa) (.fe f (lim.toNat % 2 ^ 32)) (padTo 64 d) [] u)) ∧
  (∀ (s : State) (p line : Nat) (e : DirEnt), s.runs → p < 8 → tget line s.coh.dir = some e → (agentsOf e).contains p = true →
    exec (.snpInv p line) s = .next (snoop line [p] true { who := .migration, ctx := 0, off := line * 64, op := .rdNc, len := 64 } s) ∧
    (e.m = true → exec (.snpShr p line) s =
      .next (snoop line [p] false { who := .migration, ctx := 0, off := line * 64, op := .rdNc, len := 64 } s))) ∧
  (∀ (s u : State) (p tag n : Nat) (r : Remote) (d : List Byte) (z : Bool) (v : BitVec 64), Open s p →
    tget tag (port u p).tags = some r →
    (creditLeft s p .rspData [] → u = heard p .rspData [] s →
      exec (.rspData p tag d z) s = .next (remoteEnd r .done (padTo 64 d) z none (freeTag p tag u))) ∧
    (creditLeft s p .rspAck [] → u = heard p .rspAck [] s →
      exec (.rspAck p tag) s = .next (remoteEnd r .done [] false none (freeTag p tag u))) ∧
    (creditLeft s p .rspFault [] → u = heard p .rspFault [] s → (statusOf n).ok = false →
      exec (.rspFault p tag n) s = .next (remoteEnd r (statusOf n) [] false none (freeTag p tag u))) ∧
    (creditLeft s p .rspSync [] → u = heard p .rspSync [] s →
      exec (.rspSync p tag n v) s = .next (remoteEnd r (statusOf n) [] false (some v.toNat) (freeTag p tag u)))) ∧
  (∀ (s u v : State) (p line : Nat) (z : Bool) (x : Snoop), Open s p → creditLeft s p .rspSnp [] → u = heard p .rspSnp [] s →
    u.coh.snoops.find? (fun x => x.line = line && x.port = p) = some x → tget line u.coh.dir = none →
    v = { u with coh := { u.coh with snoops := u.coh.snoops.filter (fun y => !(y.line = line && y.port = p)) } } →
    exec (.rspSnp p line none z) s = .next (resumePublish (serveAll x.reqs v)))

/-- Where the caravan and Serai rows complete (R124, R350 to R375). -/
def Obligations.CaravanAndSeraiRowsComplete : Prop :=
  (∀ (s : State) (p : Nat), s.runs → p < 8 → (port s p).fenceLog = true → (port s p).fenceElec = false →
    exec (.electricalFence p) s = .next (fencesDone (updPort p (fun x => { x with fenceElec := true, width := 0 }) (leaveActive p .fenced s)))) ∧
  (∀ (s s1 : State) (u id : Nat) (host : Option (List Byte)) (o : EngOp), s.runs → tget id s.eng.ops = some o → o.kind = .port →
    o.unit = u → o.st = .queued →
    s.eng.ops.any (fun x => decide (x.1 < id) && x.2.kind = .port && x.2.unit = u && x.2.part = o.part && x.2.st = .queued) = false →
    carsRunning s .port u o.part < 16 → s1 = updOp id (fun o => { o with st := .running, phys := u }) s →
    exec (.caravanStart .port u id host) s = .next (nextLeg id host { s1 with car := { s1.car with
      cars := tput id { id := id, kind := .port, unit := u, part := o.part, ctx := 0, fclass := 0, first := o.sa, next := o.sa } s1.car.cars } })) ∧
  (∀ (s s1 : State) (u id i : Nat) (host : Option (List Byte)) (o : EngOp) (c : Caravan) (d : List Byte) (r : SrcRead), s.runs →
    tget id s.eng.ops = some o → o.kind = .port → o.unit = u → o.st ≠ .queued → carOf s id = some c → c.kind = .port → c.unit = u →
    (List.range c.legs.length).find? (fun i => (legAt c i).st = .waiting) = some i → d = (legAt c i).desc →
    portActive s u = true → lPull s d = false → lHost d = false → lKind d ≠ 4 →
    readPieces c.ctx c.part (lPieces d) (legFlush c d s) = (r, s1) → r.res = .ok →
    exec (.caravanStart .port u id host) s = .next (pushLeg c i (legAt c i) r s1)) ∧
  (∀ (s u : State) (p : Nat) (m : Msg), Open s p → creditLeft s p .openStream [] → u = heard p .openStream [] s →
    strOf u p m.tag = none → isOwn u (Sa.of m.sa).dev = true → (Sa.of m.sa).space = 0 → admits u m.ctx p = true →
    holdsSlot u ((ctxPart u m.ctx).getD 20) p = true → bit (m.args.getD 1 0) 3 = false →
    ∃ x, exec (.openStream p m) s = .next { u with car := { u.car with streams := tput (strKey p m.tag) x u.car.streams } } ∧
      x.ctx = m.ctx ∧ x.kind = m.args.getD 0 0 ∧ x.flags = m.args.getD 1 0 ∧ x.len = m.args.getD 2 0 ∧ x.dst = m.sa.toNat) ∧
  (∀ (s u : State) (p : Nat) (m : Msg) (r : SrcRead × State) (ps : List (Nat × Nat)), Open s p → creditLeft s p .pull [] →
    u = heard p .pull [] s → (Sa.of m.sa).space = 0 → isOwn u (Sa.of m.sa).dev = true → admits u m.ctx p = true →
    holdsSlot u ((ctxPart u m.ctx).getD 20) p = true →
    ps = (if m.args.getD 1 0 = 0 then [(m.sa.toNat, m.args.getD 0 0)]
          else (List.range (m.args.getD 0 0 / m.args.getD 1 0)).map (fun i => (m.sa.toNat + i * m.args.getD 2 0, m.args.getD 1 0))) →
    r = readPieces m.ctx ((ctxPart u m.ctx).getD 20) ps u → r.1.res = .ok →
    exec (.pull p m) s = .next (cnt (portReg p 0x210) r.1.bytes.length
      ((pullMsgs (m.args.getD 3 0) m.ctx .ok r.1).foldl (fun s m => emit (.link p m) s) r.2))) ∧
  (∀ (s u : State) (p id k : Nat) (d : List Byte) (lane : Lane) (x : Stream), Open s p → creditLeft s p .chunk [] →
    u = heard p .chunk [] s → strOf u p id = some x → x.closed = none → bit x.flags 3 = false →
    exec (.dataFlit p id k d lane) s = .next (ackStream p id (cnt (portReg p 0x218) (min 224 d.length) (landReady p id
      (updStr p id (fun x => { x with chunks := tput k (d.take 224) x.chunks, since := u.now }) u))))) ∧
  (∀ (s u v : State) (p : Nat) (m : Msg) (x y : Stream) (st : Status) (b : Beacon), Open s p →
    (creditLeft s p .close [] → u = heard p .close [] s → strOf u p m.tag = some x → exec (.close p m) s =
      .next (updStr p m.tag (fun x => { x with close := some (m.args.getD 0 0, m.args.getD 1 0, m.args.getD 2 0), since := u.now }) u)) ∧
    (creditLeft s p .poisonLines [] → u = heard p .poisonLines [] s → strOf u p m.tag = some x → x.done = [] →
      exec (.poison p m) s = .next (updStr p m.tag (fun x => { x with poison := x.poison ++ m.args, since := u.now }) u)) ∧
    (creditLeft s p .beacon [] → u = heard p .beacon [] s → strOf u p m.tag = some x →
      b = { target := m.args.getD 0 0, opnd := m.args.getD 1 0, count := m.args.getD 2 0, since := u.now } →
      v = updStr p m.tag (fun x => { x with bcn := some b, since := u.now }) u → strOf v p m.tag = some y →
      (beaconState v p y = some st → exec (.beacon p m) s = .next v) ∧
      (beaconState v p y = none → exec (.beacon p m) s = .next (cnt (cellReg (beaconCell v b.target) 0x518) 1 v))) ∧
    (creditLeft s p .abandon [] → u = heard p .abandon [] s → strOf u p m.tag = some x → x.closed = none → m.status = 0 →
      exec (.abandon p m) s = .next (updStr p m.tag (fun x => { x with abandoned := some .droppedLate, since := u.now }) u))) ∧
  (∀ (s u : State) (p c i : Nat) (m : Msg), Open s p → outLeg u p m.tag = some (c, i) → m.status = 0 →
    (creditLeft s p .ack [] → u = heard p .ack [] s →
      exec (.ack p m) s = .next (updLeg c i (fun l => { l with landed := max l.landed (m.args.getD 0 0), since := u.now }) u)) ∧
    (creditLeft s p .final [] → u = heard p .final [] s →
      exec (.final p m) s = .next (legFinal c i (m.args.getD 0 0) (m.args.getD 1 0) (m.args.getD 2 0) (m.args.getD 3 0)
        (m.args.getD 4 0) .done u)) ∧
    (creditLeft s p .bcnResult [] → u = heard p .bcnResult [] s →
      exec (.bcnResult p m) s = .next (carSettle c (updCar c (fun c => c) (updLeg c i (fun l => { l with bcn := some .done }) u))))) ∧
  (∀ (s u : State) (p id : Nat) (x : Stream), s.runs → u = landReady p id s → strOf u p id = some x → x.closed = none →
    x.finished = true → x.fault = none → x.abandoned = none → x.disagree = false → x.blocks = [] → x.kind ≠ 5 → x.dev ≠ u.parts.devNo →
    ∃ t, exec (.legClose p id .pass) s = .next (emit (.link p { kind := .final, tag := id, ctx := x.ctx, status := 0, args := [x.landed, x.faulted, crc64 (x.out.flatMap Prod.snd), 0, 0] }) t) ∧
      t.store = u.store) ∧
  (∀ (s u : State) (p : Nat) (m : Msg) (rs : List (Nat × Nat × Nat × List Byte)), Open s p → creditLeft s p .batch [] →
    u = heard p .batch [] s → admits u m.ctx p = true → holdsSlot u ((ctxPart u m.ctx).getD 20) p = true →
    serParse m.data.length m.data = some rs →
    exec (.batch p m) s = .next ((rs.zip (List.range rs.length)).foldl (fun s x => batchPerform p m x.1 x.2 s)
      { u with car := { u.car with
        batches := tput (strKey p m.tag) { count := rs.length, ret := m.args.getD 2 0, ctx := m.ctx, since := u.now } u.car.batches } })) ∧
  (∀ (s u : State) (p : Nat) (m : Msg) (b : SerBatch) (x : State × Nat), Open s p → creditLeft s p .batchResult [] →
    u = heard p .batchResult [] s → u.car.ser.find? (fun b => b.port = p && (b.sent.map Prod.snd) == some m.tag) = some b →
    x = serResults (b.recs.drop b.got).length (b.recs.drop b.got) m.data u →
    exec (.batchResult p m) s = .next (updSer b.id (fun y => { y with got := y.got + x.2, since := u.now }) x.1)) ∧
  (∀ (s : State) (p id : Nat) (b : Batch), s.runs → tget (strKey p id) s.car.batches = some b → b.count ≤ b.results.length →
    exec (.batchDone p id none) s = .next (batchEnd p id b.ctx .done ((chunksOf b.ret b.ctx (batchBytes b)).foldl
      (fun s m => emit (.link p m) s) (emit (.link p { kind := .batchResult, tag := b.ret, ctx := b.ctx, args := [b.count, (batchBytes b).length] })
        { s with car := { s.car with batches := tdel (strKey p id) s.car.batches } })))) ∧
  (∀ (s : State) (c i : Nat) (x : Caravan), s.runs → carOf s c = some x → (legAt x i).st = .sent → lKind (legAt x i).desc ≠ 7 →
    (∀ t n, (legAt x i).event = some (t, n) →
      exec (.ackTimeout (.leg c i)) s = .next (legEnds c i (fun l => l) (reach (t + s.car.ackTimeout) s))) ∧
    ((legAt x i).event = none → x.kind = .port → exec (.ackTimeout (.leg c i)) s =
      .next (legEvent c i .timeout (cnt (portReg x.unit 0x230) 1 (reach ((legAt x i).since + s.car.ackTimeout) s))))) ∧
  (∀ (s : State) (b : Nat) (x : SerBatch), s.runs → s.car.ser.find? (fun y => y.id = b && y.sent.isSome) = some x →
    exec (.ackTimeout (.batch b)) s = .next (serEnd b .timeout (cnt (portReg x.port 0x230) 1 (reach (x.since + s.car.ackTimeout) s)))) ∧
  (∀ (s : State) (p id : Nat) (x : Stream), s.runs → strOf s p id = some x → x.dev ≠ s.parts.devNo → x.bcn = none →
    ∃ t, exec (.streamIdleFree p id) s = .next t ∧ t.car.streams = tdel (strKey p id) s.car.streams ∧ t.store = s.store) ∧
  (∀ (s : State) (id : Nat) (c : Caravan), s.runs → carOf s id = some c → lKind (legAt c 0).desc = 7 → (legAt c 0).st = .sent →
    c.covers = [] → exec (.fenceDone id) s = .next (legEnds id 0 (fun l => { l with status := .done }) s)) ∧
  (∀ (s : State) (b : Nat) (x : SerBatch), s.runs → s.car.ser.find? (fun y => y.id = b && y.sent.isNone) = some x →
    exec (.seraiWindowExpiry b) s = .next (serSend b (reach (x.since + (port s x.port).serWindow * 10) s)))

/-- Where the host port's and the mailboxes' rows complete (R393 to R414, R462). -/
def Obligations.HostPortAndMailboxRowsComplete : Prop :=
  (∀ (s : State) (tag off len : Nat) (g : WinSeg) (x : Sa), s.runs → s.host.d3hot = false → s.pwr.trip = none → off < 2 ^ 36 →
    len ≠ 0 → off % 4096 + len ≤ 4096 → g = winSeg s off → g.bound = true → x = Sa.of (winSa g off) → winCheck s g x = none →
    (x.space = 2 → syncShape x len = true →
      exec (.bar4Read tag off len) s = .next (emit (.cpl tag 0 false (leBytes 8 (tallyAt s (x.off / 8)).toNat)) s)) ∧
    (x.space ≠ 2 → exec (.bar4Read tag off len) s =
      .next (launchReq { who := .host tag, ctx := g.ctx, off := x.off, op := .rdNc, len := len } none s))) ∧
  (∀ (s : State) (off : Nat) (d : List Byte) (z : Bool) (g : WinSeg) (x : Sa), s.barOpen → s.runs → off < 2 ^ 36 → d ≠ [] →
    off % 4096 + d.length ≤ 4096 → g = winSeg s off → g.bound = true → x = Sa.of (winSa g off) → winCheck s g x = none →
    ∃ t, exec (.bar4Write off d z) s = .next t ∧ t.store = s.store ∧ t.coh.nextReq = s.coh.nextReq + 1 ∧
      t.coh.heldWr = s.coh.heldWr ++
        [({ id := s.coh.nextReq, ctx := g.ctx, sa := winSa g off, data := d, poison := z }, s.coh.posted)]) ∧
  (∀ (s : State) (n : Nat) (v : BitVec 64), s.barOpen → s.runs → n < 16 → exec (.winSeg 0 n v) s =
    .next (updHost (fun h => { h with segs := h.segs.setIfInBounds n { s.host.segs.getD n {} with base := bitsOf v.toNat 47 32 } }) s)) ∧
  (∀ (s : State) (o v old : Nat), s.barOpen → s.runs → o % 8 = 0 → rwValue s o = some old →
    exec (.registerWrite 0 o 8 v) s = .next (rwWrite o (v % 2 ^ 64) s) ∧
    exec (.registerWrite 0 o 4 v) s = .next (rwWrite o (old / 2 ^ 32 * 2 ^ 32 + v % 2 ^ 32) s) ∧
    exec (.registerWrite 0 (o + 4) 4 v) s = .next (rwWrite o (v % 2 ^ 32 * 2 ^ 32 + old % 2 ^ 32) s)) ∧
  (∀ (s : State) (mb v : Nat), s.barOpen →
    exec (.dbSq 0 v) s = .next (updMbx 0 (fun m => { m with sqTail := v % 4096 % ringLen m.cfg.sqLog }) s) ∧
    exec (.dbCq 0 v) s = .next (updMbx 0 (fun m => { m with cqHead := v % 4096 % ringLen m.cfg.cqLog }) s) ∧
    (mb ≠ 0 → exec (.dbSq mb v) s = .next (mbxLook mb s) ∧ exec (.dbCq mb v) s = .next (mbxLook mb s)) ∧
    exec (.doorbellWake mb) s = .next (mbxLook mb s)) ∧
  (∀ (s u : State) (b e : List Byte) (blk : Option (List Byte)) (c : Cmd), mbxNext s = some 0 → cmdsRunning s < 4 → s.cpUp →
    s.host.linkUp = true → e = padTo 64 b → fld e 2 2 = (mbxOf s 0).consumed % 65536 → fld e 4 2 = 1 → opAccepted (fld e 0 2) 0 = true →
    entryFormOk e = true → bit (fld e 6 1) 0 = false → fld e 0 2 ≠ 0x0B06 → argReserved (fld e 0 2) ((e.drop 16).take 48) = false →
    u = cnt (mbxReg 0 0x38) 1 s → c = { entry := e, args := (e.drop 16).take 48, since := u.wall, session := 0 } →
    exec (.commandFetch 0 b blk false) s = .next (updMbx 0 (fun m => { m with consumed := m.consumed + 1, run := some c })
      { u with host := { u.host with lastMb := 0 } })) ∧
  (∀ (s : State) (gen : BitVec 32), s.barOpen → gen = (mbxOf s 0).gen + 1 →
    ((mbxOf s 0).shadow.enable = true → 4 ≤ (mbxOf s 0).shadow.sqLog ∧ (mbxOf s 0).shadow.sqLog ≤ 12 ∧
      4 ≤ (mbxOf s 0).shadow.cqLog ∧ (mbxOf s 0).shadow.cqLog ≤ 12) →
    ∃ t, exec (.mbxCommit gen) s = .next t ∧ (mbxOf t 0).cfg = (mbxOf s 0).shadow ∧ (mbxOf t 0).gen = gen) ∧
  (∀ s : State, s.barOpen → exec .mbxCommitErrClear s = .next (updMbx 0 (fun m => { m with err := false }) s)) ∧
  (∀ s : State, s.cpUp → exec .mbxHeartbeat s = .next (cnt 0x1F008 1 s)) ∧
  (∀ (s : State) (mb : Nat) (c : Cmd), s.cpUp → (mbxOf s mb).run = some c → (mbxOf s mb).wedged = false →
    exec (.mbxWdogExpiry mb) s = .next (evPlatform 5 mb 0 (updMbx mb (fun m => { m with wedged := true })
      (reachWall (c.since + s.host.wdog * 1000) s)))) ∧
  (∀ s : State, (s.host.linkUp = true → ∃ t, exec (.hostLinkDown 0) s = .next t ∧ t.host.linkUp = false ∧
      t.store.hostDownSince = some s.now ∧ t.store.mem = s.store.mem) ∧
    exec (.hostLinkDown 1) s = .next (updHost (fun h => { h with linkUp1 := false }) s)) ∧
  (∀ s : State, s.rep.boot.fused = true → s.pwr.trip = none → tget 2 s.clk.lostAt = none →
    (s.host.linkUp = false → (mbxOf s 0).held = none → ∃ t, t.host.linkUp = true ∧ t.store.hostDownSince = none ∧
      exec (.hostLinkUp 0) s = .next (settle (rasLost (reissueHost t)))) ∧
    (s.host.bifur = true → exec (.hostLinkUp 1) s = .next (updHost (fun h => { h with linkUp1 := true }) s))) ∧
  (∀ (s : State) (tag : Nat) (d : Bool), functionReady s = true →
    exec (.configSpaceAccess tag none) s = .next (emit (.cpl tag 0 false []) s) ∧
    exec (.configSpaceAccess tag (some d)) s = .next (emit (.cpl tag 0 false []) (updHost (fun h => { h with d3hot := d }) s)))

/-- Where the reset rows complete (R413, R414, R465, R499, R525). -/
def Obligations.ResetRowsComplete : Prop :=
  (∀ (s : State) (w : Nat), 1000 ≤ w → s.pwr.trip = none →
    exec (.perstAssert w) s = .next (updBoot (fun b => { b with perst := true }) (fullReset s)) ∧
    exec (.resetNAssert w) s = .next (updBoot (fun b => { b with resetN := true }) (fullReset s))) ∧
  (∀ (s : State) (b : Bool) (h : Nat), s.pwr.trip = none → s.rep.boot.perst = false → s.rep.boot.resetN = false →
    (h = 0 ∧ s.host.linkUp = true ∨ h = 1 ∧ s.host.linkUp1 = true) →
    ∃ t, exec (.hotReset h b) s = .next t ∧ t.store.mem = [] ∧ t.xlt = State.reset.xlt ∧ t.rep.ledger = s.rep.ledger ∧
      t.rep.boot.ref = s.wall ∧ t.rep.boot.fused = false ∧ t.host.bifur = b ∧ t.host.linkUp = false ∧ t.rep.epoch ≠ 0) ∧
  (∀ (s : State) (b : Bool), s.pwr.trip = none → s.pwr.vaux = true → s.rep.boot.perst = false → s.rep.boot.resetN = true →
    ∃ t, exec (.resetNRelease b) s = .next t ∧ t.rep.boot.resetN = false ∧ t.tap.ir = 0x01 ∧ t.rep.boot.ref = s.wall ∧
      t.host.bifur = b ∧ t.rep.epoch ≠ 0 ∧ t.store = s.store) ∧
  (∀ (s : State) (b : Bool), s.pwr.trip = none → s.pwr.vaux = true → s.rep.boot.perst = true → s.rep.boot.resetN = false →
    ∃ t, exec (.perstRelease b) s = .next t ∧ t.rep.boot.perst = false ∧ t.tap = s.tap ∧ t.rep.boot.ref = s.wall ∧
      t.host.bifur = b ∧ t.rep.epoch ≠ 0 ∧ t.store = s.store) ∧
  (∀ (s : State) (a : Nat), s.pwr.vaux = false → a < 4 →
    exec (.vauxInRegulation a) s = .next { s with pwr := { s.pwr with vaux := true, i3cSa := a, i3cAt := s.wall + 1000000 } }) ∧
  (∀ s : State, ∃ t, exec .vauxLoss s = .next t ∧ t.pwr.vaux = false ∧ t.pwr.trip = none ∧ t.store.mem = [] ∧
    t.rep.ledger = s.rep.ledger ∧ t.host = State.reset.host ∧ t.ports = State.reset.ports)

/-- Where the commands of groups 0x01 and 0x02 and the scrub complete (R422 to R426, R443). -/
def Obligations.IdentityAndPartitionCommandsComplete : Prop :=
  (∀ (s : State) (n : Nat) (c : Cmd), Serves s n 0x0101 c {} →
    exec (.idGet n) s = .next (complete n 0 ((idCaps s).flatMap (leBytes 8) ++ leBytes 4 0x00010200 ++ leBytes 2 s.parts.devNo) s)) ∧
  (∀ (s : State) (n : Nat) (c : Cmd), Serves s n 0x0102 c {} →
    exec (.resGet n) s = .next (complete n 0 (leBytes 4 (maskBits (freeCells s)) ++ leBytes 4 (maskBits s.parts.scrubbing) ++ leBytes 2
      s.xlt.ctxs.length ++ leBytes 1 (s.parts.keys.toList.filter (fun k => k.st = .free)).length ++ leBytes 1
      s.parts.live.length ++ leBytes 1 (b2n s.sync.feMode)) s)) ∧
  (∀ (s : State) (n : Nat) (c : Cmd), Serves s n 0x0201 c { ready := cellsReady s (maskCells (c.arg 4 4)) } → c.arg 4 4 ≠ 0 → c.part ≤ 19 ∧ 4 ≤ c.arg 1 1 ∧ c.arg
    1 1 ≤ 12 ∧ 4 ≤ c.arg 2 1 ∧ c.arg 2 1 ≤ 12 ∧ c.arg 3 1 ≤ 3 ∧ 2 ≤ c.arg 12 2 ∧ c.arg 12 2 ≠ 0xFFFF ∧ c.arg 16 1 ≤ 63 → partOf
    s c.part = none → (∀ x ∈ maskCells (c.arg 4 4), cellPart s x = none ∧ x ∉ s.parts.scrubbing) → nblk (blockSize (ringBytes
    (c.arg 1 1))) + nblk (blockSize (ringBytes (c.arg 2 1))) + 1 + c.arg 8 4 ≤ ((maskCells (c.arg 4 4)).map (fun x =>
    stackFrames - (s.store.stks.getD x {}).retired)).sum → ctxOf s (c.arg 12 2) = none → (s.parts.keys.getD (c.arg 16 1) {}).st
    = .free → c.arg 18 2 ≤ 2047 → s.xlt.ctxs.length < 4096 →
    exec (.partCreate n) s = .next (if Config.sealKeysOk ((c.args.drop 48).take 1216) then partMake n c s else complete n 0x0721 [] s)) ∧
  (∀ (s : State) (n : Nat) (c : Cmd), Serves s n 0x0202 c (partChk s n c) →
    exec (.partDestroy n) s = .next (partDestroy n c s)) ∧
  (∀ (s : State) (n : Nat) (c : Cmd) (x : Part), Serves s n 0x0203 c (partChk s n c) → partOf s c.part = some x →
    exec (.partGet n) s = .next (complete n 0 (leBytes 4 (maskBits x.cells) ++ leBytes 4 x.q ++ leBytes 4 (partPlaced s c.part) ++ leBytes 4
      (((partCells s c.part).map (managedFrames s)).sum) ++ leBytes 4 (pinnedFrames s c.part) ++ leBytes 1 x.retryLimit ++
      leBytes 1 x.shadowN ++ leBytes 1 x.shadowMax ++ leBytes 1 0 ++ leBytes 4 (copiedBlocks s c.part) ++ leBytes 4
      (shadowBlocksOf s c.part) ++ leBytes 8 0 ++ leBytes 4 x.gen.toNat) s)) ∧
  (∀ (s : State) (n : Nat) (c : Cmd), Serves s n 0x0204 c
    { partChk s n c with gen := some c.part, mgmt := [(objQ c.part, some (c.arg 4 4) != (partOf s c.part).map Part.q)] } →
    poolUsed s c.part ≤ c.arg 4 4 → partPlaced s c.part + c.arg 4 4 ≤ partFrames s c.part → pinnedCount s c.part = 0 ∨
    pinnedCount s c.part + 64 ≤ c.arg 4 4 → backingSlots s c.part none ≠ 0 ∨ managedBlocks s c.part ≤ c.arg 4 4 →
    exec (.partQuotaSet n) s = .next (completeGen n c.part [] (if n = 21 then ownMgmt (objQ c.part) (updPart c.part (fun x => { x with q := c.arg 4 4 }) s)
      else updPart c.part (fun x => { x with q := c.arg 4 4 }) s))) ∧
  (∀ (s : State) (n : Nat) (c : Cmd) (f : MbxCfg), Serves s n 0x0205 c { partChk s n c with gen := some c.part } → f =
    { enable := true, sqLog := c.arg 1 1, cqLog := c.arg 2 1, vector := c.arg 4 2, novec := c.arg 6 1 = 1, sqBase := c.arg 8 8, cqBase := c.arg 16 8 }
    → 4 ≤ c.arg 1 1 ∧ c.arg 1 1 ≤ 12 ∧ 4 ≤ c.arg 2 1 ∧ c.arg 2 1 ≤ 12 ∧ c.arg 4 2 ≤ 2047 → placedHbm s c.part (c.arg 8 8)
    (ringBytes (c.arg 1 1)) = true → placedHbm s c.part (c.arg 16 8) (ringBytes (c.arg 2 1)) = true → saOff (c.arg 16 8) +
    ringBytes (c.arg 2 1) ≤ saOff (c.arg 8 8) ∨ saOff (c.arg 8 8) + ringBytes (c.arg 1 1) ≤ saOff (c.arg 16 8) → mbxTallyOk s
    c.part (c.arg 24 8) = true → c.arg 32 8 = 0 ∨ mbxTallyOk s c.part (c.arg 32 8) = true →
    exec (.mbxSet n) s = .next (updMbx n (fun m =>
      { m with cfg := f, shadow := f, dbTally := c.arg 24 8, cqTally := c.arg 32 8, consumed := 0, cqTail := 0, phase := true })
      (completeGen n c.part [] s))) ∧
  (∀ (s : State) (n : Nat) (c : Cmd), Serves s n 0x0206 c { partChk s n c with gen := some c.part } → 6 ≤ c.arg 1 1 ∧ c.arg 1 1 ≤ 16 ∧ c.arg 2 2 ≤ 2047 →
    placedHbm s c.part (c.arg 8 8) (ringBytes (c.arg 1 1)) = true →
    exec (.evqSet n) s = .next (evqLost c.part (updPart c.part (fun x =>
      { x with evq := { x.evq with sa := some (saOff (c.arg 8 8)), log2 := c.arg 1 1, vector := c.arg 2 2, tail := 0, lastSignal := none, unsignalled := false } })
      (devWrite (saOff (c.arg 8 8) + 64 * 2 ^ c.arg 1 1) (List.replicate 12 0) (completeGen n c.part [] s))))) ∧
  (∀ (s : State) (k : Nat), s.runs → k ∈ s.parts.scrubbing → ∃ t, exec (.cellScrubDone k) s = .next t ∧ t.store.mem = s.store.mem ∧
    (∀ x ∈ t.sync.words, x.1 / 32768 ≠ k) ∧ (∀ x ∈ t.store.spad, x.1 / 2 ^ 26 ≠ k))

/-- Where the allocation, protection and window commands complete (R53, R54, R58, R89, R90, R99, R399, R427). -/
def Obligations.AllocationCommandsComplete : Prop :=
  (∀ (s : State) (n : Nat) (c : Cmd) (al : Alloc), Serves s n 0x0301 c
    { exist := (partOf s c.part).isSome && (!decide (allocTier (c.arg 1 1) = .host) || (tget (c.arg 16 2) s.store.exts).isSome), mine := c.part + 1 = n && (!decide (allocTier (c.arg 1 1) = .host) || ((tget (c.arg 16 2) s.store.exts).map Extent.part) = some c.part), ready := cellsReady s (allocCells s c) && (allocTier (c.arg 1 1) != .flash || censusReady s (allocCells s c)) }
    → c.arg 1 1 = 0 → c.arg 8 8 ≠ 0 → c.arg 8 8 % 65536 = 0 → (allocCells s c).all (partCells s c.part).contains = true →
    reserveFits s c.part (nblk (c.arg 8 8)) none = true → ctxPart s (c.arg 2 2) = some c.part → slotRevoked s (keyOf s (c.arg 2
    2)) = false → al = { size := c.arg 8 8, tier := .managed, cells := allocCells s c, ctx := c.arg 2 2, part := c.part } →
    (s.store.allocs.map (fun x => x.2.extent)).sum + (s.store.allocs.length + 1) * c.arg 8 8 ≤ 2 ^ 48 →
    ∃ b t, makeAlloc al s = (some b, t) ∧ t.store.allocs = tput b al s.store.allocs ∧ exec (.alloc n) s = .next (complete
      n 0 (leBytes 8 (ownSa t 0 b).toNat) t)) ∧
  (∀ (s : State) (n : Nat) (c : Cmd) (a : Alloc), Serves s n 0x0302 c (partChk s n c) → argOwn s c 8 = true → tget (argSa c 8) s.store.allocs = some a → a.part = c.part ∧
    a.size = c.arg 16 8 ∧ a.ctx ≠ 0 → (∀ r, a.region = some r → r.work = []) →
    exec (.free n) s = .next (complete n 0 [] (freeAlloc (argSa c 8) s))) ∧
  (∀ (s : State) (n : Nat) (c : Cmd) (b : Nat) (al : Alloc), Serves s n 0x0303 c { partChk s n c with ready := rangeReady s c } → c.arg 1 1 = 1 → c.arg 16 8 ≠ 0 → argOwn s c 8 = true →
    inAlloc s c.part (argSa c 8) (c.arg 16 8) = some (b, al) → al.tier = .managed → pinnedCount s c.part + (rangeBlocks b (argSa
    c 8) (c.arg 16 8)).length + 64 ≤ ((partOf s c.part).map Part.q).getD 0 →
    exec (.pin n) s = .next (complete n 0 [] (setPins b (rangeBlocks b (argSa c 8) (c.arg 16 8)) true s))) ∧
  (∀ (s : State) (n : Nat) (c : Cmd) (b : Nat) (al : Alloc), Serves s n 0x0303 c { partChk s n c with ready := rangeReady s c } → c.arg 1 1 = 0 → c.arg 16 8 ≠ 0 → argOwn s c 8 = true →
    inAlloc s c.part (argSa c 8) (c.arg 16 8) = some (b, al) → al.tier = .managed →
    exec (.unpin n) s = .next (complete n 0 [] (setPins b (rangeBlocks b (argSa c 8) (c.arg 16 8)) false s))) ∧
  (∀ (s : State) (n : Nat) (c : Cmd), Serves s n 0x0304 c { partChk s n c with gen := some (objGset c.part (c.arg 2 2)) } → 0 < c.arg 2 2 ∧ c.arg 2 2 ≤ 4095 →
    ((List.range 16).map (fun i => c.arg (48 + 4 * i) 4)).any (fun e => bitsOf e 28 16 != 0) = false →
    exec (.gsetWrite n) s = .next (completeGen n (objGset c.part (c.arg 2 2)) []
      { s with store := { s.store with gsets := tput (c.part * 4096 + c.arg 2 2) (((List.range 16).map (fun i => c.arg (48 + 4 * i) 4)).map grantOf) s.store.gsets } })) ∧
  (∀ (s : State) (n : Nat) (c : Cmd) (x : Nat × Alloc), Serves s n 0x0305 c { partChk s n c with ready := rangeReady s c } → c.arg 16 8 ≠ 0 → c.arg 16 8 % 4096 = 0 → argSa c 8 %
    4096 = 0 → argOwn s c 8 = true → inAlloc s c.part (argSa c 8) (c.arg 16 8) = some x → c.arg 2 2 = 0 ∨ (tget (c.part * 4096 +
    c.arg 2 2) s.store.gsets).isSome = true →
    exec (.protSet n) s = .next (complete n 0 []
      { s with store := { s.store with prot := (span (argSa c 8 / 4096) (c.arg 16 8 / 4096)).foldl (fun t i => tput i { owner := ((tget i t).map Prot.owner).getD x.2.ctx, isSealed := bit (c.arg 1 1) 0, gset := c.arg 2 2 } t) s.store.prot } })) ∧
  (∀ (s : State) (n : Nat) (c : Cmd), Serves s n 0x0309 c { partChk s n c with gen := some c.part, ready := cellsReady s (partCells s c.part) } → c.arg 4 4 ≤
    ((partOf s c.part).map Part.q).getD 0 / 16 →
    exec (.evictReserveSet n) s = .next (completeGen n c.part [] (updPart c.part (fun p => { p with evictReserve := some (c.arg 4 4) }) s))) ∧
  (∀ (s : State) (n : Nat) (c : Cmd) (t : State), Serves s n 0x030A c
    { gen := some objTier, mgmt := [(objTier, c.arg 4 4 * 1000000 != s.store.flashTimeout || c.arg 8 4 * 1000 != s.store.hostTimeout)] }
    → 0 < c.arg 4 4 ∧ c.arg 4 4 ≤ 1000 ∧ 50 ≤ c.arg 8 4 ∧ c.arg 8 4 ≤ 100000 → t =
    { s with store := { s.store with flashTimeout := c.arg 4 4 * 1000000, hostTimeout := c.arg 8 4 * 1000 } } →
    exec (.tierTimeoutsSet n) s = .next (completeGen n objTier [] (if n = 21 then ownMgmt objTier t else t))) ∧
  (∀ (s : State) (n : Nat) (c : Cmd) (w : WinSeg), Serves s n 0x030B c (winChk s n c) → bit (c.arg 2 1) 0 = true → w = s.host.segs.getD (c.arg 1 1) {} → c.arg 1 1 ≤ 15 ∧
    (c.arg 2 1 / 2 % 4 = 0 ∨ c.arg 2 1 / 2 % 4 = 2) → (n = 0 ∧ c.part = 0xFF ∧ c.arg 4 2 = 1) ∨ (n ≠ 0 ∧ ctxPart s (c.arg 4 2) =
    some c.part) → w.bound = false ∨ w.binder = n →
    exec (.windowBind n) s = .next (complete n 0 []
      { s with host := { s.host with segs := s.host.segs.setIfInBounds (c.arg 1 1) { w with ctx := c.arg 4 2, space := c.arg 2 1 / 2 % 4, bound := true, binder := n } } })) ∧
  (∀ (s : State) (n : Nat) (c : Cmd) (w : WinSeg), Serves s n 0x030B c (winChk s n c) → bit (c.arg 2 1) 0 = false → w = s.host.segs.getD (c.arg 1 1) {} → c.arg 1 1 ≤ 15 ∧
    (c.arg 2 1 / 2 % 4 = 0 ∨ c.arg 2 1 / 2 % 4 = 2) → (n = 0 ∧ c.part = 0xFF ∧ c.arg 4 2 = 1) ∨ n ≠ 0 → w.bound = false ∨
    w.binder = n →
    exec (.windowUnbind n) s = .next (complete n 0 []
      { s with host := { s.host with segs := s.host.segs.setIfInBounds (c.arg 1 1) { w with ctx := 0, space := 0, bound := false, binder := 0 } } }))

/-- Where the extent and region commands complete (R81, R86, R131 to R135, R450). -/
def Obligations.ExtentAndRegionCommandsComplete : Prop :=
  (∀ (s : State) (n : Nat) (c : Cmd) (pages : List Nat), Serves s n 0x0306 c { partChk s n c with ready := s.host.linkUp && cellsReady s [c.arg 2 1] } → c.arg 8 8 ≠ 0 ∧ c.arg 8 8 %
    65536 = 0 ∧ c.arg 1 1 ≤ 1 → c.arg 3 1 = 0 → (partCells s c.part).contains (c.arg 2 1) = true → pages.length = c.arg 24 4 →
    c.arg 8 8 + nblk (c.arg 8 8) * 8448 ≤ c.arg 24 4 * 4096 → pages.any (fun a => a % 4096 != 0) = false → ((List.range
    1024).filter (fun e => (tget e s.store.exts).isNone)) ≠ [] → slotRevoked s (keyOf s c.ctx) = false →
    ∃ e x t, pickFree ((List.range 1024).filter (fun e => (tget e s.store.exts).isNone)) s = (some e, t) ∧ x =
      { part := c.part, size := c.arg 8 8, pages := pages, huge := false, cell := c.arg 2 1, backing := decide (c.arg 1 1 = 1), ctx := c.ctx, keyslot := keyOf s c.ctx }
      ∧ exec (.extentCreate n pages) s = .next (complete n 0 (leBytes 2 e)
      { t with store := { t.store with exts := tput e x t.store.exts } })) ∧
  (∀ (s : State) (n : Nat) (c : Cmd) (x : Extent) (u : State), Serves s n 0x0307 c (extChk s n c) → tget (c.arg 2 2) s.store.exts = some x → c.arg 4 4 ≤ 100000 → x.draining = false ∧
    x.retired = false ∧ slotRevoked s x.keyslot = false → u =
    { s with store := { s.store with exts := tput (c.arg 2 2) { x with draining := true } s.store.exts }, parts := { s.parts with keys := s.parts.keys.setIfInBounds x.keyslot { s.parts.keys.getD x.keyslot {} with st := .draining }, revokes := s.parts.revokes ++ [{ ext := c.arg 2 2, slot := x.keyslot, part := x.part, mb := n, ends := s.wall + (if c.arg 4 4 = 0 then 2000 else c.arg 4 4) * 1000 }] } } →
    exec (.extentRevoke n) s = .next (((u.store.allocs.filter (fun a => a.2.region.isSome)).map Prod.fst).foldl (fun s b => if regionRevoked s b then
      endRegion b (fun _ => true) true s else s) u)) ∧
  (∀ (s u : State) (e : Nat) (r : Revoke), s.parts.revokes.find? (fun r => r.ext = e) = some r →
    u = endScope r.slot (reachWall r.ends s) → exec (.revocationDrainEnd e) s = .next (complete r.mb 0 [] (sweepKeys (retireSlot r.slot { u with
      store := { u.store with exts := tupd e (fun x => { x with draining := false, retired := true }) u.store.exts }
      parts := { u.parts with revokes := u.parts.revokes.filter (fun x => x.ext != e) } })))) ∧
  (∀ (s : State) (n : Nat) (c : Cmd), Serves s n 0x0308 c (extChk s n c) → s.store.allocs.any (fun x => x.2.ext = some (c.arg 2 2)) = false → lowerExt s (c.arg 2
    2) = 0 → ((tget (c.arg 2 2) s.store.exts).map Extent.backing) = some false ∨ reserveFits s c.part 0 (some (c.arg 2 2)) =
    true → s.parts.revokes.any (fun r => r.ext = c.arg 2 2) = false →
    exec (.extentDestroy n) s = .next (complete n 0 [] { s with store := { s.store with exts := tdel (c.arg 2 2) s.store.exts } })) ∧
  (∀ (s : State) (n : Nat) (c : Cmd) (al : Alloc) (r : Region) (w : Nat) (u : State), Serves s n 0x030C c (regionChk false s n c) → regionAt s (argSa c 8) = some (al, r) → w = ((r.winVer.find? (fun x => x.2 =
    r.version)).map Prod.fst).getD 0 → u = updRegion (argSa c 8) (fun r =>
    { r with opens := r.opens ++ [(c.ctx, r.version)], barred := r.barred.filter (fun x => x != (c.ctx, w)) }) s →
    exec (.regionOpen n) s = .next (complete n 0 (leBytes 8 r.version ++ leBytes 8 (ownSa u 0 (argSa c 8 + w * al.size)).toNat) u)) ∧
  (∀ (s : State) (n : Nat) (c : Cmd) (al : Alloc) (r : Region), Serves s n 0x030D c (regionChk false s n c) → regionAt s (argSa c 8) = some (al, r) → r.opens.contains (c.ctx, c.arg 16 8) =
    true →
    exec (.regionClose n) s = .next (complete n 0 [] (reclaim (argSa c 8) (updRegion (argSa c 8) (fun r =>
      { r with opens := r.opens.erase (c.ctx, c.arg 16 8) }) s)))) ∧
  (∀ (s : State) (n : Nat) (c : Cmd) (al : Alloc) (r : Region) (w cur k : Nat) (u : State), Serves s n 0x030E c (regionChk true s n c) → regionAt s (argSa c 8) = some (al, r) → (span 16 8).find? (fun w => (tget w
    r.work).isNone) = some w → c.arg 16 8 = r.version → cur = ((r.winVer.find? (fun x => x.2 = r.version)).map Prod.fst).getD 0
    → k = nblk al.size → u = updRegion (argSa c 8) (fun r' =>
    { r' with work := tput w { ctx := c.ctx, base := r.version, isSealed := false, copied := [] } r'.work, map := (List.range k).foldl (fun m i => match tget (cur * k + i) r.map with | some x => tput (w * k + i) x m | none => m) r.map, barred := r'.barred.filter (fun x => x != (c.ctx, w)) })
    s →
    exec (.regionBegin n) s = .next (complete n 0 (leBytes 8 w ++ leBytes 8 (ownSa u 0 (argSa c 8 + w * al.size)).toNat) u)) ∧
  (∀ (s : State) (n : Nat) (c : Cmd) (x : Alloc × Region) (k : Work), Serves s n 0x0310 c (regionChk true s n c) → regionAt s (argSa c 8) = some x → tget (c.arg 1 1) x.2.work = some k → k.ctx =
    c.ctx →
    exec (.regionAbort n) s = .next (complete n 0 [] (clearWindow (argSa c 8) (c.arg 1 1) s))) ∧
  (∀ (s : State) (n : Nat) (c : Cmd) (al : Alloc) (r : Region) (k : Work) (b off nb : Nat) (u : State), Serves s n 0x030F c (regionChk true s n c) → b = argSa c 8 ∧ off = b + c.arg 1 1 * al.size ∧ nb = nblk al.size → regionAt s
    b = some (al, r) → tget (c.arg 1 1) r.work = some k → k.ctx = c.ctx → u = recallRange off al.size (updRegion b (fun r =>
    { r with work := tput (c.arg 1 1) { k with isSealed := true } r.work }) s) → agentLines u off al.size = [] → r.version =
    c.arg 16 8 → (r.opens.map Prod.snd).eraseDups.length < 16 →
    ∃ t, exec (.regionPublish n) s = .next (complete n 0 (leBytes 8 (r.version + 1)) (freeCopies b t)) ∧ ∃ (v : State)
      (win : Nat) (m : Region → Tab Nat), t = updRegion b (fun r =>
      { r with map := m r, version := c.arg 16 8 + 1, winVer := tput win (c.arg 16 8 + 1) r.winVer, work := tdel (c.arg 1 1) r.work })
      v) ∧
  (∀ (s : State) (n : Nat) (c : Cmd), Serves s n 0x0311 c
    { exist := (partOf s c.part).isSome && argOwn s c 8 && ((regionAt s (argSa c 8)).map (fun x => x.1.part)) = some c.part } →
    exec (.regionCloseAll n) s = .next (complete n 0 [] (endRegion (argSa c 8) (fun _ => true) false s)))

/-- Where the commands of contexts and of the Stage complete (R429, R430). -/
def Obligations.ContextAndStageCommandsComplete : Prop :=
  (∀ (s : State) (n : Nat) (c : Cmd) (r : Ctx), Serves s n 0x0401 c { partChk s n c with ready := s.rep.boot.xlt } → ctxOf s (c.arg 2 2) = none → s.xlt.ctxs.length < 4096 →
    ownChecks (ctxChecks s c) = none → ctxBad (c.arg 2 2) = false → slotRevoked s (c.arg 6 1) = false → r = ctxRecord c (if
    c.arg 8 8 = 0 then 0 else mirrorGen s (ctxRecord c 0)) →
    exec (.ctxCreate n) s = .next (complete n 0 [] (setGen (objCtx (c.arg 2 2)) 0 (updXlt (fun x => { x with ctxs := tput (c.arg 2 2) r x.ctxs }) s)))) ∧
  (∀ (s : State) (n : Nat) (c : Cmd) (r : Ctx) (g : BitVec 32) (u : State), Serves s n 0x0402 c { ctxChk s n c with gen := some (objCtx (c.arg 2 2)) } → ownChecks (ctxChecks s c) = none → ctxBad
    (c.arg 2 2) = false → slotRevoked s (c.arg 6 1) = false → r = ctxRecord c (((ctxOf s (c.arg 2 2)).map Ctx.lastGen).getD 0) →
    g = mirrorGen s r → u = updXlt (fun x =>
    { x with ctxs := tput (c.arg 2 2) r x.ctxs, misses := x.misses.map (fun (m : Nat × Miss) => if m.2.ctx = c.arg 2 2 && m.2.st = .walk then (m.1, { m.2 with genFirst := g, genLast := g, repeated := false }) else m) })
    s →
    exec (.ctxSet n) s = .next (completeGen n (objCtx (c.arg 2 2)) [] u)) ∧
  (∀ (s : State) (n : Nat) (c : Cmd), Serves s n 0x0403 c (ctxChk s n c) → s.store.allocs.any (fun a => a.2.ctx = c.arg 2 2) = false →
    exec (.ctxDestroy n) s = .next (complete n 0 [] (endCtx (c.arg 2 2) s))) ∧
  (∀ (s : State) (n : Nat) (c : Cmd) (x : Ctx) (i : Inv), Serves s n 0x0404 c (ctxChk s n c) → c.arg 1 1 = 0 → s.xlt.invs.any (fun i => i.mb = some n) = false → ctxOf s (c.arg 2 2) =
    some x → invGenBad x (BitVec.ofNat 32 (c.arg 20 4)) = false → c.arg 16 4 ≠ 0 → i =
    { scope := 0, ctx := c.arg 2 2, gen := BitVec.ofNat 32 (c.arg 20 4), page := c.arg 8 8 / 4096 % 2 ^ 45, pages := c.arg 16 4, waits := [], started := true, mb := some n } →
    exec (.tlbInvalidateRange n) s = .next (invQueue i s)) ∧
  (∀ (s : State) (n : Nat) (c : Cmd) (x : Ctx) (i : Inv), Serves s n 0x0404 c (ctxChk s n c) → c.arg 1 1 = 1 → s.xlt.invs.any (fun i => i.mb = some n) = false → ctxOf s (c.arg 2 2) =
    some x → invGenBad x (BitVec.ofNat 32 (c.arg 20 4)) = false → i =
    { scope := 1, ctx := c.arg 2 2, gen := BitVec.ofNat 32 (c.arg 20 4), page := c.arg 8 8 / 4096 % 2 ^ 45, pages := c.arg 16 4, waits := [], started := true, mb := some n } →
    exec (.tlbInvalidateCtx n) s = .next (invQueue i s)) ∧
  (∀ (s : State) (n : Nat) (c : Cmd), Serves s n 0x0404 c { ready := s.rep.boot.xlt } → n = 0 → c.arg 1 1 = 2 → s.xlt.invs.any (fun i => i.mb = some 0) = false →
    exec (.tlbInvalidateAll n) s = .next (invQueue { scope := 2, ctx := 0, gen := 0, page := 0, pages := 0, waits := [], started := true, mb := some 0 } s)) ∧
  (∀ (s : State) (n : Nat) (c : Cmd) (g : StgCfg), Serves s n 0x0501 c { gen := some objStage, ready := s.rep.boot.stage } → g =
    { enable := c.arg 3 1 = 1, outmode := c.arg 1 1, flywheel := c.arg 2 1, vector := c.arg 10 2, window := c.arg 8 2, nominal := c.arg 4 4 }
    → stgCfgOk { s with stg := { s.stg with itin := [] } } g = true → g.vector < 2048 → g.nominal = s.stg.run.nominal ∨
    itinRunning s = [] →
    exec (.stageConfig n) s = .next (completeGen n objStage [] (ownMgmt objStage (stgApply g (updStg (fun x => { x with shadow := g }) s))))) ∧
  (∀ (s : State) (n : Nat) (c : Cmd) (b : List Byte), Serves s n 0x0502 c { gen := some objToll, ready := s.rep.boot.stage } → b = (c.args.drop 48).take (tollRows * 256) → b.any
    (fun x => decide (0x13 < x.toNat) && decide (x.toNat < 0xFE)) = false → (span 8 13).any (fun r => decide ((((b.drop (r *
    256)).take 256).filter (fun x => x.toNat = 0xFF)).length < 2)) = false → s.stg.itin = [] → stgRuns s = false →
    exec (.tollCommit n) s = .next (completeGen n objToll [] (updStg (fun g => { g with toll := tollOf b, tollNext := none }) s))) ∧
  (∀ (s : State) (n : Nat) (c : Cmd), Serves s n 0x0503 c { ready := s.rep.boot.stage } →
    exec (.tollGet n) s = .next (complete n 0 (leBytes 48 (tollDigest s.stg.toll)) s)) ∧
  (∀ (s : State) (n : Nat) (c : Cmd) (it : Itin), Serves s n 0x0504 c (stageChk s n c) → c.arg 4 4 ≠ 0 → imageBad s c.ctx (c.arg 8 8) (c.arg 4 4) = none → itinParse s c.part
    (storeBytes s (saOff (c.arg 8 8)) (c.arg 4 4)) (c.arg 16 6) = .inl it →
    exec (.itinLoad n) s = .next (complete n 0 [] (updItin c.part (fun t => { t with pending := some it }) s))) ∧
  (∀ (s : State) (n : Nat) (c : Cmd), Serves s n 0x0505 c
    { stageChk s n c with exist := (partOf s c.part).isSome && ((itinOf s c.part).isHeld || (itinOf s c.part).pending.isSome) } →
    exec (.itinStart n) s = .next (complete n 0 [] (updItin c.part (fun t => { t with startReq := true }) s))) ∧
  (∀ (s : State) (n : Nat) (c : Cmd), Serves s n 0x0506 c (stageChk s n c) →
    exec (.itinStop n) s = .next (complete n 0 [] (updItin c.part (fun t => { t with stopReq := true }) s))) ∧
  (∀ (s : State) (n : Nat) (c : Cmd) (x : Sa), Serves s n 0x0507 c (stageChk s n c) → x = Sa.of (BitVec.ofNat 64 (c.arg 8 8)) → c.arg 4 4 ≠ 0 → x.space = 2 ∧ isOwn s x.dev
    = true ∧ partTally s c.part x.off = true ∧ x.off % 2 ^ 18 + 8 * c.arg 4 4 ≤ 2 ^ 18 →
    exec (.tallyInit n) s = .next (complete n 0 [] ((List.range (c.arg 4 4)).foldl (fun s i => tallyWrite (BitVec.ofNat 64 (c.arg 16 8)) (x.off / 8 + i)
      s) s))) ∧
  (∀ (s : State) (n : Nat) (c : Cmd), Serves s n 0x0508 c { ready := s.rep.boot.stage } →
    exec (.stageGet n) s = .next (complete n 0 (leBytes 8 (stgNow s) ++ leBytes 8 (stgStatus s) ++ leBytes 4 (stgEstimate s)) s))

/-- Where the commands of groups 0x06 to 0x08 complete (R431 to R433). -/
def Obligations.LaunchDepotAndIndexCommandsComplete : Prop :=
  (∀ (s : State) (n : Nat) (c : Cmd) (k : Nat) (t : State), s.runs → Serves s n 0x0601 c { partChk s n c with ready := cellsReady s (launchCells s (saOff (c.arg 8 8)) (c.arg 4 4)) } →
    0 < c.arg 4 4 ∧ c.arg 4 4 ≤ 320 → descArg s c.ctx (c.arg 8 8) = none → launchMany c.part (saOff (c.arg 8 8)) (c.arg 4 4)
    none s = ((.done, k), t) →
    exec (.launchCmd n) s = .next (complete n 0 (leBytes 4 k) t)) ∧
  (∀ (s : State) (n : Nat) (c : Cmd) (m : Nat), s.runs → Serves s n 0x0602 c { partChk s n c with ready := cellsReady s (issueCells (c.arg 2 2)) } → m < 40 ∧ c.arg 2 2 =
    0x2000 + m → descArg s c.ctx (c.arg 8 8) = none → (partCells s c.part).contains (m / 2) = true → queuedAt s .matrix m c.part
    < 64 →
    exec (.issueCmd n) s = .next (complete n 0 [] (enqueue .matrix m c.part (saOff (c.arg 8 8)) 0 1 none none false s))) ∧
  (∀ (s : State) (n : Nat) (c : Cmd), Serves s n 0x0701 c { exist := (partOf s c.part).isSome, ready := cellsReady s (depParams s c).cells } → (depParams s
    c).pool ≠ 0 → (depParams s c).ok = true ∧ (depParams s c).cells.all (partCells s c.part).contains = true → memberOf s c.part
    (c.arg 4 4) = none → reserveFits s c.part (nblk (depParams s c).pool) none = true ∧ 0 < ((partOf s c.part).map Part.q).getD
    0 → (s.store.allocs.map (fun x => x.2.extent)).sum + (s.store.allocs.length + 1) * (depParams s c).pool ≤ 2 ^ 48 →
    ∃ b t, makeAlloc
      { size := (depParams s c).pool, tier := .managed, cells := (depParams s c).cells, near := (depParams s c).cells, ctx := 0, part := c.part }
      s = (some b, t) ∧ exec (.depotCreate n) s = .next (complete n 0 (leBytes 48 (depDigest c))
      { t with dep := { t.dep with members := tput (memKey c.part (c.arg 4 4)) { depot := c.arg 4 4, part := c.part, params := depParams s c, digest := depDigest c, base := b } t.dep.members } })) ∧
  (∀ (s : State) (n : Nat) (c : Cmd) (m : Member) (map : List Nat), Serves s n 0x0702 c { depChk s n c with ready := memberReady s c } → memberOf s c.part (c.arg 4 4) = some m → map =
    (List.range 4096).map (fun i => c.arg (48 + 4 * i) 4) → map.any (fun v => !slotValid v || bitsOf v 30 17 != 0) = false →
    m.mapgen < c.arg 8 4 →
    exec (.depotMapSet n) s = .next (complete n 0 [] (localMoves c.part (c.arg 4 4) (mapSet c.part (c.arg 4 4) (c.arg 8 4) map s)))) ∧
  (∀ (s : State) (n : Nat) (c : Cmd) (a : HomeAns) (m : Member), Serves s n 0x0703 c (depChk s n c) → memberOf s c.part (c.arg 4 4) = some m → m.mapgen ≠ 0 → m.leases.length < 262144 ∨
    (tget (c.arg 8 8) m.leases).isSome = true →
    exec (.depotOpen (.command n a)) s = .next (askHome .open c.part m.depot (c.arg 8 8) 0 (some a) s)) ∧
  (∀ (s : State) (n : Nat) (c : Cmd) (a : HomeAns) (m : Member) (l : Lease), Serves s n 0x0704 c (depChk s n c) → memberOf s c.part (c.arg 4 4) = some m → tget (c.arg 8 8) m.leases = some l → l.role =
    .owner ∧ l.epoch = c.arg 16 4 →
    exec (.depotRelease (.command n a)) s = .next (releaseGo c.part m.depot (c.arg 8 8) (updLease c.part m.depot (c.arg 8 8) (fun l => { l with releasing := some a }) s))) ∧
  (∀ (s : State) (n : Nat) (c : Cmd) (a : HomeAns) (m : Member), Serves s n 0x0705 c (depChk s n c) → memberOf s c.part (c.arg 4 4) = some m → m.mapgen ≠ 0 → 0 < c.arg 16 4 ∧ c.arg 16 4 ≠ 2
    ^ 32 - 1 → tget (c.arg 8 8) m.leases = none → m.leases.length < 262144 →
    exec (.depotAcquire (.command n a)) s = .next (askHome .acquire c.part m.depot (c.arg 8 8) (c.arg 16 4) (some a) s)) ∧
  (∀ (s : State) (n : Nat) (c : Cmd) (a : HomeAns) (m : Member) (l : Lease), Serves s n 0x0706 c (depChk s n c) → memberOf s c.part (c.arg 4 4) = some m → tget (c.arg 8 8) m.leases = some l → l.role ≠
    .lost ∧ l.epoch = c.arg 16 4 →
    exec (.depotClose (.command n a)) s = .next (askHome .close c.part m.depot (c.arg 8 8) l.epoch (some a) s)) ∧
  (∀ (s : State) (n : Nat) (c : Cmd) (m : Member), Serves s n 0x0707 c (depChk s n c) → memberOf s c.part (c.arg 4 4) = some m → m.leases = [] ∧ m.moving = [] ∧ m.mapgen = 0 →
    exec (.depotDestroy n) s = .next (complete n 0 [] (freeAlloc m.base
      { s with dep := { s.dep with members := tdel (memKey c.part m.depot) s.dep.members } }))) ∧
  (∀ (s : State) (n : Nat) (c : Cmd) (m : Member), Serves s n 0x0708 c (depChk s n c) → memberOf s c.part (c.arg 4 4) = some m →
    exec (.depotGet n) s = .next (complete n 0 (leBytes 4 (m.role (c.arg 8 8)) ++ leBytes 4 (((tget (c.arg 8 8) m.leases).map Lease.epoch).getD 0) ++
      leBytes 4 m.mapgen) s)) ∧
  (∀ (s : State) (n : Nat) (c : Cmd) (x : Index) (k : Nat), Serves s n 0x0801 c
    { partChk s n c with ready := cellsReady s (maskCells (c.arg 20 4)) && censusReady s (maskCells (c.arg 16 4)) } → x =
    indexOf c → x.cap ≠ 0 → x.ok s = true → idxOf s c.part x.num = none → placeFits x s = true → (∀ y ∈ x.partsOf, (x.partAlloc
    y).extent ≤ k) → (s.store.allocs.map (fun x => x.2.extent)).sum + (s.store.allocs.length + 2 * x.partsOf.length) * k ≤ 2 ^
    48 →
    ∃ ps t, placeAll x s = some (ps, t) ∧ exec (.indexCreate n) s = .next (complete n 0 []
      { t with idx := tput (idxKey c.part x.num) { x with parts := ps } t.idx })) ∧
  (∀ (s : State) (n : Nat) (c : Cmd) (x : Index), Serves s n 0x0802 c (idxChk s n c) → idxOf s c.part (c.arg 1 1) = some x → x.holds = [] → s.eng.ops.any (fun o => o.2.kind =
    .assay && o.2.st != .queued && o.2.part = c.part && fld o.2.desc 32 1 = x.num) = false →
    exec (.indexDestroy n) s = .next (complete n 0 [] (dropIndex x s))) ∧
  (∀ (s : State) (n : Nat) (c : Cmd) (x : Index) (t : State), Serves s n 0x0803 c (idxChk s n c) → idxOf s c.part (c.arg 1 1) = some x → c.arg 4 4 ≠ 0 → batchGo (insertOne c) (List.range
    (c.arg 4 4)) s = (none, t) →
    exec (.indexInsert n) s = .next (complete n 0 (leBytes 4 (c.arg 4 4) ++ leBytes 4 0) t)) ∧
  (∀ (s : State) (n : Nat) (c : Cmd) (x : Index) (t : State), Serves s n 0x0804 c (idxChk s n c) → idxOf s c.part (c.arg 1 1) = some x → c.arg 4 4 ≠ 0 → batchGo (deleteOne c) (List.range
    (c.arg 4 4)) s = (none, t) →
    exec (.indexDelete n) s = .next (complete n 0 (leBytes 4 (c.arg 4 4) ++ leBytes 4 0) t)) ∧
  (∀ (s : State) (n : Nat) (c : Cmd) (x : Index) (t : State), Serves s n 0x0805 c (idxChk s n c) → idxOf s c.part (c.arg 1 1) = some x → c.arg 4 4 ≠ 0 → batchGo (linkOne c) (List.range
    (c.arg 4 4)) s = (none, t) →
    exec (.indexLink n) s = .next (complete n 0 (leBytes 4 (c.arg 4 4) ++ leBytes 4 0) t)) ∧
  (∀ (s : State) (n : Nat) (c : Cmd) (x : Index), Serves s n 0x0806 c (idxChk s n c) → idxOf s c.part (c.arg 1 1) = some x → x.version + 1 ≠ ones48 →
    exec (.indexPublish n) s = .next (complete n 0 (leBytes 6 (x.version + 1)) (reclaimAll (updIdx c.part x.num (fun x =>
      { x with version := x.version + 1 }) s)))) ∧
  (∀ (s : State) (n : Nat) (c : Cmd) (x : Index), Serves s n 0x0807 c (idxChk s n c) → idxOf s c.part (c.arg 1 1) = some x → x.holds.length < 16 → idxFloor s x ≤ c.arg 8 6 ∧
    c.arg 8 6 ≤ x.version →
    exec (.indexHold n) s = .next (complete n 0 [] (updIdx c.part x.num (fun x => { x with holds := x.holds ++ [c.arg 8 6] }) s))) ∧
  (∀ (s : State) (n : Nat) (c : Cmd) (x : Index), Serves s n 0x0808 c (idxChk s n c) → idxOf s c.part (c.arg 1 1) = some x → x.holds.contains (c.arg 8 6) = true →
    exec (.indexRelease n) s = .next (complete n 0 [] (reclaimAll (updIdx c.part x.num (fun x => { x with holds := x.holds.erase (c.arg 8 6) }) s)))) ∧
  (∀ (s : State) (n : Nat) (c : Cmd) (x : Index), Serves s n 0x0809 c (idxChk s n c) → idxOf s c.part (c.arg 1 1) = some x →
    exec (.indexState n) s = .next (complete n 0 (leBytes 6 x.version ++ leBytes 6 (idxFloor s x) ++ leBytes 1 x.holds.length ++ leBytes 1 (b2n
      x.sweeping) ++ leBytes 2 0 ++ leBytes 4 x.slots.length ++ leBytes 4 (x.slots.filter (fun y => y.2.del !=
      ones48)).length ++ leBytes 4 (x.cap - x.slots.length) ++ leBytes 4 x.repq.length ++ leBytes 8 x.sweeps) s))

/-- Where the commands of group 0x09 complete (R150, R338, R350, R364, R371, R379 to R382, R434). -/
def Obligations.FabricCommandsComplete : Prop :=
  (∀ (s : State) (n : Nat) (c : Cmd) (devs : List Nat), Serves s n 0x0901 c { gen := some objStore } → devs = (List.range 4096).filter (fun i => bit (((c.args.drop 48).take
    512).getD (i / 8) 0).toNat (i % 8)) → c.arg 0 2 ≤ 4094 → bit (((c.args.drop 48).take 512).getD (c.arg 0 2 / 8) 0).toNat
    (c.arg 0 2 % 8) = true → bit (((c.args.drop 48).take 512).getD (4095 / 8) 0).toNat (4095 % 8) = false → s.sync.feMode = true
    ∨ devs.length ≤ 8 → c.arg 0 2 = s.parts.devNo ∨ ((List.range 8).any (portActive s) = false ∧ s.parts.live = []) →
    exec (.storeSet n) s = .next (completeGen n objStore [] { s with parts := { s.parts with devNo := c.arg 0 2, assigned := devs } })) ∧
  (∀ (s : State) (n : Nat) (c : Cmd) (es : List Nat), Serves s n 0x0902 c { gen := some objRoute } → es = (List.range 4096).map (fun i => fld (c.args.drop 48) (4 * i) 4) → es.any
    (fun v => bitsOf v 30 12 != 0 || bitsOf v 7 3 != 0) = false →
    exec (.routeSet n) s = .next (completeGen n objRoute []
      { s with car := { s.car with routes := ((List.range 4096).zip es).filterMap (fun (x : Nat × Nat) => if bit x.2 31 then some (x.1, ({ stages := bitsOf x.2 11 8, port := bitsOf x.2 2 0 } : Route)) else none) } })) ∧
  (∀ (s : State) (n : Nat) (c : Cmd), Serves s n 0x0903 c
    { exist := decide (c.arg 1 1 < 8), gen := some (objPort (c.arg 1 1)), ready := s.rep.boot.ports.getLsbD (c.arg 1 1) } →
    c.arg 3 1 ≤ 15 ∧ c.arg 4 1 ≤ 127 ∧ c.arg 8 2 ≤ 4095 ∧ 10 ≤ c.arg 10 2 ∧ c.arg 10 2 ≤ 200 ∧ 4 ≤ c.arg 12 1 ∧ c.arg 12 1 ≤ 64
    → 1 ≤ c.arg 6 1 ∧ c.arg 6 1 ≤ 9 ∧ 10 ^ c.arg 5 1 ≤ c.arg 6 1 * 10 ^ 6 ∧ c.arg 6 1 * 10 ^ 3 ≤ 10 ^ c.arg 5 1 → portActive s
    (c.arg 1 1) = false ∨ c.arg 8 2 = (port s (c.arg 1 1)).cfg.sptag →
    exec (.portConfig n) s = .next (completeGen n (objPort (c.arg 1 1)) [] (updPort (c.arg 1 1) (fun y =>
      { y with cfg := { y.cfg with remapEn := bit (c.arg 2 1) 0, coherent := bit (c.arg 2 1) 1, serExp := c.arg 5 1, serMant := c.arg 6 1, sptag := c.arg 8 2, modAddr := c.arg 4 1, wavelength := c.arg 3 1 }, serWindow := c.arg 10 2, serBytes := c.arg 12 1 })
      s))) ∧
  (∀ (s : State) (n : Nat) (c : Cmd), Serves s n 0x0904 c { ready := (cmdPorts c).all (fun p => s.rep.boot.ports.getLsbD p) } → c.arg 2 1 = 0 →
    exec (.portDisable n) s = .next (complete n 0 [] ((cmdPorts c).foldl (fun s p => splitEnd (unitField .port p) false false ((port (if (port s p).st =
      .fenced then updPort p (fun x => { x with cfg := { x.cfg with enable := false } }) s else updPort p (fun x =>
      { x with cause := 4, width := 0, cfg := { x.cfg with enable := false } }) (leaveActive p .disabled s)) p).st != .down)
      (if (port s p).st = .fenced then updPort p (fun x => { x with cfg := { x.cfg with enable := false } }) s else updPort
      p (fun x => { x with cause := 4, width := 0, cfg := { x.cfg with enable := false } }) (leaveActive p .disabled s))) s))) ∧
  (∀ (s : State) (n : Nat) (c : Cmd) (p : Nat) (t u : State), Serves s n 0x0904 c { ready := (cmdPorts c).all (fun p => s.rep.boot.ports.getLsbD p) } → c.arg 2 1 = 1 → cmdPorts c = [p] →
    t = updPort p (fun x => { x with cfg := { x.cfg with enable := true } }) s → u = (if (port t p).st = .disabled || (port t
    p).st = .down then updPort p (fun x => { x with cause := 0 }) (enter p .detect t) else t) →
    exec (.portEnable n) s = .next (complete n 0 [] (splitEnd (unitField .port p) false true ((port u p).st != .down) u))) ∧
  (∀ (s : State) (n : Nat) (c : Cmd) (p : Nat) (u : State), Serves s n 0x0904 c { ready := (cmdPorts c).all (fun p => s.rep.boot.ports.getLsbD p) } → c.arg 2 1 = 2 → cmdPorts c = [p] →
    (port s p).fenceLog = false → u = carsLost p .abortedFenced true (updPort p (fun x =>
    { x with fenceLog := true, fenceAt := s.now }) s) →
    exec (.portFence n) s = .next (fencesDone (splitEnd (unitField .port p) false false ((port u p).st != .down) u))) ∧
  (∀ (s : State) (n : Nat) (c : Cmd) (p : Nat) (u : State), Serves s n 0x0904 c { ready := (cmdPorts c).all (fun p => s.rep.boot.ports.getLsbD p) } → c.arg 2 1 = 3 → cmdPorts c = [p] →
    (port s p).st = .fenced → u = updPort p (fun x => { x with fenceLog := false, fenceElec := false }) (enter p .detect s) →
    exec (.portUnfence n) s = .next (complete n 0 [] (splitEnd (unitField .port p) false true ((port u p).st != .down) u))) ∧
  (∀ (s : State) (n : Nat) (c : Cmd), Serves s n 0x0905 c { gen := some objSyncMode } → c.arg 1 1 = 1 ∨ (c.arg 1 1 = 0 ∧ s.parts.assigned.length ≤ 8) →
    exec (.syncMode n) s = .next (completeGen n objSyncMode [] { s with sync := { s.sync with feMode := c.arg 1 1 = 1 } })) ∧
  (∀ (s : State) (n : Nat) (c : Cmd), Serves s n 0x0906 c { gen := some objTimers } → 10 ≤ c.arg 4 4 ∧ c.arg 4 4 ≤ 100000 ∧ 100 ≤ c.arg 8 4 ∧ c.arg 8 4 ≤ 1000000 →
    exec (.fabricTimers n) s = .next (completeGen n objTimers []
      { s with sync := { s.sync with beaconHold := c.arg 4 4 * 1000 }, car := { s.car with ackTimeout := c.arg 8 4 * 1000 } })) ∧
  (∀ (s : State) (n : Nat) (c : Cmd) (obj : List Byte) (i : Nat) (t : FrbTable), Serves s n 0x0907 c (partChk s n c) → c.arg 4 4 ≠ 0 → imageBad s c.ctx (c.arg 8 8) (c.arg 4 4) = none → obj = storeBytes s
    (saOff (c.arg 8 8)) (c.arg 4 4) → tget (frbTableKey c.part (fld (sigSplit obj).1 4 4)) s.car.tables = none → frbParse
    (sigSplit obj).1 = some (i, t) → frbHeld s c.part < 16 →
    exec (.frbTableLoad n) s = .next (if signedOk s 3 .tables obj then complete n 0 (leBytes 4 i)
      { s with car := { s.car with tables := tput (frbTableKey c.part i) t s.car.tables } } else complete n
      Status.invalidArg.code [] s)) ∧
  (∀ (s : State) (n : Nat) (c : Cmd), Serves s n 0x0908 c
    { partChk s n c with exist := (partOf s c.part).isSome && (tget (frbTableKey c.part (c.arg 4 4)) s.car.tables).isSome } →
    s.car.frb.any (fun x => x.1 / 64 = c.part && x.2.table = c.arg 4 4) = false →
    exec (.frbTableFree n) s = .next (complete n 0 [] { s with car := { s.car with tables := tdel (frbTableKey c.part (c.arg 4 4)) s.car.tables } })) ∧
  (∀ (s : State) (n : Nat) (c : Cmd) (es base : Nat) (t : State), Serves s n 0x0909 c
    { partChk s n c with gen := some (objFrb c.part (c.arg 1 1)), ready := decide (7 < c.arg 2 1) || s.rep.boot.ports.getLsbD (c.arg 2 1) }
    → es = frbEs (c.arg 3 1) ∧ base = saOff (c.arg 8 8) → c.arg 16 8 ≠ 0 ∧ c.arg 1 1 ≤ 63 ∧ c.arg 2 1 ≤ 7 ∧ c.arg 3 1 ≤ 1 ∧
    c.arg 24 1 = 0 → holdsSlot s c.part (c.arg 2 1) = true → (tget (frbTableKey c.part (c.arg 4 4)) s.car.tables).isSome = true
    → ownStore s (c.arg 8 8) = true ∧ base % (256 * es) = 0 ∧ c.arg 16 8 % (256 * es) = 0 ∧ base + c.arg 16 8 ≤ 2 ^ 48 →
    s.car.frb.any (fun x => x.1 / 64 = c.part && x.1 != frbKey c.part (c.arg 1 1) && decide (x.2.base < base + c.arg 16 8) &&
    decide (base < x.2.base + x.2.length)) = false → frbBusy s c.part (c.arg 1 1) = false → t = frbDrop c.part (c.arg 1 1) s →
    exec (.frbStreamSet n) s = .next (completeGen n (objFrb c.part (c.arg 1 1)) []
      { t with car := { t.car with frb := tput (frbKey c.part (c.arg 1 1)) { port := c.arg 2 1, sfmt := c.arg 3 1, table := c.arg 4 4, base := base, length := c.arg 16 8, ef := false, resid := none } t.car.frb } })) ∧
  (∀ (s : State) (n : Nat) (c : Cmd), Serves s n 0x090A c (frbChk s n c) → frbBusy s c.part (c.arg 1 1) = false →
    exec (.frbStreamFree n) s = .next (complete n 0 [] (setGen (objFrb c.part (c.arg 1 1)) 0 (frbDrop c.part (c.arg 1 1) s)))) ∧
  (∀ (s : State) (n : Nat) (c : Cmd), Serves s n 0x090B c (frbChk s n c) → frbBusy s c.part (c.arg 1 1) = false →
    exec (.frbStreamClear n) s = .next (complete n 0 [] (frbClear c.part (c.arg 1 1) s)))

/-- Where the commands of groups 0x0A to 0x0D complete (R435 to R438). -/
def Obligations.SecurityAndServiceCommandsComplete : Prop :=
  (∀ (s : State) (n : Nat) (c : Cmd) (b : List Byte), Serves s n 0x0A01 c { partChk s n c with exist := c.part = 0xFF || (partOf s c.part).isSome, ready := s.rep.boot.ledger } →
    b = attestReport s c.part ((c.args.drop 16).take 32) → b.length ≤ c.arg 4 4 → bufferOk s n c.ctx (c.arg 8 8) b.length = true →
    exec (.attest n) s = .next (complete n 0 (leBytes 4 b.length) (bufferWrite n (c.arg 8 8) b s))) ∧
  (∀ (s : State) (n : Nat) (c : Cmd) (x : Part) (b : List Byte), Serves s n 0x0A02 c (partChk s n c) → partOf s c.part = some x → b = sealBlob s c.part x (draw s).1 → n = 0 ∨ ownStore s
    (c.arg 8 8) = true → b.length ≤ bufferRoom s n (c.arg 8 8) → bufferOk s n c.ctx (c.arg 8 8) b.length = true →
    exec (.waybillKeySeal n) s = .next (complete n 0 (leBytes 4 b.length) (bufferWrite n (c.arg 8 8) b (draw s).2))) ∧
  (∀ (s : State) (n : Nat) (c : Cmd) (img : List Byte) (x : List Byte × List Byte), Serves s n 0x0A03 c {} → img = tgetD s.pmp.image c.session [] ∧ x = sigSplit img → img.length = c.arg 4 4 ∧ sigLen ≤
    img.length ∧ img.length ≤ 2 ^ 23 → rollback s 0 ≤ sgSvn x.2 ∧ sgCounter x.2 = 0 → Config.sha384 img = c.arg 8 48 →
    exec (.fwStage n) s = .next (if ((sigChecks s 0 .mgmt x.1 x.2).zip (List.range 5)).all (fun y => y.1 || y.2 = 3) then complete n 0 []
      { s with rep := { s.rep with images := tput (1 - s.rep.boot.slot) (sgSvn x.2, Config.sha384 x.1) s.rep.images, preferred := 1 - s.rep.boot.slot }, pmp := { s.pmp with image := tdel c.session s.pmp.image } }
      else complete n 0x0221 [] s)) ∧
  (∀ (s : State) (n : Nat) (c : Cmd), Serves s n 0x0A04 c (partChk s n c) → (List.range 64).filter (fun k => (s.parts.keys.getD k {}).st = .free) ≠ [] →
    ∃ k t, pickFree ((List.range 64).filter (fun k => (s.parts.keys.getD k {}).st = .free)) s = (some k, t) ∧ exec
      (.keyslotAlloc n) s = .next (complete n 0 (leBytes 1 k) (issueSlot k c.part t))) ∧
  (∀ (s : State) (n : Nat) (c : Cmd), Serves s n 0x0A05 c
    { exist := (partOf s c.part).isSome && decide (c.arg 1 1 < 64) && (s.parts.keys.getD (c.arg 1 1) {}).st != .free && (n != 0 || (s.parts.keys.getD (c.arg 1 1) {}).part = c.part), mine := c.part + 1 = n && (s.parts.keys.getD (c.arg 1 1) {}).part = c.part }
    → (s.parts.keys.getD (c.arg 1 1) {}).st = .issued → s.xlt.ctxs.any (fun x => x.2.keyslot = c.arg 1 1) = false →
    exec (.keyslotRetire n) s = .next (complete n 0 [] (sweepKeys (retireSlot (c.arg 1 1) s)))) ∧
  (∀ (s : State) (n : Nat) (c : Cmd), Serves s n 0x0B01 c
    { partChk s n c with gen := some c.part, mgmt := [(objRetry c.part, some (c.arg 2 1) != (partOf s c.part).map Part.retryLimit)] }
    → c.arg 1 1 ≤ ((partOf s c.part).map Part.shadowMax).getD 0 ∧ c.arg 2 1 ≤ 3 →
    exec (.checkSet n) s = .next (completeGen n c.part [] (updPart c.part (fun x => { x with shadowN := c.arg 1 1, retryLimit := c.arg 2 1 }) s))) ∧
  (∀ (s : State) (n : Nat) (c : Cmd), Serves s n 0x0B02 c { partChk s n c with gen := some c.part } → c.arg 1 1 ≤ 16 →
    exec (.shadowMaxSet n) s = .next (completeGen n c.part [] (updPart c.part (fun x =>
      { x with shadowMax := c.arg 1 1, shadowN := min x.shadowN (c.arg 1 1) }) s))) ∧
  (∀ (s : State) (n : Nat) (c : Cmd) (k : UnitKind) (u : Nat) (t : State), Serves s n 0x0B03 c { ready := s.rep.boot.ledger } → u = c.arg 2 2 → testOf s (.phys u) = none → testKind u = some k → t =
    testQueue (.phys u) true c.entry (updTested (.phys u) (fun r => { r with testing := true }) s) →
    exec (.selftest n) s = .next (complete n 0 (leBytes 4 s.rep.nextTest) (splitsEnd k u ((logicalOf t k (u % 4096)).elim t (fun l => if spareFor t k l
      then markDue k l t else t))))) ∧
  (∀ (s : State) (n : Nat) (c : Cmd) (t : SelfTest), Serves s n 0x0B04 c { exist := s.rep.tests.any (fun t => t.id = c.arg 0 4) } → s.rep.tests.find? (fun t => t.id = c.arg 0 4)
    = some t →
    exec (.testGet n) s = .next (complete n 0 (leBytes 1 t.state ++ leBytes 3 0 ++ leBytes 4 t.detail) s)) ∧
  (∀ (s : State) (n : Nat) (c : Cmd) (k : UnitKind) (u : Nat), Serves s n 0x0B05 c { ready := s.rep.boot.ledger } → u = c.arg 2 2 → s.rep.writes.any (fun w => w.mb = some n) = false →
    testKind u = some k → (tgetD s.eng.units u {}).quarantined = true ∧ (tgetD s.eng.units u {}).passed = true →
    exec (.quarantineLift n) s = .next (liftUnit k u n s)) ∧
  (∀ (s : State) (n : Nat) (c : Cmd) (es : List LedEnt), Serves s n 0x0B06 c { ready := s.rep.boot.ledger } → es = (s.rep.ledger.drop (c.arg 4 4)).take (c.arg 16 4) → 0 < c.arg 16 4
    ∧ c.arg 16 4 ≤ 4096 →
    exec (.ledgerRead n) s = .next (if n = 21 then completeX n 0 (leBytes 4 es.length ++ leBytes 4 s.rep.ledger.length) (es.flatMap ledgerBytes) s else
      complete n 0 (leBytes 4 es.length ++ leBytes 4 s.rep.ledger.length) (if (es.flatMap ledgerBytes).isEmpty then s else
      emit (.hostWr (c.arg 8 8) (es.flatMap ledgerBytes)) s))) ∧
  (∀ (s : State) (n : Nat) (c : Cmd), Serves s n 0x0B07 c { gen := some objScrub } → 1 ≤ c.arg 1 1 ∧ c.arg 1 1 ≤ 168 ∧ 1 ≤ c.arg 2 1 ∧ c.arg 2 1 ≤ 15 →
    exec (.scrubSet n) s = .next (completeGen n objScrub [] { s with store := { s.store with scrubHours := c.arg 1 1, retryMax := c.arg 2 1 } })) ∧
  (∀ (s : State) (n : Nat) (c : Cmd), Serves s n 0x0B08 c { gen := some objWdog } → 10000 ≤ c.arg 4 4 ∧ c.arg 4 4 ≤ 60000000 →
    exec (.mbxWdogSet n) s = .next (completeGen n objWdog [] (updHost (fun h => { h with wdog := c.arg 4 4 }) s))) ∧
  (∀ (s : State) (n : Nat) (c : Cmd), Serves s n 0x0C01 c { gen := some objPower } → freqOk (c.arg 4 2) = true ∧ freqOk (c.arg 6 2) = true ∧ c.arg 6 2 ≤ c.arg 4 2
    → 410 ≤ c.arg 8 4 ∧ c.arg 8 4 ≤ 960 ∧ 200 ≤ c.arg 12 4 ∧ c.arg 12 4 ≤ 640 →
    exec (.powerEnvelope n) s = .next (completeGen n objPower [] (updPwr (fun p =>
      { p with fmax := c.arg 4 2, fmin := c.arg 6 2, logic := c.arg 8 4, stack := c.arg 12 4 }) s))) ∧
  (∀ (s : State) (n : Nat) (c : Cmd), Serves s n 0x0C02 c
    { partChk s n c with gen := some c.part, mine := c.part + 1 = n && (maskCells (c.arg 8 4)).all (fun i => (partCells s c.part).contains i) }
    → c.arg 4 2 = 0 ∨ (s.pwr.fmin ≤ c.arg 4 2 ∧ c.arg 4 2 ≤ s.pwr.fmax ∧ c.arg 4 2 % 100 = 0) →
    exec (.cellFreqPin n) s = .next (completeGen n c.part [] (updPwr (fun p =>
      { p with cells := (maskCells (c.arg 8 4)).foldl (fun (v : Vector PwrCell 20) i => v.setIfInBounds i { (v.getD i {}) with pin := c.arg 4 2 }) p.cells })
      s))) ∧
  (∀ (s : State) (n : Nat) (c : Cmd), Serves s n 0x0C03 c { exist := decide (c.arg 1 1 < 2), gen := some (objClkout (c.arg 1 1)) } → c.arg 3 1 ≤ 10 ∧ c.arg 4 1 ≤
    6 →
    exec (.clkoutSet n) s = .next (completeGen n (objClkout (c.arg 1 1)) [] (updClk (fun k =>
      { k with out := k.out.setIfInBounds (c.arg 1 1) { en := c.arg 2 1 = 1, spread := c.arg 3 1, rate := c.arg 4 1 } }) s))) ∧
  (∀ (s : State) (n : Nat) (c : Cmd), Serves s n 0x0C04 c {} →
    exec (.powerGet n) s = .next (complete n 0 (leBytes 2 s.pwr.pkgW ++ leBytes 2 s.pwr.logicW ++ leBytes 2 s.pwr.stackW ++ leBytes 2
      ((s.pwr.cells.toList.map PwrCell.cur).foldl max 0) ++ leBytes 1 (hottest s) ++ leBytes 1 (s.pwr.inlet.getD 0 / 10)) s)) ∧
  (∀ (s : State) (n : Nat) (c : Cmd), Serves s n 0x0D01 c {} →
    exec (.dbgUnlock n) s = .next ((dbgToken s (c.args.drop 48)).elim (complete n 0x0121 [] s) (fun t => complete n 0 [] (raiseCounter 1 (sgSvn (sigSplit
      t).2) { s with ras := { s.ras with dbgUnlocked := true, dbgSvn := sgSvn (sigSplit t).2 } })))) ∧
  (∀ (s : State) (n : Nat) (c : Cmd) (x : Sa), Serves s n 0x0D02 c { exist := decide (c.arg 0 1 < 20) } → x = Sa.of (BitVec.ofNat 64 (c.arg 8 8)) → cellFree s (c.arg 0 1)
    = true ∧ s.ras.dbgUnlocked = true → x.space = 1 ∧ isOwn s x.dev = true ∧ x.off / 2 ^ 26 < 20 ∧ cellFree s (x.off / 2 ^ 26) =
    true → x.off % 2 ^ 26 + c.arg 4 4 ≤ spadBytes s (x.off / 2 ^ 26) →
    ∃ k t, k ≤ c.arg 4 4 ∧ (∀ a, a < x.off ∨ x.off + k ≤ a → byteAt t.store.spad a = byteAt s.store.spad a) ∧ exec
      (.dbgDump n) s = .next (complete n 0 (leBytes 4 k) (cnt 0x90008 1 t))) ∧
  (∀ (s : State) (n : Nat) (c : Cmd), Serves s n 0x0D03 c {} →
    exec (.dbgLock n) s = .next (complete n 0 [] { s with ras := { s.ras with dbgUnlocked := false, dbgSvn := 0 } }))

/-- Where the rows of bring-up, of the census and of the management ports' links complete (R73 to R77, R466 to R472, R495). -/
def Obligations.BringUpRowsComplete : Prop :=
  (∀ (s : State), s.rep.epoch ≠ 0 → s.inBoot .fuse →
    exec (.fuseReadDone true true) s = .next (updBoot (fun b =>
      { b with phase := .rom, fused := true, portsFailed := fusedPorts }) (latchMap s)) ∧ (∀ a, exec (.fuseReadDone a false)
      s = .next (updBoot (fun b => { b with phase := .fuseFail }) s)) ∧ exec (.fuseReadDone false true) s = .next (if
      s.rep.boot.fuseTries < 3 then updBoot (fun b => { b with fuseTries := b.fuseTries + 1 }) s else updBoot (fun b =>
      { b with phase := .fuseFail }) s)) ∧
  (∀ (s : State) (i : Nat), s.inBoot .rom → i = (if s.rep.boot.fallback then 1 - s.rep.preferred else s.rep.preferred) →
    (∀ svn : BitVec 32, (rollback s 0 ≤ svn.toNat → exec (.bootImageVerify none svn) s = .next (cpStart (updBoot (fun b =>
      { b with slot := i, svn := svn.toNat }) (updRep (fun r =>
      { r with images := if (tget i r.images).map Prod.fst = some svn.toNat then r.images else tdel i r.images }) s)))) ∧
      (svn.toNat < rollback s 0 → exec (.bootImageVerify none svn) s = exec (.bootImageVerify (some 4) svn) s)) ∧ (∀ (k :
      Nat) (svn : BitVec 32), exec (.bootImageVerify (some k) svn) s = .next (if s.rep.boot.fallback then updBoot (fun b =>
      { b with phase := .halt, haltCheck := k % 256 }) s else updBoot (fun b => { b with fallback := true }) s))) ∧
  (∀ (s : State) (fails : List Nat), s.runs → s.inBoot .broadcast →
    exec (.imageBroadcast fails) s = .next (updBoot (fun b => { b with phase := .train, stage := true, xlt := true }) (fails.eraseDups.foldl imageFailed s))) ∧
  (∀ (s : State) (w : Nat), s.trains → w ≤ 4 ∧ s.rep.boot.waves.contains w = false →
    exec (.stackWaveStart w) s = .next (updBoot (fun b => { b with waves := b.waves ++ [w] }) (reachWall (s.rep.boot.ref + (28 + 25 * w) * 1000000) s))) ∧
  (∀ (s : State) (c : Nat) (x : Stack), s.trains → c < 20 ∧ s.rep.boot.waves.contains (c % 5) = true → x = s.store.stks.getD c {} ∧ x.ready = false ∧ x.failed =
    false →
    exec (.stackTrainingDone c true) s = .next (settle (updStack c (fun x =>
      { x with ready := true, attempts := x.attempts + 1 }) s)) ∧ (x.attempts = 0 → exec (.stackTrainingDone c false) s =
      .next (updStack c (fun x => { x with attempts := 1 }) s)) ∧ (x.attempts ≠ 0 → exec (.stackTrainingDone c false) s =
      .next (settle (evUnit 5 0 0xFFFF c (updBoot (fun b => { b with cellsFailed := b.cellsFailed ||| (1#20 <<< c) })
      (updStack c (fun x => { x with attempts := 2, failed := true }) s)))))) ∧
  (∀ (s : State) (c : Nat), s.trains → c < 20 ∧ (s.store.stks.getD c {}).ready = true ∧ s.rep.boot.ledger = true →
    exec (.cellReady c) s = .next (settle (updBoot (fun b => { b with cells := b.cells ||| (1#20 <<< c) }) s))) ∧
  (∀ (s : State) (p : Nat) (okay : Bool), s.trains → p < 8 ∧ s.rep.boot.ports.getLsbD p = false ∧ s.rep.boot.portsFailed.getLsbD p = false →
    exec (.portCalibrated p okay) s = .next (settle (updBoot (fun b => if okay then { b with ports := b.ports ||| (1#8 <<< p) } else
      { b with portsFailed := b.portsFailed ||| (1#8 <<< p) }) s))) ∧
  (∀ (s : State) (p : Nat), released s = true ∧ (s.rep.boot.phase = .train ∨ s.rep.boot.phase = .run) → p < 2 ∧ cpRuns s = true →
    exec (.mgmtPortReady p) s = .next (settle
      { updBoot (fun b => { b with mgmt := b.mgmt ||| (1#2 <<< p) }) s with pmp := { s.pmp with links := s.pmp.links ||| (1#2 <<< p) } })) ∧
  (∀ (s : State) (ch g : Nat) (f : Flash), s.trains → ch < 20 ∧ g = tgetD s.rep.boot.census ch 0 ∧ f = s.store.flash.getD ch {} → f.censusDone = false ∧ tget ch
    s.rep.boot.scan = none →
    exec (.censusTarget ch g none) s = .next (censusNext ch s) ∧ (∀ t : TargetPage, targetFit t = false ∨ f.geometry.getD
      (targetGeo t) ≠ targetGeo t → exec (.censusTarget ch g (some t)) s = .next (censusNext ch (evFlash 0 ch g 0 s))) ∧ (∀
      t : TargetPage, targetFit t = true → f.geometry.getD (targetGeo t) = targetGeo t → (targetKnown s ch g t = true → exec
      (.censusTarget ch g (some t)) s = .next (admitTarget ch g t s)) ∧ (targetKnown s ch g t = false → exec (.censusTarget
      ch g (some t)) s = .next (updBoot (fun b => { b with scan := tput ch t b.scan }) s)))) ∧
  (∀ (s : State) (ch g : Nat) (bad : List Nat) (t : TargetPage), s.trains → tget ch s.rep.boot.scan = some t → g = tgetD s.rep.boot.census ch 0 →
    exec (.enrolScanDone ch bad) s = .next (admitTarget ch g t (evFlash 4 ch g 0 (bad.eraseDups.foldl (fun s b => ledgerAdd
      { type := 0x08, cause := 7, cell := ch, target := g, object := b } none s) (ledgerAdd
      { type := 0x0A, cause := 7, cell := ch, target := g, object := bad.eraseDups.length, detail := t.uid % 2 ^ 64 } none
      s))))) ∧
  (∀ (s : State) (ch : Nat) (blocks : List Nat) (f : Flash), s.runs → ch < 20 ∧ f = s.store.flash.getD ch {} → f.censusDone = true ∧ f.admitted ≠ 0 →
    exec (.backgroundErase ch blocks) s = .next (releaseWrites ch (updFlash ch (fun f =>
      { f with erased := min (f.good * 4 - (if f.admitted.getLsbD 0 then 64 * f.perBlock else 0)) (f.erased + blocks.length * f.perBlock), wear := blocks.foldl (fun w b => tput b (tgetD w b 0 + 1) w) f.wear })
      s))) ∧
  (∀ (s : State) (id retried ch : Nat) (k : List Nat) (bad : Bool) (r : TierRead) (t u : State), s.runs → tierRead s id = some r ∧ r.place = .flash ch k → needsBlock r.req.op = false → t = flashRetry ch 0 retried (cnt
    (fchReg ch 0x18) 1 (readStall r (dropRead id s))) → u = (if 0 < retried then cnt (cellReg ch 0x498) 1 t else t) →
    exec (.flashReadDone id retried bad) s = .next (perform r.req (if bad then cnt (fchReg ch 0x28) 1 (poisonContent (span (content u r.req.off / 4096 * 64) 64) u) else
      u))) ∧
  (∀ (s : State) (p : Nat), p < 2 ∧ s.pmp.links.getLsbD p = true →
    exec (.mgmtLinkDown p) s = .next (updPmp (fun m => { m with links := m.links &&& ~~~(1#2 <<< p), shakes := m.shakes.filter (fun h => h.1 != p) })
      (((s.pmp.sessions.filter (fun x => x.2.port = p)).map Prod.fst).foldl (fun s n => closeSession n s) s))) ∧
  (∀ (s : State) (p : Nat), p < 2 ∧ s.rep.boot.mgmt.getLsbD p = true → s.pwr.trip = none →
    exec (.mgmtLinkUp p) s = .next (updPmp (fun m => { m with links := m.links ||| (1#2 <<< p) }) s))

/-- Where the ledger's, self-tests', clocks' and power rows complete (R23, R456, R473 to R482, R487 to R500). -/
def Obligations.RepairClockAndPowerRowsComplete : Prop :=
  (∀ (s : State) (held : List Nat) (t u : State), s.runs → s.rep.boot.ledger = false ∧ firstTargets s = true → t =
    { s with eng := { s.eng with units := s.eng.units.map (fun u => (u.1, { u.2 with quarantined := false })) } } → u = (if
    (ledgerChannels s).any (fun c => held.contains c) then t.rep.ledger.foldl replayEntry t else evPlatform 4 0 0 (updRep (fun r
    => { r with ledger := [] }) t)) →
    exec (.ledgerMerge held) s = .next (settle (splitsAll (updBoot (fun b => { b with ledger := true }) ((u.rep.boot.imageFail).foldl rebindFailed (updRep
      (fun r => { r with seq := (r.ledger.map LedEnt.seq).foldl max 0 + 1, copies := chMask (ledgerChannels u) }) u)))))) ∧
  (∀ (s : State) (ok took : List Nat) (x : LedWrite) (rest : List LedWrite), s.runs → s.rep.boot.ledger = true ∧ s.rep.fail = false → s.rep.writes = x :: rest → took = (ledgerChannels s).filter (fun c
    => ok.contains c) →
    (took ≠ [] → exec (.ledgerWrite ok) s = .next (testReports (x.mb.elim (ledgerLanded x rest took s) (fun n => complete
      n 0 [] (ledgerLanded x rest took s))))) ∧ (took = [] → exec (.ledgerWrite ok) s = .next (evPlatform 3 0 0 (updRep (fun
      r => { r with fail := true, writes := { x with since := s.wall } :: rest }) s)))) ∧
  (∀ (s : State) (t : State) (ok took : List Nat) (x : LedWrite) (rest : List LedWrite), s.runs → s.rep.boot.ledger = true ∧ s.rep.fail = true → s.rep.writes = x :: rest → t = reachWall (x.since + 10 ^ 9) s → took
    = (ledgerChannels t).filter (fun c => ok.contains c) →
    (took ≠ [] → exec (.ledgerRetry ok) s = .next (testReports (x.mb.elim (ledgerLanded x rest took t) (fun n => complete
      n 0 [] (ledgerLanded x rest took t))))) ∧ (took = [] → exec (.ledgerRetry ok) s = .next (evPlatform 3 0 0 (updRep (fun
      r => { r with fail := true, writes := { x with since := t.wall } :: rest }) t)))) ∧
  (∀ (s : State) (ok took : List Nat) (es : List LedEnt), s.runs → s.rep.boot.ledger = true ∧ s.rep.ledger ≠ [] → took = (ledgerChannels s).filter (fun c => ok.contains c) → took ≠
    [] → es = ({ type := 0x0C, cause := 0 } : LedEnt) :: inForce s.rep.ledger →
    exec (.ledgerCompact ok) s = .next (updRep (fun r =>
      { r with ledger := (es.zip (List.range es.length)).map (fun x => { x.1 with seq := s.rep.seq + x.2, epoch := s.rep.epoch }), seq := r.seq + es.length, copies := chMask took })
      s)) ∧
  (∀ (s : State) (p slot hash usage : Nat) (block : List Byte), pmpUp s p = true → slot < 4 ∧ operatorSlot s slot = 0 → 0 < usage ∧ usage < 4 ∧ hash < 2 ^ 384 →
    exec (.enrol p slot hash usage Config.fusedSerial block) s = .next (if (sigFails s 2 .mgmt (enrolContent slot hash usage Config.fusedSerial) block).isSome then s else updRep (fun r =>
      { r with operator := tput slot (hash * 4 + usage) r.operator }) s)) ∧
  (∀ (s : State) (t : TestUnit) (u : State), s.runs → testWindow s t = true →
    (∀ x, testOf s t = some x → x.state = 0 → exec (.selftestRun t) s = .next (updTested t (fun r =>
      { r with testing := true, starved := false }) (updTest t (fun x => { x with state := 1, started := s.now }) s))) ∧
      (testOf s t = none → testable s t = true → u = reachWall (testDue s t) s → testWindow u t = true → exec (.selftestRun
      t) s = .next (updTested t (fun r => { r with testing := true, starved := false }) (updTest t (fun x =>
      { x with state := 1, started := u.now }) (testQueue t false [] u))))) ∧
  (∀ (s : State) (t : TestUnit) (fail : Option Nat) (x : SelfTest), s.runs → testOf s t = some x ∧ x.state = 1 →
    exec (.selftestDone t fail) s = .next (testEnd t fail (reach (x.started + testLen t) s))) ∧
  (∀ (s : State) (u c b : Nat) (k : UnitKind), s.runs →
    (∀ x, testOf s (.phys u) = some x → x.state = 0 → (tgetD s.eng.units u {}).starved = false → testKind u = some k →
      exec (.selftestStarved (.phys u)) s = .next (evUnit 4 u ((logicalOf s k (u % 4096)).getD 0xFFFF) (physCell k (u %
      4096)) (updTested (.phys u) (fun r => { r with starved := true }) (reachWall (x.since + 604800000000000) s)))) ∧
      (testOf s (.bank c b) = none → c < 20 → b < 1024 → (tgetD s.eng.units (65536 + 2048 * c + b) {}).starved = false →
      exec (.selftestStarved (.bank c b)) s = .next (evUnit 4 0 0xFFFF c (updTested (.bank c b) (fun r =>
      { r with starved := true }) (reachWall (testDue s (.bank c b) + 604800000000000) s))))) ∧
  (∀ (s : State) (n : Nat) (t u : State), n < 5 ∧ s.clk.stable.getLsbD n = true ∧ tget n s.clk.lostAt = none → (n = 0 → t = s) ∧ (n = 1 → t = (if s.halted then s else
    { safePins (portsDetect (List.range 8) s) with halted := true })) ∧ (n = 2 → t = hostLinkDown 1 (hostLinkDown 0 s)) ∧ (n = 3
    → t = (if s.halted then s else portsDetect [0, 1, 2, 3] s)) ∧ (n = 4 → t = (if s.halted then s else portsDetect [4, 5, 6, 7]
    s)) → u = updClk (fun c =>
    { c with stable := c.stable &&& ~~~(1#5 <<< n), loss := c.loss ||| (1#5 <<< n), lostAt := tput n t.wall c.lostAt }) t →
    exec (.clockLoss n) s = .next (evPlatform 0 n (clkLastLoss u) (cnt (0x40018 + 8 * n) 1 u))) ∧
  (∀ (s : State) (n t : Nat) (u v : State), tget n s.clk.lostAt = some t → u = reachWall (t + stabilityNs n) s → v = updClk (fun c =>
    { c with stable := c.stable ||| (1#5 <<< n), lostAt := tdel n c.lostAt, lastLoss := (n, (u.wall - t) / 1000) }) u →
    exec (.clockRestart n) s = .next (if n = 1 then sysRestart v else v)) ∧
  (∀ (s : State) (cells : List DvfsObs) (pkg logic stks : Nat) (t : State), s.runs → t = ((List.range 20).zip cells).foldl dvfsCell s →
    exec (.dvfsInterval cells pkg logic stks) s = .next (updPwr (fun p => { p with pkgW := pkg % 65536, logicW := logic % 65536, stackW := stks % 65536 }) (if
      t.pwr.stkThr.isEmpty then t else cnt 0x50020 1 t))) ∧
  (∀ (s : State) (cells tiles stks : List Nat) (t : State), s.pwr.trip = none → t = sensed cells tiles stks s →
    exec (.sensorRead cells tiles stks) s = .next (if junctionTrip cells tiles then trip 1 0 t else if stackTrip stks then
      trip 2 0 t else t) ∧ (∀ i : Fin 20, t.pwr.cells[i].tj = reading cells i ∧ t.pwr.cells[i].hot = (decide (100 ≤ reading
      cells i) || (s.pwr.cells[i].hot && decide (97 ≤ reading cells i))) ∧ t.store.stks[i].temp = (reading stks i : Int))) ∧
  (∀ (s : State) (rail ns : Nat), s.pwr.vaux = true →
    exec (.railFault rail ns true) s = .next (if 1000000 ≤ ns then trip 3 rail s else s) ∧ exec (.railFault rail ns false)
      s = .next (if 10000 < ns then trip 3 rail s else s)) ∧
  (∀ (s : State) (overI : Bool), s.runs →
    exec (.vcoreOvercurrent overI) s = .next (updPwr (fun p => { p with overI := overI }) s)) ∧
  (∀ (s : State) (v : BitVec 16), i3cUp s = true →
    exec (.coolInlet v) s = .next (if 800 < v.toNat then coolBegin (inputRefused s) else coolUpdate (updPwr (fun p => { p with inlet := some v.toNat })
      s))) ∧
  (∀ (s : State) (v : BitVec 16), i3cUp s = true →
    exec (.coolFlow v) s = .next (if 2000 < v.toNat then coolBegin (inputRefused s) else coolUpdate (updPwr (fun p => { p with flow := some v.toNat })
      s))) ∧
  (∀ (s : State), s.pwr.trip = none ∧ s.pwr.vaux = true → s.pwr.stale = false →
    exec .coolantStale s = .next (coolBegin (updPwr (fun p => { p with stale := true }) (reachWall (max s.pwr.coolAt s.rep.boot.ref + 300000000) s)))) ∧
  (∀ (s : State) (i : Nat) (gs ts : List Nat) (t u : State), s.runs → i < 340 ∧ (unitRec s .core i).quarantined = false → gs = (s.drv.groups.filter (fun g => g.2.phys = i && g.2.st !=
    .queued)).map Prod.fst → ts = (s.drv.threads.filter (fun t => gs.contains t.2.group)).map Prod.fst → t = ts.foldl (fun s t
    => faultThread t .internal 0 false s) (evUnit 6 (unitField .core i) ((coreOf s i).getD 0xFFFF) (i / 17) s) → u = (if (testOf
    t (.phys (unitField .core i))).any (fun x => x.state = 1) then updTested (.phys (unitField .core i)) (fun r =>
    { r with testing := false, lastTest := t.wall }) (updTest (.phys (unitField .core i)) (fun x => { x with state := 3 }) t)
    else t) →
    exec (.coreUncorrectableFault i) s = .next (if (testKind (unitField .core i)).isNone then s else testReports (quarantine .core i (i / 17) 2 u)))

/-- Where fatal errors, the RAS ring's rows and the rows of the management protocol complete (R459, R460, R462, R504 to R517). -/
def Obligations.FatalAndManagementLinkRowsComplete : Prop :=
  (∀ (s : State) (cause loc : Nat) (t : State), s.runs → s.ras.fatal = none ∧ 1 ≤ cause ∧ cause ≤ 4 → t = updBoot (fun b =>
    { b with stage := false, xlt := false, ledger := false, ports := 0, cells := 0 }) (haltDead (rasPost 0x1007 4 0xFF (leBytes
    1 cause ++ leBytes 1 loc) s)) →
    exec (.fatalError cause loc) s = .next ({ t with store := { t.store with stks := t.store.stks.map (fun x => { x with ready := false }) }, ras := { t.ras with fatal := some (cause, loc % 256) } })) ∧
  (∀ (s : State) (p t : Nat) (q : Evq), s.runs → (partOf s p).map Part.evq = some q → q.unsignalled = true ∧ q.lastSignal = some t →
    exec (.eventSignal p) s = .next (evqSignal p (reach (t + 1000) s))) ∧
  (∀ (s : State) (gen : BitVec 32) (w r : RasCfg) (moved : Bool), s.barOpen → w = s.ras.shadow ∧ r = s.ras.run → moved = (w.base != r.base || w.log2 != r.log2 || (w.enable && !r.enable)) →
    (gen = s.ras.gen + 1 → (w.enable = true → 6 ≤ w.log2 ∧ w.log2 ≤ 12) → exec (.rasCommit gen) s = .next (rasLost
      { s with ras := { s.ras with run := w, gen := gen, tail := if moved then 0 else s.ras.tail, head := if moved then 0 else s.ras.head } }))
      ∧ (gen ≠ s.ras.gen + 1 ∨ (w.enable = true ∧ (w.log2 < 6 ∨ 12 < w.log2)) → exec (.rasCommit gen) s = .next
      { s with ras := { s.ras with err := true } })) ∧
  (∀ (s : State), s.barOpen →
    exec .rasCommitErrClear s = .next ({ s with ras := { s.ras with err := false } })) ∧
  (∀ (s : State) (head : Nat), s.barOpen →
    exec (.rasQHead head) s = .next (rasLost { s with ras := { s.ras with head := head % 4096 % 2 ^ s.ras.run.log2 } })) ∧
  (∀ (s : State) (p keyIdx d : Nat) (payload ack : List Byte) (recent : List Nat) (t : State), pmpUp s p = true → recent = (tgetD s.pmp.hellos p []).filter (fun t => decide (s.wall < t + 1000000000)) ∧ recent.length <
    16 → (d, t) = draw s → ack = helloAck d (payload ++ leBytes 1 keyIdx) →
    exec (.hello p keyIdx payload) s = .next (put (.pmp 0 0x02 ack) (updPmp (fun x =>
      { x with hellos := tput p (s.wall :: recent) x.hellos, shakes := x.shakes ++ [(p, keyIdx, payload ++ leBytes 1 keyIdx ++ ack, s.wall)] })
      t))) ∧
  (∀ (s : State) (p : Nat) (block : List Byte) (x : Nat × Nat × List Byte × Nat) (n : Nat), pmpUp s p = true → s.pmp.sessions.length < 4 ∧ n = s.pmp.nextSession → s.pmp.shakes = [x] ∧ x.1 = p ∧ sgKeyIdx block = x.2.1 →
    exec (.auth p block) s = .next (if (sigFails s 3 .mgmt x.2.2.1 block).isNone then put (.pmp n 0x04 []) (updPmp (fun m =>
      { m with shakes := [], sessions := tput n { port := p, key := Config.derive 4 [n, Config.sha384 (x.2.2.1 ++ block)], lastFrame := s.wall } m.sessions, nextSession := n + 1 })
      s) else s)) ∧
  (∀ (s : State) (f : PmpFrame) (x : Session) (t : State) (got : Tab (List Byte)) (first : Bool), Framed s f x → f.frag < f.frags ∧ f.frags ≤ 4096 → t = framed f x s → first = (x.frags.isEmpty || x.fragMsg != f.msg ||
    x.fragTotal != f.frags) → got = tput f.frag f.payload (if first then [] else x.frags) →
    (got.length = f.frags → exec (.cmd f) s = .next (updPmp (fun m =>
      { m with mq := m.mq ++ [(f.session, got.flatMap Prod.snd)] }) (updSession f.session (fun x =>
      { x with frags := [], fragTotal := 0 }) t)) ∧ exec (.image f) s = .next (updPmp (fun m =>
      { m with image := tput f.session (tgetD m.image f.session [] ++ got.flatMap Prod.snd) m.image }) (updSession f.session
      (fun x => { x with frags := [], fragTotal := 0 }) t))) ∧ (got.length ≠ f.frags → ∀ i, i = Instr.cmd f ∨ i =
      Instr.image f → exec i s = .next (updSession f.session (fun y =>
      { y with frags := got, fragTotal := f.frags, fragMsg := f.msg, fragSince := if first then t.wall else y.fragSince })
      t))) ∧
  (∀ (s : State) (f : PmpFrame) (x : Session) (t : State), Framed s f x → t = framed f x s →
    exec (.keepalive f) s = .next t ∧ exec (.pmpClose f) s = .next (closeSession f.session t) ∧ (s.pwr.trip = none → ∀ b,
      exec (.fullReset f b) s = .next (reference b (fullReset t)))) ∧
  (∀ (s : State) (p : Nat) (x : Nat × Nat × List Byte × Nat), s.pmp.shakes.find? (fun h => h.1 = p) = some x →
    exec (.handshakeTimeout p) s = .next (updPmp (fun m => { m with shakes := m.shakes.erase x }) (reachWall (x.2.2.2 + 2000000000) s))) ∧
  (∀ (s : State) (n : Nat) (x : Session), tget n s.pmp.sessions = some x →
    exec (.sessionTimeout n) s = .next (closeSession n (reachWall (x.lastFrame + 60000000000) s)) ∧ (x.frags ≠ [] → exec
      (.fragmentTimeout n) s = .next (updSession n (fun x => { x with frags := [], fragTotal := 0 }) (reachWall (x.fragSince
      + 1000000000) s))))

/-- Where the rows of the test access port complete (R526 to R528). -/
def Obligations.TestAccessRowsComplete : Prop :=
  (∀ (s : State) (pins next : BitVec 2944) (t : State), s.pwr.vaux = true → t = { s with tap := { s.tap with boundary := next } } →
    exec .idcode s = .next (put (.pin "TDO" idcode) { s with tap := { s.tap with ir := 0x01 } }) ∧ exec .bypass s = .next
      { s with tap := { s.tap with ir := 0xFF } } ∧ (s.rep.boot.resetN = true → s.pwr.trip = none → exec (.samplePreload
      pins next) s = .next (put (.pin "TDO" pins.toNat) { t with tap := { t.tap with ir := 0x02 } }) ∧ exec (.extest pins
      next) s = .next (put (.pin "FLASH_WP_N" 0) (put (.pin "BOUNDARY" next.toNat) (put (.pin "TDO" pins.toNat)
      { t with tap := { t.tap with ir := 0x03 } }))) ∧ exec (.extestPulse pins next) s = .next (put (.pin "FLASH_WP_N" 0)
      (put (.pin "BOUNDARY" next.toNat) (put (.pin "TDO" pins.toNat) { t with tap := { t.tap with ir := 0x06 } }))) ∧ exec
      (.extestTrain pins next) s = .next (put (.pin "FLASH_WP_N" 0) (put (.pin "BOUNDARY" next.toNat) (put (.pin "TDO"
      pins.toNat) { t with tap := { t.tap with ir := 0x07 } }))) ∧ exec .clamp s = .next (put (.pin "BOUNDARY"
      s.tap.boundary.toNat) { s with tap := { s.tap with ir := 0x04 } }) ∧ exec .highz s = .next (put (.pin "HIGHZ" 1)
      { s with tap := { s.tap with ir := 0x05 } })) ∧ (s.rep.boot.resetN = false ∨ s.pwr.trip ≠ none → ∀ i, i ∈
      [Instr.samplePreload pins next, .extest pins next, .extestPulse pins next, .extestTrain pins next, .clamp, .highz] →
      exec i s = exec .bypass s)) ∧
  (∀ (s : State), 
    exec .testLogicReset s = .next ({ s with tap := { s.tap with ir := 0x01 } }))

/-- Right after reset the state is sound, and no command waits. -/
def Obligations.ResetSound : Prop := State.reset.Sound ∧ State.reset.pending = []

/-- From every sound state each step gives a sound state: whatever the command, memory stays in its canonical form and the
data path's clock never runs ahead of the wall's. -/
def Obligations.StepKeepsSound : Prop := ∀ s t : State, s.Sound → step s = .next t → t.Sound

/-- A command acts on everything but the queue; so a step with a command in front leaves the queue's rest. -/
def Obligations.ExecKeepsQueue : Prop :=
  (∀ (c : Instr) (s t : State), exec c s = .next t → t.pending = s.pending) ∧
  (∀ (c : Instr) (rest : List Instr) (s t : State), s.pending = c :: rest → step s = .next t → t.pending = rest)

/-- Every command answers a next state, whatever the state (the model's choice where the spec gives no effect: log 7). -/
def Obligations.EveryCommandAnswersNext : Prop := ∀ (c : Instr) (s : State), ∃ t, exec c s = .next t

/-- With an empty queue the clocks tick (the model's choice: log 35). -/
def Obligations.IdleTicks : Prop := ∀ s : State, s.pending = [] →
  (s.halted = false → step s = .next { s with now := s.now + 1, wall := s.wall + 1 }) ∧
  (s.halted = true → step s = .next { s with wall := s.wall + 1 })

/-- The reset values of the register tables (Tables 2.13, 3.12, 3.14, 4.7, 5.10, 6.9, 7.14, 8.10, 9.8, 10.11, 11.10, 12.12,
13.9, 14.7, 15.6, 16.5, 16.15, 16.17, 19.8, 20.11, 20.12 and 21.10). -/
def Obligations.ResetRegisters : Prop :=
  (∀ r ∈ [(0x70010, 0x6), (0x1F000, 0xF4240), (0x0, 0x820B114), (0x10, 0x4FFFFFFFFFFFFF), (0x18, 0x2D02010F4000),
     (0x20, 0x4B0A8C40124010), (0x28, 0x10400E1000000000), (0x50, 0x10200), (0x50008, 0xA8C04B0003C00280),
     (0x60010, 0x6), (0x70000, 0x32), (0x30000, 0x408000000000000), (0x30008, 0xA00000000)],
    csrRead State.reset r.1 = r.2) ∧
  (∀ a ∈ [0x70008, 0x70018, 0x70020, 0x70028, 0x70040, 0x70048, 0x70058, 0x70060, 0x70068, 0x70070, 0x70078, 0x30010,
     0x30018, 0x30020, 0x30028, 0x30030, 0x30038, 0x30040, 0x30048, 0x30050, 0x30058, 0x30060, 0x30068, 0x30070,
     0x80000, 0x80008, 0x80010, 0x80018, 0x80020, 0x80028, 0x80030, 0x80038, 0x80040, 0x80048, 0x80050, 0x80058,
     0x80060, 0x80068, 0x80070, 0x80078, 0x80080, 0x1F008, 0x80200, 0x80208, 0x80210, 0x80218, 0x80220, 0x80228,
     0x80230, 0x80238, 0x30, 0x38, 0x40, 0x48, 0x58, 0x40000, 0x40008, 0x40010, 0x40018, 0x40020, 0x40028, 0x40030,
     0x40038, 0x40040, 0x50000, 0x50010, 0x50018, 0x50020, 0x50100, 0x50110, 0x50120, 0x50130, 0x50140, 0x50150,
     0x50160, 0x50170, 0x50180, 0x50190, 0x501A0, 0x501B0, 0x501C0, 0x501D0, 0x501E0, 0x501F0, 0x50200, 0x50210,
     0x50220, 0x50230, 0x50108, 0x50118, 0x50128, 0x50138, 0x50148, 0x50158, 0x50168, 0x50178, 0x50188, 0x50198,
     0x501A8, 0x501B8, 0x501C8, 0x501D8, 0x501E8, 0x501F8, 0x50208, 0x50218, 0x50228, 0x50238, 0x60000, 0x60008,
     0x60018, 0x60020, 0x60028, 0x60030, 0x60038, 0x60040, 0x60048, 0x60100, 0x60108, 0x60110, 0x60118, 0x60120,
     0x60128, 0x60130, 0x60138, 0x60140, 0x60148, 0x60150, 0x60158, 0x60160, 0x60168, 0x60170, 0x60178, 0x60180,
     0x60188, 0x60190, 0x60198, 0x90000, 0x90008],
    csrRead State.reset a = 0) ∧
  (∀ n < 22, ∀ o ∈ [0x0, 0x8, 0x10, 0x18, 0x20, 0x28, 0x30, 0x38, 0x40], csrRead State.reset (0x10000 + 256 * n + o) = 0) ∧
  (∀ c < 20, csrRead State.reset (0x100000 + 0x10000 * c + 0x900) = 0x0A0A ∧
    ∀ o ∈ [0x400, 0x408, 0x410, 0x418,
     0x420, 0x428, 0x430, 0x438, 0x440, 0x448, 0x480, 0x488, 0x490, 0x498, 0x4A0, 0x4A8, 0x4B0, 0x500, 0x508, 0x510,
     0x518, 0x520, 0x528, 0x600, 0x608, 0x610, 0x618, 0x620, 0x628, 0x630, 0x638, 0x640, 0x648, 0x650, 0x700, 0x708,
     0x710, 0x718, 0x720, 0x728, 0x730, 0x738, 0x800, 0x808, 0x810, 0x818, 0x820, 0x828, 0x830, 0x838, 0x840, 0x848,
     0x908, 0x910, 0x918, 0x920, 0x928, 0x930, 0x938, 0x940, 0x948, 0xA00, 0xA08, 0xA10, 0xA18, 0xA20, 0xA28, 0xA30,
     0xA38, 0xA40, 0xA48, 0xA50, 0xA58, 0xA60, 0xB00, 0xB08, 0xB10, 0xB18, 0xB20, 0xB28, 0xB30, 0xB38, 0xB40, 0xB48,
     0xB50, 0xB58],
    csrRead State.reset (0x100000 + 0x10000 * c + o) = 0) ∧
  (∀ c < 20, ∀ o ∈ [0x0, 0x8, 0x10, 0x18, 0x20, 0x28, 0x30, 0x38, 0x40, 0x48, 0x50, 0x100, 0x108, 0x110, 0x118,
     0x120, 0x128, 0x130, 0x138, 0x140, 0x148, 0x150, 0x158],
    csrRead State.reset (0x300000 + 0x4000 * c + o) = 0) ∧
  (∀ p < 8, csrRead State.reset (0x200000 + 0x10000 * p + 0x08) = 0x0000000876543210 ∧
    csrRead State.reset (0x200000 + 0x10000 * p + 0x260) = 0x640040 ∧
    ∀ o ∈ [
     0x0, 0x10, 0x18, 0x20, 0x28, 0x30, 0x38, 0x40, 0x48, 0x50, 0x58, 0x60, 0x68, 0x70, 0x100, 0x108, 0x110, 0x118,
     0x120, 0x128, 0x130, 0x138, 0x140, 0x200, 0x208, 0x210, 0x218, 0x220, 0x228, 0x230, 0x238, 0x240, 0x248, 0x250,
     0x258, 0x300, 0x308, 0x310, 0x318, 0x320, 0x328, 0x330, 0x338, 0x340],
    csrRead State.reset (0x200000 + 0x10000 * p + o) = 0)

/-- A full device reset ends all running state and keeps the ledger, the quarantines and the anti-rollback counters (R413,
R414); an assertion under 1 us is ignored. That erase counts stay is the model's reading (log 37). -/
def Obligations.FullResetLeaves : Prop := ∀ (s : State) (w : Nat),
  (w < 1000 → exec (.perstAssert w) s = .next s ∧ exec (.resetNAssert w) s = .next s) ∧
  (1000 ≤ w → s.pwr.trip = none → ∀ c ∈ [Instr.perstAssert w, Instr.resetNAssert w], ∃ t, exec c s = .next t ∧
    t.parts = State.reset.parts ∧ t.store.mem = [] ∧ t.store.allocs = [] ∧ t.store.exts = [] ∧ t.store.blocks = [] ∧
    t.xlt = State.reset.xlt ∧ t.coh = State.reset.coh ∧ t.sync = State.reset.sync ∧ t.drv = State.reset.drv ∧
    t.stg = State.reset.stg ∧ t.eng.ops = [] ∧ t.dep = State.reset.dep ∧ t.idx = [] ∧ t.car = State.reset.car ∧
    t.ports = State.reset.ports ∧ t.host = State.reset.host ∧ t.ras = State.reset.ras ∧ t.pmp = State.reset.pmp ∧
    t.csr = [] ∧ t.rep.tests = [] ∧ t.outs = s.outs ∧ t.rep.boot.fused = false ∧
    t.rep.ledger = s.rep.ledger ∧ t.rep.counters = s.rep.counters ∧
    (∀ x ∈ s.eng.units, x.2.quarantined = true → ∃ y ∈ t.eng.units, y.1 = x.1 ∧ y.2.quarantined = true) ∧
    (∀ y ∈ t.eng.units, y.2.quarantined = true ∧ ∃ x ∈ s.eng.units, x.1 = y.1 ∧ x.2.quarantined = true) ∧
    (∀ ch, (t.store.flash.getD ch {}).wear = (s.store.flash.getD ch {}).wear))

/-- The frame of the integer, branch and control instructions: memory, sync words, engines, other threads and the
thread's other registers stay; r0 keeps reading zero (Table 7.1). -/
def Obligations.ScalarInstructionsFrame : Prop :=
  ∀ (s u : State) (t : Nat) (w : BitVec 32) (x : Thread) (c : Instr), s.runs → thr s t = some x → x.st = .running →
    fetchFault s x = none → wDefined w = true →
    c ∈ [.integerOp t w, .movk t w, .mfts t w, .branch t w, .jal t w, .jalr t w, .yieldOp t w] →
    (c = .branch t w → x.pois (ra w) = false ∧ x.pois (rb w) = false) → (c = .jalr t w → x.pois (rb w) = false) →
    exec c s = .next u →
    sameMemory s u ∧ u.store = s.store ∧ u.sync = s.sync ∧ u.coh = s.coh ∧ u.eng = s.eng ∧ u.outs = s.outs ∧
      u.drv.groups = s.drv.groups ∧ u.ports = s.ports ∧ u.parts = s.parts ∧
      (∀ a, a ≠ cellReg (thrCell t) 0x710 → tgetD u.csr a 0 = tgetD s.csr a 0) ∧
      (∀ v, v ≠ t → thr u v = thr s v) ∧
      ∃ y, thr u t = some y ∧ y.ts = x.ts ∧ y.ctx = x.ctx ∧ y.st = x.st ∧ y.pend = x.pend ∧ y.out = x.out ∧
        y.read (.r 0) = 0 ∧ y.pois (.r 0) = false ∧
        ∀ r, (r ≠ ra w ∨ c = .branch t w ∨ c = .yieldOp t w) → y.read r = x.read r ∧ y.pois r = x.pois r

/-- The stores and the frame of the memory instructions on this device: the address stored to is the one `route` gives. -/
def Obligations.MemoryInstructionsFrame : Prop :=
  (∀ (s u v : State) (t off : Nat) (w : BitVec 32) (x : Thread), 0x15 ≤ wOp w → wOp w ≤ 0x18 → x.pois (rb w) = false →
    Fetched s t w x [ra w, rb w] .access → u = issuing t w s → exec (.storeOp t w) s = .next v →
    (route u t { x with insn := w } (.store (2 ^ (wOp w - 0x15))) (effAddr x w) = .spad off →
      v.store.spad = putBytes off (leBytes (2 ^ (wOp w - 0x15)) (x.read (ra w))) s.store.spad ∧
      (∀ a, a < off ∨ off + 2 ^ (wOp w - 0x15) ≤ a → byteAt v.store.spad a = byteAt s.store.spad a) ∧
      sameMemory s v ∧ v.sync = s.sync ∧ LeavesThreads s v t x []) ∧
    (route u t { x with insn := w } (.store (2 ^ (wOp w - 0x15))) (effAddr x w) = .store off →
      v.store = s.store ∧ v.sync = s.sync ∧ LeavesThreads s v t x [])) ∧
  (∀ (s u v : State) (t off : Nat) (w : BitVec 32) (x : Thread), wOp w = 0x1A → wA w < 16 → x.pois (rb w) = false →
    Fetched s t w x [.v (wA w), rb w] .access → u = issuing t w s → exec (.vst t w) s = .next v →
    (route u t { x with insn := w } .vstore (effAddr x w) = .spad off →
      v.store.spad = putBytes off (leBytes 64 (x.read (.v (wA w)))) s.store.spad ∧
      (∀ a, a < off ∨ off + 64 ≤ a → byteAt v.store.spad a = byteAt s.store.spad a) ∧
      sameMemory s v ∧ v.sync = s.sync ∧ LeavesThreads s v t x []) ∧
    (route u t { x with insn := w } .vstore (effAddr x w) = .store off →
      v.store = s.store ∧ v.sync = s.sync ∧ LeavesThreads s v t x [])) ∧
  (∀ (s u v : State) (t off : Nat) (w : BitVec 32) (x : Thread), 0x10 ≤ wOp w → wOp w ≤ 0x14 → x.pois (rb w) = false →
    Fetched s t w x [ra w, rb w] .access → u = issuing t w s →
    route u t { x with insn := w } (.load (loadForm (wOp w)).2) (effAddr x w) ∈ [.store off, .spad off, .sync off, .csr off] →
    exec (.loadOp t w) s = .next v → v.store = s.store ∧ v.sync = s.sync ∧ LeavesThreads s v t x [ra w]) ∧
  (∀ (s u v : State) (t off : Nat) (w : BitVec 32) (x : Thread), wOp w = 0x19 → wA w < 16 → x.pois (rb w) = false →
    Fetched s t w x [.v (wA w), rb w] .access → u = issuing t w s →
    route u t { x with insn := w } .vload (effAddr x w) ∈ [.store off, .spad off] →
    exec (.vld t w) s = .next v → v.store = s.store ∧ v.sync = s.sync ∧ LeavesThreads s v t x [.v (wA w)]) ∧
  (∀ (s u v : State) (t off : Nat) (w : BitVec 32) (f : AtomOp) (x : Thread), wOp w = 0x1C → wBits w 5 4 ≠ 1 →
    x.pois (rb w) = false → x.pois (rc w) = false → x.pois (ra w) = false → Fetched s t w x [ra w, rb w, rc w] .release →
    u = issuing t w s → route u t { x with insn := w } (.atomic 8) (x.read (rb w)) = .spad off →
    exec (.atomicOp t w f) s = .next v →
    v.store.spad = putBytes off (leBytes 8 (atomicNew f (leNat (bytesAt s.store.spad off 8)) (x.read (rc w)) (x.read (ra w)) 8))
      s.store.spad ∧
    (∀ a, a < off ∨ off + 8 ≤ a → byteAt v.store.spad a = byteAt s.store.spad a) ∧
    sameMemory s v ∧ v.sync = s.sync ∧ LeavesThreads s v t x [ra w]) ∧
  (∀ (s u v : State) (t : Nat) (w : BitVec 32) (x : Thread), wOp w = 0x1B → wA w < 16 → wBits w 9 0 = 0 →
    x.pois (rb w) = false → x.pois (.v (wBits w 15 12)) = false →
    Fetched s t w x [.v (wA w), rb w, .v (wBits w 15 12)] .access → u = issuing t w s →
    (laneFault u t { x with insn := w } (.load (laneAddrs x w).1) (laneAddrs x w).2 = none → exec (.vgather t w) s = .next v →
      v.store = s.store ∧ v.sync = s.sync ∧ LeavesThreads s v t x [.v (wA w)]) ∧
    (laneFault u t { x with insn := w } (.store (laneAddrs x w).1) (laneAddrs x w).2 = none → exec (.vscatter t w) s = .next v →
      (∀ a, (∀ l ∈ (laneAddrs x w).2, a < l % 2 ^ 48 ∨ l % 2 ^ 48 + (laneAddrs x w).1 ≤ a) →
        byteAt v.store.spad a = byteAt s.store.spad a) ∧
      sameMemory s v ∧ v.sync = s.sync ∧ LeavesThreads s v t x []))

/-- R45: a write through an entry whose WRITE bit is 0, in a TLB or at the end of a walk, fails with FAULT_ACCESS. -/
def Obligations.WriteNeedsTheWriteBit : Prop :=
  (∀ (s : State) (ing tag ctx : Nat) (v : BitVec 57) (op : ReqOp) (len : Nat) (data : List Byte) (e : TlbEnt), s.runs → ing < 9 →
    admits s ctx ing = true → ((ctxOf s ctx).map Ctx.translate).getD false = true → needsBlock op = true →
    tlbFind s ing ctx (v.toNat / 4096) = some e → e.write = false →
    ∃ t, exec (.requestAdmit ing tag ctx (.va v) op len data) s = .next t ∧ t.xlt = s.xlt ∧ t.coh = s.coh ∧
      t = deliver { who := ingressWho ing tag, ctx := ctx, off := v.toNat % 4096, op := op, len := len, data := data }
        .faultAccess [] false false s) ∧
  (∀ (s : State) (m l off : Nat) (x : Miss) (c : Ctx) (v : VReq) (e : BitVec 64), s.runs → tget m s.xlt.misses = some x → x.st = .walk →
    ctxOf s x.ctx = some c → mirrorOk s c.mirrorHdr = true → poisoned s c.mirrorHdr = false → x.genFirst.getLsbD 0 = false →
    mirrorGen s c = x.genFirst → older x.genFirst c.lastGen = false → walkFrom s x.page 4 c.root = .leaf l off e →
    meWrite e = false → x.reqs = [v] → v.write = true →
    ∃ t0, exec (.mirrorWalkDone m) s = .next (deliver v.req .faultAccess [] false false t0) ∧
      t0.xlt.misses = tdel m s.xlt.misses ∧ t0.outs = s.outs ∧ t0.coh = s.coh ∧ t0.store = s.store)

/-- R57: while BUSY a write of XLT_INV_CTL is dropped and sets INVDROP; firmware's invalidations queue behind. -/
def Obligations.InvalidationWritesWhileBusy : Prop :=
  (∀ (s : State) (ctx : Nat) (gen : BitVec 32) (c : Instr), s.barOpen → invBusy s = true →
    c ∈ [.xltInvRange ctx gen, .xltInvCtx ctx gen, .xltInvAll, .xltInvRejected] →
    exec c s = .next { s with xlt := { s.xlt with invDrop := true } }) ∧
  (∀ (s : State) (n : Nat) (c : Cmd) (x : Ctx), invBusy s = true → s.xlt.invs.any (fun i => i.mb = some n) = false →
    Serves s n 0x0404 c (ctxChk s n c) → ctxOf s (c.arg 2 2) = some x → invGenBad x (BitVec.ofNat 32 (c.arg 20 4)) = false →
    (c.arg 1 1 = 0 → c.arg 16 4 ≠ 0 → exec (.tlbInvalidateRange n) s = .next { s with xlt := { s.xlt with invs := s.xlt.invs ++
      [{ scope := 0, ctx := c.arg 2 2, gen := BitVec.ofNat 32 (c.arg 20 4), page := c.arg 8 8 / 4096 % 2 ^ 45,
         pages := c.arg 16 4, waits := [], started := false, mb := some n }] } }) ∧
    (c.arg 1 1 = 1 → exec (.tlbInvalidateCtx n) s = .next { s with xlt := { s.xlt with invs := s.xlt.invs ++
      [{ scope := 1, ctx := c.arg 2 2, gen := BitVec.ofNat 32 (c.arg 20 4), page := c.arg 8 8 / 4096 % 2 ^ 45,
         pages := c.arg 16 4, waits := [], started := false, mb := some n }] } })) ∧
  (∀ (s : State) (c : Cmd), invBusy s = true → s.xlt.invs.any (fun i => i.mb = some 0) = false →
    Serves s 0 0x0404 c { ready := s.rep.boot.xlt } → c.arg 1 1 = 2 →
    exec (.tlbInvalidateAll 0) s = .next { s with xlt := { s.xlt with invs := s.xlt.invs ++
      [{ scope := 2, ctx := 0, gen := 0, page := 0, pages := 0, waits := [], started := false, mb := some 0 }] } })

/-- R88: the picker's choice, as an idle eviction makes it. -/
def Obligations.PickerChoice : Prop :=
  ∀ (s : State) (p : Nat), ∀ cand : Nat × Block → Prop,
    (cand = fun x => x ∈ s.store.blocks ∧ x.2.st = .hbm ∧ isPinned s x.2 = false ∧ blockPart s x.2 = p) →
    ((pick s p (fun _ => true) = none ↔ ∀ x, ¬ cand x) ∧
     ∀ x, pick s p (fun _ => true) = some x → cand x ∧ ∀ y, cand y →
       y.2.age < x.2.age ∨ (y.2.age = x.2.age ∧ ((x.2.lowerValid = true ∧ y.2.lowerValid = false) ∨
         (x.2.lowerValid = y.2.lowerValid ∧ x.1 ≤ y.1)))) ∧
    (∀ (pt : Part) (x : Nat × Block), s.runs → partOf s p = some pt → (partCells s p).all (idleWindow s) = true →
      pt.q < poolUsed s p + evictReserve pt → hasBacking s p = true → pick s p (fun _ => true) = some x →
      ∃ n, exec (.idleEviction p) s = .next (startEvict x.1 (cnt (cellReg (pt.cells.headD 0) 0x440) n s)))

/-- Store addresses and their fields (Table 2.1): taking apart and putting together undo each other. -/
def Obligations.StoreAddressRoundTrip : Prop :=
  (∀ a : BitVec 64, (Sa.of a).bits = a) ∧
  (∀ x : Sa, x.space < 16 → x.dev < 4096 → x.off < 2 ^ 48 → Sa.of x.bits = x) ∧
  (∀ a : BitVec 64, (Sa.of a).space = a.toNat / 2 ^ 60 ∧ (Sa.of a).dev = a.toNat / 2 ^ 48 % 4096 ∧ (Sa.of a).off = a.toNat % 2 ^ 48)

/-- Decoding and encoding a number of any format of Table 8.2 gives its bits back, whatever is not NaN. -/
def Obligations.NumberFormatsRoundTrip : Prop :=
  ∀ f ∈ [fp64, fp32, bf16, fp16, e4m3, e5m2, e3m2, e2m3, e2m1], ∀ b : Nat, b < 2 ^ f.bits → f.decode b ≠ .nan →
    ∀ sat : Bool, f.encode sat (f.decode b) = b

/-- FRB blocks (Table 15.3): the codes, flags and number a block is made of are those it decodes to (R384, R389). -/
def Obligations.CompressedBlockRoundTrip : Prop :=
  ∀ (t : FrbTable) (sfmt sel flags k : Nat) (codes : List Nat), t.w ∈ [2, 4, 8] → sel < 256 → codes.length = 256 →
    (∀ c ∈ codes, c < 2 ^ t.w) →
    (flags < 4 → frbDecode t sfmt k (frbBytes t.w sel flags k codes) = some (bit flags 0, codes.flatMap (fun c =>
      leBytes (frbEs sfmt) (if bit flags 1 then (frbFmt sfmt).nanBits
        else (frbFmt sfmt).encode false (frbValue t sfmt sel c))))) ∧
    (∀ j, j % 65536 ≠ k % 65536 → frbDecode t sfmt j (frbBytes t.w sel flags k codes) = none) ∧
    (4 ≤ flags → flags < 256 → frbDecode t sfmt k (frbBytes t.w sel flags k codes) = none)

/-- What TALLY_ADD and TALLY_SUB do to the tally words (Table 5.3, R140 to R144). -/
def Obligations.TallyUpdateEffect : Prop :=
  ∀ (s u : State) (t word : Nat) (w : BitVec 32) (x : Thread) (o : BitVec 64), wOp w = 0x1D → x.pois (rb w) = false →
    x.pois (rc w) = false → o = BitVec.ofNat 64 (x.read (rc w)) → tRsvdZero o = true →
    Fetched s t w x [ra w, rb w, rc w] .release → u = issuing t w s →
    route u t { x with insn := w } .tally (x.read (rb w)) = .sync word →
    ∀ sub : Bool, ∃ v : State, exec (if sub then .tallySub t w else .tallyAdd t w) s = .next v ∧
      (∀ k, k ≠ word → tallyAt v k = tallyAt s k) ∧
      tEpoch (tallyAt v word) = tEpoch (tallyAt s word) ∧
      (if tNochk o = false ∧ tEpoch o ≠ tEpoch (tallyAt s word) then
        tMis (tallyAt v word) = true ∧ tSat (tallyAt v word) = tSat (tallyAt s word) ∧
          tUnd (tallyAt v word) = tUnd (tallyAt s word) ∧ tCount (tallyAt v word) = tCount (tallyAt s word)
      else
        tMis (tallyAt v word) = tMis (tallyAt s word) ∧
        (if sub then
          tSat (tallyAt v word) = tSat (tallyAt s word) ∧
          tCount (tallyAt v word) = tCount (tallyAt s word) - tCount o ∧
          tUnd (tallyAt v word) = (tUnd (tallyAt s word) || decide (tCount (tallyAt s word) < tCount o))
        else
          tUnd (tallyAt v word) = tUnd (tallyAt s word) ∧
          tCount (tallyAt v word) = min (2 ^ 48 - 1) (tCount (tallyAt s word) + tCount o) ∧
          tSat (tallyAt v word) = (tSat (tallyAt s word) || decide (2 ^ 48 - 1 < tCount (tallyAt s word) + tCount o))))

/-- `v` is `s` with thread `t`, which was `x`, faulted by word `w` with status `st` (R198). -/
def Faulted (s v : State) (t : Nat) (x : Thread) (g : Group) (w : BitVec 32) (st : Status) : Prop :=
  thr v t = some { x with insn := w, st := .faulted, pend := [] } ∧ (∀ k, k ≠ t → thr v k = thr s k) ∧
  (∃ y, tget x.group v.drv.groups = some y ∧ y.faulted = g.faulted + 1 ∧ y.firstFault = some (g.firstFault.getD st)) ∧
  (∀ k, tallyAt v k = tallyAt s k)

/-- A thread that faults stops, and no other thread is affected (R139, R188, R198). -/
def Obligations.ThreadFaults : Prop :=
  ∀ (s : State) (t : Nat) (w : BitVec 32) (x : Thread) (g : Group), tget x.group s.drv.groups = some g →
    g.stopOnFault = false →
    (8 ≤ wOp w → wOp w ≤ 0x0D → Fetched s t w x [ra w, rb w] .none → (x.pois (ra w) = true ∨ x.pois (rb w) = true) →
      ∃ v, exec (.branch t w) s = .next v ∧ Faulted s v t x g w .faultPoison) ∧
    (wOp w = 0x1D → Fetched s t w x [ra w, rb w, rc w] .release → x.pois (rb w) = true →
      ∃ v, exec (.tallyAdd t w) s = .next v ∧ exec (.tallySub t w) s = .next v ∧ Faulted s v t x g w .faultPoison) ∧
    (wOp w = 0x1D → Fetched s t w x [ra w, rb w, rc w] .release → x.pois (rb w) = false → x.pois (rc w) = false →
      tRsvdZero (BitVec.ofNat 64 (x.read (rc w))) = false →
      ∃ v, exec (.tallyAdd t w) s = .next v ∧ exec (.tallySub t w) s = .next v ∧ Faulted s v t x g w .invalidArg)

/-- How an error of on-chip storage is contained (R505, Table 19.6; log 59). -/
def Obligations.OnChipErrors : Prop :=
  (∀ (s t : State) (word : Nat), t = sramError (.tally word) s →
    tallyAt t word = 0x000E000000000000 ∧ (∀ k, k ≠ word → tallyAt t k = tallyAt s k) ∧
    (∀ w ∈ t.sync.waiters, w.word ≠ word)) ∧
  (∀ (s t : State) (off : Nat), t = sramError (.spad off) s →
    (tget (off / 64) t.store.spadPoison).isSome = true ∧ t.store.spad = s.store.spad) ∧
  (∀ (s t : State) (line : Nat) (d : Dirty), tget line s.coh.dirty = some d → d.data.length = 64 →
    t = sramError (.copy line) s →
    poisoned t (line * 64) = true ∧ tget line t.coh.dirty = none ∧
    (memWf s.store.mem = true → homeBytes t (line * 64) 64 = d.data) ∧
    (∀ a, a < content s (line * 64) ∨ content s (line * 64) + 64 ≤ a → byteAt t.store.mem a = byteAt s.store.mem a)) ∧
  (∀ (s : State) (line : Nat), tget line s.coh.dirty = none → sramError (.copy line) s = s) ∧
  (∀ (s t : State) (cause c n : Nat), t = bankRetire cause c n s →
    spadBytes t c = min 768 (1024 - (tgetD s.rep.banks c 0 + 1)) * 65536)
end

