-- ==== Sys2Proof/Laws/Alloc.lean ====
section
/-! SUPPORT. What the shared operations on allocations and key slots leave alone. -/

namespace Sys2Proof.Machine

open Sys2Proof

/-- What every step of a fold keeps, the fold keeps. -/
theorem foldl_keeps {α β : Type} {P : α → Prop} {f : α → β → α} (h : ∀ a b, P a → P (f a b)) (l : List β) (a : α)
    (ha : P a) : P (l.foldl f a) := by
  induction l generalizing a with
  | nil => exact ha
  | cons b l ih => exact ih _ (h a b ha)

/-- Sweeping the key slots changes key slots only. -/
theorem sweepKeys_eq (s : State) : ∃ ks, sweepKeys s = { s with parts := { s.parts with keys := ks } } := by
  unfold sweepKeys
  generalize List.range 64 = l
  dsimp only
  refine foldl_keeps (P := fun t : State => ∃ ks, t = { s with parts := { s.parts with keys := ks } }) ?_ l s ⟨s.parts.keys, rfl⟩
  rintro t k ⟨ks, rfl⟩
  dsimp only
  split
  · exact ⟨_, rfl⟩
  · exact ⟨_, rfl⟩

theorem sweepKeys_store (s : State) : (sweepKeys s).store = s.store := by
  obtain ⟨ks, h⟩ := sweepKeys_eq s; rw [h]

theorem sweepKeys_sync (s : State) : (sweepKeys s).sync = s.sync := by
  obtain ⟨ks, h⟩ := sweepKeys_eq s; rw [h]

/-- Dropping from a filter an element that leaves it lowers the sum and the count. -/
theorem filter_drop {β : Type} (w : β → Nat) {p q : β → Bool} (hpq : ∀ b, q b = true → p b = true) {l : List β} {i : β}
    (hi : i ∈ l) (hp : p i = true) (hq : q i = false) :
    ((l.filter q).map w).sum + w i ≤ ((l.filter p).map w).sum ∧ (l.filter q).length + 1 ≤ (l.filter p).length := by
  have mono : ∀ l : List β, ((l.filter q).map w).sum ≤ ((l.filter p).map w).sum ∧ (l.filter q).length ≤ (l.filter p).length := by
    intro l
    induction l with
    | nil => simp
    | cons b l ih =>
      cases hb : q b
      · cases hb' : p b <;> simp [hb, hb'] <;> omega
      · simp [hb, hpq b hb]; omega
  induction l with
  | nil => simp at hi
  | cons b l ih =>
    rcases List.mem_cons.mp hi with rfl | hi
    · have := mono l
      simp [hp, hq]; omega
    · have := ih hi
      cases hb : q b
      · cases hb' : p b <;> simp [hb, hb'] <;> omega
      · simp [hb, hpq b hb]; omega

/-- Above a candidate the allocations that end higher leave room, so some candidate is free. -/
theorem place_above (s : State) (n : Nat) (k : Nat) : ∀ x : Nat,
    x ∈ 0 :: s.store.allocs.map (fun y => y.1 + y.2.extent) →
    (s.store.allocs.filter (fun y => decide (x < y.1 + y.2.extent))).length = k →
    x + ((s.store.allocs.filter (fun y => decide (x < y.1 + y.2.extent))).map (fun y => y.2.extent)).sum + (k + 1) * n ≤ 2 ^ 48 →
    ∃ a ∈ 0 :: s.store.allocs.map (fun y => y.1 + y.2.extent), placeOk s n a = true := by
  induction k using Nat.strong_induction_on with
  | _ k ih =>
    intro x hx hk hs
    by_cases hf : storeFree s x n = true
    · refine ⟨x, hx, ?_⟩
      have : x + n ≤ 2 ^ 48 := by
        have : 1 * n ≤ (k + 1) * n := Nat.mul_le_mul_right n (by omega)
        omega
      simp only [placeOk, hf, Bool.and_true, decide_eq_true_eq]
      exact this
    · simp only [storeFree, List.all_eq_true, not_forall] at hf
      obtain ⟨i, hi, hn⟩ := hf
      simp only [Bool.or_eq_true, decide_eq_true_eq, not_or, Nat.not_le] at hn
      obtain ⟨h1, h2⟩ := hn
      have hd := filter_drop (fun y : Nat × Alloc => y.2.extent)
        (p := fun y => decide (x < y.1 + y.2.extent)) (q := fun y => decide (i.1 + i.2.extent < y.1 + y.2.extent))
        (by intro b hb; simp only [decide_eq_true_eq] at hb ⊢; omega) hi (by simpa using h1) (by simp)
      obtain ⟨d1, d2⟩ := hd
      refine ih _ (by omega) (i.1 + i.2.extent) (List.mem_cons_of_mem _ (List.mem_map.mpr ⟨i, hi, rfl⟩)) rfl ?_
      have : ((s.store.allocs.filter (fun y => decide (i.1 + i.2.extent < y.1 + y.2.extent))).length + 1) * n + n ≤ (k + 1) * n := by
        have : ((s.store.allocs.filter (fun y => decide (i.1 + i.2.extent < y.1 + y.2.extent))).length + 1 + 1) * n ≤ (k + 1) * n :=
          Nat.mul_le_mul_right n (by omega)
        rw [Nat.add_mul _ 1 n, Nat.one_mul] at this
        exact this
      omega

/-- There is a place for an allocation wherever the store's allocations leave that much room. -/
theorem makeAlloc_some {s : State} {al : Alloc}
    (h : (s.store.allocs.map (fun x => x.2.extent)).sum + (s.store.allocs.length + 1) * al.extent ≤ 2 ^ 48) :
    ∃ b t, makeAlloc al s = (some b, t) ∧ t.store.allocs = tput b al s.store.allocs := by
  unfold makeAlloc chooseBase
  dsimp only
  by_cases h1 : placeOk s al.extent ((draw s).1 % 2 ^ 32 * 65536) = true
  · rw [if_pos h1]
    exact ⟨_, _, rfl, rfl⟩
  · rw [if_neg h1]
    have hle : ((s.store.allocs.filter (fun y => decide (0 < y.1 + y.2.extent))).map (fun y => y.2.extent)).sum
        ≤ (s.store.allocs.map (fun x => x.2.extent)).sum ∧
        (s.store.allocs.filter (fun y => decide (0 < y.1 + y.2.extent))).length ≤ s.store.allocs.length :=
      ⟨((List.filter_sublist).map _).sum_le_sum (fun _ _ => Nat.zero_le _), List.length_filter_le ..⟩
    have hm : ((s.store.allocs.filter (fun y => decide (0 < y.1 + y.2.extent))).length + 1) * al.extent
        ≤ (s.store.allocs.length + 1) * al.extent := Nat.mul_le_mul_right _ (by omega)
    obtain ⟨a, ha, hp⟩ := place_above s al.extent _ 0 (List.mem_cons_self ..) rfl (by omega)
    cases hf : (0 :: s.store.allocs.map (fun y => y.1 + y.2.extent)).find? (placeOk s al.extent) with
    | none => exact absurd hp (List.find?_eq_none.mp hf a ha)
    | some b => exact ⟨_, _, rfl, rfl⟩

theorem tput_sum_le (w : Nat × Alloc → Nat) (b : Nat) (al : Alloc) (l : Tab Alloc) :
    ((tput b al l).map w).sum ≤ (l.map w).sum + w (b, al) ∧ (tput b al l).length ≤ l.length + 1 := by
  induction l with
  | nil => simp [tput]
  | cons c l ih =>
    obtain ⟨k, v⟩ := c
    simp only [tput]
    split
    · simp; omega
    · split
      · simp; omega
      · simp; omega

/-- The parts of an index have places wherever the store's allocations leave room for them all. -/
theorem placeParts_some (x : Index) (m : Nat) (l : List (Nat × Bool)) : ∀ s : State,
    (∀ y ∈ l, (x.partAlloc y).extent ≤ m) →
    (s.store.allocs.map (fun x => x.2.extent)).sum + l.length * m + (s.store.allocs.length + l.length) * m ≤ 2 ^ 48 →
    ∃ ps t, placeParts x l s = some (ps, t) := by
  induction l with
  | nil => intro s _ _; exact ⟨[], s, rfl⟩
  | cons y l ih =>
    intro s hm hs
    have hy := hm y (List.mem_cons_self ..)
    simp only [List.length_cons] at hs
    have e1 : (l.length + 1) * m = l.length * m + m := by ring
    have e2 : (s.store.allocs.length + (l.length + 1)) * m = (s.store.allocs.length + 1) * m + l.length * m := by ring
    have e3 : (s.store.allocs.length + 1) * (x.partAlloc y).extent ≤ (s.store.allocs.length + 1) * m := Nat.mul_le_mul_left _ hy
    obtain ⟨b, t, h1, h2⟩ := makeAlloc_some (s := s) (al := x.partAlloc y) (by omega)
    obtain ⟨d1, d2⟩ := tput_sum_le (fun x => x.2.extent) b (x.partAlloc y) s.store.allocs
    rw [← h2] at d1 d2
    have e4 : (t.store.allocs.length + l.length) * m ≤ (s.store.allocs.length + 1 + l.length) * m := Nat.mul_le_mul_right _ (by omega)
    have e5 : (s.store.allocs.length + 1 + l.length) * m = (s.store.allocs.length + 1) * m + l.length * m := by ring
    simp only at d1
    obtain ⟨ps, u, h3⟩ := ih t (fun z hz => hm z (List.mem_cons_of_mem _ hz)) (by omega)
    exact ⟨b :: ps, u, by simp [placeParts, h1, h3]⟩

/-- An index whose parts fit is placed. -/
theorem placeAll_some {x : Index} {s : State} (m : Nat) (hf : placeFits x s = true)
    (hm : ∀ y ∈ x.partsOf, (x.partAlloc y).extent ≤ m)
    (h : (s.store.allocs.map (fun x => x.2.extent)).sum + (s.store.allocs.length + 2 * x.partsOf.length) * m ≤ 2 ^ 48) :
    ∃ ps t, placeAll x s = some (ps, t) := by
  have e : (s.store.allocs.length + 2 * x.partsOf.length) * m = x.partsOf.length * m + (s.store.allocs.length + x.partsOf.length) * m := by
    ring
  obtain ⟨ps, t, h1⟩ := placeParts_some x m x.partsOf s hm (by omega)
  exact ⟨ps, x.cells.foldl (fun s c => clearStack (managedFrames s c) c s) t, by simp [placeAll, hf, h1]⟩

/-- One of several free numbers is chosen. -/
theorem pickFree_some {l : List Nat} {s : State} (h : l ≠ []) : ∃ k t, pickFree l s = (some k, t) := by
  have hl : 0 < l.length := List.length_pos_iff.mpr h
  have e : l.isEmpty = false := by simpa using h
  simp only [pickFree, e]
  exact ⟨l[(draw s).1 % l.length]'(Nat.mod_lt _ hl), (draw s).2, by simp [Nat.mod_lt _ hl]⟩

end Sys2Proof.Machine
end

