-- ==== Sys2Proof/Laws/Depot.lean ====
section
/-! SUPPORT. What a Depot's home does with a request it may decide. -/

namespace Sys2Proof.Machine

open Sys2Proof

/-- A home decides a request that reaches it and answers it. -/
theorem homeServe_of_homed {s : State} {x : DepMsg} {m : Member} (h : Homed s x m) (k : DepKind) (port : Option Nat) :
    homeServe k port x s = sendAnswer k port x (homeDo k x s).1 (homeDo k x s).2 := by
  obtain ⟨_, h1, h2, h3, h4, h5, h6⟩ := h
  have h2' : (x.digest != m.digest) = false := by simp [h2]
  have h4' : ¬ m.mapgen < x.mapgen := by omega
  simp only [homeServe, h1, h2', h3, h4', h5, h6, Bool.not_true, Bool.false_eq_true, if_false, decide_false, Bool.or_self]

end Sys2Proof.Machine
end

