-- ==== Sys2Proof/Laws/Ops.lean ====
section
/-! SUPPORT. What the shared operations over tables, bytes and memory do. -/

namespace Sys2Proof.Machine

open Sys2Proof

variable {α : Type}

/-! ### Tables -/

@[simp] theorem tget_tput_self (k : Nat) (v : α) (t : Tab α) : tget k (tput k v t) = some v := by
  induction t with
  | nil => simp [tput, tget]
  | cons c t ih =>
    obtain ⟨k', v'⟩ := c
    simp only [tput]
    split
    · simp [tget]
    · split
      · simp [tget]
      · simp [tget, *]

theorem tget_tput_other {j k : Nat} (h : j ≠ k) (v : α) (t : Tab α) : tget j (tput k v t) = tget j t := by
  induction t with
  | nil => simp [tput, tget, h]
  | cons c t ih =>
    obtain ⟨k', v'⟩ := c
    simp only [tput]
    split
    · simp [tget, h]
    · split
      · next h2 => subst h2; simp [tget, h]
      · simp [tget, ih]

@[simp] theorem tput_tput_self (k : Nat) (v w : α) (t : Tab α) : tput k w (tput k v t) = tput k w t := by
  induction t with
  | nil => simp [tput]
  | cons c t ih =>
    obtain ⟨k', v'⟩ := c
    simp only [tput]
    split
    · simp [tput]
    · split
      · simp [tput]
      · simp [tput, *]

/-! ### Sending -/

/-- Sending what a port may send touches outputs, counters and ports only. -/
theorem pumpGo_frame (p : Nat) (l : List Msg) : ∀ (stuck : List Nat) (kept : List Msg) (s : State),
    ∃ o c q, pumpGo p l stuck kept s = { s with outs := o, csr := c, ports := q } := by
  induction l with
  | nil => intro stuck kept s; exact ⟨_, _, _, rfl⟩
  | cons m t ih =>
    intro stuck kept s
    unfold pumpGo
    dsimp only
    split
    · exact ih _ _ s
    · obtain ⟨o, c, q, h⟩ := ih stuck kept (put (.link p m) (cnt (portReg p 0x18) 1 (updPort p _ s)))
      exact ⟨o, c, q, h⟩

/-- Sending something outside touches outputs, counters, ports and management sessions only. -/
theorem emit_frame (x : Out) (s : State) :
    ∃ o c q k, emit x s = { s with outs := o, csr := c, ports := q, pmp := k } := by
  unfold emit
  split
  · split
    · obtain ⟨o, c, q, h⟩ := pumpGo_frame _ _ [] [] (updPort _ _ s)
      exact ⟨o, c, q, s.pmp, h⟩
    · exact ⟨s.outs, s.csr, s.ports, s.pmp, rfl⟩
  · unfold pmpSent
    split <;> exact ⟨_, _, _, _, rfl⟩
  · exact ⟨_, _, _, _, rfl⟩

end Sys2Proof.Machine
end

