-- ==== Sys2Proof/Laws/Drover.lean ====
section
/-! SUPPORT. What the shared operations of Drover instructions do. -/

namespace Sys2Proof.Machine

open Sys2Proof

/-- An instruction that is fetched and may issue runs its body in the issuing state. -/
theorem insn_of_fetched {s : State} {t : Nat} {w : BitVec 32} {x : Thread} {uses : List RegId} {o : Ord}
    (h : Fetched s t w x uses o) (body : Thread → State → State) :
    insn t w true uses o body s = body { x with insn := w } (issuing t w s) := by
  obtain ⟨_, h2, h3, h4, h5, h6⟩ := h
  simp [insn, h2, h3, h4, h5, h6, issuing]

/-- With the data path running, a data-path operation runs. -/
theorem dp_of_runs {s : State} (h : s.halted = false) (f : State → State) : dp f s = f s := by simp [dp, h]

/-! ### One thread of many -/

theorem tupd_tupd {α : Type} (k : Nat) (f g : α → α) (l : Tab α) : tupd k f (tupd k g l) = tupd k (fun x => f (g x)) l := by
  unfold tupd
  cases h : tget k l with
  | none => simp [h]
  | some v => simp

/-- Two changes of one thread are one change. -/
theorem updThr_updThr (t : Nat) (f g : Thread → Thread) (s : State) :
    updThr t f (updThr t g s) = updThr t (fun x => f (g x)) s := by simp [updThr, tupd_tupd]

theorem thr_updThr_self {s : State} {t : Nat} {x : Thread} (h : thr s t = some x) (f : Thread → Thread) :
    thr (updThr t f s) t = some (f x) := by
  unfold thr at h
  simp [thr, updThr, tupd, h]

theorem thr_updThr_other {t v : Nat} (h : v ≠ t) (f : Thread → Thread) (s : State) :
    thr (updThr t f s) v = thr s v := by
  simp only [thr, updThr, tupd]
  split
  · exact tget_tput_other h _ _
  · rfl

/-- Counting in one register leaves every other counter. -/
theorem counter_cnt_other {a b : Nat} (h : b ≠ a) (n : Nat) (s : State) : tgetD (cnt a n s).csr b 0 = tgetD s.csr b 0 := by
  simp [cnt, tgetD, tget_tput_other h]

/-! ### Registers -/

@[simp] theorem read_r0 (x : Thread) : x.read (.r 0) = 0 := by simp [Thread.read]
@[simp] theorem pois_r0 (x : Thread) : x.pois (.r 0) = false := by simp [Thread.pois]
/-- A write to r0 is discarded. -/
@[simp] theorem write_r0 (x : Thread) (v : Nat) (p : Bool) : x.write (.r 0) v p = x := by simp [Thread.write]

theorem getD_set_other {α : Type} {n i j : Nat} (h : j ≠ i) (v : Vector α n) (a d : α) :
    (v.setIfInBounds i a).getD j d = v.getD j d := by
  show (v.toArray.setIfInBounds i a).getD j d = v.toArray.getD j d
  rw [Array.getD_eq_getD_getElem?, Array.getD_eq_getD_getElem?, Array.getElem?_setIfInBounds_ne (Ne.symm h)]

theorem bit_one_shift {w n m : Nat} (h : m ≠ n) : (1#w <<< n).getLsbD m = false := by
  simp only [BitVec.getLsbD_shiftLeft, BitVec.getLsbD_one]
  rcases Nat.lt_or_ge m n with h' | h'
  · simp [h']
  · have : m - n ≠ 0 := by omega
    simp [this]

theorem bit_set_other {w n m : Nat} (h : m ≠ n) (b : BitVec w) : (b ||| 1#w <<< n).getLsbD m = b.getLsbD m := by
  simp only [BitVec.getLsbD_or, bit_one_shift h, Bool.or_false]

theorem bit_clear_other {w n m : Nat} (h : m ≠ n) (b : BitVec w) : (b &&& ~~~(1#w <<< n)).getLsbD m = b.getLsbD m := by
  simp only [BitVec.getLsbD_and, BitVec.getLsbD_not, bit_one_shift h, Bool.not_false, Bool.and_true]
  by_cases hw : m < w
  · simp [hw]
  · simp [hw, BitVec.getLsbD_of_ge b m (by omega)]

/-- A write leaves every other register and its poison bit. -/
theorem read_write_other {d r : RegId} (h : r ≠ d) (x : Thread) (v : Nat) (p : Bool) :
    (x.write d v p).read r = x.read r ∧ (x.write d v p).pois r = x.pois r := by
  cases d with
  | r n =>
    by_cases hn : n = 0
    · subst hn; simp
    · cases r with
      | r m =>
        have hm : m ≠ n := fun e => h (by rw [e])
        cases p <;> simp [Thread.write, Thread.read, Thread.pois, hn, getD_set_other hm, bit_set_other hm, bit_clear_other hm]
      | v m => cases p <;> simp [Thread.write, Thread.read, Thread.pois, hn]
  | v n =>
    cases r with
    | r m => cases p <;> simp [Thread.write, Thread.read, Thread.pois]
    | v m =>
      have hm : m ≠ n := fun e => h (by rw [e])
      cases p <;> simp [Thread.write, Thread.read, Thread.pois, getD_set_other hm, bit_set_other hm, bit_clear_other hm]

end Sys2Proof.Machine
end

