-- ==== Sys2Proof/Laws/Engine.lean ====
section
/-! SUPPORT. What taking a descriptor does. -/

namespace Sys2Proof.Machine

open Sys2Proof

/-- A unit that may take an operation of an OP it runs validates and runs it as taken. -/
theorem takeOp_of_takes {s : State} {k : UnitKind} {u : Nat} {o : EngOp} (h : Takes s k u o) (mine : Nat → Bool)
    (total : List Byte → Nat) (go : EngOp → State → State) (hm : mine (dOp (readDesc s o)) = true) :
    takeOp k u 128 mine total go s = go (takenOp s k u o (total (readDesc s o))) s := by
  obtain ⟨_, h1, h2, h3, h4, h5, h6, h7⟩ := h
  simp only [takeOp, h1, h2, h3, h4, h5, h6, h7, hm, Bool.or_self, Bool.false_eq_true, if_false, Bool.not_true, takenOp]

end Sys2Proof.Machine
end

