-- ==== Sys2Proof/Laws/Memory.lean ====
section
/-! SUPPORT. Memory: canonical form, reads after writes, and little-endian numbers. -/

namespace Sys2Proof.Machine

open Sys2Proof

variable {α : Type}

/-! ### Canonical tables -/

/-- Rising keys as an ordering of every pair. -/
theorem tsorted_iff (t : Tab α) : tsorted t = true ↔ t.Pairwise (fun x y => x.1 < y.1) := by
  induction t with
  | nil => simp [tsorted]
  | cons c t ih =>
    cases t with
    | nil => simp [tsorted]
    | cons d t =>
      obtain ⟨k, v⟩ := c
      obtain ⟨k', v'⟩ := d
      simp only [tsorted, Bool.and_eq_true, decide_eq_true_eq, ih, List.pairwise_cons]
      constructor
      · rintro ⟨h, h1, h2⟩
        refine ⟨?_, h1, h2⟩
        intro x hx
        rcases List.mem_cons.mp hx with rfl | hx
        · exact h
        · exact Nat.lt_trans h (h1 x hx)
      · rintro ⟨h, h1, h2⟩
        exact ⟨h _ (List.mem_cons_self ..), h1, h2⟩

theorem mem_tput {k : Nat} {v : α} {t : Tab α} {c : Nat × α} (h : c ∈ tput k v t) : c = (k, v) ∨ c ∈ t := by
  induction t with
  | nil => simpa [tput] using h
  | cons d t ih =>
    obtain ⟨k', v'⟩ := d
    simp only [tput] at h
    split at h
    · rcases List.mem_cons.mp h with h | h
      · exact .inl h
      · exact .inr h
    · split at h
      · rcases List.mem_cons.mp h with h | h
        · exact .inl h
        · exact .inr (List.mem_cons_of_mem _ h)
      · rcases List.mem_cons.mp h with h | h
        · exact .inr (h ▸ List.mem_cons_self ..)
        · rcases ih h with h | h
          · exact .inl h
          · exact .inr (List.mem_cons_of_mem _ h)

theorem mem_tdel {k : Nat} {t : Tab α} {c : Nat × α} (h : c ∈ tdel k t) : c ∈ t := by
  induction t with
  | nil => simp [tdel] at h
  | cons d t ih =>
    obtain ⟨k', v'⟩ := d
    simp only [tdel] at h
    split at h
    · exact List.mem_cons_of_mem _ (ih h)
    · rcases List.mem_cons.mp h with h | h
      · exact h ▸ List.mem_cons_self ..
      · exact List.mem_cons_of_mem _ (ih h)

theorem tsorted_tput {k : Nat} {v : α} {t : Tab α} (h : tsorted t = true) : tsorted (tput k v t) = true := by
  rw [tsorted_iff] at h ⊢
  induction t with
  | nil => simp [tput]
  | cons d t ih =>
    obtain ⟨k', v'⟩ := d
    rw [List.pairwise_cons] at h
    simp only [tput]
    split
    · next hk =>
      rw [List.pairwise_cons]
      refine ⟨?_, List.pairwise_cons.mpr h⟩
      intro x hx
      rcases List.mem_cons.mp hx with rfl | hx
      · exact hk
      · exact Nat.lt_trans hk (h.1 x hx)
    · split
      · next hk => subst hk; exact List.pairwise_cons.mpr h
      · next h1 h2 =>
        rw [List.pairwise_cons]
        refine ⟨?_, ih h.2⟩
        intro x hx
        rcases mem_tput hx with rfl | hx
        · show k' < k; omega
        · exact h.1 x hx

theorem tsorted_tdel {k : Nat} {t : Tab α} (h : tsorted t = true) : tsorted (tdel k t) = true := by
  rw [tsorted_iff] at h ⊢
  induction t with
  | nil => exact h
  | cons d t ih =>
    obtain ⟨k', v'⟩ := d
    rw [List.pairwise_cons] at h
    simp only [tdel]
    split
    · exact ih h.2
    · exact List.pairwise_cons.mpr ⟨fun x hx => h.1 x (mem_tdel hx), ih h.2⟩

theorem tsorted_filter {p : Nat × α → Bool} {t : Tab α} (h : tsorted t = true) : tsorted (t.filter p) = true := by
  rw [tsorted_iff] at h ⊢
  exact h.filter p

theorem tget_tdel_other {j k : Nat} (h : j ≠ k) (t : Tab α) : tget j (tdel k t) = tget j t := by
  induction t with
  | nil => rfl
  | cons d t ih =>
    obtain ⟨k', v'⟩ := d
    simp only [tdel]
    split
    · next hk => subst hk; simp [tget, h, ih]
    · simp [tget, ih]

theorem tget_tdel_self (k : Nat) (t : Tab α) : tget k (tdel k t) = none := by
  induction t with
  | nil => rfl
  | cons d t ih =>
    obtain ⟨k', v'⟩ := d
    simp only [tdel]
    split
    · exact ih
    · next hk => simp only [tget, if_neg hk]; exact ih

/-! ### Memory keeps its canonical form -/

theorem memWf_iff (m : Tab Byte) : memWf m = true ↔ tsorted m = true ∧ ∀ c ∈ m, c.2 ≠ 0 := by
  simp [memWf]

theorem memWf_putByte {a : Nat} {v : Byte} {m : Tab Byte} (h : memWf m = true) : memWf (putByte a v m) = true := by
  rw [memWf_iff] at h ⊢
  unfold putByte
  split
  · exact ⟨tsorted_tdel h.1, fun c hc => h.2 c (mem_tdel hc)⟩
  · next hv =>
    refine ⟨tsorted_tput h.1, fun c hc => ?_⟩
    rcases mem_tput hc with rfl | hc
    · exact hv
    · exact h.2 c hc

theorem memWf_putBytes {a : Nat} {l : List Byte} {m : Tab Byte} (h : memWf m = true) : memWf (putBytes a l m) = true := by
  induction l generalizing a m with
  | nil => exact h
  | cons b t ih => exact ih (memWf_putByte h)

theorem memWf_putMasked {a : Nat} {l : List (Byte × Bool)} {m : Tab Byte} (h : memWf m = true) :
    memWf (putMasked a l m) = true := by
  induction l generalizing a m with
  | nil => exact h
  | cons b t ih =>
    obtain ⟨b, k⟩ := b
    simp only [putMasked]
    split
    · exact ih (memWf_putByte h)
    · exact ih h

theorem memWf_filter {p : Nat × Byte → Bool} {m : Tab Byte} (h : memWf m = true) : memWf (m.filter p) = true := by
  rw [memWf_iff] at h ⊢
  exact ⟨tsorted_filter h.1, fun c hc => h.2 c (List.mem_filter.mp hc).1⟩

theorem memWf_zeroRange {a n : Nat} {m : Tab Byte} (h : memWf m = true) : memWf (zeroRange a n m) = true := memWf_filter h

/-! ### Reads after writes -/

theorem byteAt_putByte_self (a : Nat) (v : Byte) (m : Tab Byte) : byteAt (putByte a v m) a = v := by
  unfold byteAt putByte tgetD
  split
  · next hv => rw [tget_tdel_self, hv]; rfl
  · rw [tget_tput_self]; rfl

theorem byteAt_putByte_other {a b : Nat} (hab : b ≠ a) (v : Byte) (m : Tab Byte) : byteAt (putByte a v m) b = byteAt m b := by
  unfold byteAt putByte tgetD
  split
  · rw [tget_tdel_other hab]
  · rw [tget_tput_other hab]

theorem byteAt_putBytes_other {a b : Nat} {l : List Byte} (h : b < a ∨ a + l.length ≤ b) (m : Tab Byte) :
    byteAt (putBytes a l m) b = byteAt m b := by
  induction l generalizing a m with
  | nil => rfl
  | cons x t ih =>
    simp only [List.length_cons] at h
    rw [putBytes, ih (by omega), byteAt_putByte_other (by omega)]

theorem byteAt_putBytes {a i : Nat} {l : List Byte} {m : Tab Byte} (hm : memWf m = true) (h : i < l.length) :
    byteAt (putBytes a l m) (a + i) = l[i] := by
  induction l generalizing a i m with
  | nil => exact absurd h (Nat.not_lt_zero _)
  | cons x t ih =>
    rw [putBytes]
    cases i with
    | zero =>
      show byteAt (putBytes (a + 1) t (putByte a x m)) a = x
      rw [byteAt_putBytes_other (.inl (Nat.lt_succ_self a)), byteAt_putByte_self]
    | succ i =>
      have e : a + (i + 1) = a + 1 + i := by omega
      have h' : i < t.length := by simpa using h
      rw [e, ih (memWf_putByte hm) h']
      rfl

theorem bytesAt_putBytes {a : Nat} {l : List Byte} {m : Tab Byte} (hm : memWf m = true) :
    bytesAt (putBytes a l m) a l.length = l := by
  apply List.ext_getElem
  · simp [bytesAt, span]
  · intro i h1 h2
    simp [bytesAt, span, byteAt_putBytes hm h2]

/-! ### Little-endian numbers -/

@[simp] theorem length_leBytes (n v : Nat) : (leBytes n v).length = n := by
  induction n generalizing v with
  | zero => rfl
  | succ n ih => simp [leBytes, ih]

theorem leNat_leBytes (n v : Nat) : leNat (leBytes n v) = v % 256 ^ n := by
  induction n generalizing v with
  | zero => simp [leBytes, leNat, Nat.mod_one]
  | succ n ih =>
    simp only [leBytes, leNat, ih, BitVec.toNat_ofNat]
    have e : 256 ^ (n + 1) = 256 * 256 ^ n := by ring
    rw [e, Nat.mod_mul]

end Sys2Proof.Machine
end

