-- ==== Sys2Proof/Laws/Events.lean ====
section
/-! SUPPORT. Posting events, signalling vectors and landing the device's own writes leave the working parts alone. -/

namespace Sys2Proof.Machine

open Sys2Proof

/-- `t` is `s` but for memory, copies, counters, queues, outputs, partitions' event queues and the like: sync words,
threads, engines, translation, carriers, clocks, power and the ledger stand as they were. -/
structure Quiet (s t : State) : Prop where
  sync : t.sync = s.sync
  drv : t.drv = s.drv
  eng : t.eng = s.eng
  xlt : t.xlt = s.xlt
  car : t.car = s.car
  rep : t.rep = s.rep
  clk : t.clk = s.clk
  pwr : t.pwr = s.pwr
  spad : t.store.spad = s.store.spad

theorem Quiet.refl (s : State) : Quiet s s := ⟨rfl, rfl, rfl, rfl, rfl, rfl, rfl, rfl, rfl⟩

theorem Quiet.trans {s t u : State} (h : Quiet s t) (k : Quiet t u) : Quiet s u :=
  ⟨k.sync.trans h.sync, k.drv.trans h.drv, k.eng.trans h.eng, k.xlt.trans h.xlt, k.car.trans h.car, k.rep.trans h.rep,
    k.clk.trans h.clk, k.pwr.trans h.pwr, k.spad.trans h.spad⟩

theorem Quiet.fold {α : Type} {f : State → α → State} (h : ∀ s a, Quiet s (f s a)) (l : List α) :
    ∀ s, Quiet s (l.foldl f s) := by
  induction l with
  | nil => exact Quiet.refl
  | cons a l ih => exact fun s => (h s a).trans (ih _)

theorem cnt_quiet (a n : Nat) (s : State) : Quiet s (cnt a n s) := ⟨rfl, rfl, rfl, rfl, rfl, rfl, rfl, rfl, rfl⟩
theorem updPart_quiet (p : Nat) (f : Part → Part) (s : State) : Quiet s (updPart p f s) :=
  ⟨rfl, rfl, rfl, rfl, rfl, rfl, rfl, rfl, rfl⟩

theorem emit_quiet (x : Out) (s : State) : Quiet s (emit x s) := by
  obtain ⟨_, _, _, _, h⟩ := emit_frame x s
  rw [h]; exact ⟨rfl, rfl, rfl, rfl, rfl, rfl, rfl, rfl, rfl⟩

theorem landLine_quiet (off : Nat) (d : List Byte) (m : List Bool) (p : Bool) (s : State) : Quiet s (landLine off d m p s) :=
  ⟨rfl, rfl, rfl, rfl, rfl, rfl, rfl, rfl, rfl⟩

theorem writeBack_quiet (l : Nat) (s : State) : Quiet s (writeBack l s) := by
  unfold writeBack; split
  · exact Quiet.refl s
  · exact ⟨rfl, rfl, rfl, rfl, rfl, rfl, rfl, rfl, rfl⟩

theorem snoop_quiet (l : Nat) (ps : List Nat) (inv : Bool) (r : Req) (s : State) : Quiet s (snoop l ps inv r s) := by
  unfold snoop
  refine Quiet.fold (fun s p => ?_) ps s
  dsimp only
  split
  · exact ⟨rfl, rfl, rfl, rfl, rfl, rfl, rfl, rfl, rfl⟩
  · refine Quiet.trans ?_ (t := emit (.link p { kind := if inv then .snpInv else .snpShr, sa := ownSa s 0 (l * 64) })
        { s with coh := { s.coh with snoops := s.coh.snoops ++
          [{ line := l, port := p, inv := inv, since := s.now, reqs := [] }] } }) ⟨rfl, rfl, rfl, rfl, rfl, rfl, rfl, rfl, rfl⟩
    exact Quiet.trans (t := { s with coh := { s.coh with snoops := s.coh.snoops ++
          [{ line := l, port := p, inv := inv, since := s.now, reqs := [] }] } }) ⟨rfl, rfl, rfl, rfl, rfl, rfl, rfl, rfl, rfl⟩ (emit_quiet _ _)

theorem landInv_quiet (r : Req) (s : State) : Quiet s (landInv r s) := by
  unfold landInv; dsimp only
  split
  · exact landLine_quiet ..
  · split
    · exact snoop_quiet ..
    · refine Quiet.trans ?_ (landLine_quiet ..)
      refine Quiet.trans ?_ (cnt_quiet ..)
      split
      · exact ⟨rfl, rfl, rfl, rfl, rfl, rfl, rfl, rfl, rfl⟩
      · exact (writeBack_quiet ..).trans ⟨rfl, rfl, rfl, rfl, rfl, rfl, rfl, rfl, rfl⟩

theorem devWrite_quiet (off : Nat) (d : List Byte) (s : State) : Quiet s (devWrite off d s) :=
  Quiet.fold (fun s _ => landInv_quiet _ s) _ s

theorem msi_quiet (v : Nat) (s : State) : Quiet s (msi v s) := by
  unfold msi; repeat' split
  · exact Quiet.refl s
  · exact ⟨rfl, rfl, rfl, rfl, rfl, rfl, rfl, rfl, rfl⟩
  · exact emit_quiet ..

theorem evqSignal_quiet (p : Nat) (s : State) : Quiet s (evqSignal p s) := by
  unfold evqSignal; dsimp only
  split
  · exact Quiet.refl s
  · repeat' split
    all_goals first
      | exact updPart_quiet ..
      | exact (updPart_quiet ..).trans (msi_quiet ..)

theorem evqWrite_quiet (p : Nat) (r : List Byte) (s : State) : Quiet s (evqWrite p r s) := by
  unfold evqWrite; dsimp only
  split
  · exact Quiet.refl s
  · split
    · exact Quiet.refl s
    · exact (((devWrite_quiet ..).trans (devWrite_quiet ..)).trans (updPart_quiet ..)).trans (evqSignal_quiet ..)

theorem evqLost_quiet (p : Nat) (s : State) : Quiet s (evqLost p s) := by
  unfold evqLost; dsimp only
  split
  · exact Quiet.refl s
  · split
    · exact Quiet.refl s
    · exact (updPart_quiet ..).trans (evqWrite_quiet ..)

theorem evqPost_quiet (p k c : Nat) (d : List Byte) (s : State) : Quiet s (evqPost p k c d s) := by
  unfold evqPost; dsimp only
  refine (evqLost_quiet p s).trans ?_
  split
  · exact Quiet.refl _
  · split
    · exact (updPart_quiet ..).trans (evqWrite_quiet ..)
    · exact ⟨rfl, rfl, rfl, rfl, rfl, rfl, rfl, rfl, rfl⟩

theorem pmpEvent_quiet (r : List Byte) (s : State) : Quiet s (pmpEvent r s) := Quiet.fold (fun s _ => emit_quiet _ s) _ s

theorem rasWrite_quiet (r : List Byte) (s : State) : Quiet s (rasWrite r s) := by
  unfold rasWrite; dsimp only
  refine Quiet.trans ?_ (msi_quiet ..)
  exact Quiet.trans (emit_quiet (.hostWr (s.ras.run.base + s.ras.tail * 64) r) s) ⟨rfl, rfl, rfl, rfl, rfl, rfl, rfl, rfl, rfl⟩

theorem rasLost_quiet (s : State) : Quiet s (rasLost s) := by
  unfold rasLost; dsimp only
  split
  · exact Quiet.refl s
  · refine Quiet.trans ?_ (pmpEvent_quiet ..)
    refine Quiet.trans ?_ (rasWrite_quiet ..)
    exact ⟨rfl, rfl, rfl, rfl, rfl, rfl, rfl, rfl, rfl⟩

/-! ### Tally words -/

theorem tallyAt_of_sync {s t : State} (h : t.sync.words = s.sync.words) (w : Nat) : tallyAt t w = tallyAt s w := by
  unfold tallyAt; rw [h]

/-- Writing a tally word writes that word only. -/
theorem tallyAt_setTally_other {v w : Nat} (h : v ≠ w) (x : BitVec 64) (s : State) : tallyAt (setTally w x s) v = tallyAt s v := by
  unfold tallyAt setTally tgetD
  split
  · rw [tget_tdel_other h]
  · rw [tget_tput_other h]

/-- The word written reads back. -/
theorem tallyAt_setTally_self (w : Nat) (x : BitVec 64) (s : State) : tallyAt (setTally w x s) w = x := by
  unfold tallyAt setTally tgetD
  dsimp only
  split
  · next h => rw [tget_tdel_self, h]; rfl
  · rw [tget_tput_self]; rfl

/-! The fields of a tally word put together (Table 5.1). -/

theorem tWord_toNat (e : Nat) (a b c : Bool) (n : Nat) : (tWord e a b c n).toNat
    = e % 4096 * 2 ^ 52 + b2n a * 2 ^ 51 + b2n b * 2 ^ 50 + b2n c * 2 ^ 49 + n % 2 ^ 48 := by
  unfold tWord
  rw [BitVec.toNat_ofNat, Nat.mod_eq_of_lt]
  cases a <;> cases b <;> cases c <;> simp only [b2n, if_true, Bool.false_eq_true, if_false] <;> omega

@[simp] theorem tEpoch_tWord (e : Nat) (a b c : Bool) (n : Nat) : tEpoch (tWord e a b c n) = e % 4096 := by
  unfold tEpoch
  rw [BitVec.extractLsb'_toNat, Nat.shiftRight_eq_div_pow, tWord_toNat]
  cases a <;> cases b <;> cases c <;> simp only [b2n, if_true, Bool.false_eq_true, if_false] <;> omega

@[simp] theorem tCount_tWord (e : Nat) (a b c : Bool) (n : Nat) : tCount (tWord e a b c n) = n % 2 ^ 48 := by
  unfold tCount
  rw [BitVec.extractLsb'_toNat, Nat.shiftRight_eq_div_pow, tWord_toNat]
  cases a <;> cases b <;> cases c <;> simp only [b2n, if_true, Bool.false_eq_true, if_false] <;> omega

theorem getLsbD_div (w : BitVec 64) (i : Nat) : w.getLsbD i = decide (w.toNat / 2 ^ i % 2 = 1) := by
  rw [BitVec.getLsbD, Nat.testBit_eq_decide_div_mod_eq]

@[simp] theorem tSat_tWord (e : Nat) (a b c : Bool) (n : Nat) : tSat (tWord e a b c n) = a := by
  unfold tSat; rw [getLsbD_div, tWord_toNat]
  cases a <;> cases b <;> cases c <;> simp only [b2n, if_true, Bool.false_eq_true, if_false, decide_eq_true_eq, decide_eq_false_iff_not] <;> omega

@[simp] theorem tUnd_tWord (e : Nat) (a b c : Bool) (n : Nat) : tUnd (tWord e a b c n) = b := by
  unfold tUnd; rw [getLsbD_div, tWord_toNat]
  cases a <;> cases b <;> cases c <;> simp only [b2n, if_true, Bool.false_eq_true, if_false, decide_eq_true_eq, decide_eq_false_iff_not] <;> omega

@[simp] theorem tMis_tWord (e : Nat) (a b c : Bool) (n : Nat) : tMis (tWord e a b c n) = c := by
  unfold tMis; rw [getLsbD_div, tWord_toNat]
  cases a <;> cases b <;> cases c <;> simp only [b2n, if_true, Bool.false_eq_true, if_false, decide_eq_true_eq, decide_eq_false_iff_not] <;> omega

theorem tCount_lt (w : BitVec 64) : tCount w < 2 ^ 48 := BitVec.isLt _
theorem tEpoch_lt (w : BitVec 64) : tEpoch w < 4096 := BitVec.isLt _

theorem endWait_words (w : TWait) (st : Status) (s : State) : (endWait w st s).sync.words = s.sync.words := by
  unfold endWait; dsimp only
  have : ∀ (b : Bool) (s : State), (if b = true then cnt (cellReg (w.word / 32768) 0x628) 1 s else s).sync = s.sync := by
    intro b s; cases b <;> rfl
  split
  · show (if st = .timeout then cnt (cellReg (w.word / 32768) 0x628) 1 s else s).sync.words = _
    split <;> rfl
  · rw [(emit_quiet _ _).sync]; split <;> rfl

theorem wake_words (w : Nat) (s : State) : (wake w s).sync.words = s.sync.words := by
  unfold wake; dsimp only
  have : ∀ (l : List TWait) (s : State), (l.foldl (fun s w => endWait w .done s) s).sync.words = s.sync.words := by
    intro l; induction l with
    | nil => intro s; rfl
    | cons a l ih => intro s; exact (ih _).trans (endWait_words a _ s)
  exact this _ _

/-- A tally update writes its word and no other (R140, R141). -/
theorem tallyApply_words (sub : Bool) (word : Nat) (o : BitVec 64) (ctx : Nat) (s : State) :
    (tallyApply sub word o ctx s).sync.words = (setTally word (tallyUpdate sub (tallyAt s word) o).1 s).sync.words := by
  have ev : ∀ (p : Prop) [Decidable p] (a b c d e : Nat) (s : State),
      (if p then s else evSync a b c d e s).sync = s.sync := by
    intro p _ a b c d e s
    split
    · rfl
    · unfold evSync; split
      · rfl
      · exact (evqPost_quiet ..).sync
  have wk : ∀ (p : Prop) [Decidable p] (s : State), (if p then s else wake word s).sync.words = s.sync.words := by
    intro p _ s
    split
    · rfl
    · exact wake_words word s
  have on : ∀ (f : TFlag) (a b : Nat) (s : State), (cnt a 1 (if f = .mis then s else cnt b 1 s)).sync = s.sync := by
    intro f a b s
    show (if f = TFlag.mis then s else cnt b 1 s).sync = s.sync
    split <;> rfl
  unfold tallyApply
  dsimp only
  generalize tallyUpdate sub (tallyAt s word) o = x
  obtain ⟨v, f⟩ := x
  rw [wk]
  cases f with
  | none => rfl
  | some f =>
    dsimp only
    rw [ev, on]

theorem endWait_waiters (w : TWait) (st : Status) (s : State) : (endWait w st s).sync = s.sync := by
  unfold endWait; dsimp only
  split
  · show (if st = .timeout then cnt (cellReg (w.word / 32768) 0x628) 1 s else s).sync = _
    split <;> rfl
  · rw [(emit_quiet _ _).sync]; split <;> rfl

/-- What losing a tally word does to the words and the waiters (R505). -/
theorem tallyLost_effect (word : Nat) (s : State) :
    (tallyLost word s).sync.words = (setTally word 0x000E000000000000 s).sync.words ∧
    ∀ w ∈ (tallyLost word s).sync.waiters, w.word ≠ word := by
  have fold : ∀ (l : List TWait) (s : State), (l.foldl (fun s w => endWait w .faultSync s) s).sync = s.sync := by
    intro l; induction l with
    | nil => intro s; rfl
    | cons a l ih => intro s; exact (ih _).trans (endWait_waiters a _ s)
  have ev : ∀ (a b c d e : Nat) (s : State), (evSync a b c d e s).sync = s.sync := by
    intro a b c d e s
    unfold evSync; split
    · rfl
    · exact (evqPost_quiet ..).sync
  unfold tallyLost
  dsimp only
  rw [ev, fold]
  refine ⟨rfl, fun w hw => ?_⟩
  have := (List.mem_filter.mp hw).2
  simpa using this

/-! ### A faulting thread -/

theorem withdraw_drv (t : Nat) (s : State) : (withdraw t s).drv = s.drv ∧ (withdraw t s).sync.words = s.sync.words := ⟨rfl, rfl⟩

theorem groupCheck_effect (n : Nat) (s : State) (g : Group) (h : tget n s.drv.groups = some g) :
    (groupCheck n s).drv.threads = s.drv.threads ∧ (groupCheck n s).sync = s.sync ∧
    ∃ y, tget n (groupCheck n s).drv.groups = some y ∧ y.faulted = g.faulted ∧ y.firstFault = g.firstFault := by
  unfold groupCheck
  rw [h]
  dsimp only
  split
  · refine ⟨rfl, rfl, { g with st := .ending }, ?_, rfl, rfl⟩
    simp [updGrp, tupd, h]
  · exact ⟨rfl, rfl, g, h, rfl, rfl⟩

/-- What faulting a thread of a group without STOP_ON_FAULT does to the threads, its group and the tally words (R198). -/
theorem faultThread_effect {s : State} {t : Nat} {x : Thread} {g : Group} (h : thr s t = some x)
    (hr : (x.st = .halted || x.st = .faulted || x.st = .stopped) = false) (hg : tget x.group s.drv.groups = some g)
    (hs : g.stopOnFault = false) (st : Status) (sa : Nat) (fetch : Bool) :
    ∃ y, thr (faultThread t st sa fetch s) t = some { x with st := .faulted, pend := [] } ∧
      (∀ k, k ≠ t → thr (faultThread t st sa fetch s) k = thr s k) ∧
      tget x.group (faultThread t st sa fetch s).drv.groups = some y ∧
      (y.faulted = g.faulted + 1 ∧ y.firstFault = some (g.firstFault.getD st)) ∧
      (faultThread t st sa fetch s).sync.words = s.sync.words := by
  unfold faultThread
  rw [h]
  dsimp only
  rw [if_neg (by rw [hr]; decide), hg]
  dsimp only
  rw [hs]
  simp only [Bool.false_eq_true, if_false]
  generalize hw : withdraw t (updThr t (fun x => { x with st := .faulted, pend := [] }) s) = a
  have a1 : a.drv.threads = tupd t (fun x => { x with st := .faulted, pend := [] }) s.drv.threads := by rw [← hw]; rfl
  have a2 : a.drv.groups = s.drv.groups := by rw [← hw]; rfl
  have a3 : a.sync.words = s.sync.words := by rw [← hw]; rfl
  generalize hb : updGrp x.group (fun g => { g with
    faulted := g.faulted + 1
    firstFault := if g.firstFault.isNone then some st else g.firstFault
    poisoned := g.poisoned || st = .faultPoison }) a = b
  have b1 : b.drv.threads = a.drv.threads := by rw [← hb]; rfl
  have b3 : b.sync.words = a.sync.words := by rw [← hb]; rfl
  have b2 : ∃ y, tget x.group b.drv.groups = some y ∧ y.faulted = g.faulted + 1 ∧ y.firstFault = some (g.firstFault.getD st) := by
    rw [← hb]
    refine ⟨_, by simp only [updGrp, tupd, a2, hg, tget_tput_self]; rfl, rfl, ?_⟩
    cases g.firstFault <;> rfl
  obtain ⟨y, y1, y2, y3⟩ := b2
  generalize hc : cnt (cellReg g.cell 0x730) 1 (evqPost g.part 0x0101 1 _ b) = c
  have c0 : c.drv = b.drv := by rw [← hc]; exact (evqPost_quiet ..).drv
  have c1 : c.sync = b.sync := by rw [← hc]; exact (evqPost_quiet ..).sync
  obtain ⟨d1, d2, z, z1, z2, z3⟩ := groupCheck_effect x.group c y (by rw [c0]; exact y1)
  have th : (groupCheck x.group c).drv.threads = tupd t (fun x => { x with st := .faulted, pend := [] }) s.drv.threads := by
    rw [d1, c0, b1, a1]
  refine ⟨z, ?_, ?_, z1, ⟨z2.trans y2, z3.trans y3⟩, ?_⟩
  · unfold thr; rw [th]
    exact thr_updThr_self h _
  · intro k hk
    unfold thr; rw [th]
    exact thr_updThr_other hk _ s
  · rw [d2, c1, b3, a3]

end Sys2Proof.Machine
end

