-- ==== Sys2Proof/Laws/Keeps.lean ====
section
/-! SUPPORT. What every operation keeps: memory's canonical form, the clocks' order, and the queue. -/

namespace Sys2Proof.Machine

open Sys2Proof

/-- What stands of `s` in `t`: the canonical form of memory, the data path's clock not ahead of the wall's, the queue. -/
structure Keeps (s t : State) : Prop where
  mem : memWf s.store.mem = true → memWf t.store.mem = true
  clock : s.now ≤ s.wall → t.now ≤ t.wall
  queue : t.pending = s.pending

variable {sA s t : State}

theorem Keeps.refl (s : State) : Keeps s s := ⟨id, id, rfl⟩

/-- A record update that leaves memory, clocks and queue. -/
theorem Keeps.upd {st : Store} {x3 : Bool} {x4 : Nat} {x5 : List Out} {x6 : Tab Nat} {x7 : Xlt} {x9 : Coh} {x10 : Sync} {x11 :
    Drover} {x12 : Stage} {x13 : Eng} {x14 : DepotSt} {x15 : Tab Index} {x16 : Car} {x17 : Vector Port 8} {x18 : Clk} {x19
    : Pwr} {x20 : Tap} {x21 : Rep} {x22 : Parts} {x23 : Ras} {x24 : HostPort} {x25 : Pmp}
    (h : Keeps sA s) (m : st.mem = s.store.mem) :
    Keeps sA (State.mk s.pending s.now s.wall x3 x4 x5 x6 x7 st x9 x10 x11 x12 x13 x14 x15 x16 x17 x18 x19 x20 x21 x22 x23 x24 x25) :=
  ⟨fun a => (congrArg memWf m).trans (h.mem a), h.clock, h.queue⟩

/-- A record update of memory by an operation that keeps its form. -/
theorem Keeps.updMem {st : Store} {x3 : Bool} {x4 : Nat} {x5 : List Out} {x6 : Tab Nat} {x7 : Xlt} {x9 : Coh} {x10 : Sync} {x11 : Drover} {x12 : Stage} {x13 : Eng} {x14 : DepotSt} {x15 : Tab Index} {x16 : Car} {x17 : Vector Port 8} {x18 : Clk} {x19 : Pwr} {x20 : Tap} {x21 : Rep} {x22 : Parts} {x23 : Ras} {x24 : HostPort} {x25 : Pmp}
    (h : Keeps sA s) (m : memWf s.store.mem = true → memWf st.mem = true) :
    Keeps sA (State.mk s.pending s.now s.wall x3 x4 x5 x6 x7 st x9 x10 x11 x12 x13 x14 x15 x16 x17 x18 x19 x20 x21 x22 x23 x24 x25) :=
  ⟨fun a => m (h.mem a), h.clock, h.queue⟩

/-- The state of a pair. -/
theorem Keeps.ofPair {α : Type} {x : α × State} {a : α} (e : x = (a, t)) (h : Keeps sA x.2) : Keeps sA t := by
  rw [e] at h; exact h

theorem Keeps.ofPair' {α : Type} {x : State × α} {a : α} (e : x = (t, a)) (h : Keeps sA x.1) : Keeps sA t := by
  rw [e] at h; exact h

/-- What every step of a fold keeps, the fold keeps. -/
theorem Keeps.fold {β : Type} {f : State → β → State} {l : List β} (hf : ∀ s b, Keeps sA s → Keeps sA (f s b))
    (h : Keeps sA s) : Keeps sA (l.foldl f s) := foldl_keeps hf l s h

theorem Keeps.foldSnd {α β : Type} {f : α × State → β → α × State} {l : List β} {i : α × State}
    (hf : ∀ a b, Keeps sA a.2 → Keeps sA (f a b).2) (h : Keeps sA i.2) : Keeps sA (l.foldl f i).2 :=
  foldl_keeps (P := fun a : α × State => Keeps sA a.2) hf l i h

theorem Keeps.foldFst {α β : Type} {f : State × α → β → State × α} {l : List β} {i : State × α}
    (hf : ∀ a b, Keeps sA a.1 → Keeps sA (f a b).1) (h : Keeps sA i.1) : Keeps sA (l.foldl f i).1 :=
  foldl_keeps (P := fun a : State × α => Keeps sA a.1) hf l i h

theorem Keeps.foldThird {α γ β : Type} {f : α × γ × State → β → α × γ × State} {l : List β} {i : α × γ × State}
    (hf : ∀ a b, Keeps sA a.2.2 → Keeps sA (f a b).2.2) (h : Keeps sA i.2.2) : Keeps sA (l.foldl f i).2.2 :=
  foldl_keeps (P := fun a : α × γ × State => Keeps sA a.2.2) hf l i h

/-- The last state of a triple. -/
theorem Keeps.ofTriple {α β : Type} {x : α × β × State} {a : α} {b : β} (e : x = (a, b, t)) (h : Keeps sA x.2.2) :
    Keeps sA t := by
  rw [e] at h; exact h

/-- A match that keeps its pair. -/
theorem Keeps.ofEq {α : Type} {x y : α × State} (e : y = x) (h : Keeps sA y.2) : Keeps sA x.2 := e ▸ h

theorem Keeps.ofEq' {α : Type} {x y : State × α} (e : y = x) (h : Keeps sA y.1) : Keeps sA x.1 := e ▸ h

/-- What an optional value leads to, or nothing. -/
theorem Keeps.mapGetD {α : Type} {o : Option α} {f : α → State} (hf : ∀ a, Keeps sA (f a)) (h : Keeps sA s) :
    Keeps sA ((o.map f).getD s) := by
  cases o
  · exact h
  · exact hf _

end Sys2Proof.Machine
end

