-- ==== Sys2Proof/Laws/KeepsStore.lean ====
section
/-! SUPPORT. Each operation of the store's homes, tiers and translation keeps memory's form, the clocks' order and the queue. -/

namespace Sys2Proof.Machine

open Sys2Proof

variable {sA : State}

/-! ### Ops -/

theorem draw_keeps {s : State} (h : Keeps sA s) :
    Keeps sA (draw s).2 := by
  unfold draw
  repeat' (first
    | with_reducible assumption
    | fail_if_no_progress with_reducible refine Keeps.upd ?_ (by dsimp only))

theorem cnt_keeps {a : Nat} {n : Nat} {s : State} (h : Keeps sA s) :
    Keeps sA (cnt a n s) := by
  unfold cnt
  repeat' (first
    | with_reducible assumption
    | fail_if_no_progress with_reducible refine Keeps.upd ?_ (by dsimp only))

theorem updPort_keeps {p : Nat} {f : Port → Port} {s : State} (h : Keeps sA s) :
    Keeps sA (updPort p f s) := by
  unfold updPort
  repeat' (first
    | with_reducible assumption
    | fail_if_no_progress with_reducible refine Keeps.upd ?_ (by dsimp only))

theorem put_keeps {o : Out} {s : State} (h : Keeps sA s) :
    Keeps sA (put o s) := by
  unfold put
  repeat' (first
    | with_reducible assumption
    | fail_if_no_progress with_reducible refine Keeps.upd ?_ (by dsimp only))

theorem pumpGo_keeps {p : Nat} {l : List Msg} : ∀ {stuck : List Nat} {kept : List Msg} {s : State}, Keeps sA s →
    Keeps sA (pumpGo p l stuck kept s) := by
  induction l with
  | nil =>
    intro a b s h
    unfold pumpGo
    repeat' (first
      | with_reducible assumption
      | with_reducible apply updPort_keeps)
  | cons m t ih =>
    intro a b s h
    unfold pumpGo
    repeat' (first
      | with_reducible assumption
      | with_reducible apply ih
      | with_reducible apply updPort_keeps
      | with_reducible apply put_keeps
      | with_reducible apply cnt_keeps
      | split
      | (dsimp only))

theorem pump_keeps {p : Nat} {s : State} (h : Keeps sA s) :
    Keeps sA (pump p s) := by
  unfold pump
  repeat' (first
    | with_reducible assumption
    | with_reducible apply pumpGo_keeps)

theorem pmpSent_keeps {n : Nat} {s : State} (h : Keeps sA s) :
    Keeps sA (pmpSent n s) := by
  unfold pmpSent
  repeat' (first
    | with_reducible assumption
    | fail_if_no_progress with_reducible refine Keeps.upd ?_ (by dsimp only)
    | split)

theorem emit_keeps {o : Out} {s : State} (h : Keeps sA s) :
    Keeps sA (emit o s) := by
  unfold emit
  repeat' (first
    | with_reducible assumption
    | with_reducible apply pump_keeps
    | with_reducible apply updPort_keeps
    | with_reducible apply put_keeps
    | with_reducible apply pmpSent_keeps
    | split)

theorem sendTag_keeps {p : Nat} {u : Remote} {m : Msg} {s : State} (h : Keeps sA s) :
    Keeps sA (sendTag p u m s) := by
  unfold sendTag
  repeat' (first
    | with_reducible assumption
    | with_reducible apply emit_keeps
    | with_reducible apply updPort_keeps
    | split)

theorem updPart_keeps {p : Nat} {f : Part → Part} {s : State} (h : Keeps sA s) :
    Keeps sA (updPart p f s) := by
  unfold updPart
  repeat' (first
    | with_reducible assumption
    | fail_if_no_progress with_reducible refine Keeps.upd ?_ (by dsimp only))

theorem setPoison_keeps {off : Nat} {p : Bool} {s : State} (h : Keeps sA s) :
    Keeps sA (setPoison off p s) := by
  unfold setPoison
  repeat' (first
    | with_reducible assumption
    | fail_if_no_progress with_reducible refine Keeps.upd ?_ (by dsimp only))

theorem landLine_keeps {off : Nat} {data : List Byte} {mask : List Bool} {p : Bool} {s : State} (h : Keeps sA s) :
    Keeps sA (landLine off data mask p s) := by
  unfold landLine
  refine Keeps.updMem h (fun m => ?_)
  dsimp only
  split
  · exact memWf_putBytes m
  · exact memWf_putMasked m

theorem writeBack_keeps {line : Nat} {s : State} (h : Keeps sA s) :
    Keeps sA (writeBack line s) := by
  unfold writeBack
  repeat' (first
    | with_reducible assumption
    | with_reducible apply landLine_keeps
    | fail_if_no_progress with_reducible refine Keeps.upd ?_ (by dsimp only)
    | split)

theorem dropCopies_keeps {line : Nat} {s : State} (h : Keeps sA s) :
    Keeps sA (dropCopies line s) := by
  unfold dropCopies
  repeat' (first
    | with_reducible assumption
    | fail_if_no_progress with_reducible refine Keeps.upd ?_ (by dsimp only))

theorem snoop_keeps {line : Nat} {ports : List Nat} {inv : Bool} {r : Req} {s : State} (h : Keeps sA s) :
    Keeps sA (snoop line ports inv r s) := by
  unfold snoop
  repeat' (first
    | with_reducible assumption
    | with_reducible apply emit_keeps
    | fail_if_no_progress with_reducible refine Keeps.upd ?_ (by dsimp only)
    | with_reducible apply Keeps.fold
    | intro _ _ _
    | split)

theorem landInv_keeps {r : Req} {s : State} (h : Keeps sA s) :
    Keeps sA (landInv r s) := by
  unfold landInv
  repeat' (first
    | with_reducible assumption
    | with_reducible apply landLine_keeps
    | with_reducible apply snoop_keeps
    | with_reducible apply writeBack_keeps
    | with_reducible apply cnt_keeps
    | with_reducible apply dropCopies_keeps
    | split
    | (dsimp only))

theorem reach_keeps {t : Nat} {s : State} (h : Keeps sA s) : Keeps sA (reach t s) :=
  ⟨h.mem, fun a => by have := h.clock a; simp only [reach]; omega, h.queue⟩

theorem timer_keeps {due : Nat} {f : State → State} {s : State} (h : Keeps sA s) (hf : ∀ s, Keeps sA s → Keeps sA (f s)) :
    Keeps sA (timer due f s) := by
  unfold timer
  repeat' (first
    | with_reducible assumption
    | with_reducible apply hf
    | with_reducible apply reach_keeps
    | split)

theorem reachWall_keeps {t : Nat} {s : State} (h : Keeps sA s) : Keeps sA (reachWall t s) :=
  ⟨h.mem, fun a => by have := h.clock a; simp only [reachWall]; split <;> omega, h.queue⟩

theorem msi_keeps {v : Nat} {s : State} (h : Keeps sA s) :
    Keeps sA (msi v s) := by
  unfold msi
  repeat' (first
    | with_reducible assumption
    | with_reducible apply emit_keeps
    | fail_if_no_progress with_reducible refine Keeps.upd ?_ (by dsimp only)
    | split)

theorem dp_keeps {f : State → State} {s : State} (h : Keeps sA s) (hf : ∀ s, Keeps sA s → Keeps sA (f s)) :
    Keeps sA (dp f s) := by
  unfold dp
  repeat' (first
    | with_reducible assumption
    | with_reducible apply hf
    | split)

theorem barWrite_keeps {f : State → State} {s : State} (h : Keeps sA s) (hf : ∀ s, Keeps sA s → Keeps sA (f s)) :
    Keeps sA (barWrite f s) := by
  unfold barWrite
  repeat' (first
    | with_reducible assumption
    | with_reducible apply hf
    | split)

theorem pmpEvent_keeps {rcd : List Byte} {s : State} (h : Keeps sA s) :
    Keeps sA (pmpEvent rcd s) := by
  unfold pmpEvent
  repeat' (first
    | with_reducible assumption
    | with_reducible apply emit_keeps
    | with_reducible apply Keeps.fold
    | intro _ _ _)

theorem rasWrite_keeps {rcd : List Byte} {s : State} (h : Keeps sA s) :
    Keeps sA (rasWrite rcd s) := by
  unfold rasWrite
  repeat' (first
    | with_reducible assumption
    | with_reducible apply emit_keeps
    | with_reducible apply msi_keeps
    | with_reducible apply cnt_keeps
    | fail_if_no_progress with_reducible refine Keeps.upd ?_ (by dsimp only))

theorem rasLost_keeps {s : State} (h : Keeps sA s) :
    Keeps sA (rasLost s) := by
  unfold rasLost
  repeat' (first
    | with_reducible assumption
    | with_reducible apply pmpEvent_keeps
    | with_reducible apply rasWrite_keeps
    | fail_if_no_progress with_reducible refine Keeps.upd ?_ (by dsimp only)
    | split)

theorem rasPost_keeps {kind : Nat} {cls : Nat} {part : Nat} {payload : List Byte} {s : State} (h : Keeps sA s) :
    Keeps sA (rasPost kind cls part payload s) := by
  unfold rasPost
  repeat' (first
    | with_reducible assumption
    | with_reducible apply rasLost_keeps
    | with_reducible apply pmpEvent_keeps
    | with_reducible apply rasWrite_keeps
    | with_reducible apply cnt_keeps
    | fail_if_no_progress with_reducible refine Keeps.upd ?_ (by dsimp only)
    | split
    | (dsimp only))

theorem devWrite_keeps {off : Nat} {d : List Byte} {s : State} (h : Keeps sA s) :
    Keeps sA (devWrite off d s) := by
  unfold devWrite
  repeat' (first
    | with_reducible assumption
    | with_reducible apply landInv_keeps
    | with_reducible apply Keeps.fold
    | intro _ _ _)

theorem evqSignal_keeps {p : Nat} {s : State} (h : Keeps sA s) :
    Keeps sA (evqSignal p s) := by
  unfold evqSignal
  repeat' (first
    | with_reducible assumption
    | with_reducible apply updPart_keeps
    | with_reducible apply msi_keeps
    | split
    | (dsimp only))

theorem evqWrite_keeps {p : Nat} {rcd : List Byte} {s : State} (h : Keeps sA s) :
    Keeps sA (evqWrite p rcd s) := by
  unfold evqWrite
  repeat' (first
    | with_reducible assumption
    | with_reducible apply devWrite_keeps
    | with_reducible apply evqSignal_keeps
    | with_reducible apply updPart_keeps
    | split)

theorem evqLost_keeps {p : Nat} {s : State} (h : Keeps sA s) :
    Keeps sA (evqLost p s) := by
  unfold evqLost
  repeat' (first
    | with_reducible assumption
    | with_reducible apply evqWrite_keeps
    | with_reducible apply updPart_keeps
    | split)

theorem evqDrop_keeps {p : Nat} {n : Nat} {s : State} (h : Keeps sA s) :
    Keeps sA (evqDrop p n s) := by
  unfold evqDrop
  repeat' (first
    | with_reducible assumption
    | with_reducible apply cnt_keeps
    | with_reducible apply updPart_keeps
    | fail_if_no_progress with_reducible refine Keeps.upd ?_ (by dsimp only))

theorem evqPost_keeps {p : Nat} {kind : Nat} {cls : Nat} {payload : List Byte} {s : State} (h : Keeps sA s) :
    Keeps sA (evqPost p kind cls payload s) := by
  unfold evqPost
  repeat' (first
    | with_reducible assumption
    | with_reducible apply evqLost_keeps
    | with_reducible apply evqWrite_keeps
    | with_reducible apply updPart_keeps
    | with_reducible apply evqDrop_keeps
    | split
    | (dsimp only))

theorem evMemory_keeps {sub : Nat} {addr : Nat} {who : Nat} {count : Nat} {cls : Nat} {s : State} (h : Keeps sA s) :
    Keeps sA (evMemory sub addr who count cls s) := by
  unfold evMemory
  repeat' (first
    | with_reducible assumption
    | with_reducible apply rasPost_keeps)

theorem evUnit_keeps {sub : Nat} {unit : Nat} {logical : Nat} {cell : Nat} {s : State} (h : Keeps sA s) :
    Keeps sA (evUnit sub unit logical cell s) := by
  unfold evUnit
  repeat' (first
    | with_reducible assumption
    | with_reducible apply rasPost_keeps)

theorem evFlash_keeps {sub : Nat} {ch : Nat} {target : Nat} {eb : Nat} {s : State} (h : Keeps sA s) :
    Keeps sA (evFlash sub ch target eb s) := by
  unfold evFlash
  repeat' (first
    | with_reducible assumption
    | with_reducible apply rasPost_keeps)

theorem evPort_keeps {sub : Nat} {port : Nat} {lane : Nat} {partner : Nat} {s : State} (h : Keeps sA s) :
    Keeps sA (evPort sub port lane partner s) := by
  unfold evPort
  repeat' (first
    | with_reducible assumption
    | with_reducible apply rasPost_keeps)

theorem evPlatform_keeps {sub : Nat} {source : Nat} {value : Nat} {s : State} (h : Keeps sA s) :
    Keeps sA (evPlatform sub source value s) := by
  unfold evPlatform
  repeat' (first
    | with_reducible assumption
    | with_reducible apply rasPost_keeps)

theorem ledgerAdd_keeps {e : LedEnt} {mb : Option Nat} {s : State} (h : Keeps sA s) :
    Keeps sA (ledgerAdd e mb s) := by
  unfold ledgerAdd
  repeat' (first
    | with_reducible assumption
    | fail_if_no_progress with_reducible refine Keeps.upd ?_ (by dsimp only))

theorem inputRefused_keeps {s : State} (h : Keeps sA s) :
    Keeps sA (inputRefused s) := by
  unfold inputRefused
  repeat' (first
    | with_reducible assumption
    | with_reducible apply cnt_keeps)

/-! ### Answer -/

theorem updThr_keeps {t : Nat} {f : Thread → Thread} {s : State} (h : Keeps sA s) :
    Keeps sA (updThr t f s) := by
  unfold updThr
  repeat' (first
    | with_reducible assumption
    | fail_if_no_progress with_reducible refine Keeps.upd ?_ (by dsimp only))

theorem updGrp_keeps {g : Nat} {f : Group → Group} {s : State} (h : Keeps sA s) :
    Keeps sA (updGrp g f s) := by
  unfold updGrp
  repeat' (first
    | with_reducible assumption
    | fail_if_no_progress with_reducible refine Keeps.upd ?_ (by dsimp only))

theorem withdraw_keeps {t : Nat} {s : State} (h : Keeps sA s) :
    Keeps sA (withdraw t s) := by
  unfold withdraw
  repeat' (first
    | with_reducible assumption
    | fail_if_no_progress with_reducible refine Keeps.upd ?_ (by dsimp only))

theorem stopThread_keeps {t : Nat} {s : State} (h : Keeps sA s) :
    Keeps sA (stopThread t s) := by
  unfold stopThread
  repeat' (first
    | with_reducible assumption
    | with_reducible apply updGrp_keeps
    | with_reducible apply withdraw_keeps
    | with_reducible apply updThr_keeps
    | split)

theorem groupCheck_keeps {g : Nat} {s : State} (h : Keeps sA s) :
    Keeps sA (groupCheck g s) := by
  unfold groupCheck
  repeat' (first
    | with_reducible assumption
    | with_reducible apply updGrp_keeps
    | split)

theorem faultThread_keeps {t : Nat} {st : Status} {sa : Nat} {fetch : Bool} {s : State} (h : Keeps sA s) :
    Keeps sA (faultThread t st sa fetch s) := by
  unfold faultThread
  repeat' (first
    | with_reducible assumption
    | with_reducible apply withdraw_keeps
    | with_reducible apply updThr_keeps
    | with_reducible apply updGrp_keeps
    | with_reducible apply cnt_keeps
    | with_reducible apply evqPost_keeps
    | with_reducible apply stopThread_keeps
    | with_reducible apply groupCheck_keeps
    | with_reducible apply Keeps.fold
    | intro _ _ _
    | split)

theorem faultReq_keeps {t : Nat} {id : Nat} {st : Status} {sa : Nat} {s : State} (h : Keeps sA s) :
    Keeps sA (faultReq t id st sa s) := by
  unfold faultReq
  repeat' (first
    | with_reducible assumption
    | with_reducible apply faultThread_keeps
    | with_reducible apply updThr_keeps
    | split)

theorem streamLine_keeps {p : Nat} {id : Nat} {st : Status} {s : State} (h : Keeps sA s) :
    Keeps sA (streamLine p id st s) := by
  unfold streamLine
  repeat' (first
    | with_reducible assumption
    | fail_if_no_progress with_reducible refine Keeps.upd ?_ (by dsimp only)
    | split)

theorem batchRecord_keeps {p : Nat} {id : Nat} {i : Nat} {st : Status} {data : List Byte} {poison : Bool} {s : State} (h : Keeps sA s) :
    Keeps sA (batchRecord p id i st data poison s) := by
  unfold batchRecord
  repeat' (first
    | with_reducible assumption
    | fail_if_no_progress with_reducible refine Keeps.upd ?_ (by dsimp only)
    | split)

theorem threadSync_keeps {t : Nat} {rd : RegId} {st : Status} {v : Option Nat} {p : Bool} {s : State} (h : Keeps sA s) :
    Keeps sA (threadSync t rd st v p s) := by
  unfold threadSync
  repeat' (first
    | with_reducible assumption
    | with_reducible apply updThr_keeps)

theorem deliver_keeps {r : Req} {st : Status} {data : List Byte} {poison : Bool} {grant : Bool} {s : State} (h : Keeps sA s) :
    Keeps sA (deliver r st data poison grant s) := by
  unfold deliver
  repeat' (first
    | with_reducible assumption
    | with_reducible apply threadSync_keeps
    | with_reducible apply faultReq_keeps
    | with_reducible apply updGrp_keeps
    | with_reducible apply updThr_keeps
    | with_reducible apply emit_keeps
    | with_reducible apply cnt_keeps
    | with_reducible apply streamLine_keeps
    | with_reducible apply batchRecord_keeps
    | fail_if_no_progress with_reducible refine Keeps.upd ?_ (by dsimp only)
    | split)

theorem setTally_keeps {w : Nat} {v : BitVec 64} {s : State} (h : Keeps sA s) :
    Keeps sA (setTally w v s) := by
  unfold setTally
  repeat' (first
    | with_reducible assumption
    | fail_if_no_progress with_reducible refine Keeps.upd ?_ (by dsimp only))

theorem evSync_keeps {sub : Nat} {sa : Nat} {ctx : Nat} {word : Nat} {cell : Nat} {s : State} (h : Keeps sA s) :
    Keeps sA (evSync sub sa ctx word cell s) := by
  unfold evSync
  repeat' (first
    | with_reducible assumption
    | with_reducible apply evqPost_keeps
    | split)

theorem endWait_keeps {w : TWait} {st : Status} {s : State} (h : Keeps sA s) :
    Keeps sA (endWait w st s) := by
  unfold endWait
  repeat' (first
    | with_reducible assumption
    | with_reducible apply cnt_keeps
    | with_reducible apply threadSync_keeps
    | with_reducible apply emit_keeps
    | split)

theorem wake_keeps {word : Nat} {s : State} (h : Keeps sA s) :
    Keeps sA (wake word s) := by
  unfold wake
  repeat' (first
    | with_reducible assumption
    | with_reducible apply endWait_keeps
    | fail_if_no_progress with_reducible refine Keeps.upd ?_ (by dsimp only)
    | with_reducible apply Keeps.fold
    | intro _ _ _)

theorem tallyApply_keeps {sub : Bool} {word : Nat} {opnd : BitVec 64} {ctx : Nat} {s : State} (h : Keeps sA s) :
    Keeps sA (tallyApply sub word opnd ctx s) := by
  unfold tallyApply
  repeat' (first
    | with_reducible assumption
    | with_reducible apply setTally_keeps
    | with_reducible apply cnt_keeps
    | with_reducible apply evSync_keeps
    | with_reducible apply wake_keeps
    | split
    | (dsimp only))

theorem waitStart_keeps {op : TallyOp} {word : Nat} {opnd : BitVec 64} {timeout : Nat} {ctx : Nat} {who : Waiter} {s : State} (h : Keeps sA s) :
    Keeps sA (waitStart op word opnd timeout ctx who s) := by
  unfold waitStart
  repeat' (first
    | with_reducible assumption
    | with_reducible apply setTally_keeps
    | with_reducible apply cnt_keeps
    | with_reducible apply evSync_keeps
    | with_reducible apply endWait_keeps
    | fail_if_no_progress with_reducible refine Keeps.upd ?_ (by dsimp only)
    | split
    | (dsimp only))

/-! ### Home -/

theorem updBlock_keeps {b : Nat} {f : Block → Block} {s : State} (h : Keeps sA s) :
    Keeps sA (updBlock b f s) := by
  unfold updBlock
  repeat' (first
    | with_reducible assumption
    | fail_if_no_progress with_reducible refine Keeps.upd ?_ (by dsimp only))

theorem pickTargets_keeps {ch : Nat} {s : State} (h : Keeps sA s) :
    Keeps sA (pickTargets s ch).2 := by
  unfold pickTargets
  repeat' (first
    | with_reducible assumption
    | with_reducible apply draw_keeps)

theorem evictPlace_keeps {al : Alloc} {home : Nat} {s : State} (h : Keeps sA s) :
    Keeps sA (evictPlace s al home).2 := by
  unfold evictPlace
  repeat' (first
    | with_reducible assumption
    | with_reducible apply pickTargets_keeps
    | split
    | (dsimp only))

theorem recallBlock_keeps {b : Nat} {s : State} (h : Keeps sA s) :
    Keeps sA (recallBlock b s) := by
  unfold recallBlock
  repeat' (first
    | with_reducible assumption
    | with_reducible apply writeBack_keeps
    | with_reducible apply snoop_keeps
    | fail_if_no_progress with_reducible refine Keeps.upd ?_ (by dsimp only)
    | with_reducible apply Keeps.fold
    | intro _ _ _
    | split)

theorem invalBlock_keeps {b : Nat} {s : State} (h : Keeps sA s) :
    Keeps sA (invalBlock b s) := by
  unfold invalBlock
  repeat' (first
    | with_reducible assumption
    | with_reducible apply emit_keeps
    | with_reducible apply dropCopies_keeps
    | with_reducible apply writeBack_keeps
    | with_reducible apply Keeps.fold
    | intro _ _ _
    | split)

theorem toLower_keeps {b : Nat} {s : State} (h : Keeps sA s) :
    Keeps sA (toLower b s) := by
  unfold toLower
  repeat' (first
    | with_reducible assumption
    | with_reducible apply invalBlock_keeps
    | with_reducible apply cnt_keeps
    | with_reducible apply updBlock_keeps
    | fail_if_no_progress with_reducible refine Keeps.upd ?_ (by dsimp only)
    | split)

theorem startEvict_keeps {b : Nat} {s : State} (h : Keeps sA s) :
    Keeps sA (startEvict b s) := by
  unfold startEvict
  repeat' (first
    | with_reducible assumption
    | with_reducible apply recallBlock_keeps
    | with_reducible apply updBlock_keeps
    | with_reducible apply toLower_keeps
    | with_reducible apply evictPlace_keeps
    | split
    | (dsimp only))

theorem evictOne_keeps {p : Nat} {home : Nat} {s : State} (h : Keeps sA s) :
    Keeps sA (evictOne p home s) := by
  unfold evictOne
  repeat' (first
    | with_reducible assumption
    | with_reducible apply cnt_keeps
    | with_reducible apply startEvict_keeps
    | split)

theorem takeFrame_keeps' {b : Nat} {al : Alloc} {home : Nat} {s t : State} (h : Keeps sA s)
    (e : takeFrame b al home s = some t) : Keeps sA t := by
  unfold takeFrame at e
  split at e
  · cases e
  · split at e
    · cases e
    · obtain ⟨c, -, rfl⟩ := Option.map_eq_some_iff.mp e
      exact updBlock_keeps h

theorem stallIssue_keeps {pl : Place} {home : Nat} {s : State} (h : Keeps sA s) :
    Keeps sA (stallIssue pl home s) := by
  unfold stallIssue
  repeat' (first
    | with_reducible assumption
    | with_reducible apply cnt_keeps
    | with_reducible apply emit_keeps
    | split)

theorem issueFetch_keeps {b : Nat} {s : State} (h : Keeps sA s) :
    Keeps sA (issueFetch b s) := by
  unfold issueFetch
  repeat' (first
    | with_reducible assumption
    | with_reducible apply stallIssue_keeps
    | with_reducible apply updBlock_keeps
    | split)

theorem wantFrame_keeps {b : Nat} {al : Alloc} {home : Nat} {s : State} (h : Keeps sA s) :
    Keeps sA (wantFrame b al home s).1 := by
  unfold wantFrame
  repeat' (first
    | with_reducible assumption
    | with_reducible refine takeFrame_keeps' ?_ (by assumption)
    | with_reducible apply cnt_keeps
    | with_reducible apply updBlock_keeps
    | with_reducible apply evictOne_keeps
    | fail_if_no_progress with_reducible refine Keeps.upd ?_ (by dsimp only)
    | split)

theorem parkAt_keeps {b : Nat} {r : Req} {s : State} (h : Keeps sA s) :
    Keeps sA (parkAt b r s) := by
  unfold parkAt
  repeat' (first
    | with_reducible assumption
    | with_reducible apply updBlock_keeps)

theorem blockGate_keeps {r : Req} {al : Alloc} {nominal : Nat} {s : State} (h : Keeps sA s) :
    Keeps sA (blockGate r al nominal s).2 := by
  unfold blockGate
  repeat' (first
    | with_reducible assumption
    | with_reducible apply wantFrame_keeps
    | with_reducible apply parkAt_keeps
    | with_reducible apply updBlock_keeps
    | with_reducible apply cnt_keeps
    | with_reducible apply issueFetch_keeps
    | with_reducible refine Keeps.ofPair' (by assumption) ?_
    | fail_if_no_progress with_reducible refine Keeps.upd ?_ (by dsimp only)
    | split
    | (dsimp only))

theorem parkRead_keeps {pl : Place} {r : Req} {s : State} (h : Keeps sA s) :
    Keeps sA (parkRead pl r s) := by
  unfold parkRead
  repeat' (first
    | with_reducible assumption
    | with_reducible apply stallIssue_keeps
    | fail_if_no_progress with_reducible refine Keeps.upd ?_ (by dsimp only))

theorem updFlash_keeps {ch : Nat} {f : Flash → Flash} {s : State} (h : Keeps sA s) :
    Keeps sA (updFlash ch f s) := by
  unfold updFlash
  repeat' (first
    | with_reducible assumption
    | fail_if_no_progress with_reducible refine Keeps.upd ?_ (by dsimp only))

theorem placedGate_keeps {r : Req} {base : Nat} {al : Alloc} {s : State} (h : Keeps sA s) :
    Keeps sA (placedGate r base al s).2 := by
  unfold placedGate
  repeat' (first
    | with_reducible assumption
    | with_reducible apply parkRead_keeps
    | with_reducible apply emit_keeps
    | fail_if_no_progress with_reducible refine Keeps.upd ?_ (by dsimp only)
    | split
    | (dsimp only))

theorem lineRead_keeps {off : Nat} {obs : LineObs} {s : State} (h : Keeps sA s) :
    Keeps sA (lineRead off obs s) := by
  unfold lineRead
  repeat' (first
    | with_reducible assumption
    | with_reducible apply cnt_keeps
    | with_reducible apply evMemory_keeps
    | with_reducible apply setPoison_keeps
    | split)

theorem dirRoom_keeps {c : Nat} {s : State} (h : Keeps sA s) :
    Keeps sA (dirRoom c s) := by
  unfold dirRoom
  repeat' (first
    | with_reducible assumption
    | with_reducible apply emit_keeps
    | with_reducible apply cnt_keeps
    | with_reducible apply dropCopies_keeps
    | with_reducible apply writeBack_keeps
    | with_reducible apply Keeps.fold
    | intro _ _ _
    | split)

theorem putDir_keeps {l : Nat} {e : DirEnt} {s : State} (h : Keeps sA s) :
    Keeps sA (putDir l e s) := by
  unfold putDir
  repeat' (first
    | with_reducible assumption
    | with_reducible apply dirRoom_keeps
    | fail_if_no_progress with_reducible refine Keeps.upd ?_ (by dsimp only)
    | split)

theorem gainS_keeps {n : Nat} {l : Nat} {s : State} (h : Keeps sA s) :
    Keeps sA (gainS n l s) := by
  unfold gainS
  repeat' (first
    | with_reducible assumption
    | with_reducible apply putDir_keeps
    | with_reducible apply writeBack_keeps
    | split)

theorem gainM_keeps {n : Nat} {l : Nat} {s : State} (h : Keeps sA s) :
    Keeps sA (gainM n l s) := by
  unfold gainM
  repeat' (first
    | with_reducible assumption
    | with_reducible apply writeBack_keeps
    | with_reducible apply putDir_keeps
    | split)

theorem dirtyWrite_keeps {off : Nat} {d : List Byte} {p : Bool} {s : State} (h : Keeps sA s) :
    Keeps sA (dirtyWrite off d p s) := by
  unfold dirtyWrite
  repeat' (first
    | with_reducible assumption
    | fail_if_no_progress with_reducible refine Keeps.upd ?_ (by dsimp only))

theorem setFe_keeps {off : Nat} {v : Nat} {s : State} (h : Keeps sA s) :
    Keeps sA (setFe off v s) := by
  unfold setFe
  repeat' (first
    | with_reducible assumption
    | fail_if_no_progress with_reducible refine Keeps.upd ?_ (by dsimp only))

theorem endFe_keeps {w : FWait} {st : Status} {data : List Byte} {p : Bool} {s : State} (h : Keeps sA s) :
    Keeps sA (endFe w st data p s) := by
  unfold endFe
  repeat' (first
    | with_reducible assumption
    | with_reducible apply deliver_keeps)

theorem fePerform_keeps {w : FWait} {full : Bool} {s : State} (h : Keeps sA s) :
    Keeps sA (fePerform w full s).1 := by
  unfold fePerform
  repeat' (first
    | with_reducible assumption
    | with_reducible apply endFe_keeps
    | with_reducible apply landLine_keeps
    | split)

theorem feServe_keeps {n : Nat} : ∀ {off : Nat} {full : Bool} {s : State}, Keeps sA s → Keeps sA (feServe n off full s) := by
  induction n with
  | zero =>
    intro off full s h
    exact setFe_keeps h
  | succ n ih =>
    intro off full s h
    unfold feServe
    repeat' (first
      | with_reducible assumption
      | with_reducible apply ih
      | with_reducible apply setFe_keeps
      | with_reducible apply fePerform_keeps
      | fail_if_no_progress with_reducible refine Keeps.upd ?_ (by dsimp only)
      | split)

theorem feOp_keeps {f : FeOp} {timeout : Nat} {r : Req} {s : State} (h : Keeps sA s) :
    Keeps sA (feOp f timeout r s) := by
  unfold feOp
  repeat' (first
    | with_reducible assumption
    | with_reducible apply deliver_keeps
    | with_reducible apply evMemory_keeps
    | with_reducible apply fePerform_keeps
    | with_reducible apply feServe_keeps
    | with_reducible apply cnt_keeps
    | with_reducible apply setFe_keeps
    | fail_if_no_progress with_reducible refine Keeps.upd ?_ (by dsimp only)
    | split
    | (dsimp only))

theorem feFullWrite_keeps {r : Req} {s : State} (h : Keeps sA s) :
    Keeps sA (feFullWrite r s) := by
  unfold feFullWrite
  repeat' (first
    | with_reducible assumption
    | with_reducible apply deliver_keeps
    | with_reducible apply landInv_keeps
    | with_reducible apply feServe_keeps
    | split
    | (dsimp only))

theorem perform_keeps {r : Req} {s : State} (h : Keeps sA s) :
    Keeps sA (perform r s) := by
  unfold perform
  repeat' (first
    | with_reducible assumption
    | with_reducible apply deliver_keeps
    | with_reducible apply gainS_keeps
    | with_reducible apply gainM_keeps
    | with_reducible apply dirtyWrite_keeps
    | with_reducible apply feFullWrite_keeps
    | with_reducible apply landInv_keeps
    | with_reducible apply feOp_keeps
    | with_reducible apply Keeps.fold
    | intro _ _ _
    | split
    | (dsimp only))

theorem copyOnWrite_keeps {off : Nat} {s : State} (h : Keeps sA s) : Keeps sA (copyOnWrite off s).1 := by
  unfold copyOnWrite
  split
  · exact h
  split
  · exact h
  dsimp only
  split
  · exact h
  split
  · exact h
  generalize bytesAt s.store.mem _ 65536 = l
  repeat' split
  all_goals first
    | with_reducible exact h
    | exact Keeps.updMem h (fun m => memWf_putBytes m)

theorem serve_keeps {r : Req} {obs : LineObs} {s : State} (h : Keeps sA s) :
    Keeps sA (serve r obs s) := by
  unfold serve
  repeat' (first
    | with_reducible assumption
    | with_reducible apply deliver_keeps
    | with_reducible apply copyOnWrite_keeps
    | with_reducible apply blockGate_keeps
    | with_reducible apply placedGate_keeps
    | with_reducible apply snoop_keeps
    | with_reducible apply perform_keeps
    | with_reducible apply lineRead_keeps
    | with_reducible refine Keeps.ofPair (by assumption) ?_
    | with_reducible refine Keeps.ofPair' (by assumption) ?_
    | split
    | (dsimp only))

theorem serveAll_keeps {rs : List Req} {s : State} (h : Keeps sA s) :
    Keeps sA (serveAll rs s) := by
  unfold serveAll
  repeat' (first
    | with_reducible assumption
    | with_reducible apply serve_keeps
    | with_reducible apply Keeps.fold
    | intro _ _ _)

theorem unpark_keeps {b : Nat} {f : Req → Bool} {s : State} (h : Keeps sA s) :
    Keeps sA (unpark b f s) := by
  unfold unpark
  repeat' (first
    | with_reducible assumption
    | with_reducible apply updBlock_keeps
    | with_reducible apply cnt_keeps
    | with_reducible apply serveAll_keeps
    | with_reducible apply Keeps.fold
    | intro _ _ _
    | split)

theorem frameFreed_keeps {s : State} (h : Keeps sA s) :
    Keeps sA (frameFreed s) := by
  unfold frameFreed
  repeat' (first
    | with_reducible assumption
    | with_reducible refine takeFrame_keeps' ?_ (by assumption)
    | with_reducible apply issueFetch_keeps
    | with_reducible apply unpark_keeps
    | fail_if_no_progress with_reducible refine Keeps.upd ?_ (by dsimp only)
    | with_reducible apply Keeps.fold
    | intro _ _ _
    | split
    | (dsimp only))

/-! ### Translation -/

theorem updXlt_keeps {f : Xlt → Xlt} {s : State} (h : Keeps sA s) :
    Keeps sA (updXlt f s) := by
  unfold updXlt
  repeat' (first
    | with_reducible assumption
    | fail_if_no_progress with_reducible refine Keeps.upd ?_ (by dsimp only))

theorem updMiss_keeps {m : Nat} {f : Miss → Miss} {s : State} (h : Keeps sA s) :
    Keeps sA (updMiss m f s) := by
  unfold updMiss
  repeat' (first
    | with_reducible assumption
    | with_reducible apply updXlt_keeps)

theorem launchReq_keeps {r : Req} {tr : Option (Nat × Nat)} {s : State} (h : Keeps sA s) :
    Keeps sA (launchReq r tr s) := by
  unfold launchReq
  repeat' (first
    | with_reducible assumption
    | fail_if_no_progress with_reducible refine Keeps.upd ?_ (by dsimp only))

theorem proceed_keeps {v : VReq} {off : Nat} {wr : Bool} {s : State} (h : Keeps sA s) :
    Keeps sA (proceed v off wr s) := by
  unfold proceed
  repeat' (first
    | with_reducible assumption
    | with_reducible apply deliver_keeps
    | with_reducible apply launchReq_keeps
    | split)

theorem tlbPut_keeps {e : TlbEnt} {s : State} (h : Keeps sA s) :
    Keeps sA (tlbPut e s) := by
  unfold tlbPut
  repeat' (first
    | with_reducible assumption
    | with_reducible apply updXlt_keeps
    | with_reducible apply draw_keeps
    | split
    | (dsimp only))

theorem dropMiss_keeps {m : Nat} {s : State} (h : Keeps sA s) :
    Keeps sA (dropMiss m s) := by
  unfold dropMiss
  repeat' (first
    | with_reducible assumption
    | with_reducible apply updXlt_keeps)

theorem missFault_keeps {m : Nat} {st : Status} {s : State} (h : Keeps sA s) :
    Keeps sA (missFault m st s) := by
  unfold missFault
  repeat' (first
    | with_reducible assumption
    | with_reducible apply deliver_keeps
    | with_reducible apply dropMiss_keeps
    | with_reducible apply Keeps.fold
    | intro _ _ _
    | split)

theorem missDone_keeps {m : Nat} {level : Nat} {off : Nat} {e : BitVec 64} {gen : BitVec 32} {s : State} (h : Keeps sA s) :
    Keeps sA (missDone m level off e gen s) := by
  unfold missDone
  repeat' (first
    | with_reducible assumption
    | with_reducible apply tlbPut_keeps
    | with_reducible apply dropMiss_keeps
    | with_reducible apply proceed_keeps
    | with_reducible apply Keeps.fold
    | intro _ _ _
    | split)

theorem missToPost_keeps {m : Nat} {s : State} (h : Keeps sA s) :
    Keeps sA (missToPost m s) := by
  unfold missToPost
  repeat' (first
    | with_reducible assumption
    | with_reducible apply missFault_keeps
    | with_reducible apply updMiss_keeps
    | split)

theorem startMiss_keeps {v : VReq} {s : State} (h : Keeps sA s) :
    Keeps sA (startMiss v s) := by
  unfold startMiss
  repeat' (first
    | with_reducible assumption
    | with_reducible apply deliver_keeps
    | with_reducible apply updXlt_keeps
    | split)

theorem translate_keeps {v : VReq} {s : State} (h : Keeps sA s) :
    Keeps sA (translate v s) := by
  unfold translate
  repeat' (first
    | with_reducible assumption
    | with_reducible apply proceed_keeps
    | with_reducible apply updMiss_keeps
    | with_reducible apply startMiss_keeps
    | with_reducible apply updXlt_keeps
    | split)

theorem admitFail_keeps {r : Req} {st : Status} {s : State} (h : Keeps sA s) :
    Keeps sA (admitFail r st s) := by
  unfold admitFail
  repeat' (first
    | with_reducible assumption
    | with_reducible apply cnt_keeps
    | with_reducible apply deliver_keeps)

theorem admitReq_keeps {ing : Nat} {r : Req} {addr : Addr} {s : State} (h : Keeps sA s) :
    Keeps sA (admitReq ing r addr s) := by
  unfold admitReq
  repeat' (first
    | with_reducible assumption
    | with_reducible apply deliver_keeps
    | with_reducible apply admitFail_keeps
    | with_reducible apply launchReq_keeps
    | with_reducible apply translate_keeps
    | split
    | (dsimp only))

theorem execRequestAdmit_keeps {ing : Nat} {tag : Nat} {ctx : Nat} {addr : Addr} {op : ReqOp} {len : Nat} {data : List Byte} {s : State} (h : Keeps sA s) :
    ∀ z, execRequestAdmit ing tag ctx addr op len data s = .next z → Keeps sA z := by
  intro z e
  unfold execRequestAdmit at e
  injection e with e
  subst e
  repeat' (first
    | with_reducible assumption
    | with_reducible apply dp_keeps
    | with_reducible apply admitReq_keeps
    | intro _ _
    | split)

theorem walkDone_keeps {m : Nat} {s : State} (h : Keeps sA s) :
    Keeps sA (walkDone m s) := by
  unfold walkDone
  repeat' (first
    | with_reducible assumption
    | with_reducible apply missFault_keeps
    | with_reducible apply missToPost_keeps
    | with_reducible apply evMemory_keeps
    | with_reducible apply updMiss_keeps
    | with_reducible apply updXlt_keeps
    | with_reducible apply missDone_keeps
    | split
    | (dsimp only))

theorem execMirrorWalkDone_keeps {miss : Nat} {s : State} (h : Keeps sA s) :
    ∀ z, execMirrorWalkDone miss s = .next z → Keeps sA z := by
  intro z e
  unfold execMirrorWalkDone at e
  injection e with e
  subst e
  repeat' (first
    | with_reducible assumption
    | with_reducible apply dp_keeps
    | with_reducible apply walkDone_keeps)

theorem genReread_keeps {m : Nat} {s : State} (h : Keeps sA s) :
    Keeps sA (genReread m s) := by
  unfold genReread
  repeat' (first
    | with_reducible assumption
    | with_reducible apply missFault_keeps
    | with_reducible apply updMiss_keeps
    | with_reducible apply missToPost_keeps
    | split
    | (dsimp only))

theorem execGenReread_keeps {miss : Nat} {s : State} (h : Keeps sA s) :
    ∀ z, execGenReread miss s = .next z → Keeps sA z := by
  intro z e
  unfold execGenReread at e
  injection e with e
  subst e
  repeat' (first
    | with_reducible assumption
    | with_reducible apply dp_keeps
    | with_reducible apply genReread_keeps)

theorem missPost_keeps {m : Nat} {s : State} (h : Keeps sA s) :
    Keeps sA (missPost m s) := by
  unfold missPost
  repeat' (first
    | with_reducible assumption
    | with_reducible apply emit_keeps
    | with_reducible apply updMiss_keeps
    | with_reducible apply updXlt_keeps
    | with_reducible apply msi_keeps
    | with_reducible apply cnt_keeps
    | split)

theorem execMissPost_keeps {miss : Nat} {s : State} (h : Keeps sA s) :
    ∀ z, execMissPost miss s = .next z → Keeps sA z := by
  intro z e
  unfold execMissPost at e
  injection e with e
  subst e
  repeat' (first
    | with_reducible assumption
    | with_reducible apply dp_keeps
    | with_reducible apply missPost_keeps)

theorem execPendingMissFreed_keeps {s : State} (h : Keeps sA s) :
    ∀ z, execPendingMissFreed s = .next z → Keeps sA z := by
  intro z e
  unfold execPendingMissFreed at e
  injection e with e
  subst e
  repeat' (first
    | with_reducible assumption
    | with_reducible apply dp_keeps
    | with_reducible apply translate_keeps
    | with_reducible apply updXlt_keeps
    | intro _ _
    | split)

theorem xltResp_keeps {id : BitVec 32} {result : BitVec 8} {s : State} (h : Keeps sA s) :
    Keeps sA (xltResp id result s) := by
  unfold xltResp
  repeat' (first
    | with_reducible assumption
    | with_reducible apply cnt_keeps
    | with_reducible apply updMiss_keeps
    | with_reducible apply missFault_keeps
    | split)

theorem execXltResp_keeps {missId : BitVec 32} {result : BitVec 8} {s : State} (h : Keeps sA s) :
    ∀ z, execXltResp missId result s = .next z → Keeps sA z := by
  intro z e
  unfold execXltResp at e
  injection e with e
  subst e
  repeat' (first
    | with_reducible assumption
    | with_reducible apply barWrite_keeps
    | with_reducible apply xltResp_keeps)

theorem rewalkDone_keeps {m : Nat} {s : State} (h : Keeps sA s) :
    Keeps sA (rewalkDone m s) := by
  unfold rewalkDone
  repeat' (first
    | with_reducible assumption
    | with_reducible apply missFault_keeps
    | with_reducible apply missDone_keeps
    | split
    | (dsimp only))

theorem execRewalkDone_keeps {miss : Nat} {s : State} (h : Keeps sA s) :
    ∀ z, execRewalkDone miss s = .next z → Keeps sA z := by
  intro z e
  unfold execRewalkDone at e
  injection e with e
  subst e
  repeat' (first
    | with_reducible assumption
    | with_reducible apply dp_keeps
    | with_reducible apply rewalkDone_keeps)

theorem execMissTimeout_keeps {miss : Nat} {s : State} (h : Keeps sA s) :
    ∀ z, execMissTimeout miss s = .next z → Keeps sA z := by
  intro z e
  unfold execMissTimeout at e
  injection e with e
  subst e
  repeat' (first
    | with_reducible assumption
    | with_reducible apply dp_keeps
    | with_reducible apply timer_keeps
    | with_reducible apply missFault_keeps
    | intro _ _
    | split)

theorem tlbRemove_keeps {i : Inv} {s : State} (h : Keeps sA s) :
    Keeps sA (tlbRemove i s) := by
  unfold tlbRemove
  repeat' (first
    | with_reducible assumption
    | with_reducible apply updXlt_keeps)

theorem invBegin_keeps {i : Inv} {s : State} (h : Keeps sA s) :
    Keeps sA (invBegin i s) := by
  unfold invBegin
  repeat' (first
    | with_reducible assumption
    | with_reducible apply tlbRemove_keeps
    | with_reducible apply updXlt_keeps)

theorem setLastGen_keeps {ctx : Nat} {gen : BitVec 32} {s : State} (h : Keeps sA s) :
    Keeps sA (setLastGen ctx gen s) := by
  unfold setLastGen
  repeat' (first
    | with_reducible assumption
    | with_reducible apply updXlt_keeps)

theorem invStatus_keeps {st : Status} {s : State} (h : Keeps sA s) :
    Keeps sA (invStatus st s) := by
  unfold invStatus
  repeat' (first
    | with_reducible assumption
    | with_reducible apply updXlt_keeps)

theorem invWrite_keeps {scope : Nat} {ctx : Nat} {gen : BitVec 32} {s : State} (h : Keeps sA s) :
    Keeps sA (invWrite scope ctx gen s) := by
  unfold invWrite
  repeat' (first
    | with_reducible assumption
    | with_reducible apply updXlt_keeps
    | with_reducible apply invBegin_keeps
    | with_reducible apply invStatus_keeps
    | with_reducible apply setLastGen_keeps
    | split)

theorem execXltInvRange_keeps {ctx : Nat} {gen : BitVec 32} {s : State} (h : Keeps sA s) :
    ∀ z, execXltInvRange ctx gen s = .next z → Keeps sA z := by
  intro z e
  unfold execXltInvRange at e
  injection e with e
  subst e
  repeat' (first
    | with_reducible assumption
    | with_reducible apply barWrite_keeps
    | with_reducible apply invWrite_keeps)

theorem execXltInvCtx_keeps {ctx : Nat} {gen : BitVec 32} {s : State} (h : Keeps sA s) :
    ∀ z, execXltInvCtx ctx gen s = .next z → Keeps sA z := by
  intro z e
  unfold execXltInvCtx at e
  injection e with e
  subst e
  repeat' (first
    | with_reducible assumption
    | with_reducible apply barWrite_keeps
    | with_reducible apply invWrite_keeps)

theorem execXltInvAll_keeps {s : State} (h : Keeps sA s) :
    ∀ z, execXltInvAll s = .next z → Keeps sA z := by
  intro z e
  unfold execXltInvAll at e
  injection e with e
  subst e
  repeat' (first
    | with_reducible assumption
    | with_reducible apply barWrite_keeps
    | with_reducible apply invWrite_keeps)

theorem execXltInvRejected_keeps {s : State} (h : Keeps sA s) :
    ∀ z, execXltInvRejected s = .next z → Keeps sA z := by
  intro z e
  unfold execXltInvRejected at e
  injection e with e
  subst e
  repeat' (first
    | with_reducible assumption
    | with_reducible apply barWrite_keeps
    | with_reducible apply updXlt_keeps
    | with_reducible apply invStatus_keeps
    | intro _ _
    | split)

theorem xltCommit_keeps {gen : BitVec 32} {s : State} (h : Keeps sA s) :
    Keeps sA (xltCommit gen s) := by
  unfold xltCommit
  repeat' (first
    | with_reducible assumption
    | with_reducible apply updXlt_keeps
    | split
    | (dsimp only))

theorem execXltCommit_keeps {gen : BitVec 32} {s : State} (h : Keeps sA s) :
    ∀ z, execXltCommit gen s = .next z → Keeps sA z := by
  intro z e
  unfold execXltCommit at e
  injection e with e
  subst e
  repeat' (first
    | with_reducible assumption
    | with_reducible apply barWrite_keeps
    | with_reducible apply xltCommit_keeps)

theorem execXltCommitErrClear_keeps {s : State} (h : Keeps sA s) :
    ∀ z, execXltCommitErrClear s = .next z → Keeps sA z := by
  intro z e
  unfold execXltCommitErrClear at e
  injection e with e
  subst e
  repeat' (first
    | with_reducible assumption
    | with_reducible apply barWrite_keeps
    | with_reducible apply updXlt_keeps)

theorem execXltMqHead_keeps {head : Nat} {s : State} (h : Keeps sA s) :
    ∀ z, execXltMqHead head s = .next z → Keeps sA z := by
  intro z e
  unfold execXltMqHead at e
  injection e with e
  subst e
  repeat' (first
    | with_reducible assumption
    | with_reducible apply barWrite_keeps
    | with_reducible apply updXlt_keeps)

/-! ### Tiers -/

theorem repick_keeps {p : Nat} {s : State} (h : Keeps sA s) :
    Keeps sA (repick p s) := by
  unfold repick
  repeat' (first
    | with_reducible assumption
    | with_reducible apply evictOne_keeps
    | split
    | (dsimp only))

theorem ordered_keeps {id : Nat} {s : State} (h : Keeps sA s) :
    Keeps sA (ordered id s) := by
  unfold ordered
  repeat' (first
    | with_reducible assumption
    | with_reducible apply updXlt_keeps)

theorem bankRetire_keeps {cause : Nat} {c : Nat} {b : Nat} {s : State} (h : Keeps sA s) :
    Keeps sA (bankRetire cause c b s) := by
  unfold bankRetire
  repeat' (first
    | with_reducible assumption
    | with_reducible apply ledgerAdd_keeps
    | fail_if_no_progress with_reducible refine Keeps.upd ?_ (by dsimp only))

theorem tallyLost_keeps {word : Nat} {s : State} (h : Keeps sA s) :
    Keeps sA (tallyLost word s) := by
  unfold tallyLost
  repeat' (first
    | with_reducible assumption
    | with_reducible apply evSync_keeps
    | with_reducible apply Keeps.fold
    | with_reducible apply endWait_keeps
    | with_reducible apply setTally_keeps
    | fail_if_no_progress with_reducible refine Keeps.upd ?_ (by dsimp only)
    | intro _ _ _)

theorem feDropWaiter_keeps {i : Nat} {w : FWait} {s : State} (h : Keeps sA s) :
    Keeps sA (feDropWaiter i w s) := by
  unfold feDropWaiter
  repeat' (first
    | with_reducible assumption
    | with_reducible apply feServe_keeps
    | with_reducible apply endFe_keeps
    | with_reducible apply cnt_keeps
    | fail_if_no_progress with_reducible refine Keeps.upd ?_ (by dsimp only))

theorem sramError_keeps {e : SramErr} {s : State} (h : Keeps sA s) :
    Keeps sA (sramError e s) := by
  unfold sramError
  repeat' (first
    | with_reducible assumption
    | with_reducible apply tallyLost_keeps
    | with_reducible apply feDropWaiter_keeps
    | with_reducible apply dropCopies_keeps
    | with_reducible apply landLine_keeps
    | fail_if_no_progress with_reducible refine Keeps.upd ?_ (by dsimp only)
    | split)

theorem sramMet_keeps {obs : LineObs} {s : State} (h : Keeps sA s) :
    Keeps sA (sramMet obs s) := by
  unfold sramMet
  repeat' (first
    | with_reducible assumption
    | with_reducible apply bankRetire_keeps
    | with_reducible apply sramError_keeps
    | split)

theorem homeAccess_keeps {i : Nat} {obs : LineObs} {s : State} (h : Keeps sA s) :
    Keeps sA (homeAccess i obs s) := by
  unfold homeAccess
  repeat' (first
    | with_reducible assumption
    | with_reducible apply repick_keeps
    | with_reducible apply serve_keeps
    | with_reducible apply ordered_keeps
    | with_reducible apply sramMet_keeps
    | fail_if_no_progress with_reducible refine Keeps.upd ?_ (by dsimp only)
    | split)

theorem execHomeAccess_keeps {i : Nat} {obs : LineObs} {s : State} (h : Keeps sA s) :
    ∀ z, execHomeAccess i obs s = .next z → Keeps sA z := by
  intro z e
  unfold execHomeAccess at e
  injection e with e
  subst e
  repeat' (first
    | with_reducible assumption
    | with_reducible apply dp_keeps
    | with_reducible apply homeAccess_keeps)

theorem idleEviction_keeps {p : Nat} {s : State} (h : Keeps sA s) :
    Keeps sA (idleEviction p s) := by
  unfold idleEviction
  repeat' (first
    | with_reducible assumption
    | with_reducible apply evictOne_keeps
    | split)

theorem execIdleEviction_keeps {part : Nat} {s : State} (h : Keeps sA s) :
    ∀ z, execIdleEviction part s = .next z → Keeps sA z := by
  intro z e
  unfold execIdleEviction at e
  injection e with e
  subst e
  repeat' (first
    | with_reducible assumption
    | with_reducible apply dp_keeps
    | with_reducible apply idleEviction_keeps)

theorem poisonContent_keeps {ls : List Nat} {s : State} (h : Keeps sA s) :
    Keeps sA (poisonContent ls s) := by
  unfold poisonContent
  repeat' (first
    | with_reducible assumption
    | fail_if_no_progress with_reducible refine Keeps.upd ?_ (by dsimp only))

theorem landUnit_keeps {b : Nat} {unit : Nat} {s : State} (h : Keeps sA s) :
    Keeps sA (landUnit b unit s) := by
  unfold landUnit
  repeat' (first
    | with_reducible assumption
    | with_reducible apply updBlock_keeps
    | with_reducible apply cnt_keeps
    | with_reducible apply unpark_keeps
    | split)

theorem flashRetry_keeps {ch : Nat} {target : Nat} {retried : Nat} {s : State} (h : Keeps sA s) :
    Keeps sA (flashRetry ch target retried s) := by
  unfold flashRetry
  repeat' (first
    | with_reducible assumption
    | with_reducible apply cnt_keeps
    | with_reducible apply updFlash_keeps
    | split)

theorem targetAlive_keeps {ch : Nat} {target : Nat} {s : State} (h : Keeps sA s) :
    Keeps sA (targetAlive ch target s) := by
  unfold targetAlive
  repeat' (first
    | with_reducible assumption
    | with_reducible apply updFlash_keeps)

theorem fetchUnitLanded_keeps {b : Nat} {unit : Nat} {retried : Nat} {bad : List Nat} {s : State} (h : Keeps sA s) :
    Keeps sA (fetchUnitLanded b unit retried bad s) := by
  unfold fetchUnitLanded
  repeat' (first
    | with_reducible assumption
    | with_reducible apply targetAlive_keeps
    | with_reducible apply flashRetry_keeps
    | with_reducible apply cnt_keeps
    | with_reducible apply poisonContent_keeps
    | with_reducible apply landUnit_keeps
    | split)

theorem execFetchUnitLanded_keeps {block : Nat} {unit : Nat} {retried : Nat} {bad : List Nat} {s : State} (h : Keeps sA s) :
    ∀ z, execFetchUnitLanded block unit retried bad s = .next z → Keeps sA z := by
  intro z e
  unfold execFetchUnitLanded at e
  injection e with e
  subst e
  repeat' (first
    | with_reducible assumption
    | with_reducible apply dp_keeps
    | with_reducible apply fetchUnitLanded_keeps)

theorem programUnits_keeps {ch : Nat} {n : Nat} {s : State} (h : Keeps sA s) :
    Keeps sA (programUnits ch n s) := by
  unfold programUnits
  repeat' (first
    | with_reducible assumption
    | with_reducible apply updFlash_keeps)

theorem evictionWriteDone_keeps {b : Nat} {s : State} (h : Keeps sA s) :
    Keeps sA (evictionWriteDone b s) := by
  unfold evictionWriteDone
  repeat' (first
    | with_reducible assumption
    | with_reducible apply toLower_keeps
    | with_reducible apply programUnits_keeps
    | with_reducible apply emit_keeps
    | with_reducible apply updBlock_keeps
    | split)

theorem execEvictionWriteDone_keeps {block : Nat} {s : State} (h : Keeps sA s) :
    ∀ z, execEvictionWriteDone block s = .next z → Keeps sA z := by
  intro z e
  unfold execEvictionWriteDone at e
  injection e with e
  subst e
  repeat' (first
    | with_reducible assumption
    | with_reducible apply dp_keeps
    | with_reducible apply evictionWriteDone_keeps)

theorem evictionWriteFail_keeps {b : Nat} {s : State} (h : Keeps sA s) :
    Keeps sA (evictionWriteFail b s) := by
  unfold evictionWriteFail
  repeat' (first
    | with_reducible assumption
    | with_reducible apply updBlock_keeps
    | with_reducible apply repick_keeps
    | with_reducible apply evMemory_keeps
    | split)

theorem execEvictionWriteFail_keeps {block : Nat} {s : State} (h : Keeps sA s) :
    ∀ z, execEvictionWriteFail block s = .next z → Keeps sA z := by
  intro z e
  unfold execEvictionWriteFail at e
  injection e with e
  subst e
  repeat' (first
    | with_reducible assumption
    | with_reducible apply dp_keeps
    | with_reducible apply evictionWriteFail_keeps)

theorem shootdownComplete_keeps {b : Nat} {s : State} (h : Keeps sA s) :
    Keeps sA (shootdownComplete b s) := by
  unfold shootdownComplete
  repeat' (first
    | with_reducible assumption
    | with_reducible apply frameFreed_keeps
    | fail_if_no_progress with_reducible refine Keeps.upd ?_ (by dsimp only)
    | split)

theorem execShootdownComplete_keeps {block : Nat} {s : State} (h : Keeps sA s) :
    ∀ z, execShootdownComplete block s = .next z → Keeps sA z := by
  intro z e
  unfold execShootdownComplete at e
  injection e with e
  subst e
  repeat' (first
    | with_reducible assumption
    | with_reducible apply dp_keeps
    | with_reducible apply shootdownComplete_keeps)

theorem execFlashBufferProgram_keeps {unit : Nat} {s : State} (h : Keeps sA s) :
    ∀ z, execFlashBufferProgram unit s = .next z → Keeps sA z := by
  intro z e
  unfold execFlashBufferProgram at e
  injection e with e
  subst e
  repeat' (first
    | with_reducible assumption
    | with_reducible apply dp_keeps
    | with_reducible apply programUnits_keeps
    | with_reducible apply timer_keeps
    | fail_if_no_progress with_reducible refine Keeps.upd ?_ (by dsimp only)
    | intro _ _
    | split)

theorem flashProgramFail_keeps {ch : Nat} {target : Nat} {eb : Nat} {s : State} (h : Keeps sA s) :
    Keeps sA (flashProgramFail ch target eb s) := by
  unfold flashProgramFail
  repeat' (first
    | with_reducible assumption
    | with_reducible apply cnt_keeps
    | with_reducible apply updFlash_keeps
    | with_reducible apply ledgerAdd_keeps
    | with_reducible apply evFlash_keeps
    | split)

theorem execFlashProgramFail_keeps {ch : Nat} {target : Nat} {eraseBlock : Nat} {s : State} (h : Keeps sA s) :
    ∀ z, execFlashProgramFail ch target eraseBlock s = .next z → Keeps sA z := by
  intro z e
  unfold execFlashProgramFail at e
  injection e with e
  subst e
  repeat' (first
    | with_reducible assumption
    | with_reducible apply dp_keeps
    | with_reducible apply flashProgramFail_keeps)

theorem failBlock_keeps {b : Nat} {s : State} (h : Keeps sA s) :
    Keeps sA (failBlock b s) := by
  unfold failBlock
  repeat' (first
    | with_reducible assumption
    | with_reducible apply updBlock_keeps
    | with_reducible apply deliver_keeps
    | with_reducible apply cnt_keeps
    | with_reducible apply frameFreed_keeps
    | fail_if_no_progress with_reducible refine Keeps.upd ?_ (by dsimp only)
    | with_reducible apply Keeps.fold
    | intro _ _ _
    | split)

theorem failOnly_keeps {lost : Place → Bool} {s : State} (h : Keeps sA s) :
    Keeps sA (failOnly lost s) := by
  unfold failOnly
  repeat' (first
    | with_reducible assumption
    | with_reducible apply failBlock_keeps
    | with_reducible apply Keeps.fold
    | intro _ _ _)

theorem targetTimeout_keeps {ch : Nat} {target : Nat} {s : State} (h : Keeps sA s) :
    Keeps sA (targetTimeout ch target s) := by
  unfold targetTimeout
  repeat' (first
    | with_reducible assumption
    | with_reducible apply cnt_keeps
    | with_reducible apply updFlash_keeps
    | with_reducible apply ledgerAdd_keeps
    | with_reducible apply evFlash_keeps
    | with_reducible apply failOnly_keeps
    | split
    | (dsimp only))

theorem dropRead_keeps {id : Nat} {s : State} (h : Keeps sA s) :
    Keeps sA (dropRead id s) := by
  unfold dropRead
  repeat' (first
    | with_reducible assumption
    | fail_if_no_progress with_reducible refine Keeps.upd ?_ (by dsimp only))

theorem readStall_keeps {r : TierRead} {s : State} (h : Keeps sA s) :
    Keeps sA (readStall r s) := by
  unfold readStall
  repeat' (first
    | with_reducible assumption
    | with_reducible apply cnt_keeps)

theorem flashTimeout_keeps {op : TierOp} {s : State} (h : Keeps sA s) :
    Keeps sA (flashTimeout op s) := by
  unfold flashTimeout
  repeat' (first
    | with_reducible assumption
    | with_reducible apply timer_keeps
    | with_reducible apply targetTimeout_keeps
    | with_reducible apply failBlock_keeps
    | with_reducible apply evictionWriteFail_keeps
    | with_reducible apply draw_keeps
    | with_reducible apply deliver_keeps
    | with_reducible apply readStall_keeps
    | with_reducible apply dropRead_keeps
    | intro _ _
    | split)

theorem execFlashTimeout_keeps {op : TierOp} {s : State} (h : Keeps sA s) :
    ∀ z, execFlashTimeout op s = .next z → Keeps sA z := by
  intro z e
  unfold execFlashTimeout at e
  injection e with e
  subst e
  repeat' (first
    | with_reducible assumption
    | with_reducible apply dp_keeps
    | with_reducible apply flashTimeout_keeps)

theorem flashReadDone_keeps {id : Nat} {retried : Nat} {bad : Bool} {s : State} (h : Keeps sA s) :
    Keeps sA (flashReadDone id retried bad s) := by
  unfold flashReadDone
  repeat' (first
    | with_reducible assumption
    | with_reducible apply flashRetry_keeps
    | with_reducible apply cnt_keeps
    | with_reducible apply readStall_keeps
    | with_reducible apply dropRead_keeps
    | with_reducible apply poisonContent_keeps
    | with_reducible apply perform_keeps
    | split)

theorem execFlashReadDone_keeps {id : Nat} {retried : Nat} {bad : Bool} {s : State} (h : Keeps sA s) :
    ∀ z, execFlashReadDone id retried bad s = .next z → Keeps sA z := by
  intro z e
  unfold execFlashReadDone at e
  injection e with e
  subst e
  repeat' (first
    | with_reducible assumption
    | with_reducible apply dp_keeps
    | with_reducible apply flashReadDone_keeps)

theorem releaseWrites_keeps {ch : Nat} {s : State} (h : Keeps sA s) :
    Keeps sA (releaseWrites ch s) := by
  unfold releaseWrites
  repeat' (first
    | with_reducible assumption
    | with_reducible apply serve_keeps
    | with_reducible apply readStall_keeps
    | fail_if_no_progress with_reducible refine Keeps.upd ?_ (by dsimp only)
    | with_reducible apply Keeps.fold
    | intro _ _ _
    | split)

theorem garbageCollection_keeps {ch : Nat} {moved : Nat} {blocks : List Nat} {s : State} (h : Keeps sA s) :
    Keeps sA (garbageCollection ch moved blocks s) := by
  unfold garbageCollection
  repeat' (first
    | with_reducible assumption
    | with_reducible apply updFlash_keeps
    | with_reducible apply releaseWrites_keeps
    | with_reducible apply cnt_keeps
    | split
    | (dsimp only))

theorem execGarbageCollection_keeps {ch : Nat} {moved : Nat} {erased : List Nat} {s : State} (h : Keeps sA s) :
    ∀ z, execGarbageCollection ch moved erased s = .next z → Keeps sA z := by
  intro z e
  unfold execGarbageCollection at e
  injection e with e
  subst e
  repeat' (first
    | with_reducible assumption
    | with_reducible apply dp_keeps
    | with_reducible apply garbageCollection_keeps)

theorem execWearLevelling_keeps {ch : Nat} {eraseBlock : Nat} {s : State} (h : Keeps sA s) :
    ∀ z, execWearLevelling ch eraseBlock s = .next z → Keeps sA z := by
  intro z e
  unfold execWearLevelling at e
  injection e with e
  subst e
  repeat' (first
    | with_reducible assumption
    | with_reducible apply dp_keeps
    | with_reducible apply cnt_keeps
    | with_reducible apply updFlash_keeps
    | intro _ _
    | split
    | (dsimp only))

theorem execFlashPatrol_keeps {ch : Nat} {retried : Nat} {weak : Bool} {s : State} (h : Keeps sA s) :
    ∀ z, execFlashPatrol ch retried weak s = .next z → Keeps sA z := by
  intro z e
  unfold execFlashPatrol at e
  injection e with e
  subst e
  repeat' (first
    | with_reducible assumption
    | with_reducible apply dp_keeps
    | with_reducible apply flashRetry_keeps
    | with_reducible apply cnt_keeps
    | with_reducible apply programUnits_keeps
    | intro _ _
    | split)

theorem failExtent_keeps {e : Nat} {s : State} (h : Keeps sA s) :
    Keeps sA (failExtent e s) := by
  unfold failExtent
  repeat' (first
    | with_reducible assumption
    | with_reducible apply deliver_keeps
    | with_reducible apply readStall_keeps
    | with_reducible apply failOnly_keeps
    | fail_if_no_progress with_reducible refine Keeps.upd ?_ (by dsimp only)
    | with_reducible apply Keeps.fold
    | intro _ _ _)

theorem hostTimeout_keeps {op : TierOp} {s : State} (h : Keeps sA s) :
    Keeps sA (hostTimeout op s) := by
  unfold hostTimeout
  repeat' (first
    | with_reducible assumption
    | with_reducible apply timer_keeps
    | with_reducible apply failExtent_keeps
    | with_reducible apply failBlock_keeps
    | with_reducible apply evictionWriteFail_keeps
    | intro _ _
    | split)

theorem execHostTimeout_keeps {op : TierOp} {s : State} (h : Keeps sA s) :
    ∀ z, execHostTimeout op s = .next z → Keeps sA z := by
  intro z e
  unfold execHostTimeout at e
  injection e with e
  subst e
  repeat' (first
    | with_reducible assumption
    | with_reducible apply dp_keeps
    | with_reducible apply hostTimeout_keeps)

theorem hostTags_keeps {e : Nat} {cell : Nat} {bad : List Nat} {marked : List Nat} {s : State} (h : Keeps sA s) :
    Keeps sA (hostTags e cell bad marked s) := by
  unfold hostTags
  repeat' (first
    | with_reducible assumption
    | with_reducible apply poisonContent_keeps
    | with_reducible apply evMemory_keeps
    | with_reducible apply cnt_keeps
    | split)

theorem hostReadCompletion_keeps {op : TierOp} {okay : Bool} {bad : List Nat} {marked : List Nat} {s : State} (h : Keeps sA s) :
    Keeps sA (hostReadCompletion op okay bad marked s) := by
  unfold hostReadCompletion
  repeat' (first
    | with_reducible assumption
    | with_reducible apply failExtent_keeps
    | with_reducible apply failBlock_keeps
    | with_reducible apply landUnit_keeps
    | with_reducible apply hostTags_keeps
    | with_reducible apply readStall_keeps
    | with_reducible apply dropRead_keeps
    | with_reducible apply serve_keeps
    | with_reducible apply perform_keeps
    | split)

theorem execHostReadCompletion_keeps {op : TierOp} {okay : Bool} {bad : List Nat} {marked : List Nat} {s : State} (h : Keeps sA s) :
    ∀ z, execHostReadCompletion op okay bad marked s = .next z → Keeps sA z := by
  intro z e
  unfold execHostReadCompletion at e
  injection e with e
  subst e
  repeat' (first
    | with_reducible assumption
    | with_reducible apply dp_keeps
    | with_reducible apply hostReadCompletion_keeps)

theorem updStack_keeps {c : Nat} {f : Stack → Stack} {s : State} (h : Keeps sA s) :
    Keeps sA (updStack c f s) := by
  unfold updStack
  repeat' (first
    | with_reducible assumption
    | fail_if_no_progress with_reducible refine Keeps.upd ?_ (by dsimp only))

theorem hbmPatrolScrub_keeps {c : Nat} {row : Nat} {line : Nat} {obs : LineObs} {progress : BitVec 32} {s : State} (h : Keeps sA s) :
    Keeps sA (hbmPatrolScrub c row line obs progress s) := by
  unfold hbmPatrolScrub
  repeat' (first
    | with_reducible assumption
    | with_reducible apply lineRead_keeps
    | with_reducible apply updStack_keeps
    | split)

theorem execHbmPatrolScrub_keeps {stack : Nat} {row : Nat} {line : Nat} {obs : LineObs} {progress : BitVec 32} {s : State} (h : Keeps sA s) :
    ∀ z, execHbmPatrolScrub stack row line obs progress s = .next z → Keeps sA z := by
  intro z e
  unfold execHbmPatrolScrub at e
  injection e with e
  subst e
  repeat' (first
    | with_reducible assumption
    | with_reducible apply dp_keeps
    | with_reducible apply hbmPatrolScrub_keeps)

theorem rowSpare_keeps {c : Nat} {row : Nat} {s : State} (h : Keeps sA s) :
    Keeps sA (rowSpare c row s) := by
  unfold rowSpare
  repeat' (first
    | with_reducible assumption
    | with_reducible apply updStack_keeps
    | with_reducible apply ledgerAdd_keeps
    | with_reducible apply evMemory_keeps
    | split
    | (dsimp only))

theorem execRowSpare_keeps {stack : Nat} {row : Nat} {s : State} (h : Keeps sA s) :
    ∀ z, execRowSpare stack row s = .next z → Keeps sA z := by
  intro z e
  unfold execRowSpare at e
  injection e with e
  subst e
  repeat' (first
    | with_reducible assumption
    | with_reducible apply dp_keeps
    | with_reducible apply rowSpare_keeps)

theorem agentLost_keeps {p : Nat} {s : State} (h : Keeps sA s) :
    Keeps sA (agentLost p s) := by
  unfold agentLost
  repeat' (first
    | with_reducible assumption
    | with_reducible apply cnt_keeps
    | with_reducible apply setPoison_keeps
    | with_reducible apply deliver_keeps
    | with_reducible apply evMemory_keeps
    | fail_if_no_progress with_reducible refine Keeps.upd ?_ (by dsimp only)
    | with_reducible apply Keeps.fold
    | intro _ _ _
    | split
    | (dsimp only))

theorem landPosted_keeps {w : HeldWr} {s : State} (h : Keeps sA s) :
    Keeps sA (landPosted w s) := by
  unfold landPosted
  repeat' (first
    | with_reducible assumption
    | with_reducible apply tallyApply_keeps
    | with_reducible apply cnt_keeps
    | with_reducible apply deliver_keeps
    | with_reducible apply serve_keeps
    | with_reducible apply Keeps.fold
    | intro _ _ _
    | split
    | (dsimp only))

theorem hostWrite_keeps {id : Nat} {s : State} (h : Keeps sA s) :
    Keeps sA (hostWrite id s) := by
  unfold hostWrite
  repeat' (first
    | with_reducible assumption
    | with_reducible apply landPosted_keeps
    | fail_if_no_progress with_reducible refine Keeps.upd ?_ (by dsimp only)
    | split
    | (dsimp only))

theorem execHostWrite_keeps {id : Nat} {s : State} (h : Keeps sA s) :
    ∀ z, execHostWrite id s = .next z → Keeps sA z := by
  intro z e
  unfold execHostWrite at e
  injection e with e
  subst e
  repeat' (first
    | with_reducible assumption
    | with_reducible apply dp_keeps
    | with_reducible apply hostWrite_keeps)

end Sys2Proof.Machine
end

