-- ==== Sys2Proof/Laws/KeepsEngine.lean ====
section
/-! SUPPORT. Each operation of sync words, waybills and the matrix and porter engines keeps memory's form, the clocks' order and the queue. -/

namespace Sys2Proof.Machine

open Sys2Proof

variable {sA : State}

/-! ### SyncOps -/

theorem dropWaiter_keeps {i : Nat} {s : State} (h : Keeps sA s) :
    Keeps sA (dropWaiter i s) := by
  unfold dropWaiter
  repeat' (first
    | with_reducible assumption
    | fail_if_no_progress with_reducible refine Keeps.upd ?_ (by dsimp only))

theorem execWaitTimeout_keeps {i : Nat} {s : State} (h : Keeps sA s) :
    ∀ z, execWaitTimeout i s = .next z → Keeps sA z := by
  intro z e
  unfold execWaitTimeout at e
  injection e with e
  subst e
  repeat' (first
    | with_reducible assumption
    | with_reducible apply dp_keeps
    | with_reducible apply timer_keeps
    | with_reducible apply endWait_keeps
    | with_reducible apply dropWaiter_keeps
    | intro _ _
    | split)

theorem execWaitPoll_keeps {i : Nat} {s : State} (h : Keeps sA s) :
    ∀ z, execWaitPoll i s = .next z → Keeps sA z := by
  intro z e
  unfold execWaitPoll at e
  injection e with e
  subst e
  repeat' (first
    | with_reducible assumption
    | with_reducible apply dp_keeps
    | with_reducible apply endWait_keeps
    | with_reducible apply dropWaiter_keeps
    | intro _ _
    | split)

theorem execFeWaitTimeout_keeps {i : Nat} {s : State} (h : Keeps sA s) :
    ∀ z, execFeWaitTimeout i s = .next z → Keeps sA z := by
  intro z e
  unfold execFeWaitTimeout at e
  injection e with e
  subst e
  repeat' (first
    | with_reducible assumption
    | with_reducible apply dp_keeps
    | with_reducible apply timer_keeps
    | with_reducible apply feDropWaiter_keeps
    | intro _ _
    | split)

theorem realignWord_keeps {off : Nat} {planned : Nat} {s : State} (h : Keeps sA s) :
    Keeps sA (realignWord off planned s) := by
  unfold realignWord
  repeat' (first
    | with_reducible assumption
    | with_reducible apply setTally_keeps
    | with_reducible apply endWait_keeps
    | with_reducible apply cnt_keeps
    | with_reducible apply wake_keeps
    | fail_if_no_progress with_reducible refine Keeps.upd ?_ (by dsimp only)
    | with_reducible apply Keeps.fold
    | intro _ _ _)

theorem realignAll_keeps {rals : List (Nat × Nat)} {s : State} (h : Keeps sA s) :
    Keeps sA (realignAll rals s) := by
  unfold realignAll
  repeat' (first
    | with_reducible assumption
    | with_reducible apply realignWord_keeps
    | with_reducible apply Keeps.foldFst
    | intro _ _ _
    | split)

/-! ### Waybill -/

theorem wayWrite_keeps {off : Nat} {w : Way} {s : State} (h : Keeps sA s) :
    Keeps sA (wayWrite off w s).1 := by
  unfold wayWrite
  repeat' (first
    | with_reducible assumption
    | with_reducible apply serve_keeps
    | split)

theorem evEngine_keeps {p : Nat} {desc : Nat} {opid : Nat} {unit : Nat} {status : Nat} {cause : Nat} {s : State} (h : Keeps sA s) :
    Keeps sA (evEngine p desc opid unit status cause s) := by
  unfold evEngine
  repeat' (first
    | with_reducible assumption
    | with_reducible apply evqPost_keeps)

theorem completionTally_keeps {sa : Nat} {opnd : Nat} {ctx : Nat} {p : Nat} {desc : Nat} {opid : Nat} {unit : Nat} {s : State} (h : Keeps sA s) :
    Keeps sA (completionTally sa opnd ctx p desc opid unit s) := by
  unfold completionTally
  repeat' (first
    | with_reducible assumption
    | with_reducible apply tallyApply_keeps
    | with_reducible apply evEngine_keeps
    | with_reducible apply sendTag_keeps
    | split
    | (dsimp only))

theorem prepareBlock_keeps {ctx : Nat} {off : Nat} {w : Bool} {s : State} (h : Keeps sA s) :
    Keeps sA (prepareBlock ctx off w s).2 := by
  unfold prepareBlock
  repeat' (first
    | with_reducible assumption
    | with_reducible apply blockGate_keeps
    | with_reducible refine Keeps.ofPair (by assumption) ?_
    | split
    | (dsimp only))

theorem bulkStore_keeps {ctx : Nat} {off : Nat} {n : Nat} {w : Bool} {s : State} (h : Keeps sA s) :
    Keeps sA (bulkStore ctx off n w s).2 := by
  unfold bulkStore
  repeat' (first
    | with_reducible assumption
    | with_reducible apply prepareBlock_keeps
    | with_reducible refine Keeps.ofPair (by assumption) ?_
    | with_reducible apply Keeps.foldSnd
    | intro _ _ _
    | split
    | (dsimp only))

theorem spadWrite_keeps {off : Nat} {d : List Byte} {p : Bool} {s : State} (h : Keeps sA s) :
    Keeps sA (spadWrite off d p s) := by
  unfold spadWrite
  repeat' (first
    | with_reducible assumption
    | fail_if_no_progress with_reducible refine Keeps.upd ?_ (by dsimp only))

theorem bulk_keeps {ctx : Nat} {p : Nat} {sa : Nat} {n : Nat} {w : Bool} {s : State} (h : Keeps sA s) :
    Keeps sA (bulk ctx p sa n w s).2 := by
  unfold bulk
  repeat' (first
    | with_reducible assumption
    | with_reducible apply bulkStore_keeps
    | split
    | (dsimp only))

theorem bulkAll_keeps {ctx : Nat} {p : Nat} {rs : List (Nat × Nat × Bool)} {s : State} (h : Keeps sA s) :
    Keeps sA (bulkAll ctx p rs s).2 := by
  unfold bulkAll
  repeat' (first
    | with_reducible assumption
    | with_reducible apply bulk_keeps
    | with_reducible refine Keeps.ofPair (by assumption) ?_
    | with_reducible apply Keeps.foldSnd
    | intro _ _ _
    | split)

theorem landOut_keeps {ctx : Nat} {o : OpOut} {s : State} (h : Keeps sA s) :
    Keeps sA (landOut ctx o s) := by
  unfold landOut
  repeat' (first
    | with_reducible assumption
    | with_reducible apply spadWrite_keeps
    | with_reducible apply serve_keeps
    | with_reducible apply Keeps.fold
    | intro _ _ _
    | split
    | (dsimp only))

theorem flushCell_keeps {c : Nat} {off : Nat} {n : Nat} {s : State} (h : Keeps sA s) :
    Keeps sA (flushCell c off n s) := by
  unfold flushCell
  repeat' (first
    | with_reducible assumption
    | with_reducible apply putDir_keeps
    | with_reducible apply writeBack_keeps
    | with_reducible apply Keeps.fold
    | intro _ _ _)

/-! ### Engine -/

theorem updOp_keeps {i : Nat} {f : EngOp → EngOp} {s : State} (h : Keeps sA s) :
    Keeps sA (updOp i f s) := by
  unfold updOp
  repeat' (first
    | with_reducible assumption
    | fail_if_no_progress with_reducible refine Keeps.upd ?_ (by dsimp only))

theorem delOp_keeps {i : Nat} {s : State} (h : Keeps sA s) :
    Keeps sA (delOp i s) := by
  unfold delOp
  repeat' (first
    | with_reducible assumption
    | fail_if_no_progress with_reducible refine Keeps.upd ?_ (by dsimp only))

theorem enqueue_keeps {k : UnitKind} {u : Nat} {p : Nat} {sa : Nat} {slot : Nat} {n : Nat} {entry : Option Nat} {core : Option Nat} {publish : Bool} {s : State} (h : Keeps sA s) :
    Keeps sA (enqueue k u p sa slot n entry core publish s) := by
  unfold enqueue
  repeat' (first
    | with_reducible assumption
    | fail_if_no_progress with_reducible refine Keeps.upd ?_ (by dsimp only))

theorem bulkOp_keeps {o : EngOp} {ctx : Nat} {rs : List (Nat × Nat × Bool)} {s : State} (h : Keeps sA s) :
    Keeps sA (bulkOp o ctx rs s).2 := by
  unfold bulkOp
  repeat' (first
    | with_reducible assumption
    | with_reducible apply bulkAll_keeps
    | split)

theorem bulkOpStore_keeps {o : EngOp} {off : Nat} {n : Nat} {w : Bool} {s : State} (h : Keeps sA s) :
    Keeps sA (bulkOpStore o off n w s).2 := by
  unfold bulkOpStore
  repeat' (first
    | with_reducible assumption
    | with_reducible apply bulkStore_keeps
    | split)

theorem updUnit_keeps {k : UnitKind} {phys : Nat} {f : UnitRec → UnitRec} {s : State} (h : Keeps sA s) :
    Keeps sA (updUnit k phys f s) := by
  unfold updUnit
  repeat' (first
    | with_reducible assumption
    | fail_if_no_progress with_reducible refine Keeps.upd ?_ (by dsimp only))

theorem evSplit_keeps {unit : Nat} {logical : Bool} {mg : Bool} {dp : Bool} {ended : Bool} {s : State} (h : Keeps sA s) :
    Keeps sA (evSplit unit logical mg dp ended s) := by
  unfold evSplit
  repeat' (first
    | with_reducible assumption
    | with_reducible apply rasPost_keeps)

theorem splitNote_keeps {unit : Nat} {logical : Bool} {mg : Bool} {dp : Bool} {s : State} (h : Keeps sA s) :
    Keeps sA (splitNote unit logical mg dp s) := by
  unfold splitNote
  repeat' (first
    | with_reducible assumption
    | with_reducible apply evSplit_keeps
    | fail_if_no_progress with_reducible refine Keeps.upd ?_ (by dsimp only)
    | split)

theorem splitEnd_keeps {unit : Nat} {logical : Bool} {mg : Bool} {dp : Bool} {s : State} (h : Keeps sA s) :
    Keeps sA (splitEnd unit logical mg dp s) := by
  unfold splitEnd
  repeat' (first
    | with_reducible assumption
    | with_reducible apply evSplit_keeps
    | fail_if_no_progress with_reducible refine Keeps.upd ?_ (by dsimp only)
    | split)

theorem splitPhys_keeps {k : UnitKind} {phys : Nat} {s : State} (h : Keeps sA s) :
    Keeps sA (splitPhys k phys s) := by
  unfold splitPhys
  repeat' (first
    | with_reducible assumption
    | with_reducible apply splitNote_keeps)

theorem splitLogical_keeps {k : UnitKind} {l : Nat} {s : State} (h : Keeps sA s) :
    Keeps sA (splitLogical k l s) := by
  unfold splitLogical
  repeat' (first
    | with_reducible assumption
    | with_reducible apply splitNote_keeps)

theorem rebindMatrix_keeps {m : Nat} {cause : Nat} {s : State} (h : Keeps sA s) :
    Keeps sA (rebindMatrix m cause s) := by
  unfold rebindMatrix
  repeat' (first
    | with_reducible assumption
    | with_reducible apply ledgerAdd_keeps
    | with_reducible apply evUnit_keeps
    | with_reducible apply splitLogical_keeps
    | fail_if_no_progress with_reducible refine Keeps.upd ?_ (by dsimp only)
    | split
    | (dsimp only))

theorem unbindEngine_keeps {k : UnitKind} {u : Nat} {cause : Nat} {s : State} (h : Keeps sA s) :
    Keeps sA (unbindEngine k u cause s) := by
  unfold unbindEngine
  repeat' (first
    | with_reducible assumption
    | with_reducible apply ledgerAdd_keeps
    | with_reducible apply splitLogical_keeps
    | with_reducible apply evUnit_keeps
    | fail_if_no_progress with_reducible refine Keeps.upd ?_ (by dsimp only))

theorem markDue_keeps {k : UnitKind} {l : Nat} {s : State} (h : Keeps sA s) :
    Keeps sA (markDue k l s) := by
  unfold markDue
  repeat' (first
    | with_reducible assumption
    | fail_if_no_progress with_reducible refine Keeps.upd ?_ (by dsimp only)
    | split)

theorem quarantine_keeps {k : UnitKind} {phys : Nat} {cell : Nat} {cause : Nat} {s : State} (h : Keeps sA s) :
    Keeps sA (quarantine k phys cell cause s) := by
  unfold quarantine
  repeat' (first
    | with_reducible assumption
    | with_reducible apply splitPhys_keeps
    | with_reducible apply updUnit_keeps
    | with_reducible apply ledgerAdd_keeps
    | with_reducible apply evUnit_keeps
    | with_reducible apply cnt_keeps
    | with_reducible apply markDue_keeps
    | with_reducible apply unbindEngine_keeps
    | with_reducible apply Keeps.mapGetD
    | intro _
    | split)

theorem unitFailure_keeps {k : UnitKind} {phys : Nat} {cell : Nat} {s : State} (h : Keeps sA s) :
    Keeps sA (unitFailure k phys cell s) := by
  unfold unitFailure
  repeat' (first
    | with_reducible assumption
    | with_reducible apply updUnit_keeps
    | with_reducible apply evUnit_keeps
    | with_reducible apply quarantine_keeps
    | split
    | (dsimp only))

theorem entryEnded_keeps {p : Nat} {e : Option Nat} {s : State} (h : Keeps sA s) :
    Keeps sA (entryEnded p e s) := by
  unfold entryEnded
  repeat' (first
    | with_reducible assumption
    | fail_if_no_progress with_reducible refine Keeps.upd ?_ (by dsimp only)
    | split
    | (dsimp only))

theorem sweepMoves_keeps {s : State} (h : Keeps sA s) :
    Keeps sA (sweepMoves s) := by
  unfold sweepMoves
  repeat' (first
    | with_reducible assumption
    | fail_if_no_progress with_reducible refine Keeps.upd ?_ (by dsimp only))

theorem opEnded_keeps {o : EngOp} {s : State} (h : Keeps sA s) :
    Keeps sA (opEnded o s) := by
  unfold opEnded
  repeat' (first
    | with_reducible assumption
    | with_reducible apply cnt_keeps
    | split)

theorem smearWork_keeps {o : EngOp} {s : State} (h : Keeps sA s) :
    Keeps sA (smearWork o s) := by
  unfold smearWork
  repeat' (first
    | with_reducible assumption
    | with_reducible apply landOut_keeps
    | split)

theorem finishOp_keeps {o : EngOp} {checked : Bool} {late : Bool} {tally : Bool} {outDig : Nat} {s : State} (h : Keeps sA s) :
    Keeps sA (finishOp o checked late tally outDig s) := by
  unfold finishOp
  repeat' (first
    | with_reducible assumption
    | with_reducible apply opEnded_keeps
    | with_reducible apply sweepMoves_keeps
    | with_reducible apply delOp_keeps
    | with_reducible apply smearWork_keeps
    | with_reducible apply wayWrite_keeps
    | with_reducible apply completionTally_keeps
    | with_reducible apply evEngine_keeps
    | with_reducible apply cnt_keeps
    | with_reducible apply updUnit_keeps
    | with_reducible apply entryEnded_keeps
    | split)

theorem failOp_keeps {o : EngOp} {st : Status} {tallyOk : Bool} {s : State} (h : Keeps sA s) :
    Keeps sA (failOp o st tallyOk s) := by
  unfold failOp
  repeat' (first
    | with_reducible assumption
    | with_reducible apply finishOp_keeps)

theorem dropShadows_keeps {o : EngOp} {s : State} (h : Keeps sA s) :
    Keeps sA (dropShadows o s) := by
  unfold dropShadows
  repeat' (first
    | with_reducible assumption
    | fail_if_no_progress with_reducible refine Keeps.upd ?_ (by dsimp only))

theorem matrixCounts_keeps {o : EngOp} {s : State} (h : Keeps sA s) :
    Keeps sA (matrixCounts o s) := by
  unfold matrixCounts
  repeat' (first
    | with_reducible assumption
    | with_reducible apply cnt_keeps
    | split)

theorem checkFailure_keeps {o : EngOp} {retryable : Bool} {s : State} (h : Keeps sA s) :
    Keeps sA (checkFailure o retryable s).2.2 ∧ ∀ t, (checkFailure o retryable s).1 = some t → Keeps sA t := by
  have k : ∀ x, Keeps sA x → Keeps sA (unitFailure o.kind o.phys (o.cell s) x) := fun x => unitFailure_keeps
  unfold checkFailure
  dsimp only
  split
  · refine ⟨?_, fun t e => ?_⟩
    · dsimp only
      repeat' (first
        | with_reducible assumption
        | with_reducible apply k
        | with_reducible apply cnt_keeps
        | fail_if_no_progress with_reducible refine Keeps.upd ?_ (by dsimp only))
    · injection e with e
      subst e
      repeat' (first
        | with_reducible assumption
        | with_reducible apply k
        | with_reducible apply updOp_keeps
        | with_reducible apply cnt_keeps
        | fail_if_no_progress with_reducible refine Keeps.upd ?_ (by dsimp only))
  · refine ⟨?_, fun t e => by cases e⟩
    dsimp only
    repeat' (first
      | with_reducible assumption
      | with_reducible apply k
      | with_reducible apply cnt_keeps
      | fail_if_no_progress with_reducible refine Keeps.upd ?_ (by dsimp only))

theorem endOp_keeps {o : EngOp} {checked : Bool} {s : State} (h : Keeps sA s) :
    Keeps sA (endOp o checked s) := by
  unfold endOp
  repeat' (first
    | with_reducible assumption
    | with_reducible apply dropShadows_keeps
    | with_reducible apply matrixCounts_keeps
    | with_reducible apply cnt_keeps
    | with_reducible apply finishOp_keeps
    | fail_if_no_progress with_reducible refine Keeps.upd ?_ (by dsimp only)
    | split)

theorem takeShadows_keeps' {o : EngOp} {s t : State} (h : Keeps sA s) (e : takeShadows o s = some t) : Keeps sA t := by
  unfold takeShadows at e
  split at e
  · injection e with e; subst e; exact h
  · dsimp only at e
    split at e
    · cases e
    · injection e with e; subst e; exact Keeps.upd h rfl

theorem landAll_keeps {o : EngOp} {s : State} (h : Keeps sA s) :
    Keeps sA (landAll o s) := by
  unfold landAll
  repeat' (first
    | with_reducible assumption
    | with_reducible apply landOut_keeps
    | with_reducible apply Keeps.fold
    | intro _ _ _)

theorem completeOp_keeps {o : EngOp} {lane : Lane} {sh : ShadowObs} {retryable : Bool} {s : State} (h : Keeps sA s) :
    Keeps sA (completeOp o lane sh retryable s) := by
  unfold completeOp
  repeat' (first
    | with_reducible assumption
    | (with_reducible refine Keeps.ofTriple (by assumption) (checkFailure_keeps ?_).1)
    | (refine (checkFailure_keeps ?_).2 _ (congrArg Prod.fst (by assumption)))
    | with_reducible apply dropShadows_keeps
    | with_reducible apply bulkOp_keeps
    | with_reducible apply landOut_keeps
    | with_reducible apply endOp_keeps
    | with_reducible apply cnt_keeps
    | with_reducible apply unitFailure_keeps
    | with_reducible apply landAll_keeps
    | with_reducible refine Keeps.ofPair (by assumption) ?_
    | fail_if_no_progress with_reducible refine Keeps.upd ?_ (by dsimp only)
    | with_reducible apply Keeps.fold
    | intro _ _ _
    | split
    | (dsimp only))

theorem dropOp_keeps {o : EngOp} {s : State} (h : Keeps sA s) :
    Keeps sA (dropOp o s) := by
  unfold dropOp
  repeat' (first
    | with_reducible assumption
    | with_reducible apply dropShadows_keeps
    | with_reducible apply delOp_keeps
    | with_reducible apply finishOp_keeps
    | with_reducible apply landOut_keeps
    | with_reducible apply Keeps.fold
    | intro _ _ _
    | split
    | (dsimp only))

theorem abortOp_keeps {o : EngOp} {st : Status} {s : State} (h : Keeps sA s) :
    Keeps sA (abortOp o st s) := by
  unfold abortOp
  repeat' (first
    | with_reducible assumption
    | with_reducible apply dropShadows_keeps
    | with_reducible apply delOp_keeps
    | with_reducible apply finishOp_keeps
    | split
    | (dsimp only))

theorem takeOp_keeps {k : UnitKind} {u : Nat} {len : Nat} {mine : Nat → Bool} {total : List Byte → Nat} {go : EngOp → State → State} {s : State} (h : Keeps sA s) (hgo : ∀ a0 s, Keeps sA s → Keeps sA (go a0 s)) :
    Keeps sA (takeOp k u len mine total go s) := by
  unfold takeOp
  repeat' (first
    | with_reducible assumption
    | with_reducible apply hgo
    | with_reducible apply entryEnded_keeps
    | with_reducible apply evEngine_keeps
    | with_reducible apply delOp_keeps
    | with_reducible apply failOp_keeps
    | split
    | (dsimp only))

/-! ### Matrix -/

theorem matGo_keeps {o : EngOp} {s : State} (h : Keeps sA s) :
    Keeps sA (matGo o s) := by
  unfold matGo
  repeat' (first
    | with_reducible assumption
    | with_reducible apply failOp_keeps
    | with_reducible refine takeShadows_keeps' ?_ (by assumption)
    | with_reducible apply updOp_keeps
    | split
    | (dsimp only))

theorem execMatmul_keeps {unit : Nat} {s : State} (h : Keeps sA s) :
    ∀ z, execMatmul unit s = .next z → Keeps sA z := by
  intro z e
  unfold execMatmul at e
  injection e with e
  subst e
  repeat' (first
    | with_reducible assumption
    | with_reducible apply dp_keeps
    | with_reducible apply takeOp_keeps
    | with_reducible apply matGo_keeps
    | intro _ _)

theorem ffnFlush_keeps {o : EngOp} {x : FfnB} {t : Nat} {s : State} (h : Keeps sA s) :
    Keeps sA (ffnFlush o x t s) := by
  unfold ffnFlush
  repeat' (first
    | with_reducible assumption
    | with_reducible apply flushCell_keeps
    | with_reducible apply Keeps.fold
    | intro _ _ _
    | split
    | (dsimp only))

theorem ffnAttempt_keeps {o : EngOp} {s : State} (h : Keeps sA s) :
    Keeps sA (ffnAttempt o s) := by
  unfold ffnAttempt
  repeat' (first
    | with_reducible assumption
    | with_reducible apply ffnFlush_keeps
    | with_reducible apply bulkOp_keeps
    | with_reducible apply endOp_keeps
    | with_reducible apply updOp_keeps
    | with_reducible refine takeShadows_keeps' ?_ (by assumption)
    | with_reducible refine Keeps.ofPair (by assumption) ?_
    | split
    | (dsimp only))

theorem ffnGo_keeps {o : EngOp} {s : State} (h : Keeps sA s) :
    Keeps sA (ffnGo o s) := by
  unfold ffnGo
  repeat' (first
    | with_reducible assumption
    | with_reducible apply failOp_keeps
    | with_reducible apply ffnAttempt_keeps
    | split)

theorem execExpertFfn_keeps {unit : Nat} {s : State} (h : Keeps sA s) :
    ∀ z, execExpertFfn unit s = .next z → Keeps sA z := by
  intro z e
  unfold execExpertFfn at e
  injection e with e
  subst e
  repeat' (first
    | with_reducible assumption
    | with_reducible apply dp_keeps
    | with_reducible apply takeOp_keeps
    | with_reducible apply ffnGo_keeps
    | intro _ _)

/-! ### Porter -/

theorem porFlush_keeps {o : EngOp} {b : PorB} {t : Tbl} {s : State} (h : Keeps sA s) :
    Keeps sA (porFlush o b t s) := by
  unfold porFlush
  repeat' (first
    | with_reducible assumption
    | with_reducible apply flushCell_keeps
    | with_reducible apply Keeps.fold
    | intro _ _ _
    | split)

theorem porStop_keeps {o : EngOp} {st : Status} {processed : Nat} {s : State} (h : Keeps sA s) :
    Keeps sA (porStop o st processed s) := by
  unfold porStop
  repeat' (first
    | with_reducible assumption
    | with_reducible apply endOp_keeps)

theorem porPrep_keeps {o : EngOp} {s : State} (h : Keeps sA s) :
    (∀ x, porPrep o s = .inl x → Keeps sA x.2.2) ∧ ∀ t, porPrep o s = .inr t → Keeps sA t := by
  unfold porPrep
  extract_lets b r t s1 ins wl o1
  have k1 : Keeps sA s1 := porFlush_keeps h
  clear_value s1
  have k2 : Keeps sA (bulkOp o o.ctx (ins.map (fun x => (x.1, x.2, false))) s1).2 := bulkOp_keeps k1
  generalize bulkOp o o.ctx (ins.map (fun x => (x.1, x.2, false))) s1 = y at k2 ⊢
  obtain ⟨a, s2⟩ := y
  cases a with
  | stop st =>
    refine ⟨fun x e => (by cases e), fun t e => ?_⟩
    injection e with e
    subst e
    exact porStop_keeps k2
  | wait =>
    refine ⟨fun x e => (by cases e), fun t e => ?_⟩
    injection e with e
    subst e
    exact updOp_keeps k2
  | ok =>
    dsimp -zeta only at k2 ⊢
    extract_lets idx rows man offs ents
    have k3 : Keeps sA (bulkOp o o.ctx (if t.map = 0 then [] else ents.map (fun i => (t.map + 8 * i, 8, false))) s2).2 :=
      bulkOp_keeps k2
    generalize bulkOp o o.ctx (if t.map = 0 then [] else ents.map (fun i => (t.map + 8 * i, 8, false))) s2 = z at k3 ⊢
    obtain ⟨c, s3⟩ := z
    cases c with
    | stop st =>
      refine ⟨fun x e => (by cases e), fun t e => ?_⟩
      injection e with e
      subst e
      exact porStop_keeps k3
    | wait =>
      refine ⟨fun x e => (by cases e), fun t e => ?_⟩
      injection e with e
      subst e
      exact updOp_keeps k3
    | ok =>
      dsimp -zeta only at k3 ⊢
      extract_lets o2 s4
      have k4 : Keeps sA s4 := cnt_keeps (cnt_keeps k3)
      clear_value s4
      refine ⟨fun x e => ?_, fun t e => ?_⟩
      · split at e
        · cases e
        · split at e
          · cases e
          · split at e
            · cases e
            · injection e with e
              subst e
              exact k4
      · split at e
        · injection e with e; subst e; exact porStop_keeps k4
        · split at e
          · injection e with e; subst e; exact porStop_keeps k4
          · split at e
            · injection e with e; subst e; exact porStop_keeps k4
            · cases e

theorem porRead_keeps {o : EngOp} {k : PorIn → EngOp → State → State} {s : State} (h : Keeps sA s) (hk : ∀ a0 a1 s, Keeps sA s → Keeps sA (k a0 a1 s)) :
    Keeps sA (porRead o k s) := by
  unfold porRead
  repeat' (first
    | with_reducible exact (porPrep_keeps h).1 _ (by assumption)
    | with_reducible exact (porPrep_keeps h).2 _ (by assumption)
    | with_reducible apply hk
    | split)

theorem gatherRows_keeps {x : PorIn} {o : EngOp} {s : State} (h : Keeps sA s) :
    Keeps sA (gatherRows x o s).2.2 := by
  unfold gatherRows
  repeat' (first
    | with_reducible assumption
    | with_reducible apply bulkOpStore_keeps
    | with_reducible refine Keeps.ofPair (by assumption) ?_
    | with_reducible apply Keeps.foldThird
    | intro _ _ _
    | split
    | (dsimp only))

theorem gatherCount_keeps {x : PorIn} {unit : Nat} {got : Tab GotRow} {s : State} (h : Keeps sA s) :
    Keeps sA (gatherCount x unit got s) := by
  unfold gatherCount
  repeat' (first
    | with_reducible assumption
    | with_reducible apply cnt_keeps
    | split)

theorem gatherAttempt_keeps {o : EngOp} {s : State} (h : Keeps sA s) :
    Keeps sA (gatherAttempt o s) := by
  unfold gatherAttempt
  repeat' (first
    | with_reducible assumption
    | with_reducible apply porRead_keeps
    | with_reducible apply gatherRows_keeps
    | with_reducible apply porStop_keeps
    | with_reducible apply updOp_keeps
    | with_reducible apply gatherCount_keeps
    | with_reducible refine takeShadows_keeps' ?_ (by assumption)
    | with_reducible refine Keeps.ofTriple (by assumption) ?_
    | intro _ _ _
    | intro _
    | split
    | (dsimp only))

theorem porGo_keeps {run : EngOp → State → State} {o : EngOp} {s : State} (h : Keeps sA s) (hrun : ∀ a0 s, Keeps sA s → Keeps sA (run a0 s)) :
    Keeps sA (porGo run o s) := by
  unfold porGo
  repeat' (first
    | with_reducible assumption
    | with_reducible apply hrun
    | with_reducible apply failOp_keeps
    | split)

theorem execGather_keeps {unit : Nat} {s : State} (h : Keeps sA s) :
    ∀ z, execGather unit s = .next z → Keeps sA z := by
  intro z e
  unfold execGather at e
  injection e with e
  subst e
  repeat' (first
    | with_reducible assumption
    | with_reducible apply dp_keeps
    | with_reducible apply takeOp_keeps
    | with_reducible apply porGo_keeps
    | with_reducible apply gatherAttempt_keeps
    | intro _ _ _
    | intro _ _)

theorem scatterAttempt_keeps {o : EngOp} {s : State} (h : Keeps sA s) :
    Keeps sA (scatterAttempt o s) := by
  unfold scatterAttempt
  repeat' (first
    | with_reducible assumption
    | with_reducible apply porRead_keeps
    | with_reducible apply cnt_keeps
    | with_reducible refine takeShadows_keeps' ?_ (by assumption)
    | with_reducible apply porStop_keeps
    | with_reducible apply updOp_keeps
    | intro _ _ _
    | intro _
    | split
    | (dsimp only))

theorem execScatterAdd_keeps {unit : Nat} {s : State} (h : Keeps sA s) :
    ∀ z, execScatterAdd unit s = .next z → Keeps sA z := by
  intro z e
  unfold execScatterAdd at e
  injection e with e
  subst e
  repeat' (first
    | with_reducible assumption
    | with_reducible apply dp_keeps
    | with_reducible apply takeOp_keeps
    | with_reducible apply porGo_keeps
    | with_reducible apply scatterAttempt_keeps
    | intro _ _ _
    | intro _ _)

theorem scatterEnd_keeps {o : EngOp} {st : Status} {checked : Bool} {s : State} (h : Keeps sA s) :
    Keeps sA (scatterEnd o st checked s) := by
  unfold scatterEnd
  repeat' (first
    | with_reducible assumption
    | with_reducible apply endOp_keeps)

theorem landRow_keeps {ctx : Nat} {loc : Nat} {d : List Byte} {p : Bool} {s : State} (h : Keeps sA s) :
    Keeps sA (landRow ctx loc d p s) := by
  unfold landRow
  repeat' (first
    | with_reducible assumption
    | with_reducible apply landOut_keeps)

theorem recallRow_keeps {loc : Nat} {n : Nat} {s : State} (h : Keeps sA s) :
    Keeps sA (recallRow loc n s) := by
  unfold recallRow
  repeat' (first
    | with_reducible assumption
    | with_reducible apply dropCopies_keeps
    | with_reducible apply writeBack_keeps
    | with_reducible apply Keeps.fold
    | intro _ _ _)

theorem applyUpd_keeps {pub : Bool} {t : Tbl} {u : RowUpd} {loc : Nat} {s : State} (h : Keeps sA s) :
    Keeps sA (applyUpd pub t u loc s).2 := by
  unfold applyUpd
  repeat' (first
    | with_reducible assumption
    | with_reducible apply recallRow_keeps
    | with_reducible apply landRow_keeps
    | with_reducible apply cnt_keeps
    | split)

theorem noteUpd_keeps {i : Nat} {u : RowUpd} {r : List Byte × List Byte × Bool × Bool} {s : State} (h : Keeps sA s) :
    Keeps sA (noteUpd i u r s) := by
  unfold noteUpd
  repeat' (first
    | with_reducible assumption
    | with_reducible apply updOp_keeps)

theorem updMove_keeps {i : Nat} {f : RowMove → RowMove} {s : State} (h : Keeps sA s) :
    Keeps sA (updMove i f s) := by
  unfold updMove
  repeat' (first
    | with_reducible assumption
    | fail_if_no_progress with_reducible refine Keeps.upd ?_ (by dsimp only))

theorem updAtSource_keeps {m : RowMove} {i : Nat} {u : RowUpd} {s : State} (h : Keeps sA s) :
    Keeps sA (updAtSource m i u s) := by
  unfold updAtSource
  repeat' (first
    | with_reducible assumption
    | with_reducible apply applyUpd_keeps
    | with_reducible apply updMove_keeps
    | with_reducible apply noteUpd_keeps)

theorem holdUpd_keeps {m : RowMove} {i : Nat} {u : RowUpd} {s : State} (h : Keeps sA s) :
    Keeps sA (holdUpd m i u s) := by
  unfold holdUpd
  repeat' (first
    | with_reducible assumption
    | with_reducible apply cnt_keeps
    | with_reducible apply updMove_keeps)

theorem forwardUpd_keeps {m : RowMove} {i : Nat} {u : RowUpd} {s : State} (h : Keeps sA s) :
    Keeps sA (forwardUpd m i u s) := by
  unfold forwardUpd
  repeat' (first
    | with_reducible assumption
    | with_reducible apply applyUpd_keeps
    | with_reducible apply cnt_keeps
    | with_reducible apply noteUpd_keeps)

theorem routeUpd_keeps {i : Nat} {o : EngOp} {t : Tbl} {u : RowUpd} {s : State} (h : Keeps sA s) :
    Keeps sA (routeUpd i o t u s) := by
  unfold routeUpd
  repeat' (first
    | with_reducible assumption
    | with_reducible apply applyUpd_keeps
    | with_reducible apply noteUpd_keeps
    | with_reducible apply holdUpd_keeps
    | with_reducible apply updAtSource_keeps
    | with_reducible apply forwardUpd_keeps
    | split)

theorem rowUpdate_keeps {unit : Nat} {lane : Lane} {s : State} (h : Keeps sA s) :
    Keeps sA (rowUpdate unit lane s) := by
  unfold rowUpdate
  repeat' (first
    | with_reducible assumption
    | (with_reducible refine Keeps.ofTriple (by assumption) (checkFailure_keeps ?_).1)
    | (refine (checkFailure_keeps ?_).2 _ (congrArg Prod.fst (by assumption)))
    | with_reducible apply scatterEnd_keeps
    | with_reducible apply dropShadows_keeps
    | with_reducible apply bulkOpStore_keeps
    | with_reducible apply snoop_keeps
    | with_reducible apply routeUpd_keeps
    | with_reducible apply updOp_keeps
    | with_reducible refine Keeps.ofPair (by assumption) ?_
    | fail_if_no_progress with_reducible refine Keeps.upd ?_ (by dsimp only)
    | split
    | (dsimp only))

theorem execRowUpdate_keeps {unit : Nat} {lane : Lane} {s : State} (h : Keeps sA s) :
    ∀ z, execRowUpdate unit lane s = .next z → Keeps sA z := by
  intro z e
  unfold execRowUpdate at e
  injection e with e
  subst e
  repeat' (first
    | with_reducible assumption
    | with_reducible apply dp_keeps
    | with_reducible apply rowUpdate_keeps)

theorem moveResult_keeps {i : Nat} {item : Nat} {code : Nat} {s : State} (h : Keeps sA s) :
    Keeps sA (moveResult i item code s) := by
  unfold moveResult
  repeat' (first
    | with_reducible assumption
    | with_reducible apply landOut_keeps
    | with_reducible apply updOp_keeps
    | split)

theorem mapWrite_keeps {ent : Nat} {moving : Bool} {seq : Nat} {loc : Nat} {s : State} (h : Keeps sA s) :
    Keeps sA (mapWrite ent moving seq loc s) := by
  unfold mapWrite
  repeat' (first
    | with_reducible assumption
    | with_reducible apply devWrite_keeps)

theorem clearMoving_keeps {ent : Nat} {s : State} (h : Keeps sA s) :
    Keeps sA (clearMoving ent s) := by
  unfold clearMoving
  repeat' (first
    | with_reducible assumption
    | with_reducible apply devWrite_keeps)

theorem releaseHeld_keeps {m : RowMove} {s : State} (h : Keeps sA s) :
    Keeps sA (releaseHeld m s) := by
  unfold releaseHeld
  repeat' (first
    | with_reducible assumption
    | with_reducible apply forwardUpd_keeps
    | with_reducible apply applyUpd_keeps
    | with_reducible apply noteUpd_keeps
    | with_reducible apply Keeps.fold
    | intro _ _ _
    | split)

theorem abandonMove_keeps {m : RowMove} {code : Nat} {s : State} (h : Keeps sA s) :
    Keeps sA (abandonMove m code s) := by
  unfold abandonMove
  repeat' (first
    | with_reducible assumption
    | with_reducible apply releaseHeld_keeps
    | with_reducible apply clearMoving_keeps
    | with_reducible apply cnt_keeps
    | with_reducible apply moveResult_keeps
    | fail_if_no_progress with_reducible refine Keeps.upd ?_ (by dsimp only))

theorem commitMove_keeps {m : RowMove} {s : State} (h : Keeps sA s) :
    Keeps sA (commitMove m s) := by
  unfold commitMove
  repeat' (first
    | with_reducible assumption
    | with_reducible apply mapWrite_keeps
    | with_reducible apply updMove_keeps
    | with_reducible apply releaseHeld_keeps
    | with_reducible apply updOp_keeps
    | with_reducible apply sweepMoves_keeps
    | with_reducible apply cnt_keeps
    | with_reducible apply moveResult_keeps
    | with_reducible apply abandonMove_keeps
    | split
    | (dsimp only))

theorem moveStart_keeps {o : EngOp} {t : Tbl} {es : List (Nat × Nat × Nat)} {item : Nat} {s : State} (h : Keeps sA s) :
    Keeps sA (moveStart o t es item s) := by
  unfold moveStart
  repeat' (first
    | with_reducible assumption
    | with_reducible apply moveResult_keeps
    | with_reducible apply bulkOpStore_keeps
    | with_reducible apply mapWrite_keeps
    | with_reducible apply updOp_keeps
    | with_reducible refine Keeps.ofPair (by assumption) ?_
    | fail_if_no_progress with_reducible refine Keeps.upd ?_ (by dsimp only)
    | split
    | (dsimp only))

theorem moveRun_keeps {o : EngOp} {r : List Byte} {s : State} (h : Keeps sA s) :
    Keeps sA (moveRun o r s) := by
  unfold moveRun
  repeat' (first
    | with_reducible assumption
    | with_reducible apply updOp_keeps
    | with_reducible apply moveStart_keeps
    | with_reducible apply Keeps.fold
    | intro _ _ _)

theorem moveAttempt_keeps {o : EngOp} {s : State} (h : Keeps sA s) :
    Keeps sA (moveAttempt o s) := by
  unfold moveAttempt
  repeat' (first
    | with_reducible assumption
    | with_reducible apply porFlush_keeps
    | with_reducible apply bulkOp_keeps
    | with_reducible apply porStop_keeps
    | with_reducible apply updOp_keeps
    | with_reducible apply moveRun_keeps
    | with_reducible refine Keeps.ofPair (by assumption) ?_
    | split
    | (dsimp only))

theorem execMoveRows_keeps {unit : Nat} {s : State} (h : Keeps sA s) :
    ∀ z, execMoveRows unit s = .next z → Keeps sA z := by
  intro z e
  unfold execMoveRows at e
  injection e with e
  subst e
  repeat' (first
    | with_reducible assumption
    | with_reducible apply dp_keeps
    | with_reducible apply takeOp_keeps
    | with_reducible apply porGo_keeps
    | with_reducible apply moveAttempt_keeps
    | intro _ _ _
    | intro _ _)

theorem moveSnapshot_keeps {m : RowMove} {s : State} (h : Keeps sA s) :
    Keeps sA (moveSnapshot m s) := by
  unfold moveSnapshot
  repeat' (first
    | with_reducible assumption
    | with_reducible apply bulkOpStore_keeps
    | with_reducible apply abandonMove_keeps
    | with_reducible apply updMove_keeps
    | with_reducible apply landRow_keeps
    | with_reducible refine Keeps.ofPair (by assumption) ?_
    | split)

theorem execMoveSnapshotWritten_keeps {move : Nat} {s : State} (h : Keeps sA s) :
    ∀ z, execMoveSnapshotWritten move s = .next z → Keeps sA z := by
  intro z e
  unfold execMoveSnapshotWritten at e
  injection e with e
  subst e
  repeat' (first
    | with_reducible assumption
    | with_reducible apply dp_keeps
    | with_reducible apply moveSnapshot_keeps
    | intro _ _
    | split)

theorem moveReplay_keeps {m : RowMove} {s : State} (h : Keeps sA s) :
    Keeps sA (moveReplay m s) := by
  unfold moveReplay
  repeat' (first
    | with_reducible assumption
    | with_reducible apply updMove_keeps
    | with_reducible apply landRow_keeps
    | with_reducible apply updAtSource_keeps
    | split)

theorem execMoveReplay_keeps {move : Nat} {s : State} (h : Keeps sA s) :
    ∀ z, execMoveReplay move s = .next z → Keeps sA z := by
  intro z e
  unfold execMoveReplay at e
  injection e with e
  subst e
  repeat' (first
    | with_reducible assumption
    | with_reducible apply dp_keeps
    | with_reducible apply moveReplay_keeps
    | intro _ _
    | split)

theorem execMoveCommit_keeps {move : Nat} {s : State} (h : Keeps sA s) :
    ∀ z, execMoveCommit move s = .next z → Keeps sA z := by
  intro z e
  unfold execMoveCommit at e
  injection e with e
  subst e
  repeat' (first
    | with_reducible assumption
    | with_reducible apply dp_keeps
    | with_reducible apply commitMove_keeps
    | intro _ _
    | split)

theorem stopMoves_keeps {i : Nat} {code : Nat} {s : State} (h : Keeps sA s) :
    Keeps sA (stopMoves i code s) := by
  unfold stopMoves
  repeat' (first
    | with_reducible assumption
    | with_reducible apply commitMove_keeps
    | with_reducible apply abandonMove_keeps
    | with_reducible apply Keeps.fold
    | intro _ _ _
    | split)

theorem movesEnd_keeps {o : EngOp} {s : State} (h : Keeps sA s) :
    Keeps sA (movesEnd o s) := by
  unfold movesEnd
  repeat' (first
    | with_reducible assumption
    | with_reducible apply endOp_keeps)

theorem porComplete_keeps {o : EngOp} {lane : Lane} {s : State} (h : Keeps sA s) :
    Keeps sA (porComplete o lane s) := by
  unfold porComplete
  repeat' (first
    | with_reducible assumption
    | with_reducible apply gatherAttempt_keeps
    | with_reducible apply scatterAttempt_keeps
    | with_reducible apply moveAttempt_keeps
    | with_reducible apply completeOp_keeps
    | with_reducible apply scatterEnd_keeps
    | with_reducible apply movesEnd_keeps
    | split)

end Sys2Proof.Machine
end

