-- ==== Sys2Proof/Laws/KeepsAlloc.lean ====
section
/-! SUPPORT. Each operation of the mailboxes and of allocation keeps memory's form, the clocks' order and the queue. -/

namespace Sys2Proof.Machine

open Sys2Proof

variable {sA : State}

/-! ### Mailbox -/

theorem updMbx_keeps {n : Nat} {f : Mbx → Mbx} {s : State} (h : Keeps sA s) :
    Keeps sA (updMbx n f s) := by
  unfold updMbx
  repeat' (first
    | with_reducible assumption
    | fail_if_no_progress with_reducible refine Keeps.upd ?_ (by dsimp only))

theorem mbxLook_keeps {n : Nat} {s : State} (h : Keeps sA s) :
    Keeps sA (mbxLook n s) := by
  unfold mbxLook
  repeat' (first
    | with_reducible assumption
    | with_reducible apply updMbx_keeps
    | split
    | (dsimp only))

theorem writeCpl_keeps {n : Nat} {e : List Byte} {novec : Bool} {s : State} (h : Keeps sA s) :
    Keeps sA (writeCpl n e novec s) := by
  unfold writeCpl
  repeat' (first
    | with_reducible assumption
    | with_reducible apply updMbx_keeps
    | with_reducible apply emit_keeps
    | with_reducible apply msi_keeps
    | with_reducible apply devWrite_keeps
    | with_reducible apply tallyApply_keeps
    | split
    | (dsimp only))

theorem completeX_keeps {n : Nat} {status : Nat} {res : List Byte} {extra : List Byte} {s : State} (h : Keeps sA s) :
    Keeps sA (completeX n status res extra s) := by
  unfold completeX
  repeat' (first
    | with_reducible assumption
    | with_reducible apply updMbx_keeps
    | with_reducible apply emit_keeps
    | with_reducible apply writeCpl_keeps
    | split
    | (dsimp only))

theorem complete_keeps {n : Nat} {status : Nat} {res : List Byte} {s : State} (h : Keeps sA s) :
    Keeps sA (complete n status res s) := by
  unfold complete
  repeat' (first
    | with_reducible assumption
    | with_reducible apply completeX_keeps)

theorem mbxTake_keeps {n : Nat} {e : List Byte} {block : Option (List Byte)} {poison : Bool} {session : Nat} {s : State} (h : Keeps sA s) :
    Keeps sA (mbxTake n e block poison session s) := by
  unfold mbxTake
  repeat' (first
    | with_reducible assumption
    | with_reducible apply cnt_keeps
    | with_reducible apply updMbx_keeps
    | with_reducible apply complete_keeps
    | fail_if_no_progress with_reducible refine Keeps.upd ?_ (by dsimp only)
    | split
    | (dsimp only))

theorem commandFetch_keeps {mb : Nat} {bytes : List Byte} {block : Option (List Byte)} {poison : Bool} {s : State} (h : Keeps sA s) :
    Keeps sA (commandFetch mb bytes block poison s) := by
  unfold commandFetch
  repeat' (first
    | with_reducible assumption
    | with_reducible apply mbxLook_keeps
    | with_reducible apply updMbx_keeps
    | with_reducible apply mbxTake_keeps
    | fail_if_no_progress with_reducible refine Keeps.upd ?_ (by dsimp only)
    | split
    | (dsimp only))

theorem execCommandFetch_keeps {mb : Nat} {bytes : List Byte} {block : Option (List Byte)} {poison : Bool} {s : State} (h : Keeps sA s) :
    ∀ z, execCommandFetch mb bytes block poison s = .next z → Keeps sA z := by
  intro z e
  unfold execCommandFetch at e
  injection e with e
  subst e
  repeat' (first
    | with_reducible assumption
    | with_reducible apply commandFetch_keeps)

theorem execDbSq_keeps {mb : Nat} {tail : Nat} {s : State} (h : Keeps sA s) :
    ∀ z, execDbSq mb tail s = .next z → Keeps sA z := by
  intro z e
  unfold execDbSq at e
  injection e with e
  subst e
  repeat' (first
    | with_reducible assumption
    | with_reducible apply barWrite_keeps
    | with_reducible apply updMbx_keeps
    | with_reducible apply mbxLook_keeps
    | intro _ _
    | split)

theorem execDbCq_keeps {mb : Nat} {head : Nat} {s : State} (h : Keeps sA s) :
    ∀ z, execDbCq mb head s = .next z → Keeps sA z := by
  intro z e
  unfold execDbCq at e
  injection e with e
  subst e
  repeat' (first
    | with_reducible assumption
    | with_reducible apply barWrite_keeps
    | with_reducible apply updMbx_keeps
    | with_reducible apply mbxLook_keeps
    | intro _ _
    | split)

theorem execDoorbellWake_keeps {mb : Nat} {s : State} (h : Keeps sA s) :
    ∀ z, execDoorbellWake mb s = .next z → Keeps sA z := by
  intro z e
  unfold execDoorbellWake at e
  injection e with e
  subst e
  repeat' (first
    | with_reducible assumption
    | with_reducible apply barWrite_keeps
    | with_reducible apply mbxLook_keeps)

theorem mbxCommit_keeps {gen : BitVec 32} {s : State} (h : Keeps sA s) :
    Keeps sA (mbxCommit gen s) := by
  unfold mbxCommit
  repeat' (first
    | with_reducible assumption
    | with_reducible apply updMbx_keeps
    | split
    | (dsimp only))

theorem execMbxCommit_keeps {gen : BitVec 32} {s : State} (h : Keeps sA s) :
    ∀ z, execMbxCommit gen s = .next z → Keeps sA z := by
  intro z e
  unfold execMbxCommit at e
  injection e with e
  subst e
  repeat' (first
    | with_reducible assumption
    | with_reducible apply barWrite_keeps
    | with_reducible apply mbxCommit_keeps)

theorem execMbxCommitErrClear_keeps {s : State} (h : Keeps sA s) :
    ∀ z, execMbxCommitErrClear s = .next z → Keeps sA z := by
  intro z e
  unfold execMbxCommitErrClear at e
  injection e with e
  subst e
  repeat' (first
    | with_reducible assumption
    | with_reducible apply barWrite_keeps
    | with_reducible apply updMbx_keeps)

theorem execMbxHeartbeat_keeps {s : State} (h : Keeps sA s) :
    ∀ z, execMbxHeartbeat s = .next z → Keeps sA z := by
  intro z e
  unfold execMbxHeartbeat at e
  injection e with e
  subst e
  repeat' (first
    | with_reducible assumption
    | with_reducible apply cnt_keeps
    | split)

theorem mbxWdog_keeps {mb : Nat} {s : State} (h : Keeps sA s) :
    Keeps sA (mbxWdog mb s) := by
  unfold mbxWdog
  repeat' (first
    | with_reducible assumption
    | with_reducible apply evPlatform_keeps
    | with_reducible apply updMbx_keeps
    | with_reducible apply reachWall_keeps
    | split)

theorem execMbxWdogExpiry_keeps {mb : Nat} {s : State} (h : Keeps sA s) :
    ∀ z, execMbxWdogExpiry mb s = .next z → Keeps sA z := by
  intro z e
  unfold execMbxWdogExpiry at e
  injection e with e
  subst e
  repeat' (first
    | with_reducible assumption
    | with_reducible apply mbxWdog_keeps)

theorem setGen_keeps {o : Nat} {g : BitVec 32} {s : State} (h : Keeps sA s) :
    Keeps sA (setGen o g s) := by
  unfold setGen
  repeat' (first
    | with_reducible assumption
    | with_reducible apply updPart_keeps
    | fail_if_no_progress with_reducible refine Keeps.upd ?_ (by dsimp only)
    | split)

theorem ownMgmt_keeps {o : Nat} {s : State} (h : Keeps sA s) :
    Keeps sA (ownMgmt o s) := by
  unfold ownMgmt
  repeat' (first
    | with_reducible assumption
    | fail_if_no_progress with_reducible refine Keeps.upd ?_ (by dsimp only))

theorem catalogue_keeps {n : Nat} {op : Nat} {chk : State → Cmd → CChk} {body : Cmd → State → State} {s : State} (h : Keeps sA s) (hbody : ∀ a0 s, Keeps sA s → Keeps sA (body a0 s)) :
    Keeps sA (catalogue n op chk body s) := by
  unfold catalogue
  repeat' (first
    | with_reducible assumption
    | with_reducible apply hbody
    | with_reducible apply complete_keeps
    | split)

theorem refuseOr_keeps {n : Nat} {l : List (Bool × Nat)} {go : State → State} {s : State} (h : Keeps sA s) (hgo : ∀ s, Keeps sA s → Keeps sA (go s)) :
    Keeps sA (refuseOr n l go s) := by
  unfold refuseOr
  repeat' (first
    | with_reducible assumption
    | with_reducible apply hgo
    | with_reducible apply complete_keeps
    | split)

theorem completeGen_keeps {n : Nat} {o : Nat} {res : List Byte} {s : State} (h : Keeps sA s) :
    Keeps sA (completeGen n o res s) := by
  unfold completeGen
  repeat' (first
    | with_reducible assumption
    | with_reducible apply complete_keeps
    | with_reducible apply setGen_keeps)

theorem pickFree_keeps {l : List Nat} {s : State} (h : Keeps sA s) :
    Keeps sA (pickFree l s).2 := by
  unfold pickFree
  repeat' (first
    | with_reducible assumption
    | with_reducible apply draw_keeps
    | split)

theorem asyncRecord_keeps {n : Nat} {entry : List Byte} {status : Nat} {res : List Byte} {s : State} (h : Keeps sA s) :
    Keeps sA (asyncRecord n entry status res s) := by
  unfold asyncRecord
  repeat' (first
    | with_reducible assumption
    | with_reducible apply evqPost_keeps
    | with_reducible apply rasPost_keeps
    | split)

/-! ### Alloc -/

theorem chooseBase_keeps {n : Nat} {s : State} (h : Keeps sA s) :
    Keeps sA (chooseBase n s).2 := by
  unfold chooseBase
  repeat' (first
    | with_reducible assumption
    | with_reducible apply draw_keeps
    | split
    | (dsimp only))

theorem clearStack_keeps {n : Nat} : ∀ {c : Nat} {s : State}, Keeps sA s → Keeps sA (clearStack n c s) := by
  induction n with
  | zero =>
    intro c s h
    unfold clearStack
    repeat' (first
      | with_reducible assumption)
  | succ k ih =>
    intro c s h
    unfold clearStack
    repeat' (first
      | with_reducible assumption
      | with_reducible apply ih
      | with_reducible apply startEvict_keeps
      | split
      | (dsimp only))

theorem makeAlloc_keeps {al : Alloc} {s : State} (h : Keeps sA s) :
    Keeps sA (makeAlloc al s).2 := by
  unfold makeAlloc
  repeat' (first
    | with_reducible assumption
    | with_reducible apply chooseBase_keeps
    | with_reducible refine Keeps.ofPair (by assumption) ?_
    | fail_if_no_progress with_reducible refine Keeps.upd ?_ (by dsimp only)
    | split)

theorem sweepKeys_keeps {s : State} (h : Keeps sA s) :
    Keeps sA (sweepKeys s) := by
  unfold sweepKeys
  repeat' (first
    | with_reducible assumption
    | fail_if_no_progress with_reducible refine Keeps.upd ?_ (by dsimp only)
    | with_reducible apply Keeps.fold
    | intro _ _ _
    | split
    | (dsimp only))

theorem dropLines_keeps {off : Nat} {n : Nat} {s : State} (h : Keeps sA s) :
    Keeps sA (dropLines off n s) := by
  unfold dropLines
  repeat' (first
    | with_reducible assumption
    | with_reducible apply emit_keeps
    | with_reducible apply dropCopies_keeps
    | with_reducible apply Keeps.fold
    | intro _ _ _)

theorem scrubBlocks_keeps {bs : List Nat} {s : State} (h : Keeps sA s) : Keeps sA (scrubBlocks bs s) := by
  unfold scrubBlocks
  exact Keeps.updMem h (fun m => memWf_filter m)

theorem endParked_keeps {bs : List Nat} {off : Nat} {n : Nat} {st : Status} {s : State} (h : Keeps sA s) :
    Keeps sA (endParked bs off n st s) := by
  unfold endParked
  repeat' (first
    | with_reducible assumption
    | with_reducible apply deliver_keeps
    | with_reducible apply endFe_keeps
    | fail_if_no_progress with_reducible refine Keeps.upd ?_ (by dsimp only)
    | with_reducible apply Keeps.fold
    | intro _ _ _)

theorem freeAlloc_keeps {base : Nat} {s : State} (h : Keeps sA s) :
    Keeps sA (freeAlloc base s) := by
  unfold freeAlloc
  repeat' (first
    | with_reducible assumption
    | with_reducible apply endParked_keeps
    | with_reducible apply dropLines_keeps
    | with_reducible apply scrubBlocks_keeps
    | with_reducible apply frameFreed_keeps
    | with_reducible apply sweepKeys_keeps
    | fail_if_no_progress with_reducible refine Keeps.upd ?_ (by dsimp only)
    | split)

theorem allocBody_keeps {n : Nat} {c : Cmd} {s : State} (h : Keeps sA s) :
    Keeps sA (allocBody n c s) := by
  unfold allocBody
  repeat' (first
    | with_reducible assumption
    | with_reducible apply refuseOr_keeps
    | with_reducible apply makeAlloc_keeps
    | with_reducible apply complete_keeps
    | with_reducible apply clearStack_keeps
    | with_reducible refine Keeps.ofPair (by assumption) ?_
    | with_reducible apply Keeps.fold
    | intro _ _ _
    | intro _ _
    | split)

theorem execAlloc_keeps {mb : Nat} {s : State} (h : Keeps sA s) :
    ∀ z, execAlloc mb s = .next z → Keeps sA z := by
  intro z e
  unfold execAlloc at e
  injection e with e
  subst e
  repeat' (first
    | with_reducible assumption
    | with_reducible apply catalogue_keeps
    | with_reducible apply allocBody_keeps)

theorem freeBody_keeps {n : Nat} {c : Cmd} {s : State} (h : Keeps sA s) :
    Keeps sA (freeBody n c s) := by
  unfold freeBody
  repeat' (first
    | with_reducible assumption
    | with_reducible apply refuseOr_keeps
    | with_reducible apply complete_keeps
    | with_reducible apply freeAlloc_keeps
    | intro _ _)

theorem execFree_keeps {mb : Nat} {s : State} (h : Keeps sA s) :
    ∀ z, execFree mb s = .next z → Keeps sA z := by
  intro z e
  unfold execFree at e
  injection e with e
  subst e
  repeat' (first
    | with_reducible assumption
    | with_reducible apply catalogue_keeps
    | with_reducible apply freeBody_keeps)

theorem setPins_keeps {base : Nat} {bs : List Nat} {on : Bool} {s : State} (h : Keeps sA s) :
    Keeps sA (setPins base bs on s) := by
  unfold setPins
  repeat' (first
    | with_reducible assumption
    | with_reducible apply updBlock_keeps
    | with_reducible apply prepareBlock_keeps
    | fail_if_no_progress with_reducible refine Keeps.upd ?_ (by dsimp only)
    | with_reducible apply Keeps.fold
    | intro _ _ _
    | split
    | (dsimp only))

theorem pinBody_keeps {n : Nat} {on : Bool} {c : Cmd} {s : State} (h : Keeps sA s) :
    Keeps sA (pinBody n on c s) := by
  unfold pinBody
  repeat' (first
    | with_reducible assumption
    | with_reducible apply complete_keeps
    | with_reducible apply refuseOr_keeps
    | with_reducible apply setPins_keeps
    | intro _ _
    | split
    | (dsimp only))

theorem execPin_keeps {mb : Nat} {s : State} (h : Keeps sA s) :
    ∀ z, execPin mb s = .next z → Keeps sA z := by
  intro z e
  unfold execPin at e
  injection e with e
  subst e
  repeat' (first
    | with_reducible assumption
    | with_reducible apply catalogue_keeps
    | with_reducible apply pinBody_keeps
    | intro _ _ _
    | split)

theorem execUnpin_keeps {mb : Nat} {s : State} (h : Keeps sA s) :
    ∀ z, execUnpin mb s = .next z → Keeps sA z := by
  intro z e
  unfold execUnpin at e
  injection e with e
  subst e
  repeat' (first
    | with_reducible assumption
    | with_reducible apply catalogue_keeps
    | with_reducible apply pinBody_keeps
    | intro _ _ _
    | split)

theorem gsetBody_keeps {n : Nat} {c : Cmd} {s : State} (h : Keeps sA s) :
    Keeps sA (gsetBody n c s) := by
  unfold gsetBody
  repeat' (first
    | with_reducible assumption
    | with_reducible apply refuseOr_keeps
    | with_reducible apply completeGen_keeps
    | fail_if_no_progress with_reducible refine Keeps.upd ?_ (by dsimp only)
    | intro _ _)

theorem execGsetWrite_keeps {mb : Nat} {s : State} (h : Keeps sA s) :
    ∀ z, execGsetWrite mb s = .next z → Keeps sA z := by
  intro z e
  unfold execGsetWrite at e
  injection e with e
  subst e
  repeat' (first
    | with_reducible assumption
    | with_reducible apply catalogue_keeps
    | with_reducible apply gsetBody_keeps)

theorem protBody_keeps {n : Nat} {c : Cmd} {s : State} (h : Keeps sA s) :
    Keeps sA (protBody n c s) := by
  unfold protBody
  repeat' (first
    | with_reducible assumption
    | with_reducible apply complete_keeps
    | with_reducible apply refuseOr_keeps
    | fail_if_no_progress with_reducible refine Keeps.upd ?_ (by dsimp only)
    | intro _ _
    | split
    | (dsimp only))

theorem execProtSet_keeps {mb : Nat} {s : State} (h : Keeps sA s) :
    ∀ z, execProtSet mb s = .next z → Keeps sA z := by
  intro z e
  unfold execProtSet at e
  injection e with e
  subst e
  repeat' (first
    | with_reducible assumption
    | with_reducible apply catalogue_keeps
    | with_reducible apply protBody_keeps)

theorem extentBody_keeps {n : Nat} {pages : List Nat} {c : Cmd} {s : State} (h : Keeps sA s) :
    Keeps sA (extentBody n pages c s) := by
  unfold extentBody
  repeat' (first
    | with_reducible assumption
    | with_reducible apply refuseOr_keeps
    | with_reducible apply pickFree_keeps
    | with_reducible apply complete_keeps
    | with_reducible refine Keeps.ofPair (by assumption) ?_
    | fail_if_no_progress with_reducible refine Keeps.upd ?_ (by dsimp only)
    | intro _ _
    | split)

theorem execExtentCreate_keeps {mb : Nat} {pages : List Nat} {s : State} (h : Keeps sA s) :
    ∀ z, execExtentCreate mb pages s = .next z → Keeps sA z := by
  intro z e
  unfold execExtentCreate at e
  injection e with e
  subst e
  repeat' (first
    | with_reducible assumption
    | with_reducible apply catalogue_keeps
    | with_reducible apply extentBody_keeps)

theorem freeCopies_keeps {base : Nat} {s : State} (h : Keeps sA s) :
    Keeps sA (freeCopies base s) := by
  unfold freeCopies
  repeat' (first
    | with_reducible assumption
    | with_reducible apply frameFreed_keeps
    | with_reducible apply scrubBlocks_keeps
    | fail_if_no_progress with_reducible refine Keeps.upd ?_ (by dsimp only)
    | split)

theorem updRegion_keeps {base : Nat} {f : Region → Region} {s : State} (h : Keeps sA s) :
    Keeps sA (updRegion base f s) := by
  unfold updRegion
  repeat' (first
    | with_reducible assumption
    | fail_if_no_progress with_reducible refine Keeps.upd ?_ (by dsimp only))

theorem clearWindow_keeps {base : Nat} {w : Nat} {s : State} (h : Keeps sA s) :
    Keeps sA (clearWindow base w s) := by
  unfold clearWindow
  repeat' (first
    | with_reducible assumption
    | with_reducible apply freeCopies_keeps
    | with_reducible apply updRegion_keeps
    | with_reducible apply dropLines_keeps
    | split)

theorem reclaim_keeps {base : Nat} {s : State} (h : Keeps sA s) :
    Keeps sA (reclaim base s) := by
  unfold reclaim
  repeat' (first
    | with_reducible assumption
    | with_reducible apply clearWindow_keeps
    | with_reducible apply Keeps.fold
    | intro _ _ _
    | split)

theorem endRegion_keeps {base : Nat} {who : Nat → Bool} {works : Bool} {s : State} (h : Keeps sA s) :
    Keeps sA (endRegion base who works s) := by
  unfold endRegion
  repeat' (first
    | with_reducible assumption
    | with_reducible apply updRegion_keeps
    | with_reducible apply reclaim_keeps
    | with_reducible apply clearWindow_keeps
    | with_reducible apply Keeps.fold
    | intro _ _ _
    | split)

theorem revokeBody_keeps {n : Nat} {c : Cmd} {s : State} (h : Keeps sA s) :
    Keeps sA (revokeBody n c s) := by
  unfold revokeBody
  repeat' (first
    | with_reducible assumption
    | with_reducible apply refuseOr_keeps
    | with_reducible apply endRegion_keeps
    | fail_if_no_progress with_reducible refine Keeps.upd ?_ (by dsimp only)
    | with_reducible apply Keeps.fold
    | intro _ _ _
    | intro _ _
    | split
    | (dsimp only))

theorem execExtentRevoke_keeps {mb : Nat} {s : State} (h : Keeps sA s) :
    ∀ z, execExtentRevoke mb s = .next z → Keeps sA z := by
  intro z e
  unfold execExtentRevoke at e
  injection e with e
  subst e
  repeat' (first
    | with_reducible assumption
    | with_reducible apply catalogue_keeps
    | with_reducible apply revokeBody_keeps)

theorem endScope_keeps {slot : Nat} {s : State} (h : Keeps sA s) :
    Keeps sA (endScope slot s) := by
  unfold endScope
  repeat' (first
    | with_reducible assumption
    | with_reducible apply deliver_keeps
    | fail_if_no_progress with_reducible refine Keeps.upd ?_ (by dsimp only)
    | with_reducible apply Keeps.fold
    | intro _ _ _)

theorem retireSlot_keeps {k : Nat} {s : State} (h : Keeps sA s) :
    Keeps sA (retireSlot k s) := by
  unfold retireSlot
  repeat' (first
    | with_reducible assumption
    | fail_if_no_progress with_reducible refine Keeps.upd ?_ (by dsimp only))

theorem drainEnd_keeps {e : Nat} {s : State} (h : Keeps sA s) :
    Keeps sA (drainEnd e s) := by
  unfold drainEnd
  repeat' (first
    | with_reducible assumption
    | with_reducible apply endScope_keeps
    | with_reducible apply reachWall_keeps
    | with_reducible apply retireSlot_keeps
    | with_reducible apply complete_keeps
    | with_reducible apply sweepKeys_keeps
    | fail_if_no_progress with_reducible refine Keeps.upd ?_ (by dsimp only)
    | split)

theorem execRevocationDrainEnd_keeps {ext : Nat} {s : State} (h : Keeps sA s) :
    ∀ z, execRevocationDrainEnd ext s = .next z → Keeps sA z := by
  intro z e
  unfold execRevocationDrainEnd at e
  injection e with e
  subst e
  repeat' (first
    | with_reducible assumption
    | with_reducible apply drainEnd_keeps)

theorem destroyExtBody_keeps {n : Nat} {c : Cmd} {s : State} (h : Keeps sA s) :
    Keeps sA (destroyExtBody n c s) := by
  unfold destroyExtBody
  repeat' (first
    | with_reducible assumption
    | with_reducible apply refuseOr_keeps
    | with_reducible apply complete_keeps
    | fail_if_no_progress with_reducible refine Keeps.upd ?_ (by dsimp only)
    | intro _ _)

theorem execExtentDestroy_keeps {mb : Nat} {s : State} (h : Keeps sA s) :
    ∀ z, execExtentDestroy mb s = .next z → Keeps sA z := by
  intro z e
  unfold execExtentDestroy at e
  injection e with e
  subst e
  repeat' (first
    | with_reducible assumption
    | with_reducible apply catalogue_keeps
    | with_reducible apply destroyExtBody_keeps)

theorem execEvictReserveSet_keeps {mb : Nat} {s : State} (h : Keeps sA s) :
    ∀ z, execEvictReserveSet mb s = .next z → Keeps sA z := by
  intro z e
  unfold execEvictReserveSet at e
  injection e with e
  subst e
  repeat' (first
    | with_reducible assumption
    | with_reducible apply catalogue_keeps
    | with_reducible apply refuseOr_keeps
    | with_reducible apply completeGen_keeps
    | with_reducible apply updPart_keeps
    | intro _ _ _
    | intro _ _)

theorem execTierTimeoutsSet_keeps {mb : Nat} {s : State} (h : Keeps sA s) :
    ∀ z, execTierTimeoutsSet mb s = .next z → Keeps sA z := by
  intro z e
  unfold execTierTimeoutsSet at e
  injection e with e
  subst e
  repeat' (first
    | with_reducible assumption
    | with_reducible apply catalogue_keeps
    | with_reducible apply refuseOr_keeps
    | with_reducible apply completeGen_keeps
    | with_reducible apply ownMgmt_keeps
    | fail_if_no_progress with_reducible refine Keeps.upd ?_ (by dsimp only)
    | intro _ _ _
    | intro _ _
    | split)

theorem winBody_keeps {n : Nat} {c : Cmd} {s : State} (h : Keeps sA s) :
    Keeps sA (winBody n c s) := by
  unfold winBody
  repeat' (first
    | with_reducible assumption
    | with_reducible apply refuseOr_keeps
    | with_reducible apply complete_keeps
    | fail_if_no_progress with_reducible refine Keeps.upd ?_ (by dsimp only)
    | intro _ _)

theorem execWindowBind_keeps {mb : Nat} {s : State} (h : Keeps sA s) :
    ∀ z, execWindowBind mb s = .next z → Keeps sA z := by
  intro z e
  unfold execWindowBind at e
  injection e with e
  subst e
  repeat' (first
    | with_reducible assumption
    | with_reducible apply catalogue_keeps
    | with_reducible apply winBody_keeps
    | intro _ _ _
    | split)

theorem execWindowUnbind_keeps {mb : Nat} {s : State} (h : Keeps sA s) :
    ∀ z, execWindowUnbind mb s = .next z → Keeps sA z := by
  intro z e
  unfold execWindowUnbind at e
  injection e with e
  subst e
  repeat' (first
    | with_reducible assumption
    | with_reducible apply catalogue_keeps
    | with_reducible apply winBody_keeps
    | intro _ _ _
    | split)

theorem regionOpen_keeps {n : Nat} {c : Cmd} {s : State} (h : Keeps sA s) :
    Keeps sA (regionOpen n c s) := by
  unfold regionOpen
  repeat' (first
    | with_reducible assumption
    | with_reducible apply updRegion_keeps
    | with_reducible apply complete_keeps
    | split
    | (dsimp only))

theorem execRegionOpen_keeps {mb : Nat} {s : State} (h : Keeps sA s) :
    ∀ z, execRegionOpen mb s = .next z → Keeps sA z := by
  intro z e
  unfold execRegionOpen at e
  injection e with e
  subst e
  repeat' (first
    | with_reducible assumption
    | with_reducible apply catalogue_keeps
    | with_reducible apply regionOpen_keeps)

theorem regionClose_keeps {n : Nat} {c : Cmd} {s : State} (h : Keeps sA s) :
    Keeps sA (regionClose n c s) := by
  unfold regionClose
  repeat' (first
    | with_reducible assumption
    | with_reducible apply complete_keeps
    | with_reducible apply reclaim_keeps
    | with_reducible apply updRegion_keeps
    | split
    | (dsimp only))

theorem execRegionClose_keeps {mb : Nat} {s : State} (h : Keeps sA s) :
    ∀ z, execRegionClose mb s = .next z → Keeps sA z := by
  intro z e
  unfold execRegionClose at e
  injection e with e
  subst e
  repeat' (first
    | with_reducible assumption
    | with_reducible apply catalogue_keeps
    | with_reducible apply regionClose_keeps)

theorem regionBegin_keeps {n : Nat} {c : Cmd} {s : State} (h : Keeps sA s) :
    Keeps sA (regionBegin n c s) := by
  unfold regionBegin
  repeat' (first
    | with_reducible assumption
    | with_reducible apply complete_keeps
    | with_reducible apply updRegion_keeps
    | split
    | (dsimp only))

theorem execRegionBegin_keeps {mb : Nat} {s : State} (h : Keeps sA s) :
    ∀ z, execRegionBegin mb s = .next z → Keeps sA z := by
  intro z e
  unfold execRegionBegin at e
  injection e with e
  subst e
  repeat' (first
    | with_reducible assumption
    | with_reducible apply catalogue_keeps
    | with_reducible apply regionBegin_keeps)

theorem recallRange_keeps {off : Nat} {n : Nat} {s : State} (h : Keeps sA s) :
    Keeps sA (recallRange off n s) := by
  unfold recallRange
  repeat' (first
    | with_reducible assumption
    | with_reducible apply writeBack_keeps
    | fail_if_no_progress with_reducible refine Keeps.upd ?_ (by dsimp only)
    | with_reducible apply Keeps.fold
    | intro _ _ _)

theorem regionPublish_keeps {n : Nat} {c : Cmd} {s : State} (h : Keeps sA s) :
    Keeps sA (regionPublish n c s) := by
  unfold regionPublish
  repeat' (first
    | with_reducible assumption
    | with_reducible apply complete_keeps
    | with_reducible apply recallRange_keeps
    | with_reducible apply updRegion_keeps
    | with_reducible apply snoop_keeps
    | with_reducible apply dropLines_keeps
    | with_reducible apply freeCopies_keeps
    | with_reducible apply Keeps.fold
    | intro _ _ _
    | split
    | (dsimp only))

theorem execRegionPublish_keeps {mb : Nat} {s : State} (h : Keeps sA s) :
    ∀ z, execRegionPublish mb s = .next z → Keeps sA z := by
  intro z e
  unfold execRegionPublish at e
  injection e with e
  subst e
  repeat' (first
    | with_reducible assumption
    | with_reducible apply catalogue_keeps
    | with_reducible apply regionPublish_keeps)

theorem resumePublish_keeps {s : State} (h : Keeps sA s) :
    Keeps sA (resumePublish s) := by
  unfold resumePublish
  repeat' (first
    | with_reducible assumption
    | with_reducible apply regionPublish_keeps
    | with_reducible apply Keeps.fold
    | intro _ _ _
    | split
    | (dsimp only))

theorem regionAbort_keeps {n : Nat} {c : Cmd} {s : State} (h : Keeps sA s) :
    Keeps sA (regionAbort n c s) := by
  unfold regionAbort
  repeat' (first
    | with_reducible assumption
    | with_reducible apply complete_keeps
    | with_reducible apply clearWindow_keeps
    | split
    | (dsimp only))

theorem execRegionAbort_keeps {mb : Nat} {s : State} (h : Keeps sA s) :
    ∀ z, execRegionAbort mb s = .next z → Keeps sA z := by
  intro z e
  unfold execRegionAbort at e
  injection e with e
  subst e
  repeat' (first
    | with_reducible assumption
    | with_reducible apply catalogue_keeps
    | with_reducible apply regionAbort_keeps)

theorem execRegionCloseAll_keeps {mb : Nat} {s : State} (h : Keeps sA s) :
    ∀ z, execRegionCloseAll mb s = .next z → Keeps sA z := by
  intro z e
  unfold execRegionCloseAll at e
  injection e with e
  subst e
  repeat' (first
    | with_reducible assumption
    | with_reducible apply catalogue_keeps
    | with_reducible apply complete_keeps
    | with_reducible apply endRegion_keeps
    | intro _ _ _)

theorem execSnoopTimeout_keeps {line : Nat} {s : State} (h : Keeps sA s) :
    ∀ z, execSnoopTimeout line s = .next z → Keeps sA z := by
  intro z e
  unfold execSnoopTimeout at e
  injection e with e
  subst e
  repeat' (first
    | with_reducible assumption
    | with_reducible apply dp_keeps
    | with_reducible apply resumePublish_keeps
    | with_reducible apply timer_keeps
    | with_reducible apply agentLost_keeps
    | with_reducible apply Keeps.fold
    | intro _ _ _
    | intro _ _)

end Sys2Proof.Machine
end

