-- ==== Sys2Proof/Laws/KeepsDepot.lean ====
section
/-! SUPPORT. Each operation of the Depot, the Assay, attention and thread groups keeps memory's form, the clocks' order and the queue. -/

namespace Sys2Proof.Machine

open Sys2Proof

variable {sA : State}

/-! ### Depot -/

theorem updMem_keeps {p : Nat} {depot : Nat} {f : Member → Member} {s : State} (h : Keeps sA s) :
    Keeps sA (updMem p depot f s) := by
  unfold updMem
  repeat' (first
    | with_reducible assumption
    | fail_if_no_progress with_reducible refine Keeps.upd ?_ (by dsimp only))

theorem updLease_keeps {p : Nat} {depot : Nat} {key : Nat} {f : Lease → Lease} {s : State} (h : Keeps sA s) :
    Keeps sA (updLease p depot key f s) := by
  unfold updLease
  repeat' (first
    | with_reducible assumption
    | with_reducible apply updMem_keeps)

theorem takePage_keeps {k : Nat} {m : Member} {s : State} (h : Keeps sA s) :
    Keeps sA (takePage k m s).2 := by
  unfold takePage
  repeat' (first
    | with_reducible assumption
    | with_reducible apply pickFree_keeps
    | with_reducible refine Keeps.ofPair (by assumption) ?_
    | split
    | (dsimp only))

theorem acquireEvent_keeps {l : Lease} {st : Nat} {s : State} (h : Keeps sA s) :
    Keeps sA (acquireEvent l st s) := by
  unfold acquireEvent
  repeat' (first
    | with_reducible assumption
    | with_reducible apply asyncRecord_keeps
    | split)

theorem dropLease_keeps {p : Nat} {depot : Nat} {key : Nat} {st : Status} {s : State} (h : Keeps sA s) :
    Keeps sA (dropLease p depot key st s) := by
  unfold dropLease
  repeat' (first
    | with_reducible assumption
    | with_reducible apply acquireEvent_keeps
    | with_reducible apply updMem_keeps
    | split)

theorem becomeOwner_keeps {p : Nat} {depot : Nat} {key : Nat} {epoch : Nat} {s : State} (h : Keeps sA s) :
    Keeps sA (becomeOwner p depot key epoch s) := by
  unfold becomeOwner
  repeat' (first
    | with_reducible assumption
    | with_reducible apply updLease_keeps
    | with_reducible apply acquireEvent_keeps
    | split
    | (dsimp only))

theorem depCnt_keeps {m : Member} {key : Nat} {o : Nat} {s : State} (h : Keeps sA s) :
    Keeps sA (depCnt m key o s) := by
  unfold depCnt
  repeat' (first
    | with_reducible assumption
    | with_reducible apply cnt_keeps)

theorem tellDiscard_keeps {depot : Nat} {key : Nat} {dev : Nat} {p : Nat} {s : State} (h : Keeps sA s) :
    Keeps sA (tellDiscard depot key dev p s) := by
  unfold tellDiscard
  repeat' (first
    | with_reducible assumption
    | with_reducible apply dropLease_keeps
    | with_reducible apply emit_keeps
    | split)

theorem putHome_keeps {p : Nat} {depot : Nat} {key : Nat} {r : HomeRec} {s : State} (h : Keeps sA s) :
    Keeps sA (putHome p depot key r s) := by
  unfold putHome
  repeat' (first
    | with_reducible assumption
    | with_reducible apply updMem_keeps)

theorem homeDo_keeps {k : DepKind} {x : DepMsg} {s : State} (h : Keeps sA s) :
    Keeps sA (homeDo k x s).2 := by
  unfold homeDo
  repeat' (first
    | with_reducible assumption
    | with_reducible apply putHome_keeps
    | with_reducible apply tellDiscard_keeps
    | with_reducible apply depCnt_keeps
    | with_reducible apply updMem_keeps
    | split
    | (dsimp only))

theorem depComplete_keeps {p : Nat} {op : Nat} {key : Nat} {st : Nat} {res : List Byte} {s : State} (h : Keeps sA s) :
    Keeps sA (depComplete p op key st res s) := by
  unfold depComplete
  repeat' (first
    | with_reducible assumption
    | with_reducible apply complete_keeps
    | split)

theorem resolved_keeps {p : Nat} {key : Nat} {st : Option Status} {s : State} (h : Keeps sA s) :
    Keeps sA (resolved p key st s) := by
  unfold resolved
  repeat' (first
    | with_reducible assumption
    | with_reducible apply updOp_keeps
    | with_reducible apply endOp_keeps
    | with_reducible apply Keeps.fold
    | intro _ _ _
    | split)

theorem onAnswer_keeps {k : DepKind} {p : Nat} {depot : Nat} {key : Nat} {a : HomeAns} {s : State} (h : Keeps sA s) :
    Keeps sA (onAnswer k p depot key a s) := by
  unfold onAnswer
  repeat' (first
    | with_reducible assumption
    | with_reducible apply updLease_keeps
    | with_reducible apply dropLease_keeps
    | with_reducible apply depComplete_keeps
    | with_reducible apply updMem_keeps
    | with_reducible apply becomeOwner_keeps
    | with_reducible apply resolved_keeps
    | with_reducible apply emit_keeps
    | split
    | (dsimp only))

theorem sendAnswer_keeps {k : DepKind} {port : Option Nat} {x : DepMsg} {a : HomeAns} {s : State} (h : Keeps sA s) :
    Keeps sA (sendAnswer k port x a s) := by
  unfold sendAnswer
  repeat' (first
    | with_reducible assumption
    | with_reducible apply onAnswer_keeps
    | with_reducible apply emit_keeps
    | split)

theorem holdReq_keeps {k : DepKind} {port : Option Nat} {x : DepMsg} {m : Member} {s : State} (h : Keeps sA s) :
    Keeps sA (holdReq k port x m s) := by
  unfold holdReq
  repeat' (first
    | with_reducible assumption
    | with_reducible apply depCnt_keeps
    | with_reducible apply updMem_keeps)

theorem homeServe_keeps {k : DepKind} {port : Option Nat} {x : DepMsg} {s : State} (h : Keeps sA s) :
    Keeps sA (homeServe k port x s) := by
  unfold homeServe
  repeat' (first
    | with_reducible assumption
    | with_reducible apply evPort_keeps
    | with_reducible apply holdReq_keeps
    | with_reducible apply onAnswer_keeps
    | with_reducible apply emit_keeps
    | with_reducible apply homeDo_keeps
    | with_reducible apply sendAnswer_keeps
    | split
    | (dsimp only))

theorem askHome_keeps {k : DepKind} {p : Nat} {depot : Nat} {key : Nat} {epoch : Nat} {ans : Option HomeAns} {s : State} (h : Keeps sA s) :
    Keeps sA (askHome k p depot key epoch ans s) := by
  unfold askHome
  repeat' (first
    | with_reducible assumption
    | with_reducible apply homeServe_keeps
    | with_reducible apply onAnswer_keeps
    | with_reducible apply emit_keeps
    | split
    | (dsimp only))

theorem execHomeRequest_keeps {k : DepKind} {port : Nat} {x : DepMsg} {s : State} (h : Keeps sA s) :
    Keeps sA (execHomeRequest k port x s) := by
  unfold execHomeRequest
  repeat' (first
    | with_reducible assumption
    | with_reducible apply dp_keeps
    | with_reducible apply homeServe_keeps)

theorem renewalSend_keeps {p : Nat} {depot : Nat} {key : Nat} {s : State} (h : Keeps sA s) :
    Keeps sA (renewalSend p depot key s) := by
  unfold renewalSend
  repeat' (first
    | with_reducible assumption
    | with_reducible apply timer_keeps
    | with_reducible apply depCnt_keeps
    | with_reducible apply updLease_keeps
    | with_reducible apply askHome_keeps
    | intro _ _
    | split)

theorem execLeaseRenewalSend_keeps {part : Nat} {depot : Nat} {key : Nat} {s : State} (h : Keeps sA s) :
    ∀ z, execLeaseRenewalSend part depot key s = .next z → Keeps sA z := by
  intro z e
  unfold execLeaseRenewalSend at e
  injection e with e
  subst e
  repeat' (first
    | with_reducible assumption
    | with_reducible apply renewalSend_keeps)

theorem execLeaseRenewal_keeps {port : Nat} {m : DepMsg} {s : State} (h : Keeps sA s) :
    ∀ z, execLeaseRenewal port m s = .next z → Keeps sA z := by
  intro z e
  unfold execLeaseRenewal at e
  injection e with e
  subst e
  repeat' (first
    | with_reducible assumption
    | with_reducible apply execHomeRequest_keeps)

theorem execRenewalAnswer_keeps {part : Nat} {depot : Nat} {key : Nat} {ans : HomeAns} {s : State} (h : Keeps sA s) :
    ∀ z, execRenewalAnswer part depot key ans s = .next z → Keeps sA z := by
  intro z e
  unfold execRenewalAnswer at e
  injection e with e
  subst e
  repeat' (first
    | with_reducible assumption
    | with_reducible apply dp_keeps
    | with_reducible apply onAnswer_keeps)

theorem endKeyOps_keeps {p : Nat} {key : Nat} {s : State} (h : Keeps sA s) :
    Keeps sA (endKeyOps p key s) := by
  unfold endKeyOps
  repeat' (first
    | with_reducible assumption
    | with_reducible apply endOp_keeps
    | with_reducible apply Keeps.fold
    | intro _ _ _)

theorem leaseOver_keeps {p : Nat} {depot : Nat} {key : Nat} {s : State} (h : Keeps sA s) :
    Keeps sA (leaseOver p depot key s) := by
  unfold leaseOver
  repeat' (first
    | with_reducible assumption
    | with_reducible apply acquireEvent_keeps
    | with_reducible apply endKeyOps_keeps
    | with_reducible apply updMem_keeps
    | split)

theorem leaseEndAt_keeps {p : Nat} {depot : Nat} {key : Nat} {s : State} (h : Keeps sA s) :
    Keeps sA (leaseEndAt p depot key s) := by
  unfold leaseEndAt
  repeat' (first
    | with_reducible assumption
    | with_reducible apply timer_keeps
    | with_reducible apply leaseOver_keeps
    | split)

theorem execLeaseEnd_keeps {part : Nat} {depot : Nat} {key : Nat} {s : State} (h : Keeps sA s) :
    ∀ z, execLeaseEnd part depot key s = .next z → Keeps sA z := by
  intro z e
  unfold execLeaseEnd at e
  injection e with e
  subst e
  repeat' (first
    | with_reducible assumption
    | with_reducible apply leaseEndAt_keeps)

theorem homeExpiry_keeps {p : Nat} {depot : Nat} {key : Nat} {s : State} (h : Keeps sA s) :
    Keeps sA (homeExpiry p depot key s) := by
  unfold homeExpiry
  repeat' (first
    | with_reducible assumption
    | with_reducible apply timer_keeps
    | with_reducible apply depCnt_keeps
    | with_reducible apply putHome_keeps
    | intro _ _
    | split)

theorem execHomeExpiry_keeps {part : Nat} {depot : Nat} {key : Nat} {s : State} (h : Keeps sA s) :
    ∀ z, execHomeExpiry part depot key s = .next z → Keeps sA z := by
  intro z e
  unfold execHomeExpiry at e
  injection e with e
  subst e
  repeat' (first
    | with_reducible assumption
    | with_reducible apply homeExpiry_keeps)

theorem lostHold_keeps {p : Nat} {depot : Nat} {key : Nat} {s : State} (h : Keeps sA s) :
    Keeps sA (lostHold p depot key s) := by
  unfold lostHold
  repeat' (first
    | with_reducible assumption
    | with_reducible apply timer_keeps
    | with_reducible apply updMem_keeps
    | split)

theorem execLostHoldExpiry_keeps {part : Nat} {depot : Nat} {key : Nat} {s : State} (h : Keeps sA s) :
    ∀ z, execLostHoldExpiry part depot key s = .next z → Keeps sA z := by
  intro z e
  unfold execLostHoldExpiry at e
  injection e with e
  subst e
  repeat' (first
    | with_reducible assumption
    | with_reducible apply lostHold_keeps)

theorem landPage_keeps {x : DepParams} {k : Nat} {pg : PageCopy} {m : Member} {s : State} (h : Keeps sA s) :
    Keeps sA (landPage x k pg m s).2 := by
  unfold landPage
  repeat' (first
    | with_reducible assumption
    | with_reducible apply takePage_keeps
    | with_reducible apply devWrite_keeps
    | with_reducible refine Keeps.ofPair (by assumption) ?_
    | split)

theorem landLayer_keeps {x : DepParams} {pgs : List PageCopy} {m : Member} {s : State} (h : Keeps sA s) :
    Keeps sA (landLayer x pgs m s).2 := by
  unfold landLayer
  repeat' (first
    | with_reducible assumption
    | with_reducible apply landPage_keeps
    | with_reducible refine Keeps.ofPair (by assumption) ?_
    | with_reducible apply Keeps.foldSnd
    | intro _ _ _
    | split)

theorem landLayers_keeps {x : DepParams} {ls : List (Nat × List PageCopy)} {m : Member} {s : State} (h : Keeps sA s) :
    Keeps sA (landLayers x ls m s).2 := by
  unfold landLayers
  repeat' (first
    | with_reducible assumption
    | with_reducible apply landLayer_keeps
    | with_reducible refine Keeps.ofPair (by assumption) ?_
    | with_reducible apply Keeps.foldSnd
    | intro _ _ _
    | split)

theorem abandon_keeps {p : Nat} {depot : Nat} {key : Nat} {st : Status} {s : State} (h : Keeps sA s) :
    Keeps sA (abandon p depot key st s) := by
  unfold abandon
  repeat' (first
    | with_reducible assumption
    | with_reducible apply dropLease_keeps
    | with_reducible apply askHome_keeps
    | split)

theorem copyDone_keeps {p : Nat} {depot : Nat} {key : Nat} {okay : Bool} {layers : List (Nat × List PageCopy)} {s : State} (h : Keeps sA s) :
    Keeps sA (copyDone p depot key okay layers s) := by
  unfold copyDone
  repeat' (first
    | with_reducible assumption
    | with_reducible apply abandon_keeps
    | with_reducible apply landLayers_keeps
    | with_reducible apply updMem_keeps
    | with_reducible apply askHome_keeps
    | with_reducible refine Keeps.ofPair (by assumption) ?_
    | split
    | (dsimp only))

theorem execHandoffCopyDone_keeps {x : CopyEnd} {s : State} (h : Keeps sA s) :
    ∀ z, execHandoffCopyDone x s = .next z → Keeps sA z := by
  intro z e
  unfold execHandoffCopyDone at e
  injection e with e
  subst e
  repeat' (first
    | with_reducible assumption
    | with_reducible apply dp_keeps
    | with_reducible apply copyDone_keeps
    | with_reducible apply execHomeRequest_keeps
    | intro _ _
    | split)

theorem execHandoffCommit_keeps {port : Nat} {m : DepMsg} {s : State} (h : Keeps sA s) :
    ∀ z, execHandoffCommit port m s = .next z → Keeps sA z := by
  intro z e
  unfold execHandoffCommit at e
  injection e with e
  subst e
  repeat' (first
    | with_reducible assumption
    | with_reducible apply execHomeRequest_keeps)

theorem execCommitAck_keeps {part : Nat} {depot : Nat} {key : Nat} {ans : HomeAns} {s : State} (h : Keeps sA s) :
    ∀ z, execCommitAck part depot key ans s = .next z → Keeps sA z := by
  intro z e
  unfold execCommitAck at e
  injection e with e
  subst e
  repeat' (first
    | with_reducible assumption
    | with_reducible apply dp_keeps
    | with_reducible apply onAnswer_keeps)

theorem execSourceDiscard_keeps {part : Nat} {depot : Nat} {key : Nat} {s : State} (h : Keeps sA s) :
    ∀ z, execSourceDiscard part depot key s = .next z → Keeps sA z := by
  intro z e
  unfold execSourceDiscard at e
  injection e with e
  subst e
  repeat' (first
    | with_reducible assumption
    | with_reducible apply dp_keeps
    | with_reducible apply dropLease_keeps
    | intro _ _
    | split)

theorem resolve_keeps {p : Nat} {depot : Nat} {key : Nat} {s : State} (h : Keeps sA s) :
    Keeps sA (resolve p depot key s) := by
  unfold resolve
  repeat' (first
    | with_reducible assumption
    | with_reducible apply depCnt_keeps
    | with_reducible apply updMem_keeps
    | with_reducible apply askHome_keeps
    | with_reducible apply timer_keeps
    | intro _ _
    | split
    | (dsimp only))

theorem execResolve_keeps {part : Nat} {depot : Nat} {key : Nat} {s : State} (h : Keeps sA s) :
    ∀ z, execResolve part depot key s = .next z → Keeps sA z := by
  intro z e
  unfold execResolve at e
  injection e with e
  subst e
  repeat' (first
    | with_reducible assumption
    | with_reducible apply dp_keeps
    | with_reducible apply resolve_keeps)

theorem execResolveAnswer_keeps {part : Nat} {depot : Nat} {key : Nat} {ans : HomeAns} {s : State} (h : Keeps sA s) :
    ∀ z, execResolveAnswer part depot key ans s = .next z → Keeps sA z := by
  intro z e
  unfold execResolveAnswer at e
  injection e with e
  subst e
  repeat' (first
    | with_reducible assumption
    | with_reducible apply dp_keeps
    | with_reducible apply reach_keeps
    | with_reducible apply onAnswer_keeps
    | with_reducible apply updMem_keeps
    | intro _ _
    | split)

theorem sendSlot_keeps {p : Nat} {depot : Nat} {i : Nat} {dev : Nat} {dp' : Nat} {s : State} (h : Keeps sA s) :
    Keeps sA (sendSlot p depot i dev dp' s) := by
  unfold sendSlot
  repeat' (first
    | with_reducible assumption
    | with_reducible apply cnt_keeps
    | with_reducible apply emit_keeps
    | with_reducible apply Keeps.fold
    | intro _ _ _
    | split
    | (dsimp only))

theorem serveHeld_keeps {p : Nat} {depot : Nat} {s : State} (h : Keeps sA s) :
    Keeps sA (serveHeld p depot s) := by
  unfold serveHeld
  repeat' (first
    | with_reducible assumption
    | with_reducible apply updMem_keeps
    | with_reducible apply homeServe_keeps
    | with_reducible apply Keeps.fold
    | intro _ _ _
    | split)

theorem recordsReceived_keeps {p : Nat} {depot : Nat} {rs : List (Nat × HomeRec)} {s : State} (h : Keeps sA s) :
    Keeps sA (recordsReceived p depot rs s) := by
  unfold recordsReceived
  repeat' (first
    | with_reducible assumption
    | with_reducible apply putHome_keeps
    | with_reducible apply Keeps.fold
    | intro _ _ _
    | split)

theorem execHomeRecordsReceived_keeps {part : Nat} {depot : Nat} {rs : List (Nat × HomeRec)} {s : State} (h : Keeps sA s) :
    ∀ z, execHomeRecordsReceived part depot rs s = .next z → Keeps sA z := by
  intro z e
  unfold execHomeRecordsReceived at e
  injection e with e
  subst e
  repeat' (first
    | with_reducible assumption
    | with_reducible apply dp_keeps
    | with_reducible apply recordsReceived_keeps)

theorem slotOwned_keeps {p : Nat} {depot : Nat} {i : Nat} {s : State} (h : Keeps sA s) :
    Keeps sA (slotOwned p depot i s) := by
  unfold slotOwned
  repeat' (first
    | with_reducible assumption
    | with_reducible apply serveHeld_keeps
    | with_reducible apply updMem_keeps)

theorem execEndMarker_keeps {part : Nat} {depot : Nat} {slot : Nat} {s : State} (h : Keeps sA s) :
    ∀ z, execEndMarker part depot slot s = .next z → Keeps sA z := by
  intro z e
  unfold execEndMarker at e
  injection e with e
  subst e
  repeat' (first
    | with_reducible assumption
    | with_reducible apply dp_keeps
    | with_reducible apply slotOwned_keeps
    | intro _ _
    | split)

theorem slotSent_keeps {p : Nat} {depot : Nat} {i : Nat} {s : State} (h : Keeps sA s) :
    Keeps sA (slotSent p depot i s) := by
  unfold slotSent
  repeat' (first
    | with_reducible assumption
    | with_reducible apply serveHeld_keeps
    | with_reducible apply updMem_keeps)

theorem execRecordsAcknowledged_keeps {part : Nat} {depot : Nat} {slot : Nat} {s : State} (h : Keeps sA s) :
    ∀ z, execRecordsAcknowledged part depot slot s = .next z → Keeps sA z := by
  intro z e
  unfold execRecordsAcknowledged at e
  injection e with e
  subst e
  repeat' (first
    | with_reducible assumption
    | with_reducible apply dp_keeps
    | with_reducible apply slotSent_keeps
    | intro _ _
    | split)

theorem execHeldRequestTimeout_keeps {part : Nat} {depot : Nat} {i : Nat} {s : State} (h : Keeps sA s) :
    ∀ z, execHeldRequestTimeout part depot i s = .next z → Keeps sA z := by
  intro z e
  unfold execHeldRequestTimeout at e
  injection e with e
  subst e
  repeat' (first
    | with_reducible assumption
    | with_reducible apply timer_keeps
    | with_reducible apply sendAnswer_keeps
    | with_reducible apply updMem_keeps
    | intro _ _
    | split)

theorem depLinkLost_keeps {dev : Nat} {s : State} (h : Keeps sA s) :
    Keeps sA (depLinkLost dev s) := by
  unfold depLinkLost
  repeat' (first
    | with_reducible assumption
    | with_reducible apply slotSent_keeps
    | with_reducible apply slotOwned_keeps
    | with_reducible apply updMem_keeps
    | with_reducible apply Keeps.fold
    | intro _ _ _
    | split)

theorem mapSet_keeps {p : Nat} {depot : Nat} {gen : Nat} {map : List Nat} {s : State} (h : Keeps sA s) :
    Keeps sA (mapSet p depot gen map s) := by
  unfold mapSet
  repeat' (first
    | with_reducible assumption
    | with_reducible apply updMem_keeps
    | with_reducible apply sendSlot_keeps
    | with_reducible apply serveHeld_keeps
    | with_reducible apply Keeps.fold
    | intro _ _ _
    | split
    | (dsimp only))

theorem localMoves_keeps {p : Nat} {depot : Nat} {s : State} (h : Keeps sA s) :
    Keeps sA (localMoves p depot s) := by
  unfold localMoves
  repeat' (first
    | with_reducible assumption
    | with_reducible apply slotOwned_keeps
    | with_reducible apply recordsReceived_keeps
    | with_reducible apply slotSent_keeps
    | with_reducible apply Keeps.fold
    | intro _ _ _
    | split
    | (dsimp only))

theorem depCreate_keeps {n : Nat} {c : Cmd} {s : State} (h : Keeps sA s) :
    Keeps sA (depCreate n c s) := by
  unfold depCreate
  repeat' (first
    | with_reducible assumption
    | with_reducible apply refuseOr_keeps
    | with_reducible apply makeAlloc_keeps
    | with_reducible apply complete_keeps
    | with_reducible refine Keeps.ofPair (by assumption) ?_
    | fail_if_no_progress with_reducible refine Keeps.upd ?_ (by dsimp only)
    | intro _ _
    | split)

theorem execDepotCreate_keeps {mb : Nat} {s : State} (h : Keeps sA s) :
    ∀ z, execDepotCreate mb s = .next z → Keeps sA z := by
  intro z e
  unfold execDepotCreate at e
  injection e with e
  subst e
  repeat' (first
    | with_reducible assumption
    | with_reducible apply catalogue_keeps
    | with_reducible apply depCreate_keeps)

theorem depMapSet_keeps {n : Nat} {c : Cmd} {s : State} (h : Keeps sA s) :
    Keeps sA (depMapSet n c s) := by
  unfold depMapSet
  repeat' (first
    | with_reducible assumption
    | with_reducible apply refuseOr_keeps
    | with_reducible apply complete_keeps
    | with_reducible apply localMoves_keeps
    | with_reducible apply mapSet_keeps
    | intro _ _)

theorem execDepotMapSet_keeps {mb : Nat} {s : State} (h : Keeps sA s) :
    ∀ z, execDepotMapSet mb s = .next z → Keeps sA z := by
  intro z e
  unfold execDepotMapSet at e
  injection e with e
  subst e
  repeat' (first
    | with_reducible assumption
    | with_reducible apply catalogue_keeps
    | with_reducible apply depMapSet_keeps)

theorem depKeyCmd_keeps {op : Nat} {n : Nat} {body : Cmd → Member → State → State} {s : State} (h : Keeps sA s) (hbody : ∀ a0 a1 s, Keeps sA s → Keeps sA (body a0 a1 s)) :
    Keeps sA (depKeyCmd op n body s) := by
  unfold depKeyCmd
  repeat' (first
    | with_reducible assumption
    | with_reducible apply hbody
    | with_reducible apply catalogue_keeps
    | intro _ _ _
    | split)

theorem depOpen_keeps {n : Nat} {ans : HomeAns} {c : Cmd} {m : Member} {s : State} (h : Keeps sA s) :
    Keeps sA (depOpen n ans c m s) := by
  unfold depOpen
  repeat' (first
    | with_reducible assumption
    | with_reducible apply refuseOr_keeps
    | with_reducible apply askHome_keeps)

theorem execDepotOpen_keeps {x : DepSide} {s : State} (h : Keeps sA s) :
    ∀ z, execDepotOpen x s = .next z → Keeps sA z := by
  intro z e
  unfold execDepotOpen at e
  injection e with e
  subst e
  repeat' (first
    | with_reducible assumption
    | with_reducible apply depKeyCmd_keeps
    | with_reducible apply depOpen_keeps
    | with_reducible apply execHomeRequest_keeps
    | split)

theorem releaseGo_keeps {p : Nat} {depot : Nat} {key : Nat} {s : State} (h : Keeps sA s) :
    Keeps sA (releaseGo p depot key s) := by
  unfold releaseGo
  repeat' (first
    | with_reducible assumption
    | with_reducible apply askHome_keeps
    | split)

theorem depRelease_keeps {n : Nat} {ans : HomeAns} {c : Cmd} {m : Member} {s : State} (h : Keeps sA s) :
    Keeps sA (depRelease n ans c m s) := by
  unfold depRelease
  repeat' (first
    | with_reducible assumption
    | with_reducible apply releaseGo_keeps
    | with_reducible apply updLease_keeps
    | with_reducible apply complete_keeps
    | split
    | (dsimp only))

theorem execDepotRelease_keeps {x : DepSide} {s : State} (h : Keeps sA s) :
    ∀ z, execDepotRelease x s = .next z → Keeps sA z := by
  intro z e
  unfold execDepotRelease at e
  injection e with e
  subst e
  repeat' (first
    | with_reducible assumption
    | with_reducible apply depKeyCmd_keeps
    | with_reducible apply depRelease_keeps
    | with_reducible apply execHomeRequest_keeps
    | split)

theorem depAcquire_keeps {n : Nat} {ans : HomeAns} {c : Cmd} {m : Member} {s : State} (h : Keeps sA s) :
    Keeps sA (depAcquire n ans c m s) := by
  unfold depAcquire
  repeat' (first
    | with_reducible assumption
    | with_reducible apply refuseOr_keeps
    | with_reducible apply askHome_keeps)

theorem execDepotAcquire_keeps {x : DepSide} {s : State} (h : Keeps sA s) :
    ∀ z, execDepotAcquire x s = .next z → Keeps sA z := by
  intro z e
  unfold execDepotAcquire at e
  injection e with e
  subst e
  repeat' (first
    | with_reducible assumption
    | with_reducible apply depKeyCmd_keeps
    | with_reducible apply depAcquire_keeps
    | with_reducible apply execHomeRequest_keeps
    | split)

theorem depClose_keeps {n : Nat} {ans : HomeAns} {c : Cmd} {m : Member} {s : State} (h : Keeps sA s) :
    Keeps sA (depClose n ans c m s) := by
  unfold depClose
  repeat' (first
    | with_reducible assumption
    | with_reducible apply askHome_keeps
    | with_reducible apply complete_keeps
    | split
    | (dsimp only))

theorem execDepotClose_keeps {x : DepSide} {s : State} (h : Keeps sA s) :
    ∀ z, execDepotClose x s = .next z → Keeps sA z := by
  intro z e
  unfold execDepotClose at e
  injection e with e
  subst e
  repeat' (first
    | with_reducible assumption
    | with_reducible apply depKeyCmd_keeps
    | with_reducible apply depClose_keeps
    | with_reducible apply execHomeRequest_keeps
    | split)

theorem execDepotDestroy_keeps {mb : Nat} {s : State} (h : Keeps sA s) :
    ∀ z, execDepotDestroy mb s = .next z → Keeps sA z := by
  intro z e
  unfold execDepotDestroy at e
  injection e with e
  subst e
  repeat' (first
    | with_reducible assumption
    | with_reducible apply depKeyCmd_keeps
    | with_reducible apply refuseOr_keeps
    | with_reducible apply complete_keeps
    | with_reducible apply freeAlloc_keeps
    | fail_if_no_progress with_reducible refine Keeps.upd ?_ (by dsimp only)
    | intro _ _ _
    | intro _ _
    | intro _)

theorem execDepotGet_keeps {mb : Nat} {s : State} (h : Keeps sA s) :
    ∀ z, execDepotGet mb s = .next z → Keeps sA z := by
  intro z e
  unfold execDepotGet at e
  injection e with e
  subst e
  repeat' (first
    | with_reducible assumption
    | with_reducible apply depKeyCmd_keeps
    | with_reducible apply complete_keeps
    | intro _ _ _)

/-! ### Assay -/

theorem updIdx_keeps {p : Nat} {n : Nat} {f : Index → Index} {s : State} (h : Keeps sA s) :
    Keeps sA (updIdx p n f s) := by
  unfold updIdx
  repeat' (first
    | with_reducible assumption
    | fail_if_no_progress with_reducible refine Keeps.upd ?_ (by dsimp only))

theorem freeSlots_keeps {x : Index} {ss : List Nat} {s : State} (h : Keeps sA s) :
    Keeps sA (freeSlots x ss s) := by
  unfold freeSlots
  repeat' (first
    | with_reducible assumption
    | with_reducible apply cnt_keeps
    | with_reducible apply updIdx_keeps
    | with_reducible apply Keeps.fold
    | intro _ _ _)

theorem reclaimAll_keeps {s : State} (h : Keeps sA s) :
    Keeps sA (reclaimAll s) := by
  unfold reclaimAll
  repeat' (first
    | with_reducible assumption
    | with_reducible apply freeSlots_keeps
    | with_reducible apply Keeps.fold
    | intro _ _ _
    | split)

theorem scanRun_keeps {o : EngOp} {b : AsyB} {x : Index} {g : AsyObs} {s : State} (h : Keeps sA s) :
    Keeps sA (scanRun o b x g s).2 := by
  unfold scanRun
  repeat' (first
    | with_reducible assumption
    | with_reducible apply cnt_keeps)

theorem queueRepair_keeps {p : Nat} {n : Nat} {es : List (Nat × Nat)} {s : State} (h : Keeps sA s) :
    Keeps sA (queueRepair p n es s) := by
  unfold queueRepair
  repeat' (first
    | with_reducible assumption
    | with_reducible apply cnt_keeps
    | with_reducible apply updIdx_keeps
    | with_reducible apply Keeps.fold
    | intro _ _ _
    | split)

theorem walkRun_keeps {o : EngOp} {b : AsyB} {x : Index} {g : AsyObs} {s : State} (h : Keeps sA s) :
    Keeps sA (walkRun o b x g s).2 := by
  unfold walkRun
  repeat' (first
    | with_reducible assumption
    | with_reducible apply cnt_keeps
    | with_reducible apply queueRepair_keeps)

theorem rerankRun_keeps {o : EngOp} {b : AsyB} {x : Index} {g : AsyObs} {s : State} (h : Keeps sA s) :
    Keeps sA (rerankRun o b x g s).2 := by
  unfold rerankRun
  repeat' (first
    | with_reducible assumption
    | with_reducible apply cnt_keeps)

theorem asyStop_keeps {o : EngOp} {st : Status} {n : Nat} {s : State} (h : Keeps sA s) :
    Keeps sA (asyStop o st n s) := by
  unfold asyStop
  repeat' (first
    | with_reducible assumption
    | with_reducible apply reclaimAll_keeps
    | with_reducible apply endOp_keeps)

theorem asyFlush_keeps {o : EngOp} {b : AsyB} {x : Index} {s : State} (h : Keeps sA s) :
    Keeps sA (asyFlush o b x s) := by
  unfold asyFlush
  repeat' (first
    | with_reducible assumption
    | with_reducible apply flushCell_keeps
    | with_reducible apply Keeps.fold
    | intro _ _ _
    | split
    | (dsimp only))

theorem asyRun_keeps {o : EngOp} {b : AsyB} {x : Index} {g : AsyObs} {s : State} (h : Keeps sA s) :
    Keeps sA (asyRun o b x g s).2 := by
  unfold asyRun
  repeat' (first
    | with_reducible assumption
    | with_reducible apply scanRun_keeps
    | with_reducible apply walkRun_keeps
    | with_reducible apply rerankRun_keeps
    | split)

theorem asyAttempt_keeps {o : EngOp} {g : AsyObs} {s : State} (h : Keeps sA s) :
    Keeps sA (asyAttempt o g s) := by
  unfold asyAttempt
  repeat' (first
    | with_reducible assumption
    | with_reducible apply asyStop_keeps
    | with_reducible apply asyFlush_keeps
    | with_reducible apply bulkOp_keeps
    | with_reducible apply updOp_keeps
    | with_reducible apply asyRun_keeps
    | with_reducible refine takeShadows_keeps' ?_ (by assumption)
    | with_reducible refine Keeps.ofPair (by assumption) ?_
    | split
    | (dsimp only))

theorem asyGo_keeps {g : AsyObs} {o : EngOp} {s : State} (h : Keeps sA s) :
    Keeps sA (asyGo g o s) := by
  unfold asyGo
  repeat' (first
    | with_reducible assumption
    | with_reducible apply failOp_keeps
    | with_reducible apply asyAttempt_keeps
    | with_reducible apply updOp_keeps
    | split
    | (dsimp only))

theorem asyTake_keeps {unit : Nat} {mine : Nat → Bool} {g : AsyObs} {s : State} (h : Keeps sA s) :
    Keeps sA (asyTake unit mine g s) := by
  unfold asyTake
  repeat' (first
    | with_reducible assumption
    | with_reducible apply takeOp_keeps
    | with_reducible apply asyGo_keeps)

theorem execScan_keeps {unit : Nat} {g : AsyObs} {s : State} (h : Keeps sA s) :
    ∀ z, execScan unit g s = .next z → Keeps sA z := by
  intro z e
  unfold execScan at e
  injection e with e
  subst e
  repeat' (first
    | with_reducible assumption
    | with_reducible apply dp_keeps
    | with_reducible apply asyTake_keeps)

theorem execWalk_keeps {unit : Nat} {g : AsyObs} {s : State} (h : Keeps sA s) :
    ∀ z, execWalk unit g s = .next z → Keeps sA z := by
  intro z e
  unfold execWalk at e
  injection e with e
  subst e
  repeat' (first
    | with_reducible assumption
    | with_reducible apply dp_keeps
    | with_reducible apply asyTake_keeps)

theorem execRerank_keeps {unit : Nat} {g : AsyObs} {s : State} (h : Keeps sA s) :
    ∀ z, execRerank unit g s = .next z → Keeps sA z := by
  intro z e
  unfold execRerank at e
  injection e with e
  subst e
  repeat' (first
    | with_reducible assumption
    | with_reducible apply dp_keeps
    | with_reducible apply asyTake_keeps)

theorem asyComplete_keeps {o : EngOp} {lane : Lane} {sh : ShadowObs} {s : State} (h : Keeps sA s) :
    Keeps sA (asyComplete o lane sh s) := by
  unfold asyComplete
  repeat' (first
    | with_reducible assumption
    | with_reducible apply asyAttempt_keeps
    | with_reducible apply cnt_keeps
    | (with_reducible refine (checkFailure_keeps ?_).1)
    | (refine (checkFailure_keeps ?_).2 _ (by assumption))
    | with_reducible apply reclaimAll_keeps
    | with_reducible apply endOp_keeps
    | with_reducible apply updOp_keeps
    | with_reducible apply completeOp_keeps
    | split
    | (dsimp only))

theorem repairEdge_keeps {p : Nat} {n : Nat} {slot : Nat} {dead : Nat} {s : State} (h : Keeps sA s) :
    Keeps sA (repairEdge p n slot dead s) := by
  unfold repairEdge
  repeat' (first
    | with_reducible assumption
    | with_reducible apply cnt_keeps
    | with_reducible apply updIdx_keeps
    | split)

theorem repairWork_keeps {p : Nat} {n : Nat} {s : State} (h : Keeps sA s) :
    Keeps sA (repairWork p n s) := by
  unfold repairWork
  repeat' (first
    | with_reducible assumption
    | with_reducible apply repairEdge_keeps
    | with_reducible apply updIdx_keeps
    | split)

theorem execRepairQueueWork_keeps {part : Nat} {index : Nat} {s : State} (h : Keeps sA s) :
    ∀ z, execRepairQueueWork part index s = .next z → Keeps sA z := by
  intro z e
  unfold execRepairQueueWork at e
  injection e with e
  subst e
  repeat' (first
    | with_reducible assumption
    | with_reducible apply dp_keeps
    | with_reducible apply repairWork_keeps)

theorem sweepChannel_keeps {p : Nat} {n : Nat} {s : State} (h : Keeps sA s) :
    Keeps sA (sweepChannel p n s) := by
  unfold sweepChannel
  repeat' (first
    | with_reducible assumption
    | with_reducible apply updIdx_keeps
    | with_reducible apply repairEdge_keeps
    | with_reducible apply freeSlots_keeps
    | with_reducible apply Keeps.fold
    | intro _ _ _
    | split
    | (dsimp only))

theorem execSweep_keeps {part : Nat} {index : Nat} {s : State} (h : Keeps sA s) :
    ∀ z, execSweep part index s = .next z → Keeps sA z := by
  intro z e
  unfold execSweep at e
  injection e with e
  subst e
  repeat' (first
    | with_reducible assumption
    | with_reducible apply dp_keeps
    | with_reducible apply sweepChannel_keeps)

theorem placeParts_keeps {x : Index} {l : List (Nat × Bool)} : ∀ {s : State} {r : List Nat × State}, Keeps sA s →
    placeParts x l s = some r → Keeps sA r.2 := by
  induction l with
  | nil => intro s r h e; injection e with e; subst e; exact h
  | cons y t ih =>
    intro s r h e
    unfold placeParts at e
    split at e
    · rename_i b s1 hm
      obtain ⟨q, hq, rfl⟩ := Option.map_eq_some_iff.mp e
      exact ih (r := q) (Keeps.ofPair hm (makeAlloc_keeps h)) hq
    · cases e

theorem placeAll_keeps' {x : Index} {s : State} {r : List Nat × State} (h : Keeps sA s) (e : placeAll x s = some r) :
    Keeps sA r.2 := by
  unfold placeAll at e
  split at e
  · obtain ⟨q, hq, rfl⟩ := Option.map_eq_some_iff.mp e
    exact Keeps.fold (fun s c h => clearStack_keeps h) (placeParts_keeps h hq)
  · cases e

theorem indexCreate_keeps {n : Nat} {c : Cmd} {s : State} (h : Keeps sA s) :
    Keeps sA (indexCreate n c s) := by
  unfold indexCreate
  repeat' (first
    | with_reducible assumption
    | with_reducible exact placeAll_keeps' (by assumption) (by assumption)
    | with_reducible apply refuseOr_keeps
    | with_reducible apply complete_keeps
    | fail_if_no_progress with_reducible refine Keeps.upd ?_ (by dsimp only)
    | intro _ _
    | split)

theorem execIndexCreate_keeps {mb : Nat} {s : State} (h : Keeps sA s) :
    ∀ z, execIndexCreate mb s = .next z → Keeps sA z := by
  intro z e
  unfold execIndexCreate at e
  injection e with e
  subst e
  repeat' (first
    | with_reducible assumption
    | with_reducible apply catalogue_keeps
    | with_reducible apply indexCreate_keeps)

theorem idxCmd_keeps {op : Nat} {n : Nat} {body : Cmd → Index → State → State} {s : State} (h : Keeps sA s) (hbody : ∀ a0 a1 s, Keeps sA s → Keeps sA (body a0 a1 s)) :
    Keeps sA (idxCmd op n body s) := by
  unfold idxCmd
  repeat' (first
    | with_reducible assumption
    | with_reducible apply hbody
    | with_reducible apply catalogue_keeps
    | intro _ _ _
    | split)

theorem dropIndex_keeps {x : Index} {s : State} (h : Keeps sA s) :
    Keeps sA (dropIndex x s) := by
  unfold dropIndex
  repeat' (first
    | with_reducible assumption
    | with_reducible apply freeAlloc_keeps
    | fail_if_no_progress with_reducible refine Keeps.upd ?_ (by dsimp only)
    | with_reducible apply Keeps.fold
    | intro _ _ _)

theorem execIndexDestroy_keeps {mb : Nat} {s : State} (h : Keeps sA s) :
    ∀ z, execIndexDestroy mb s = .next z → Keeps sA z := by
  intro z e
  unfold execIndexDestroy at e
  injection e with e
  subst e
  repeat' (first
    | with_reducible assumption
    | with_reducible apply idxCmd_keeps
    | with_reducible apply refuseOr_keeps
    | with_reducible apply complete_keeps
    | with_reducible apply dropIndex_keeps
    | intro _ _ _
    | intro _ _
    | intro _)

theorem batchGo_keeps {f : Nat → State → Option Status × State} (hf : ∀ i s, Keeps sA s → Keeps sA (f i s).2) {l : List Nat} :
    ∀ {s : State}, Keeps sA s → Keeps sA (batchGo f l s).2 := by
  induction l with
  | nil => intro s h; exact h
  | cons i t ih =>
    intro s h
    unfold batchGo
    repeat' (first
      | with_reducible assumption
      | with_reducible apply ih
      | with_reducible apply hf
      | with_reducible refine Keeps.ofPair (by assumption) ?_
      | split)

theorem batchCmd_keeps {n : Nat} {count : Nat} {f : Nat → State → Option Status × State} {s : State} (h : Keeps sA s) (hf : ∀ a0 s, Keeps sA s → Keeps sA (f a0 s).2) :
    Keeps sA (batchCmd n count f s) := by
  unfold batchCmd
  repeat' (first
    | with_reducible assumption
    | with_reducible apply complete_keeps
    | with_reducible apply batchGo_keeps
    | with_reducible refine Keeps.ofPair (by assumption) ?_
    | split)

theorem insertOne_keeps {c : Cmd} {i : Nat} {s : State} (h : Keeps sA s) :
    Keeps sA (insertOne c i s).2 := by
  unfold insertOne
  repeat' (first
    | with_reducible assumption
    | with_reducible apply updIdx_keeps
    | with_reducible apply serve_keeps
    | split
    | (dsimp only))

theorem execIndexInsert_keeps {mb : Nat} {s : State} (h : Keeps sA s) :
    ∀ z, execIndexInsert mb s = .next z → Keeps sA z := by
  intro z e
  unfold execIndexInsert at e
  injection e with e
  subst e
  repeat' (first
    | with_reducible assumption
    | with_reducible apply idxCmd_keeps
    | with_reducible apply batchCmd_keeps
    | with_reducible apply insertOne_keeps
    | intro _ _ _
    | intro _)

theorem deleteOne_keeps {c : Cmd} {i : Nat} {s : State} (h : Keeps sA s) :
    Keeps sA (deleteOne c i s).2 := by
  unfold deleteOne
  repeat' (first
    | with_reducible assumption
    | with_reducible apply updIdx_keeps
    | split
    | (dsimp only))

theorem execIndexDelete_keeps {mb : Nat} {s : State} (h : Keeps sA s) :
    ∀ z, execIndexDelete mb s = .next z → Keeps sA z := by
  intro z e
  unfold execIndexDelete at e
  injection e with e
  subst e
  repeat' (first
    | with_reducible assumption
    | with_reducible apply idxCmd_keeps
    | with_reducible apply batchCmd_keeps
    | with_reducible apply deleteOne_keeps
    | intro _ _ _
    | intro _)

theorem linkOne_keeps {c : Cmd} {i : Nat} {s : State} (h : Keeps sA s) :
    Keeps sA (linkOne c i s).2 := by
  unfold linkOne
  repeat' (first
    | with_reducible assumption
    | with_reducible apply updIdx_keeps
    | split
    | (dsimp only))

theorem execIndexLink_keeps {mb : Nat} {s : State} (h : Keeps sA s) :
    ∀ z, execIndexLink mb s = .next z → Keeps sA z := by
  intro z e
  unfold execIndexLink at e
  injection e with e
  subst e
  repeat' (first
    | with_reducible assumption
    | with_reducible apply idxCmd_keeps
    | with_reducible apply batchCmd_keeps
    | with_reducible apply linkOne_keeps
    | intro _ _ _
    | intro _)

theorem execIndexPublish_keeps {mb : Nat} {s : State} (h : Keeps sA s) :
    ∀ z, execIndexPublish mb s = .next z → Keeps sA z := by
  intro z e
  unfold execIndexPublish at e
  injection e with e
  subst e
  repeat' (first
    | with_reducible assumption
    | with_reducible apply idxCmd_keeps
    | with_reducible apply refuseOr_keeps
    | with_reducible apply complete_keeps
    | with_reducible apply reclaimAll_keeps
    | with_reducible apply updIdx_keeps
    | intro _ _ _
    | intro _ _
    | intro _)

theorem execIndexHold_keeps {mb : Nat} {s : State} (h : Keeps sA s) :
    ∀ z, execIndexHold mb s = .next z → Keeps sA z := by
  intro z e
  unfold execIndexHold at e
  injection e with e
  subst e
  repeat' (first
    | with_reducible assumption
    | with_reducible apply idxCmd_keeps
    | with_reducible apply refuseOr_keeps
    | with_reducible apply complete_keeps
    | with_reducible apply updIdx_keeps
    | intro _ _ _
    | intro _ _
    | intro _)

theorem execIndexRelease_keeps {mb : Nat} {s : State} (h : Keeps sA s) :
    ∀ z, execIndexRelease mb s = .next z → Keeps sA z := by
  intro z e
  unfold execIndexRelease at e
  injection e with e
  subst e
  repeat' (first
    | with_reducible assumption
    | with_reducible apply idxCmd_keeps
    | with_reducible apply refuseOr_keeps
    | with_reducible apply complete_keeps
    | with_reducible apply reclaimAll_keeps
    | with_reducible apply updIdx_keeps
    | intro _ _ _
    | intro _ _
    | intro _)

theorem execIndexState_keeps {mb : Nat} {s : State} (h : Keeps sA s) :
    ∀ z, execIndexState mb s = .next z → Keeps sA z := by
  intro z e
  unfold execIndexState at e
  injection e with e
  subst e
  repeat' (first
    | with_reducible assumption
    | with_reducible apply idxCmd_keeps
    | with_reducible apply complete_keeps
    | intro _ _ _)

/-! ### Attend -/

theorem takePages_keeps {n : Nat} : ∀ {p : Nat} {es : List LadEnt} {m : Member} {s : State}, Keeps sA s → Keeps sA (takePages n p es m s).2 := by
  induction n with
  | zero =>
    intro p es m s h
    unfold takePages
    repeat' (first
      | with_reducible assumption)
  | succ k ih =>
    intro p es m s h
    unfold takePages
    repeat' (first
      | with_reducible assumption
      | with_reducible apply ih
      | with_reducible apply takePage_keeps
      | with_reducible refine Keeps.ofPair (by assumption) ?_
      | split
      | (dsimp only))

theorem poolWrite_keeps {off : Nat} {d : List Byte} {p : Bool} {s : State} (h : Keeps sA s) :
    Keeps sA (poolWrite off d p s) := by
  unfold poolWrite
  repeat' (first
    | with_reducible assumption
    | with_reducible apply serve_keeps
    | with_reducible apply Keeps.fold
    | intro _ _ _)

theorem writeTokens_keeps {b : AttB} {x : DepParams} {es : List LadEnt} {s0 : State} {s : State} (h : Keeps sA s) :
    Keeps sA (writeTokens b x es s0 s) := by
  unfold writeTokens
  repeat' (first
    | with_reducible assumption
    | with_reducible apply poolWrite_keeps
    | with_reducible apply Keeps.fold
    | intro _ _ _
    | split
    | (dsimp only))

theorem appendRun_keeps {o : EngOp} {b : AttB} {m : Member} {lane : Lane} {s : State} (h : Keeps sA s) :
    Keeps sA (appendRun o b m lane s).2 := by
  unfold appendRun
  repeat' (first
    | with_reducible assumption
    | with_reducible apply takePages_keeps
    | with_reducible apply bulkOp_keeps
    | with_reducible apply writeTokens_keeps
    | with_reducible apply updMem_keeps
    | with_reducible apply cnt_keeps
    | with_reducible refine Keeps.ofPair (by assumption) ?_
    | split
    | (dsimp only))

theorem attRun_keeps {o : EngOp} {b : AttB} {m : Member} {s : State} (h : Keeps sA s) :
    Keeps sA (attRun o b m s).2 := by
  unfold attRun
  repeat' (first
    | with_reducible assumption
    | with_reducible apply evMemory_keeps
    | with_reducible apply cnt_keeps
    | with_reducible apply Keeps.fold
    | intro _ _ _)

theorem noteAppend_keeps {o : EngOp} {st : Status} {s : State} (h : Keeps sA s) :
    Keeps sA (noteAppend o st s) := by
  unfold noteAppend
  repeat' (first
    | with_reducible assumption
    | fail_if_no_progress with_reducible refine Keeps.upd ?_ (by dsimp only)
    | split)

theorem sweepAppends_keeps {s : State} (h : Keeps sA s) :
    Keeps sA (sweepAppends s) := by
  unfold sweepAppends
  repeat' (first
    | with_reducible assumption
    | fail_if_no_progress with_reducible refine Keeps.upd ?_ (by dsimp only))

theorem attStop_keeps {o : EngOp} {st : Status} {s : State} (h : Keeps sA s) :
    Keeps sA (attStop o st s) := by
  unfold attStop
  repeat' (first
    | with_reducible assumption
    | with_reducible apply sweepAppends_keeps
    | with_reducible apply endOp_keeps)

theorem attRead_keeps {o : EngOp} {b : AttB} {m : Member} {s : State} (h : Keeps sA s) :
    Keeps sA (attRead o b m s) := by
  unfold attRead
  repeat' (first
    | with_reducible assumption
    | with_reducible apply bulkOp_keeps
    | with_reducible apply attStop_keeps
    | with_reducible apply updOp_keeps
    | with_reducible apply attRun_keeps
    | with_reducible refine takeShadows_keeps' ?_ (by assumption)
    | with_reducible refine Keeps.ofPair (by assumption) ?_
    | split
    | (dsimp only))

theorem attAttempt_keeps {o : EngOp} {lane : Lane} {s : State} (h : Keeps sA s) :
    Keeps sA (attAttempt o lane s) := by
  unfold attAttempt
  repeat' (first
    | with_reducible assumption
    | with_reducible apply attStop_keeps
    | with_reducible apply updOp_keeps
    | with_reducible apply noteAppend_keeps
    | with_reducible apply attRead_keeps
    | with_reducible apply appendRun_keeps
    | (with_reducible refine (checkFailure_keeps ?_).1)
    | with_reducible refine Keeps.ofPair (by assumption) ?_
    | split
    | (dsimp only))

theorem attGo_keeps {lane : Lane} {o : EngOp} {s : State} (h : Keeps sA s) :
    Keeps sA (attGo lane o s) := by
  unfold attGo
  repeat' (first
    | with_reducible assumption
    | with_reducible apply failOp_keeps
    | with_reducible apply attAttempt_keeps
    | split
    | (dsimp only))

theorem execAttend_keeps {unit : Nat} {lane : Lane} {s : State} (h : Keeps sA s) :
    ∀ z, execAttend unit lane s = .next z → Keeps sA z := by
  intro z e
  unfold execAttend at e
  injection e with e
  subst e
  repeat' (first
    | with_reducible assumption
    | with_reducible apply dp_keeps
    | with_reducible apply takeOp_keeps
    | with_reducible apply attGo_keeps
    | intro _ _)

/-! ### Groups -/

theorem groupSay_keeps {g : Group} {w : Way} {tally : Bool} {s : State} (h : Keeps sA s) :
    Keeps sA (groupSay g w tally s) := by
  unfold groupSay
  repeat' (first
    | with_reducible assumption
    | with_reducible apply wayWrite_keeps
    | with_reducible apply evEngine_keeps
    | with_reducible apply cnt_keeps
    | with_reducible apply completionTally_keeps
    | split
    | (dsimp only))

theorem groupFree_keeps {i : Nat} {s : State} (h : Keeps sA s) :
    Keeps sA (groupFree i s) := by
  unfold groupFree
  repeat' (first
    | with_reducible assumption
    | with_reducible apply entryEnded_keeps
    | with_reducible apply cnt_keeps
    | fail_if_no_progress with_reducible refine Keeps.upd ?_ (by dsimp only)
    | split)

theorem groupEnd_keeps {i : Nat} {s : State} (h : Keeps sA s) :
    Keeps sA (groupEnd i s) := by
  unfold groupEnd
  repeat' (first
    | with_reducible assumption
    | with_reducible apply flushCell_keeps
    | with_reducible apply groupFree_keeps
    | with_reducible apply groupSay_keeps
    | split)

theorem groupDrop_keeps {i : Nat} {s : State} (h : Keeps sA s) :
    Keeps sA (groupDrop i s) := by
  unfold groupDrop
  repeat' (first
    | with_reducible assumption
    | with_reducible apply withdraw_keeps
    | with_reducible apply groupFree_keeps
    | with_reducible apply groupSay_keeps
    | with_reducible apply Keeps.fold
    | intro _ _ _
    | split)

theorem groupAbort_keeps {i : Nat} {st : Status} {s : State} (h : Keeps sA s) :
    Keeps sA (groupAbort i st s) := by
  unfold groupAbort
  repeat' (first
    | with_reducible assumption
    | with_reducible apply withdraw_keeps
    | with_reducible apply groupFree_keeps
    | with_reducible apply groupSay_keeps
    | with_reducible apply Keeps.fold
    | intro _ _ _
    | split)

theorem groupsUnbound_keeps {core : Nat} {s : State} (h : Keeps sA s) :
    Keeps sA (groupsUnbound core s) := by
  unfold groupsUnbound
  repeat' (first
    | with_reducible assumption
    | with_reducible apply stopThread_keeps
    | with_reducible apply updGrp_keeps
    | with_reducible apply Keeps.fold
    | intro _ _ _)

theorem groupStart_keeps {core : Nat} {s : State} (h : Keeps sA s) :
    Keeps sA (groupStart core s) := by
  unfold groupStart
  repeat' (first
    | with_reducible assumption
    | with_reducible apply updGrp_keeps
    | fail_if_no_progress with_reducible refine Keeps.upd ?_ (by dsimp only)
    | split
    | (dsimp only))

theorem execGroupStart_keeps {core : Nat} {s : State} (h : Keeps sA s) :
    ∀ z, execGroupStart core s = .next z → Keeps sA z := by
  intro z e
  unfold execGroupStart at e
  injection e with e
  subst e
  repeat' (first
    | with_reducible assumption
    | with_reducible apply dp_keeps
    | with_reducible apply groupStart_keeps)

theorem launchOne_keeps {p : Nat} {off : Nat} {idx : Nat} {entry : Option Nat} {expect : Option (Nat × Nat)} {s : State} (h : Keeps sA s) :
    Keeps sA (launchOne p off idx entry expect s).2 := by
  unfold launchOne
  repeat' (first
    | with_reducible assumption
    | with_reducible apply evEngine_keeps
    | with_reducible apply groupSay_keeps
    | fail_if_no_progress with_reducible refine Keeps.upd ?_ (by dsimp only)
    | split
    | (dsimp only))

theorem launchMany_keeps {p : Nat} {off : Nat} {n : Nat} {entry : Option Nat} {s : State} (h : Keeps sA s) :
    Keeps sA (launchMany p off n entry s).2 := by
  unfold launchMany
  repeat' (first
    | with_reducible assumption
    | with_reducible apply launchOne_keeps
    | with_reducible apply Keeps.foldSnd
    | intro _ _ _
    | split
    | (dsimp only))

/-! ### Complete -/

theorem matComplete_keeps {o : EngOp} {lane : Lane} {sh : ShadowObs} {s : State} (h : Keeps sA s) :
    Keeps sA (matComplete o lane sh s) := by
  unfold matComplete
  repeat' (first
    | with_reducible assumption
    | with_reducible apply ffnAttempt_keeps
    | with_reducible apply attAttempt_keeps
    | with_reducible refine takeShadows_keeps' ?_ (by assumption)
    | with_reducible apply endOp_keeps
    | with_reducible apply updOp_keeps
    | with_reducible apply completeOp_keeps
    | with_reducible apply sweepAppends_keeps
    | with_reducible apply releaseGo_keeps
    | split
    | (dsimp only))

theorem operationComplete_keeps {k : UnitKind} {u : Nat} {lane : Lane} {sh : ShadowObs} {s : State} (h : Keeps sA s) :
    Keeps sA (operationComplete k u lane sh s) := by
  unfold operationComplete
  repeat' (first
    | with_reducible assumption
    | with_reducible apply matComplete_keeps
    | with_reducible apply porComplete_keeps
    | with_reducible apply asyComplete_keeps
    | split)

theorem execOperationComplete_keeps {kind : UnitKind} {unit : Nat} {lane : Lane} {shadow : ShadowObs} {s : State} (h : Keeps sA s) :
    ∀ z, execOperationComplete kind unit lane shadow s = .next z → Keeps sA z := by
  intro z e
  unfold execOperationComplete at e
  injection e with e
  subst e
  repeat' (first
    | with_reducible assumption
    | with_reducible apply dp_keeps
    | with_reducible apply operationComplete_keeps)

theorem opsSettled_keeps {o : EngOp} {s : State} (h : Keeps sA s) :
    Keeps sA (opsSettled o s) := by
  unfold opsSettled
  repeat' (first
    | with_reducible assumption
    | with_reducible apply reclaimAll_keeps
    | with_reducible apply sweepAppends_keeps
    | with_reducible apply releaseGo_keeps
    | split
    | (dsimp only))

theorem stopDrop_keeps {o : EngOp} {s : State} (h : Keeps sA s) :
    Keeps sA (stopDrop o s) := by
  unfold stopDrop
  repeat' (first
    | with_reducible assumption
    | with_reducible apply updOp_keeps
    | with_reducible apply stopMoves_keeps
    | with_reducible apply opsSettled_keeps
    | with_reducible apply dropOp_keeps
    | split)

theorem stopAbort_keeps {o : EngOp} {st : Status} {s : State} (h : Keeps sA s) :
    Keeps sA (stopAbort o st s) := by
  unfold stopAbort
  repeat' (first
    | with_reducible assumption
    | with_reducible apply updOp_keeps
    | with_reducible apply stopMoves_keeps
    | with_reducible apply opsSettled_keeps
    | with_reducible apply abortOp_keeps
    | split)

theorem rebindCore_keeps {l : Nat} {s : State} (h : Keeps sA s) :
    Keeps sA (rebindCore l s) := by
  unfold rebindCore
  repeat' (first
    | with_reducible assumption
    | with_reducible apply ledgerAdd_keeps
    | with_reducible apply evUnit_keeps
    | with_reducible apply groupsUnbound_keeps
    | with_reducible apply splitLogical_keeps
    | fail_if_no_progress with_reducible refine Keeps.upd ?_ (by dsimp only)
    | split
    | (dsimp only))

theorem unitRebind_keeps {k : UnitKind} {l : Nat} {s : State} (h : Keeps sA s) :
    Keeps sA (unitRebind k l s) := by
  unfold unitRebind
  repeat' (first
    | with_reducible assumption
    | with_reducible apply rebindCore_keeps
    | with_reducible apply rebindMatrix_keeps
    | fail_if_no_progress with_reducible refine Keeps.upd ?_ (by dsimp only)
    | split)

theorem execUnitRebind_keeps {kind : UnitKind} {logical : Nat} {s : State} (h : Keeps sA s) :
    ∀ z, execUnitRebind kind logical s = .next z → Keeps sA z := by
  intro z e
  unfold execUnitRebind at e
  injection e with e
  subst e
  repeat' (first
    | with_reducible assumption
    | with_reducible apply dp_keeps
    | with_reducible apply unitRebind_keeps)

theorem invQueue_keeps {i : Inv} {s : State} (h : Keeps sA s) :
    Keeps sA (invQueue i s) := by
  unfold invQueue
  repeat' (first
    | with_reducible assumption
    | with_reducible apply invBegin_keeps
    | with_reducible apply updXlt_keeps
    | split)

theorem invNext_keeps {s : State} (h : Keeps sA s) :
    Keeps sA (invNext s) := by
  unfold invNext
  repeat' (first
    | with_reducible assumption
    | with_reducible apply invBegin_keeps
    | with_reducible apply updXlt_keeps
    | split)

theorem invalidationComplete_keeps {s : State} (h : Keeps sA s) :
    Keeps sA (invalidationComplete s) := by
  unfold invalidationComplete
  repeat' (first
    | with_reducible assumption
    | with_reducible apply updXlt_keeps
    | with_reducible apply setLastGen_keeps
    | with_reducible apply invStatus_keeps
    | with_reducible apply complete_keeps
    | with_reducible apply invNext_keeps
    | split)

theorem execInvalidationComplete_keeps {s : State} (h : Keeps sA s) :
    ∀ z, execInvalidationComplete s = .next z → Keeps sA z := by
  intro z e
  unfold execInvalidationComplete at e
  injection e with e
  subst e
  repeat' (first
    | with_reducible assumption
    | with_reducible apply dp_keeps
    | with_reducible apply invalidationComplete_keeps)

end Sys2Proof.Machine
end

