-- ==== Sys2Proof/Laws/KeepsFabric.lean ====
section
/-! SUPPORT. Each operation of links, caravans, Serai and the Stage keeps memory's form, the clocks' order and the queue. -/

namespace Sys2Proof.Machine

open Sys2Proof

variable {sA : State}

/-! ### Link -/

theorem remoteEnd_keeps {u : Remote} {st : Status} {data : List Byte} {poison : Bool} {word : Option Nat} {s : State} (h : Keeps sA s) :
    Keeps sA (remoteEnd u st data poison word s) := by
  unfold remoteEnd
  repeat' (first
    | with_reducible assumption
    | with_reducible apply sendTag_keeps
    | with_reducible apply deliver_keeps
    | with_reducible apply threadSync_keeps
    | with_reducible apply faultReq_keeps
    | with_reducible apply updThr_keeps
    | with_reducible apply draw_keeps
    | with_reducible apply evEngine_keeps
    | split
    | (dsimp only))

theorem freeTag_keeps {p : Nat} {tag : Nat} {s : State} (h : Keeps sA s) :
    Keeps sA (freeTag p tag s) := by
  unfold freeTag
  repeat' (first
    | with_reducible assumption
    | with_reducible apply updPort_keeps
    | with_reducible apply sendTag_keeps
    | split
    | (dsimp only))

theorem answer_keeps {p : Nat} {tag : Nat} {st : Status} {data : List Byte} {poison : Bool} {word : Option Nat} {s : State} (h : Keeps sA s) :
    Keeps sA (answer p tag st data poison word s) := by
  unfold answer
  repeat' (first
    | with_reducible assumption
    | with_reducible apply remoteEnd_keeps
    | with_reducible apply freeTag_keeps
    | split)

theorem tagsLost_keeps {p : Nat} {s : State} (h : Keeps sA s) :
    Keeps sA (tagsLost p s) := by
  unfold tagsLost
  repeat' (first
    | with_reducible assumption
    | with_reducible apply remoteEnd_keeps
    | with_reducible apply updPort_keeps
    | with_reducible apply Keeps.fold
    | intro _ _ _)

theorem withdrawRemote_keeps {p : Nat} {s : State} (h : Keeps sA s) :
    Keeps sA (withdrawRemote p s) := by
  unfold withdrawRemote
  repeat' (first
    | with_reducible assumption
    | with_reducible apply feServe_keeps
    | fail_if_no_progress with_reducible refine Keeps.upd ?_ (by dsimp only)
    | with_reducible apply Keeps.fold
    | intro _ _ _)

theorem snoopAnswer_keeps {p : Nat} {line : Nat} {data : Option (List Byte)} {poison : Bool} {s : State} (h : Keeps sA s) :
    Keeps sA (snoopAnswer p line data poison s) := by
  unfold snoopAnswer
  repeat' (first
    | with_reducible assumption
    | with_reducible apply landLine_keeps
    | with_reducible apply resumePublish_keeps
    | with_reducible apply serveAll_keeps
    | fail_if_no_progress with_reducible refine Keeps.upd ?_ (by dsimp only)
    | split)

theorem demand_keeps {p : Nat} {line : Nat} {inv : Bool} {s : State} (h : Keeps sA s) :
    Keeps sA (demand p line inv s) := by
  unfold demand
  repeat' (first
    | with_reducible assumption
    | with_reducible apply snoop_keeps
    | split)

theorem rspFault_keeps {p : Nat} {tag : Nat} {ctx : Nat} {st : Status} {s : State} (h : Keeps sA s) :
    Keeps sA (rspFault p tag ctx st s) := by
  unfold rspFault
  repeat' (first
    | with_reducible assumption
    | with_reducible apply emit_keeps)

theorem linkReq_keeps {p : Nat} {tag : Nat} {ctx : Nat} {addr : Addr} {op : ReqOp} {data : List Byte} {mask : List Bool} {s : State} (h : Keeps sA s) :
    Keeps sA (linkReq p tag ctx addr op data mask s) := by
  unfold linkReq
  repeat' (first
    | with_reducible assumption
    | with_reducible apply admitReq_keeps)

theorem agentReq_keeps {p : Nat} {tag : Nat} {ctx : Nat} {addr : Addr} {op : ReqOp} {s : State} (h : Keeps sA s) :
    Keeps sA (agentReq p tag ctx addr op s) := by
  unfold agentReq
  repeat' (first
    | with_reducible assumption
    | with_reducible apply linkReq_keeps
    | with_reducible apply rspFault_keeps
    | split)

theorem agentGives_keeps {p : Nat} {tag : Nat} {ctx : Nat} {addr : Addr} {data : Option (List Byte)} {s : State} (h : Keeps sA s) :
    Keeps sA (agentGives p tag ctx addr data s) := by
  unfold agentGives
  repeat' (first
    | with_reducible assumption
    | with_reducible apply rspFault_keeps
    | with_reducible apply landLine_keeps
    | with_reducible apply emit_keeps
    | fail_if_no_progress with_reducible refine Keeps.upd ?_ (by dsimp only)
    | split)

theorem syncUpd_keeps {p : Nat} {tag : Nat} {ctx : Nat} {sa : BitVec 64} {opnd : BitVec 64} {sub : Bool} {s : State} (h : Keeps sA s) :
    Keeps sA (syncUpd p tag ctx sa opnd sub s) := by
  unfold syncUpd
  repeat' (first
    | with_reducible assumption
    | with_reducible apply rspFault_keeps
    | with_reducible apply tallyApply_keeps
    | with_reducible apply emit_keeps
    | split)

theorem syncRd_keeps {p : Nat} {tag : Nat} {ctx : Nat} {sa : BitVec 64} {s : State} (h : Keeps sA s) :
    Keeps sA (syncRd p tag ctx sa s) := by
  unfold syncRd
  repeat' (first
    | with_reducible assumption
    | with_reducible apply rspFault_keeps
    | with_reducible apply emit_keeps
    | split)

theorem syncWait_keeps {p : Nat} {tag : Nat} {ctx : Nat} {sa : BitVec 64} {opnd : BitVec 64} {timeout : Nat} {op : TallyOp} {s : State} (h : Keeps sA s) :
    Keeps sA (syncWait p tag ctx sa opnd timeout op s) := by
  unfold syncWait
  repeat' (first
    | with_reducible assumption
    | with_reducible apply rspFault_keeps
    | with_reducible apply waitStart_keeps
    | split)

theorem feOpMsg_keeps {p : Nat} {tag : Nat} {ctx : Nat} {sa : BitVec 64} {f : FeOp} {timeout : Nat} {data : List Byte} {s : State} (h : Keeps sA s) :
    Keeps sA (feOpMsg p tag ctx sa f timeout data s) := by
  unfold feOpMsg
  repeat' (first
    | with_reducible assumption
    | with_reducible apply rspFault_keeps
    | with_reducible apply linkReq_keeps
    | split
    | (dsimp only))

/-! ### Caravan -/

theorem updCar_keeps {id : Nat} {f : Caravan → Caravan} {s : State} (h : Keeps sA s) :
    Keeps sA (updCar id f s) := by
  unfold updCar
  repeat' (first
    | with_reducible assumption
    | fail_if_no_progress with_reducible refine Keeps.upd ?_ (by dsimp only))

theorem updLeg_keeps {id : Nat} {i : Nat} {f : Leg → Leg} {s : State} (h : Keeps sA s) :
    Keeps sA (updLeg id i f s) := by
  unfold updLeg
  repeat' (first
    | with_reducible assumption
    | with_reducible apply updCar_keeps)

theorem updStr_keeps {p : Nat} {id : Nat} {f : Stream → Stream} {s : State} (h : Keeps sA s) :
    Keeps sA (updStr p id f s) := by
  unfold updStr
  repeat' (first
    | with_reducible assumption
    | fail_if_no_progress with_reducible refine Keeps.upd ?_ (by dsimp only))

theorem delStr_keeps {p : Nat} {id : Nat} {s : State} (h : Keeps sA s) :
    Keeps sA (delStr p id s) := by
  unfold delStr
  repeat' (first
    | with_reducible assumption
    | fail_if_no_progress with_reducible refine Keeps.upd ?_ (by dsimp only))

theorem readPieces_keeps {ctx : Nat} {part : Nat} {ps : List (Nat × Nat)} {s : State} (h : Keeps sA s) :
    Keeps sA (readPieces ctx part ps s).2 := by
  unfold readPieces
  repeat' (first
    | with_reducible assumption
    | with_reducible apply bulk_keeps
    | with_reducible refine Keeps.ofPair (by assumption) ?_
    | with_reducible apply Keeps.foldSnd
    | intro _ _ _
    | split)

theorem landSpad_keeps {off : Nat} {d : List Byte} {m : List Bool} {p : Bool} {s : State} (h : Keeps sA s) :
    Keeps sA (landSpad off d m p s) := by
  unfold landSpad
  repeat' (first
    | with_reducible assumption
    | with_reducible apply spadWrite_keeps
    | with_reducible apply Keeps.fold
    | intro _ _ _
    | split)

theorem landStreamLine_keeps {p : Nat} {id : Nat} {l : Nat} {s : State} (h : Keeps sA s) :
    Keeps sA (landStreamLine p id l s) := by
  unfold landStreamLine
  repeat' (first
    | with_reducible assumption
    | with_reducible apply updStr_keeps
    | with_reducible apply streamLine_keeps
    | with_reducible apply landSpad_keeps
    | with_reducible apply bulkStore_keeps
    | with_reducible apply snoop_keeps
    | with_reducible apply recallRow_keeps
    | with_reducible apply landRow_keeps
    | with_reducible apply serve_keeps
    | with_reducible refine Keeps.ofPair (by assumption) ?_
    | split)

theorem decodeBlocks_keeps {p : Nat} {id : Nat} {lane : Lane} {s : State} (h : Keeps sA s) :
    Keeps sA (decodeBlocks p id lane s) := by
  unfold decodeBlocks
  repeat' (first
    | with_reducible assumption
    | with_reducible apply cnt_keeps
    | with_reducible apply updStr_keeps
    | with_reducible apply evqPost_keeps
    | with_reducible apply Keeps.fold
    | intro _ _ _
    | split
    | (dsimp only))

theorem landReady_keeps {p : Nat} {id : Nat} {s : State} (h : Keeps sA s) :
    Keeps sA (landReady p id s) := by
  unfold landReady
  repeat' (first
    | with_reducible assumption
    | with_reducible apply landStreamLine_keeps
    | with_reducible apply Keeps.fold
    | intro _ _ _
    | split)

theorem ackStream_keeps {p : Nat} {id : Nat} {s : State} (h : Keeps sA s) :
    Keeps sA (ackStream p id s) := by
  unfold ackStream
  repeat' (first
    | with_reducible assumption
    | with_reducible apply emit_keeps
    | split)

theorem noStream_keeps {p : Nat} {id : Nat} {ctx : Nat} {st : Status} {s : State} (h : Keeps sA s) :
    Keeps sA (noStream p id ctx st s) := by
  unfold noStream
  repeat' (first
    | with_reducible assumption
    | with_reducible apply emit_keeps)

theorem landOpen_keeps {p : Nat} {m : Msg} {s : State} (h : Keeps sA s) :
    Keeps sA (landOpen p m s) := by
  unfold landOpen
  repeat' (first
    | with_reducible assumption
    | with_reducible apply noStream_keeps
    | with_reducible apply delStr_keeps
    | with_reducible apply cnt_keeps
    | fail_if_no_progress with_reducible refine Keeps.upd ?_ (by dsimp only)
    | split
    | (dsimp only))

theorem landChunk_keeps {p : Nat} {id : Nat} {chunk : Nat} {d : List Byte} {lane : Lane} {s : State} (h : Keeps sA s) :
    Keeps sA (landChunk p id chunk d lane s) := by
  unfold landChunk
  repeat' (first
    | with_reducible assumption
    | with_reducible apply noStream_keeps
    | with_reducible apply updStr_keeps
    | with_reducible apply decodeBlocks_keeps
    | with_reducible apply landReady_keeps
    | with_reducible apply ackStream_keeps
    | with_reducible apply cnt_keeps
    | split)

theorem landClose_keeps {p : Nat} {m : Msg} {s : State} (h : Keeps sA s) :
    Keeps sA (landClose p m s) := by
  unfold landClose
  repeat' (first
    | with_reducible assumption
    | with_reducible apply noStream_keeps
    | with_reducible apply updStr_keeps
    | split)

theorem landPoison_keeps {p : Nat} {m : Msg} {s : State} (h : Keeps sA s) :
    Keeps sA (landPoison p m s) := by
  unfold landPoison
  repeat' (first
    | with_reducible assumption
    | with_reducible apply noStream_keeps
    | with_reducible apply setPoison_keeps
    | with_reducible apply updStr_keeps
    | with_reducible apply Keeps.fold
    | intro _ _ _
    | split)

theorem applyBeacon_keeps {ctx : Nat} {target : Nat} {opnd : Nat} {s : State} (h : Keeps sA s) :
    Keeps sA (applyBeacon ctx target opnd s).2 := by
  unfold applyBeacon
  repeat' (first
    | with_reducible assumption
    | with_reducible apply cnt_keeps
    | with_reducible apply tallyApply_keeps
    | with_reducible apply evMemory_keeps
    | with_reducible apply feServe_keeps
    | with_reducible apply evSync_keeps
    | split
    | (dsimp only))

theorem legWay_keeps {c : Caravan} {l : Leg} {s : State} (h : Keeps sA s) :
    Keeps sA (legWay c l s) := by
  unfold legWay
  repeat' (first
    | with_reducible assumption
    | with_reducible apply cnt_keeps
    | with_reducible apply wayWrite_keeps
    | with_reducible apply evEngine_keeps
    | with_reducible apply applyBeacon_keeps
    | split
    | (dsimp only))

theorem carEnd_keeps {c : Caravan} {s : State} (h : Keeps sA s) :
    Keeps sA (carEnd c s) := by
  unfold carEnd
  repeat' (first
    | with_reducible assumption
    | with_reducible apply entryEnded_keeps
    | with_reducible apply delOp_keeps
    | fail_if_no_progress with_reducible refine Keeps.upd ?_ (by dsimp only)
    | split)

theorem writeWays_keeps {n : Nat} : ∀ {i : Nat} {s : State}, Keeps sA s → Keeps sA (writeWays n i s) := by
  induction n with
  | zero =>
    intro i s h
    unfold writeWays
    repeat' (first
      | with_reducible assumption)
  | succ k ih =>
    intro i s h
    unfold writeWays
    repeat' (first
      | with_reducible assumption
      | with_reducible apply ih
      | with_reducible apply updLeg_keeps
      | with_reducible apply legWay_keeps
      | with_reducible apply carEnd_keeps
      | split)

theorem carSettle_keeps {id : Nat} {s : State} (h : Keeps sA s) :
    Keeps sA (carSettle id s) := by
  unfold carSettle
  repeat' (first
    | with_reducible assumption
    | with_reducible apply writeWays_keeps
    | split)

theorem legEnds_keeps {id : Nat} {i : Nat} {f : Leg → Leg} {s : State} (h : Keeps sA s) :
    Keeps sA (legEnds id i f s) := by
  unfold legEnds
  repeat' (first
    | with_reducible assumption
    | with_reducible apply updLeg_keeps
    | with_reducible apply updCar_keeps
    | with_reducible apply carSettle_keeps
    | split
    | (dsimp only))

theorem legFinal_keeps {id : Nat} {i : Nat} {landed : Nat} {faulted : Nat} {outDig : Nat} {residual : Nat} {bound : Nat} {st : Status} {s : State} (h : Keeps sA s) :
    Keeps sA (legFinal id i landed faulted outDig residual bound st s) := by
  unfold legFinal
  repeat' (first
    | with_reducible assumption
    | with_reducible apply legEnds_keeps
    | with_reducible apply unitFailure_keeps
    | with_reducible apply cnt_keeps
    | with_reducible apply updLeg_keeps
    | with_reducible apply emit_keeps
    | fail_if_no_progress with_reducible refine Keeps.upd ?_ (by dsimp only)
    | split
    | (dsimp only))

theorem legEvent_keeps {id : Nat} {i : Nat} {st : Status} {s : State} (h : Keeps sA s) :
    Keeps sA (legEvent id i st s) := by
  unfold legEvent
  repeat' (first
    | with_reducible assumption
    | with_reducible apply updCar_keeps
    | with_reducible apply updLeg_keeps)

theorem frbSend_keeps' {c : Caravan} {d src : List Byte} {bad : List Nat} {s : State} {r : List Byte × State} (h : Keeps sA s)
    (e : frbSend c d src bad s = some r) : Keeps sA r.2 := by
  unfold frbSend at e
  split at e
  · cases e
  · split at e
    · cases e
    · dsimp only at e
      injection e with e
      subst e
      dsimp only
      repeat' (first
        | with_reducible assumption
        | with_reducible apply cnt_keeps
        | with_reducible apply devWrite_keeps
        | with_reducible apply Keeps.foldSnd
        | intro _ _ _
        | split)

theorem frbSend_or {p : Prop} [Decidable p] {c : Caravan} {d src : List Byte} {bad : List Nat} {s : State}
    {r : List Byte × State} {w : List Byte} (h : Keeps sA s)
    (e : (if p then frbSend c d src bad s else some (w, s)) = some r) : Keeps sA r.2 := by
  split at e
  · exact frbSend_keeps' h e
  · have k := Option.some.inj e
    rw [← k]
    exact h

theorem frbSend_or' {p : Prop} [Decidable p] {c : Caravan} {d src : List Byte} {bad : List Nat} {s t : State}
    {b w : List Byte} (e : (if p then frbSend c d src bad s else some (w, s)) = some (b, t)) (h : Keeps sA s) : Keeps sA t :=
  frbSend_or (r := (b, t)) h e

theorem pushLeg_keeps {c : Caravan} {i : Nat} {l : Leg} {r : SrcRead} {s : State} (h : Keeps sA s) :
    Keeps sA (pushLeg c i l r s) := by
  unfold pushLeg
  repeat' (first
    | with_reducible assumption
    | with_reducible refine frbSend_or' (by assumption) ?_
    | with_reducible apply legEnds_keeps
    | with_reducible apply emit_keeps
    | with_reducible apply cnt_keeps
    | with_reducible apply updLeg_keeps
    | with_reducible apply updCar_keeps
    | fail_if_no_progress with_reducible refine Keeps.upd ?_ (by dsimp only)
    | with_reducible apply Keeps.fold
    | intro _ _ _
    | split
    | (dsimp only))

theorem localLeg_keeps {c : Caravan} {i : Nat} {l : Leg} {r : SrcRead} {s : State} (h : Keeps sA s) :
    Keeps sA (localLeg c i l r s) := by
  unfold localLeg
  repeat' (first
    | with_reducible assumption
    | with_reducible apply cnt_keeps
    | with_reducible apply emit_keeps
    | with_reducible apply landReady_keeps
    | with_reducible apply updLeg_keeps
    | with_reducible apply updCar_keeps
    | fail_if_no_progress with_reducible refine Keeps.upd ?_ (by dsimp only)
    | with_reducible apply Keeps.fold
    | intro _ _ _
    | split)

theorem pullLeg_keeps {c : Caravan} {i : Nat} {l : Leg} {s : State} (h : Keeps sA s) :
    Keeps sA (pullLeg c i l s) := by
  unfold pullLeg
  repeat' (first
    | with_reducible assumption
    | with_reducible apply emit_keeps
    | with_reducible apply updLeg_keeps
    | with_reducible apply updCar_keeps
    | fail_if_no_progress with_reducible refine Keeps.upd ?_ (by dsimp only)
    | split
    | (dsimp only))

theorem legFlush_keeps {c : Caravan} {d : List Byte} {s : State} (h : Keeps sA s) :
    Keeps sA (legFlush c d s) := by
  unfold legFlush
  repeat' (first
    | with_reducible assumption
    | with_reducible apply flushCell_keeps
    | with_reducible apply Keeps.fold
    | intro _ _ _
    | split
    | (dsimp only))

theorem sendLeg_keeps {id : Nat} {i : Nat} {host : Option (List Byte)} {s : State} (h : Keeps sA s) :
    Keeps sA (sendLeg id i host s) := by
  unfold sendLeg
  repeat' (first
    | with_reducible assumption
    | with_reducible apply legEnds_keeps
    | with_reducible apply pullLeg_keeps
    | with_reducible apply legFlush_keeps
    | with_reducible apply cnt_keeps
    | with_reducible apply readPieces_keeps
    | with_reducible apply pushLeg_keeps
    | with_reducible apply localLeg_keeps
    | split
    | (dsimp only))

theorem nextLeg_keeps {id : Nat} {host : Option (List Byte)} {s : State} (h : Keeps sA s) :
    Keeps sA (nextLeg id host s) := by
  unfold nextLeg
  repeat' (first
    | with_reducible assumption
    | with_reducible apply sendLeg_keeps
    | with_reducible apply carSettle_keeps
    | with_reducible apply updCar_keeps
    | with_reducible apply evEngine_keeps
    | with_reducible apply updLeg_keeps
    | with_reducible apply legEnds_keeps
    | split
    | (dsimp only))

theorem caravanStart_keeps {k : UnitKind} {u : Nat} {id : Nat} {host : Option (List Byte)} {s : State} (h : Keeps sA s) :
    Keeps sA (caravanStart k u id host s) := by
  unfold caravanStart
  repeat' (first
    | with_reducible assumption
    | with_reducible apply updOp_keeps
    | with_reducible apply nextLeg_keeps
    | fail_if_no_progress with_reducible refine Keeps.upd ?_ (by dsimp only)
    | split
    | (dsimp only))

theorem smearLines_keeps {p id : Nat} {x : Stream} {s : State} (h : Keeps sA s) : Keeps sA (smearLines p id x s) := by
  unfold smearLines
  generalize List.range 64 = l
  split
  · exact h
  · refine Keeps.fold (fun s b h => Keeps.fold (fun s i h => ?_) h) h
    split
    · exact Keeps.updMem h (fun m => memWf_putByte m)
    · exact h

theorem legClose_keeps {p : Nat} {id : Nat} {lane : Lane} {s : State} (h : Keeps sA s) :
    Keeps sA (legClose p id lane s) := by
  unfold legClose
  repeat' (first
    | with_reducible assumption
    | with_reducible apply landReady_keeps
    | with_reducible apply smearLines_keeps
    | with_reducible apply updStr_keeps
    | with_reducible apply updLeg_keeps
    | with_reducible apply legFinal_keeps
    | with_reducible apply emit_keeps
    | fail_if_no_progress with_reducible refine Keeps.upd ?_ (by dsimp only)
    | split
    | (dsimp only))

theorem beaconArrives_keeps {p : Nat} {m : Msg} {s : State} (h : Keeps sA s) :
    Keeps sA (beaconArrives p m s) := by
  unfold beaconArrives
  repeat' (first
    | with_reducible assumption
    | with_reducible apply noStream_keeps
    | with_reducible apply updStr_keeps
    | with_reducible apply cnt_keeps
    | split
    | (dsimp only))

theorem beaconDone_keeps {p : Nat} {id : Nat} {x : Stream} {st : Status} {s : State} (h : Keeps sA s) :
    Keeps sA (beaconDone p id x st s) := by
  unfold beaconDone
  repeat' (first
    | with_reducible assumption
    | with_reducible apply updStr_keeps
    | with_reducible apply carSettle_keeps
    | with_reducible apply updCar_keeps
    | with_reducible apply updLeg_keeps
    | with_reducible apply emit_keeps
    | split
    | (dsimp only))

theorem beaconRelease_keeps {p : Nat} {id : Nat} {s : State} (h : Keeps sA s) :
    Keeps sA (beaconRelease p id s) := by
  unfold beaconRelease
  repeat' (first
    | with_reducible assumption
    | with_reducible apply applyBeacon_keeps
    | with_reducible apply beaconDone_keeps
    | with_reducible apply cnt_keeps
    | split)

theorem beaconExpiry_keeps {p : Nat} {id : Nat} {s : State} (h : Keeps sA s) :
    Keeps sA (beaconExpiry p id s) := by
  unfold beaconExpiry
  repeat' (first
    | with_reducible assumption
    | with_reducible apply timer_keeps
    | with_reducible apply beaconDone_keeps
    | with_reducible apply cnt_keeps
    | intro _ _
    | split)

theorem ackArrives_keeps {p : Nat} {m : Msg} {s : State} (h : Keeps sA s) :
    Keeps sA (ackArrives p m s) := by
  unfold ackArrives
  repeat' (first
    | with_reducible assumption
    | with_reducible apply updLeg_keeps
    | with_reducible apply updCar_keeps
    | split)

theorem finalArrives_keeps {p : Nat} {m : Msg} {s : State} (h : Keeps sA s) :
    Keeps sA (finalArrives p m s) := by
  unfold finalArrives
  repeat' (first
    | with_reducible assumption
    | with_reducible apply updLeg_keeps
    | with_reducible apply legFinal_keeps
    | split)

theorem bcnResult_keeps {p : Nat} {m : Msg} {s : State} (h : Keeps sA s) :
    Keeps sA (bcnResult p m s) := by
  unfold bcnResult
  repeat' (first
    | with_reducible assumption
    | with_reducible apply carSettle_keeps
    | with_reducible apply updCar_keeps
    | with_reducible apply updLeg_keeps
    | split)

theorem abandonArrives_keeps {p : Nat} {m : Msg} {s : State} (h : Keeps sA s) :
    Keeps sA (abandonArrives p m s) := by
  unfold abandonArrives
  repeat' (first
    | with_reducible assumption
    | with_reducible apply noStream_keeps
    | with_reducible apply updStr_keeps
    | fail_if_no_progress with_reducible refine Keeps.upd ?_ (by dsimp only)
    | split)

theorem pullArrives_keeps {p : Nat} {m : Msg} {s : State} (h : Keeps sA s) :
    Keeps sA (pullArrives p m s) := by
  unfold pullArrives
  repeat' (first
    | with_reducible assumption
    | with_reducible apply emit_keeps
    | with_reducible apply readPieces_keeps
    | with_reducible apply cnt_keeps
    | with_reducible apply Keeps.fold
    | intro _ _ _
    | split
    | (dsimp only))

theorem legTimeout_keeps {id : Nat} {i : Nat} {s : State} (h : Keeps sA s) :
    Keeps sA (legTimeout id i s) := by
  unfold legTimeout
  repeat' (first
    | with_reducible assumption
    | with_reducible apply timer_keeps
    | with_reducible apply legEnds_keeps
    | with_reducible apply cnt_keeps
    | with_reducible apply legEvent_keeps
    | intro _ _
    | split
    | (dsimp only))

theorem streamIdle_keeps {p : Nat} {id : Nat} {s : State} (h : Keeps sA s) :
    Keeps sA (streamIdle p id s) := by
  unfold streamIdle
  repeat' (first
    | with_reducible assumption
    | with_reducible apply timer_keeps
    | with_reducible apply cnt_keeps
    | with_reducible apply delStr_keeps
    | fail_if_no_progress with_reducible refine Keeps.upd ?_ (by dsimp only)
    | intro _ _
    | split
    | (dsimp only))

theorem carEvent_keeps {id : Nat} {st : Status} {now : Bool} {s : State} (h : Keeps sA s) :
    Keeps sA (carEvent id st now s) := by
  unfold carEvent
  repeat' (first
    | with_reducible assumption
    | with_reducible apply legEnds_keeps
    | with_reducible apply legEvent_keeps
    | with_reducible apply updCar_keeps
    | with_reducible apply carSettle_keeps
    | with_reducible apply Keeps.fold
    | intro _ _ _
    | split
    | (dsimp only))

theorem streamsLost_keeps {p : Nat} {s : State} (h : Keeps sA s) :
    Keeps sA (streamsLost p s) := by
  unfold streamsLost
  repeat' (first
    | with_reducible assumption
    | with_reducible apply cnt_keeps
    | fail_if_no_progress with_reducible refine Keeps.upd ?_ (by dsimp only)
    | with_reducible apply Keeps.fold
    | intro _ _ _
    | split)

theorem carsLost_keeps {p : Nat} {st : Status} {now : Bool} {s : State} (h : Keeps sA s) :
    Keeps sA (carsLost p st now s) := by
  unfold carsLost
  repeat' (first
    | with_reducible assumption
    | with_reducible apply carEvent_keeps
    | with_reducible apply Keeps.fold
    | intro _ _ _)

theorem dropCaravan_keeps {o : EngOp} {s : State} (h : Keeps sA s) :
    Keeps sA (dropCaravan o s) := by
  unfold dropCaravan
  repeat' (first
    | with_reducible assumption
    | with_reducible apply delOp_keeps
    | with_reducible apply carSettle_keeps
    | with_reducible apply emit_keeps
    | with_reducible apply updStr_keeps
    | with_reducible apply carEvent_keeps
    | fail_if_no_progress with_reducible refine Keeps.upd ?_ (by dsimp only)
    | with_reducible apply Keeps.fold
    | intro _ _ _
    | split
    | (dsimp only))

theorem fenceDone_keeps {id : Nat} {s : State} (h : Keeps sA s) :
    Keeps sA (fenceDone id s) := by
  unfold fenceDone
  repeat' (first
    | with_reducible assumption
    | with_reducible apply legEnds_keeps
    | split)

/-! ### Serai -/

theorem batchEnd_keeps {p : Nat} {id : Nat} {ctx : Nat} {st : Status} {s : State} (h : Keeps sA s) :
    Keeps sA (batchEnd p id ctx st s) := by
  unfold batchEnd
  repeat' (first
    | with_reducible assumption
    | with_reducible apply emit_keeps)

theorem batchPerform_keeps {p : Nat} {m : Msg} {r : Nat × Nat × Nat × List Byte} {i : Nat} {s : State} (h : Keeps sA s) :
    Keeps sA (batchPerform p m r i s) := by
  unfold batchPerform
  repeat' (first
    | with_reducible assumption
    | with_reducible apply serve_keeps
    | split)

theorem batchArrives_keeps {p : Nat} {m : Msg} {s : State} (h : Keeps sA s) :
    Keeps sA (batchArrives p m s) := by
  unfold batchArrives
  repeat' (first
    | with_reducible assumption
    | with_reducible apply batchEnd_keeps
    | with_reducible apply batchPerform_keeps
    | fail_if_no_progress with_reducible refine Keeps.upd ?_ (by dsimp only)
    | with_reducible apply Keeps.fold
    | intro _ _ _
    | split
    | (dsimp only))

theorem batchFarDone_keeps {p : Nat} {id : Nat} {s : State} (h : Keeps sA s) :
    Keeps sA (batchFarDone p id s) := by
  unfold batchFarDone
  repeat' (first
    | with_reducible assumption
    | with_reducible apply emit_keeps
    | with_reducible apply batchEnd_keeps
    | fail_if_no_progress with_reducible refine Keeps.upd ?_ (by dsimp only)
    | with_reducible apply Keeps.fold
    | intro _ _ _
    | split)

theorem updSer_keeps {id : Nat} {f : SerBatch → SerBatch} {s : State} (h : Keeps sA s) :
    Keeps sA (updSer id f s) := by
  unfold updSer
  repeat' (first
    | with_reducible assumption
    | fail_if_no_progress with_reducible refine Keeps.upd ?_ (by dsimp only))

theorem serSend_keeps {id : Nat} {s : State} (h : Keeps sA s) :
    Keeps sA (serSend id s) := by
  unfold serSend
  repeat' (first
    | with_reducible assumption
    | with_reducible apply updSer_keeps
    | with_reducible apply emit_keeps
    | with_reducible apply cnt_keeps
    | fail_if_no_progress with_reducible refine Keeps.upd ?_ (by dsimp only)
    | with_reducible apply Keeps.fold
    | intro _ _ _
    | split)

theorem serAdd_keeps {p : Nat} {dev : Nat} {part : Nat} {ctx : Nat} {r : SerRec} {s : State} (h : Keeps sA s) :
    Keeps sA (serAdd p dev part ctx r s) := by
  unfold serAdd
  repeat' (first
    | with_reducible assumption
    | with_reducible apply updSer_keeps
    | with_reducible apply serSend_keeps
    | fail_if_no_progress with_reducible refine Keeps.upd ?_ (by dsimp only)
    | split
    | (dsimp only))

theorem serClose_keeps {t : Nat} {s : State} (h : Keeps sA s) :
    Keeps sA (serClose t s) := by
  unfold serClose
  repeat' (first
    | with_reducible assumption
    | with_reducible apply serSend_keeps
    | with_reducible apply Keeps.fold
    | intro _ _ _)

theorem serExpiry_keeps {id : Nat} {s : State} (h : Keeps sA s) :
    Keeps sA (serExpiry id s) := by
  unfold serExpiry
  repeat' (first
    | with_reducible assumption
    | with_reducible apply timer_keeps
    | with_reducible apply serSend_keeps
    | split)

theorem dropSer_keeps {id : Nat} {s : State} (h : Keeps sA s) :
    Keeps sA (dropSer id s) := by
  unfold dropSer
  repeat' (first
    | with_reducible assumption
    | fail_if_no_progress with_reducible refine Keeps.upd ?_ (by dsimp only))

theorem serEnd_keeps {id : Nat} {st : Status} {s : State} (h : Keeps sA s) :
    Keeps sA (serEnd id st s) := by
  unfold serEnd
  repeat' (first
    | with_reducible assumption
    | with_reducible apply dropSer_keeps
    | with_reducible apply remoteEnd_keeps
    | with_reducible apply Keeps.fold
    | intro _ _ _
    | split)

theorem serResults_keeps {k : Nat} : ∀ {l : List SerRec} {d : List Byte} {s : State}, Keeps sA s →
    Keeps sA (serResults k l d s).1 := by
  induction k with
  | zero => intro l d s h; exact h
  | succ k ih =>
    intro l d s h
    cases l with
    | nil => exact h
    | cons r t =>
      unfold serResults
      repeat' (first
        | with_reducible assumption
        | with_reducible apply ih
        | with_reducible apply remoteEnd_keeps
        | split)

theorem batchResult_keeps {p : Nat} {m : Msg} {s : State} (h : Keeps sA s) :
    Keeps sA (batchResult p m s) := by
  unfold batchResult
  repeat' (first
    | with_reducible assumption
    | with_reducible apply serResults_keeps
    | with_reducible apply updSer_keeps
    | split)

theorem batchDoneArrives_keeps {p : Nat} {id : Nat} {st : Status} {s : State} (h : Keeps sA s) :
    Keeps sA (batchDoneArrives p id st s) := by
  unfold batchDoneArrives
  repeat' (first
    | with_reducible assumption
    | with_reducible apply serEnd_keeps
    | split)

theorem batchTimeout_keeps {id : Nat} {s : State} (h : Keeps sA s) :
    Keeps sA (batchTimeout id s) := by
  unfold batchTimeout
  repeat' (first
    | with_reducible assumption
    | with_reducible apply timer_keeps
    | with_reducible apply serEnd_keeps
    | with_reducible apply cnt_keeps
    | intro _ _
    | split)

theorem serLost_keeps {p : Nat} {s : State} (h : Keeps sA s) :
    Keeps sA (serLost p s) := by
  unfold serLost
  repeat' (first
    | with_reducible assumption
    | with_reducible apply serEnd_keeps
    | with_reducible apply Keeps.fold
    | intro _ _ _)

/-! ### Stage -/

theorem updStg_keeps {f : Stage → Stage} {s : State} (h : Keeps sA s) :
    Keeps sA (updStg f s) := by
  unfold updStg
  repeat' (first
    | with_reducible assumption
    | fail_if_no_progress with_reducible refine Keeps.upd ?_ (by dsimp only))

theorem updItin_keeps {p : Nat} {f : ItinSt → ItinSt} {s : State} (h : Keeps sA s) :
    Keeps sA (updItin p f s) := by
  unfold updItin
  repeat' (first
    | with_reducible assumption
    | with_reducible apply updStg_keeps)

theorem entryIssue_keeps {p : Nat} {i : Nat} {e : Entry} {s : State} (h : Keeps sA s) :
    Keeps sA (entryIssue p i e s) := by
  unfold entryIssue
  repeat' (first
    | with_reducible assumption
    | with_reducible apply enqueue_keeps
    | with_reducible apply groupStart_keeps
    | with_reducible apply launchOne_keeps
    | with_reducible apply Keeps.fold
    | intro _ _ _
    | split)

theorem entryStart_keeps {p : Nat} {i : Nat} {s : State} (h : Keeps sA s) :
    Keeps sA (entryStart p i s) := by
  unfold entryStart
  repeat' (first
    | with_reducible assumption
    | with_reducible apply timer_keeps
    | with_reducible apply updItin_keeps
    | with_reducible apply entryEnded_keeps
    | with_reducible apply entryIssue_keeps
    | intro _ _
    | split)

theorem execEntryStart_keeps {part : Nat} {entry : Nat} {s : State} (h : Keeps sA s) :
    ∀ z, execEntryStart part entry s = .next z → Keeps sA z := by
  intro z e
  unfold execEntryStart at e
  injection e with e
  subst e
  repeat' (first
    | with_reducible assumption
    | with_reducible apply dp_keeps
    | with_reducible apply entryStart_keeps)

theorem dropWork_keeps {o : EngOp} {s : State} (h : Keeps sA s) :
    Keeps sA (dropWork o s) := by
  unfold dropWork
  repeat' (first
    | with_reducible assumption
    | with_reducible apply dropCaravan_keeps
    | with_reducible apply stopDrop_keeps
    | split)

theorem entryDrop_keeps {p : Nat} {i : Nat} {e : Entry} {s : State} (h : Keeps sA s) :
    Keeps sA (entryDrop p i e s) := by
  unfold entryDrop
  repeat' (first
    | with_reducible assumption
    | with_reducible apply enqueue_keeps
    | with_reducible apply dropWork_keeps
    | with_reducible apply groupDrop_keeps
    | with_reducible apply updOp_keeps
    | with_reducible apply updItin_keeps
    | fail_if_no_progress with_reducible refine Keeps.upd ?_ (by dsimp only)
    | with_reducible apply Keeps.fold
    | intro _ _ _
    | split)

theorem entryDeadline_keeps {p : Nat} {i : Nat} {s : State} (h : Keeps sA s) :
    Keeps sA (entryDeadline p i s) := by
  unfold entryDeadline
  repeat' (first
    | with_reducible assumption
    | with_reducible apply timer_keeps
    | with_reducible apply entryDrop_keeps
    | split
    | (dsimp only))

theorem execEntryDeadline_keeps {part : Nat} {entry : Nat} {s : State} (h : Keeps sA s) :
    ∀ z, execEntryDeadline part entry s = .next z → Keeps sA z := by
  intro z e
  unfold execEntryDeadline at e
  injection e with e
  subst e
  repeat' (first
    | with_reducible assumption
    | with_reducible apply dp_keeps
    | with_reducible apply entryDeadline_keeps)

theorem periodDrop_keeps {p : Nat} {s : State} (h : Keeps sA s) :
    Keeps sA (periodDrop p s) := by
  unfold periodDrop
  repeat' (first
    | with_reducible assumption
    | with_reducible apply entryDrop_keeps
    | with_reducible apply Keeps.fold
    | intro _ _ _
    | split
    | (dsimp only))

theorem periodBegin_keeps {p : Nat} {s : State} (h : Keeps sA s) :
    Keeps sA (periodBegin p s) := by
  unfold periodBegin
  repeat' (first
    | with_reducible assumption
    | with_reducible apply updItin_keeps
    | with_reducible apply entryDrop_keeps
    | with_reducible apply Keeps.fold
    | intro _ _ _
    | split)

theorem periodLost_keeps {flags : Nat} {stage : Nat} {p : Nat} {s : State} (h : Keeps sA s) :
    Keeps sA (periodLost flags stage p s) := by
  unfold periodLost
  repeat' (first
    | with_reducible assumption
    | with_reducible apply periodDrop_keeps
    | with_reducible apply updItin_keeps
    | split)

theorem ageBlocks_keeps {s : State} (h : Keeps sA s) :
    Keeps sA (ageBlocks s) := by
  unfold ageBlocks
  repeat' (first
    | with_reducible assumption
    | fail_if_no_progress with_reducible refine Keeps.upd ?_ (by dsimp only))

theorem ptmStamp_keeps {s : State} (h : Keeps sA s) :
    Keeps sA (ptmStamp s) := by
  unfold ptmStamp
  repeat' (first
    | with_reducible assumption
    | with_reducible apply updStg_keeps
    | split)

theorem boundary_keeps {date : Nat} {fly : Bool} {s : State} (h : Keeps sA s) :
    Keeps sA (boundary date fly s) := by
  unfold boundary
  repeat' (first
    | with_reducible assumption
    | with_reducible apply updStg_keeps
    | with_reducible apply ptmStamp_keeps
    | with_reducible apply periodDrop_keeps
    | with_reducible apply updItin_keeps
    | with_reducible apply realignAll_keeps
    | with_reducible apply ageBlocks_keeps
    | with_reducible apply periodBegin_keeps
    | with_reducible apply Keeps.fold
    | intro _ _ _
    | split)

theorem stageOut_keeps {s : State} (h : Keeps sA s) :
    Keeps sA (stageOut s) := by
  unfold stageOut
  repeat' (first
    | with_reducible assumption
    | with_reducible apply put_keeps)

theorem stageLost_keeps {s : State} (h : Keeps sA s) :
    Keeps sA (stageLost s) := by
  unfold stageLost
  repeat' (first
    | with_reducible assumption
    | with_reducible apply updStg_keeps
    | with_reducible apply cnt_keeps
    | with_reducible apply evqPost_keeps
    | with_reducible apply msi_keeps
    | with_reducible apply rasPost_keeps
    | with_reducible apply periodLost_keeps
    | with_reducible apply Keeps.fold
    | intro _ _ _)

theorem windowClose_keeps {s : State} (h : Keeps sA s) :
    Keeps sA (windowClose s) := by
  unfold windowClose
  repeat' (first
    | with_reducible assumption
    | with_reducible apply timer_keeps
    | with_reducible apply stageLost_keeps
    | with_reducible apply cnt_keeps
    | with_reducible apply updStg_keeps
    | with_reducible apply stageOut_keeps
    | with_reducible apply boundary_keeps
    | intro _ _
    | split)

theorem execWindowClose_keeps {s : State} (h : Keeps sA s) :
    ∀ z, execWindowClose s = .next z → Keeps sA z := by
  intro z e
  unfold execWindowClose at e
  injection e with e
  subst e
  repeat' (first
    | with_reducible assumption
    | with_reducible apply dp_keeps
    | with_reducible apply windowClose_keeps)

theorem catchUp_keeps {n : Nat} : ∀ {e : Nat} {s : State}, Keeps sA s → Keeps sA (catchUp n e s) := by
  induction n with
  | zero =>
    intro e s h
    unfold catchUp
    repeat' (first
      | with_reducible assumption)
  | succ k ih =>
    intro e s h
    unfold catchUp
    repeat' (first
      | with_reducible assumption
      | with_reducible apply ih
      | with_reducible apply windowClose_keeps
      | split)

theorem pulseTaken_keeps {edge : Nat} {s : State} (h : Keeps sA s) :
    Keeps sA (pulseTaken edge s) := by
  unfold pulseTaken
  repeat' (first
    | with_reducible assumption
    | with_reducible apply cnt_keeps
    | with_reducible apply updStg_keeps
    | with_reducible apply boundary_keeps
    | with_reducible apply stageOut_keeps
    | split)

theorem pulseRejected_keeps {i : Nat} {s : State} (h : Keeps sA s) :
    Keeps sA (pulseRejected i s) := by
  unfold pulseRejected
  repeat' (first
    | with_reducible assumption
    | with_reducible apply cnt_keeps
    | with_reducible apply updStg_keeps)

theorem pulseAcquire_keeps {edge : Nat} {s : State} (h : Keeps sA s) :
    Keeps sA (pulseAcquire edge s) := by
  unfold pulseAcquire
  repeat' (first
    | with_reducible assumption
    | with_reducible apply updStg_keeps
    | with_reducible apply msi_keeps
    | with_reducible apply pulseTaken_keeps
    | with_reducible apply pulseRejected_keeps
    | split
    | (dsimp only))

theorem pulseRun_keeps {edge : Nat} {s : State} (h : Keeps sA s) :
    Keeps sA (pulseRun edge s) := by
  unfold pulseRun
  repeat' (first
    | with_reducible assumption
    | with_reducible apply updStg_keeps
    | with_reducible apply pulseTaken_keeps
    | with_reducible apply pulseRejected_keeps
    | split
    | (dsimp only))

theorem pulse_keeps {edge : Nat} {width : Nat} {s : State} (h : Keeps sA s) :
    Keeps sA (pulse edge width s) := by
  unfold pulse
  repeat' (first
    | with_reducible assumption
    | with_reducible apply cnt_keeps
    | with_reducible apply catchUp_keeps
    | with_reducible apply pulseAcquire_keeps
    | with_reducible apply reach_keeps
    | with_reducible apply pulseRun_keeps
    | split
    | (dsimp only))

theorem execPulse_keeps {edge : Nat} {width : Nat} {s : State} (h : Keeps sA s) :
    ∀ z, execPulse edge width s = .next z → Keeps sA z := by
  intro z e
  unfold execPulse at e
  injection e with e
  subst e
  repeat' (first
    | with_reducible assumption
    | with_reducible apply dp_keeps
    | with_reducible apply pulse_keeps)

theorem periodReport_keeps {p : Nat} {s : State} (h : Keeps sA s) :
    Keeps sA (periodReport p s) := by
  unfold periodReport
  repeat' (first
    | with_reducible assumption
    | with_reducible apply evqLost_keeps
    | with_reducible apply updItin_keeps
    | with_reducible apply evqPost_keeps
    | with_reducible apply evqDrop_keeps
    | with_reducible apply Keeps.fold
    | intro _ _ _
    | split
    | (dsimp only))

theorem execPeriodReport_keeps {part : Nat} {s : State} (h : Keeps sA s) :
    ∀ z, execPeriodReport part s = .next z → Keeps sA z := by
  intro z e
  unfold execPeriodReport at e
  injection e with e
  subst e
  repeat' (first
    | with_reducible assumption
    | with_reducible apply dp_keeps
    | with_reducible apply periodReport_keeps)

theorem ptmRefresh_keeps {master : BitVec 64} {s : State} (h : Keeps sA s) :
    Keeps sA (ptmRefresh master s) := by
  unfold ptmRefresh
  repeat' (first
    | with_reducible assumption
    | with_reducible apply updStg_keeps
    | split)

theorem execPtmRefresh_keeps {master : BitVec 64} {s : State} (h : Keeps sA s) :
    ∀ z, execPtmRefresh master s = .next z → Keeps sA z := by
  intro z e
  unfold execPtmRefresh at e
  injection e with e
  subst e
  repeat' (first
    | with_reducible assumption
    | with_reducible apply dp_keeps
    | with_reducible apply ptmRefresh_keeps)

theorem execPtmContextExpiry_keeps {s : State} (h : Keeps sA s) :
    ∀ z, execPtmContextExpiry s = .next z → Keeps sA z := by
  intro z e
  unfold execPtmContextExpiry at e
  injection e with e
  subst e
  repeat' (first
    | with_reducible assumption
    | with_reducible apply timer_keeps
    | with_reducible apply updStg_keeps
    | split)

theorem stgApply_keeps {c : StgCfg} {s : State} (h : Keeps sA s) :
    Keeps sA (stgApply c s) := by
  unfold stgApply
  repeat' (first
    | with_reducible assumption
    | with_reducible apply periodLost_keeps
    | with_reducible apply updStg_keeps
    | with_reducible apply Keeps.fold
    | intro _ _ _
    | split
    | (dsimp only))

theorem stgCommit_keeps {gen : BitVec 32} {s : State} (h : Keeps sA s) :
    Keeps sA (stgCommit gen s) := by
  unfold stgCommit
  repeat' (first
    | with_reducible assumption
    | with_reducible apply updStg_keeps
    | with_reducible apply stgApply_keeps
    | split)

theorem execStgCommit_keeps {gen : BitVec 32} {s : State} (h : Keeps sA s) :
    ∀ z, execStgCommit gen s = .next z → Keeps sA z := by
  intro z e
  unfold execStgCommit at e
  injection e with e
  subst e
  repeat' (first
    | with_reducible assumption
    | with_reducible apply barWrite_keeps
    | with_reducible apply stgCommit_keeps)

theorem execStgCommitErrClear_keeps {s : State} (h : Keeps sA s) :
    ∀ z, execStgCommitErrClear s = .next z → Keeps sA z := by
  intro z e
  unfold execStgCommitErrClear at e
  injection e with e
  subst e
  repeat' (first
    | with_reducible assumption
    | with_reducible apply barWrite_keeps
    | with_reducible apply updStg_keeps)

end Sys2Proof.Machine
end

