-- ==== Sys2Proof/Laws/KeepsDrover.lean ====
section
/-! SUPPORT. Each operation of the Drover cores keeps memory's form, the clocks' order and the queue. -/

namespace Sys2Proof.Machine

open Sys2Proof

variable {sA : State}

/-! ### Operands -/

theorem insn_keeps {t : Nat} {w : BitVec 32} {mine : Bool} {uses : List RegId} {o : Ord} {body : Thread → State → State} {s : State} (h : Keeps sA s) (hbody : ∀ a0 s, Keeps sA s → Keeps sA (body a0 s)) :
    Keeps sA (insn t w mine uses o body s) := by
  unfold insn
  repeat' (first
    | with_reducible assumption
    | with_reducible apply hbody
    | with_reducible apply faultThread_keeps
    | with_reducible apply updThr_keeps
    | with_reducible apply serClose_keeps
    | with_reducible apply cnt_keeps
    | split)

theorem nextPc_keeps {t : Nat} {s : State} (h : Keeps sA s) :
    Keeps sA (nextPc t s) := by
  unfold nextPc
  repeat' (first
    | with_reducible assumption
    | with_reducible apply updThr_keeps)

theorem result_keeps {t : Nat} {rd : RegId} {v : Nat} {p : Bool} {s : State} (h : Keeps sA s) :
    Keeps sA (result t rd v p s) := by
  unfold result
  repeat' (first
    | with_reducible assumption
    | with_reducible apply nextPc_keeps
    | with_reducible apply updThr_keeps)

theorem insnFault_keeps {t : Nat} {st : Status} {sa : Nat} {s : State} (h : Keeps sA s) :
    Keeps sA (insnFault t st sa s) := by
  unfold insnFault
  repeat' (first
    | with_reducible assumption
    | with_reducible apply faultThread_keeps)

theorem issued_keeps {t : Nat} {id : Nat} {pend : List RegId} {s : State} (h : Keeps sA s) :
    Keeps sA (issued t id pend s) := by
  unfold issued
  repeat' (first
    | with_reducible assumption
    | with_reducible apply updThr_keeps)

theorem issueLocal_keeps {t : Nat} {pend : List RegId} {r : Req} {s : State} (h : Keeps sA s) :
    Keeps sA (issueLocal t pend r s) := by
  unfold issueLocal
  repeat' (first
    | with_reducible assumption
    | with_reducible apply launchReq_keeps
    | with_reducible apply issued_keeps)

theorem issueRemote_keeps {t : Nat} {port : Nat} {stages : Nat} {pend : List RegId} {r : Req} {sa : Nat} {s : State} (h : Keeps sA s) :
    Keeps sA (issueRemote t port stages pend r sa s) := by
  unfold issueRemote
  repeat' (first
    | with_reducible assumption
    | with_reducible apply issued_keeps
    | with_reducible apply serAdd_keeps
    | with_reducible apply cnt_keeps
    | with_reducible apply sendTag_keeps
    | fail_if_no_progress with_reducible refine Keeps.upd ?_ (by dsimp only)
    | split
    | (dsimp only))

theorem issueSingle_keeps {t : Nat} {port : Nat} {rd : RegId} {u : Remote} {id : Nat} {m : Msg} {s : State} (h : Keeps sA s) :
    Keeps sA (issueSingle t port rd u id m s) := by
  unfold issueSingle
  repeat' (first
    | with_reducible assumption
    | with_reducible apply issued_keeps
    | with_reducible apply serClose_keeps
    | with_reducible apply updThr_keeps
    | with_reducible apply sendTag_keeps
    | with_reducible apply cnt_keeps)

/-! ### Drover -/

theorem integerOp_keeps {t : Nat} {w : BitVec 32} {s : State} (h : Keeps sA s) :
    Keeps sA (integerOp t w s) := by
  unfold integerOp
  repeat' (first
    | with_reducible assumption
    | with_reducible apply insn_keeps
    | with_reducible apply draw_keeps
    | with_reducible apply result_keeps
    | intro _ _ _
    | split)

theorem execIntegerOp_keeps {t : Nat} {w : BitVec 32} {s : State} (h : Keeps sA s) :
    ∀ z, execIntegerOp t w s = .next z → Keeps sA z := by
  intro z e
  unfold execIntegerOp at e
  injection e with e
  subst e
  repeat' (first
    | with_reducible assumption
    | with_reducible apply dp_keeps
    | with_reducible apply integerOp_keeps)

theorem movk_keeps {t : Nat} {w : BitVec 32} {s : State} (h : Keeps sA s) :
    Keeps sA (movk t w s) := by
  unfold movk
  repeat' (first
    | with_reducible assumption
    | with_reducible apply insn_keeps
    | with_reducible apply result_keeps
    | intro _ _ _)

theorem execMovk_keeps {t : Nat} {w : BitVec 32} {s : State} (h : Keeps sA s) :
    ∀ z, execMovk t w s = .next z → Keeps sA z := by
  intro z e
  unfold execMovk at e
  injection e with e
  subst e
  repeat' (first
    | with_reducible assumption
    | with_reducible apply dp_keeps
    | with_reducible apply movk_keeps)

theorem mfts_keeps {t : Nat} {w : BitVec 32} {s : State} (h : Keeps sA s) :
    Keeps sA (mfts t w s) := by
  unfold mfts
  repeat' (first
    | with_reducible assumption
    | with_reducible apply insn_keeps
    | with_reducible apply result_keeps
    | intro _ _ _)

theorem execMfts_keeps {t : Nat} {w : BitVec 32} {s : State} (h : Keeps sA s) :
    ∀ z, execMfts t w s = .next z → Keeps sA z := by
  intro z e
  unfold execMfts at e
  injection e with e
  subst e
  repeat' (first
    | with_reducible assumption
    | with_reducible apply dp_keeps
    | with_reducible apply mfts_keeps)

theorem execYield_keeps {t : Nat} {w : BitVec 32} {s : State} (h : Keeps sA s) :
    ∀ z, execYield t w s = .next z → Keeps sA z := by
  intro z e
  unfold execYield at e
  injection e with e
  subst e
  repeat' (first
    | with_reducible assumption
    | with_reducible apply dp_keeps
    | with_reducible apply insn_keeps
    | with_reducible apply nextPc_keeps
    | intro _ _ _
    | intro _ _)

theorem halt_keeps {t : Nat} {w : BitVec 32} {s : State} (h : Keeps sA s) :
    Keeps sA (halt t w s) := by
  unfold halt
  repeat' (first
    | with_reducible assumption
    | with_reducible apply insn_keeps
    | with_reducible apply groupCheck_keeps
    | with_reducible apply updGrp_keeps
    | with_reducible apply updThr_keeps
    | intro _ _ _)

theorem execHalt_keeps {t : Nat} {w : BitVec 32} {s : State} (h : Keeps sA s) :
    ∀ z, execHalt t w s = .next z → Keeps sA z := by
  intro z e
  unfold execHalt at e
  injection e with e
  subst e
  repeat' (first
    | with_reducible assumption
    | with_reducible apply dp_keeps
    | with_reducible apply halt_keeps)

theorem setPc_keeps {t : Nat} {a : BitVec 64} {s : State} (h : Keeps sA s) :
    Keeps sA (setPc t a s) := by
  unfold setPc
  repeat' (first
    | with_reducible assumption
    | with_reducible apply updThr_keeps)

theorem branch_keeps {t : Nat} {w : BitVec 32} {s : State} (h : Keeps sA s) :
    Keeps sA (branch t w s) := by
  unfold branch
  repeat' (first
    | with_reducible assumption
    | with_reducible apply insn_keeps
    | with_reducible apply insnFault_keeps
    | with_reducible apply setPc_keeps
    | with_reducible apply nextPc_keeps
    | intro _ _ _
    | split)

theorem execBranch_keeps {t : Nat} {w : BitVec 32} {s : State} (h : Keeps sA s) :
    ∀ z, execBranch t w s = .next z → Keeps sA z := by
  intro z e
  unfold execBranch at e
  injection e with e
  subst e
  repeat' (first
    | with_reducible assumption
    | with_reducible apply dp_keeps
    | with_reducible apply branch_keeps)

theorem jal_keeps {t : Nat} {w : BitVec 32} {s : State} (h : Keeps sA s) :
    Keeps sA (jal t w s) := by
  unfold jal
  repeat' (first
    | with_reducible assumption
    | with_reducible apply insn_keeps
    | with_reducible apply setPc_keeps
    | with_reducible apply updThr_keeps
    | intro _ _ _)

theorem execJal_keeps {t : Nat} {w : BitVec 32} {s : State} (h : Keeps sA s) :
    ∀ z, execJal t w s = .next z → Keeps sA z := by
  intro z e
  unfold execJal at e
  injection e with e
  subst e
  repeat' (first
    | with_reducible assumption
    | with_reducible apply dp_keeps
    | with_reducible apply jal_keeps)

theorem jalr_keeps {t : Nat} {w : BitVec 32} {s : State} (h : Keeps sA s) :
    Keeps sA (jalr t w s) := by
  unfold jalr
  repeat' (first
    | with_reducible assumption
    | with_reducible apply insn_keeps
    | with_reducible apply insnFault_keeps
    | with_reducible apply setPc_keeps
    | with_reducible apply updThr_keeps
    | intro _ _ _
    | split)

theorem execJalr_keeps {t : Nat} {w : BitVec 32} {s : State} (h : Keeps sA s) :
    ∀ z, execJalr t w s = .next z → Keeps sA z := by
  intro z e
  unfold execJalr at e
  injection e with e
  subst e
  repeat' (first
    | with_reducible assumption
    | with_reducible apply dp_keeps
    | with_reducible apply jalr_keeps)

theorem loadAt_keeps {t : Nat} {x : Thread} {a : Acc} {rd : RegId} {k : LoadKind} {sa : Nat} {s : State} (h : Keeps sA s) :
    Keeps sA (loadAt t x a rd k sa s) := by
  unfold loadAt
  repeat' (first
    | with_reducible assumption
    | with_reducible apply insnFault_keeps
    | with_reducible apply nextPc_keeps
    | with_reducible apply issueLocal_keeps
    | with_reducible apply issueSingle_keeps
    | with_reducible apply issueRemote_keeps
    | with_reducible apply result_keeps
    | split
    | (dsimp only))

theorem load_keeps {t : Nat} {w : BitVec 32} {s : State} (h : Keeps sA s) :
    Keeps sA (load t w s) := by
  unfold load
  repeat' (first
    | with_reducible assumption
    | with_reducible apply insn_keeps
    | with_reducible apply insnFault_keeps
    | with_reducible apply loadAt_keeps
    | intro _ _ _
    | split)

theorem execLoad_keeps {t : Nat} {w : BitVec 32} {s : State} (h : Keeps sA s) :
    ∀ z, execLoad t w s = .next z → Keeps sA z := by
  intro z e
  unfold execLoad at e
  injection e with e
  subst e
  repeat' (first
    | with_reducible assumption
    | with_reducible apply dp_keeps
    | with_reducible apply load_keeps)

theorem vld_keeps {t : Nat} {w : BitVec 32} {s : State} (h : Keeps sA s) :
    Keeps sA (vld t w s) := by
  unfold vld
  repeat' (first
    | with_reducible assumption
    | with_reducible apply insn_keeps
    | with_reducible apply insnFault_keeps
    | with_reducible apply loadAt_keeps
    | intro _ _ _
    | split)

theorem execVld_keeps {t : Nat} {w : BitVec 32} {s : State} (h : Keeps sA s) :
    ∀ z, execVld t w s = .next z → Keeps sA z := by
  intro z e
  unfold execVld at e
  injection e with e
  subst e
  repeat' (first
    | with_reducible assumption
    | with_reducible apply dp_keeps
    | with_reducible apply vld_keeps)

theorem spadStored_keeps {t : Nat} {p : Bool} {s : State} (h : Keeps sA s) :
    Keeps sA (spadStored t p s) := by
  unfold spadStored
  repeat' (first
    | with_reducible assumption
    | with_reducible apply updGrp_keeps
    | split)

theorem storeAt_keeps {t : Nat} {x : Thread} {a : Acc} {d : List Byte} {p : Bool} {sa : Nat} {s : State} (h : Keeps sA s) :
    Keeps sA (storeAt t x a d p sa s) := by
  unfold storeAt
  repeat' (first
    | with_reducible assumption
    | with_reducible apply insnFault_keeps
    | with_reducible apply nextPc_keeps
    | with_reducible apply issueLocal_keeps
    | with_reducible apply issueRemote_keeps
    | with_reducible apply spadStored_keeps
    | with_reducible apply spadWrite_keeps
    | with_reducible apply Keeps.fold
    | intro _ _ _
    | split)

theorem store_keeps {t : Nat} {w : BitVec 32} {s : State} (h : Keeps sA s) :
    Keeps sA (store t w s) := by
  unfold store
  repeat' (first
    | with_reducible assumption
    | with_reducible apply insn_keeps
    | with_reducible apply insnFault_keeps
    | with_reducible apply storeAt_keeps
    | intro _ _ _
    | split)

theorem execStore_keeps {t : Nat} {w : BitVec 32} {s : State} (h : Keeps sA s) :
    ∀ z, execStore t w s = .next z → Keeps sA z := by
  intro z e
  unfold execStore at e
  injection e with e
  subst e
  repeat' (first
    | with_reducible assumption
    | with_reducible apply dp_keeps
    | with_reducible apply store_keeps)

theorem vst_keeps {t : Nat} {w : BitVec 32} {s : State} (h : Keeps sA s) :
    Keeps sA (vst t w s) := by
  unfold vst
  repeat' (first
    | with_reducible assumption
    | with_reducible apply insn_keeps
    | with_reducible apply insnFault_keeps
    | with_reducible apply storeAt_keeps
    | intro _ _ _
    | split)

theorem execVst_keeps {t : Nat} {w : BitVec 32} {s : State} (h : Keeps sA s) :
    ∀ z, execVst t w s = .next z → Keeps sA z := by
  intro z e
  unfold execVst at e
  injection e with e
  subst e
  repeat' (first
    | with_reducible assumption
    | with_reducible apply dp_keeps
    | with_reducible apply vst_keeps)

theorem laneOp_keeps {t : Nat} {w : BitVec 32} {ld : Bool} {go : Thread → Nat → List Nat → State → State} {s : State} (h : Keeps sA s) (hgo : ∀ a0 a1 a2 s, Keeps sA s → Keeps sA (go a0 a1 a2 s)) :
    Keeps sA (laneOp t w ld go s) := by
  unfold laneOp
  repeat' (first
    | with_reducible assumption
    | with_reducible apply hgo
    | with_reducible apply insn_keeps
    | with_reducible apply insnFault_keeps
    | intro _ _ _
    | split
    | (dsimp only))

theorem vgather_keeps {t : Nat} {w : BitVec 32} {s : State} (h : Keeps sA s) :
    Keeps sA (vgather t w s) := by
  unfold vgather
  repeat' (first
    | with_reducible assumption
    | with_reducible apply laneOp_keeps
    | with_reducible apply result_keeps
    | intro _ _ _
    | intro _ _)

theorem execVgather_keeps {t : Nat} {w : BitVec 32} {s : State} (h : Keeps sA s) :
    ∀ z, execVgather t w s = .next z → Keeps sA z := by
  intro z e
  unfold execVgather at e
  injection e with e
  subst e
  repeat' (first
    | with_reducible assumption
    | with_reducible apply dp_keeps
    | with_reducible apply vgather_keeps)

theorem vscatter_keeps {t : Nat} {w : BitVec 32} {s : State} (h : Keeps sA s) :
    Keeps sA (vscatter t w s) := by
  unfold vscatter
  repeat' (first
    | with_reducible assumption
    | with_reducible apply laneOp_keeps
    | with_reducible apply spadWrite_keeps
    | with_reducible apply nextPc_keeps
    | with_reducible apply spadStored_keeps
    | with_reducible apply Keeps.fold
    | intro _ _ _
    | intro _ _)

theorem execVscatter_keeps {t : Nat} {w : BitVec 32} {s : State} (h : Keeps sA s) :
    ∀ z, execVscatter t w s = .next z → Keeps sA z := by
  intro z e
  unfold execVscatter at e
  injection e with e
  subst e
  repeat' (first
    | with_reducible assumption
    | with_reducible apply dp_keeps
    | with_reducible apply vscatter_keeps)

theorem atomic_keeps {t : Nat} {w : BitVec 32} {f : AtomOp} {s : State} (h : Keeps sA s) :
    Keeps sA (atomic t w f s) := by
  unfold atomic
  repeat' (first
    | with_reducible assumption
    | with_reducible apply insn_keeps
    | with_reducible apply insnFault_keeps
    | with_reducible apply nextPc_keeps
    | with_reducible apply issueLocal_keeps
    | with_reducible apply spadWrite_keeps
    | with_reducible apply result_keeps
    | with_reducible apply spadStored_keeps
    | intro _ _ _
    | split
    | (dsimp only))

theorem execAtomic_keeps {t : Nat} {w : BitVec 32} {f : AtomOp} {s : State} (h : Keeps sA s) :
    ∀ z, execAtomic t w f s = .next z → Keeps sA z := by
  intro z e
  unfold execAtomic at e
  injection e with e
  subst e
  repeat' (first
    | with_reducible assumption
    | with_reducible apply dp_keeps
    | with_reducible apply atomic_keeps)

theorem park_keeps {t : Nat} {rd : RegId} {s : State} (h : Keeps sA s) :
    Keeps sA (park t rd s) := by
  unfold park
  repeat' (first
    | with_reducible assumption
    | with_reducible apply issued_keeps
    | with_reducible apply updThr_keeps)

theorem tallyGo_keeps {t : Nat} {x : Thread} {w : BitVec 32} {op : TallyOp} {s : State} (h : Keeps sA s) :
    Keeps sA (tallyGo t x w op s) := by
  unfold tallyGo
  repeat' (first
    | with_reducible assumption
    | with_reducible apply insnFault_keeps
    | with_reducible apply tallyApply_keeps
    | with_reducible apply park_keeps
    | with_reducible apply threadSync_keeps
    | with_reducible apply waitStart_keeps
    | with_reducible apply issueSingle_keeps
    | split
    | (dsimp only))

theorem tallyInsn_keeps {t : Nat} {w : BitVec 32} {op : TallyOp} {s : State} (h : Keeps sA s) :
    Keeps sA (tallyInsn t w op s) := by
  unfold tallyInsn
  repeat' (first
    | with_reducible assumption
    | with_reducible apply insn_keeps
    | with_reducible apply insnFault_keeps
    | with_reducible apply tallyGo_keeps
    | intro _ _ _
    | split
    | (dsimp only))

theorem execTallyAdd_keeps {t : Nat} {w : BitVec 32} {s : State} (h : Keeps sA s) :
    ∀ z, execTallyAdd t w s = .next z → Keeps sA z := by
  intro z e
  unfold execTallyAdd at e
  injection e with e
  subst e
  repeat' (first
    | with_reducible assumption
    | with_reducible apply dp_keeps
    | with_reducible apply tallyInsn_keeps)

theorem execTallySub_keeps {t : Nat} {w : BitVec 32} {s : State} (h : Keeps sA s) :
    ∀ z, execTallySub t w s = .next z → Keeps sA z := by
  intro z e
  unfold execTallySub at e
  injection e with e
  subst e
  repeat' (first
    | with_reducible assumption
    | with_reducible apply dp_keeps
    | with_reducible apply tallyInsn_keeps)

theorem execTallyRead_keeps {t : Nat} {w : BitVec 32} {s : State} (h : Keeps sA s) :
    ∀ z, execTallyRead t w s = .next z → Keeps sA z := by
  intro z e
  unfold execTallyRead at e
  injection e with e
  subst e
  repeat' (first
    | with_reducible assumption
    | with_reducible apply dp_keeps
    | with_reducible apply tallyInsn_keeps)

theorem execWaitGe_keeps {t : Nat} {w : BitVec 32} {s : State} (h : Keeps sA s) :
    ∀ z, execWaitGe t w s = .next z → Keeps sA z := by
  intro z e
  unfold execWaitGe at e
  injection e with e
  subst e
  repeat' (first
    | with_reducible assumption
    | with_reducible apply dp_keeps
    | with_reducible apply tallyInsn_keeps)

theorem execWaitEq_keeps {t : Nat} {w : BitVec 32} {s : State} (h : Keeps sA s) :
    ∀ z, execWaitEq t w s = .next z → Keeps sA z := by
  intro z e
  unfold execWaitEq at e
  injection e with e
  subst e
  repeat' (first
    | with_reducible assumption
    | with_reducible apply dp_keeps
    | with_reducible apply tallyInsn_keeps)

theorem execMonitor_keeps {t : Nat} {w : BitVec 32} {s : State} (h : Keeps sA s) :
    ∀ z, execMonitor t w s = .next z → Keeps sA z := by
  intro z e
  unfold execMonitor at e
  injection e with e
  subst e
  repeat' (first
    | with_reducible assumption
    | with_reducible apply dp_keeps
    | with_reducible apply tallyInsn_keeps)

theorem feInsn_keeps {t : Nat} {w : BitVec 32} {f : FeOp} {s : State} (h : Keeps sA s) :
    Keeps sA (feInsn t w f s) := by
  unfold feInsn
  repeat' (first
    | with_reducible assumption
    | with_reducible apply insn_keeps
    | with_reducible apply insnFault_keeps
    | with_reducible apply updThr_keeps
    | with_reducible apply issueLocal_keeps
    | with_reducible apply issueSingle_keeps
    | fail_if_no_progress with_reducible refine Keeps.upd ?_ (by dsimp only)
    | intro _ _ _
    | split
    | (dsimp only))

theorem execWriteEf_keeps {t : Nat} {w : BitVec 32} {s : State} (h : Keeps sA s) :
    ∀ z, execWriteEf t w s = .next z → Keeps sA z := by
  intro z e
  unfold execWriteEf at e
  injection e with e
  subst e
  repeat' (first
    | with_reducible assumption
    | with_reducible apply dp_keeps
    | with_reducible apply feInsn_keeps)

theorem execReadFe_keeps {t : Nat} {w : BitVec 32} {s : State} (h : Keeps sA s) :
    ∀ z, execReadFe t w s = .next z → Keeps sA z := by
  intro z e
  unfold execReadFe at e
  injection e with e
  subst e
  repeat' (first
    | with_reducible assumption
    | with_reducible apply dp_keeps
    | with_reducible apply feInsn_keeps)

theorem execReadFf_keeps {t : Nat} {w : BitVec 32} {s : State} (h : Keeps sA s) :
    ∀ z, execReadFf t w s = .next z → Keeps sA z := by
  intro z e
  unfold execReadFf at e
  injection e with e
  subst e
  repeat' (first
    | with_reducible assumption
    | with_reducible apply dp_keeps
    | with_reducible apply feInsn_keeps)

theorem execWriteXf_keeps {t : Nat} {w : BitVec 32} {s : State} (h : Keeps sA s) :
    ∀ z, execWriteXf t w s = .next z → Keeps sA z := by
  intro z e
  unfold execWriteXf at e
  injection e with e
  subst e
  repeat' (first
    | with_reducible assumption
    | with_reducible apply dp_keeps
    | with_reducible apply feInsn_keeps)

theorem flushRange_keeps {t : Nat} {w : BitVec 32} {s : State} (h : Keeps sA s) :
    Keeps sA (flushRange t w s) := by
  unfold flushRange
  repeat' (first
    | with_reducible assumption
    | with_reducible apply insn_keeps
    | with_reducible apply insnFault_keeps
    | with_reducible apply nextPc_keeps
    | with_reducible apply flushCell_keeps
    | intro _ _ _
    | split
    | (dsimp only))

theorem execFlushRange_keeps {t : Nat} {w : BitVec 32} {s : State} (h : Keeps sA s) :
    ∀ z, execFlushRange t w s = .next z → Keeps sA z := by
  intro z e
  unfold execFlushRange at e
  injection e with e
  subst e
  repeat' (first
    | with_reducible assumption
    | with_reducible apply dp_keeps
    | with_reducible apply flushRange_keeps)

theorem execIsync_keeps {t : Nat} {w : BitVec 32} {s : State} (h : Keeps sA s) :
    ∀ z, execIsync t w s = .next z → Keeps sA z := by
  intro z e
  unfold execIsync at e
  injection e with e
  subst e
  repeat' (first
    | with_reducible assumption
    | with_reducible apply dp_keeps
    | with_reducible apply insn_keeps
    | with_reducible apply nextPc_keeps
    | intro _ _ _
    | intro _ _)

theorem issueOut_keeps {p : Nat} {unit : Nat} {off : Nat} {entry : Option Nat} {core : Option Nat} {s : State} (h : Keeps sA s) :
    Keeps sA (issueOut s p unit off entry core).2 := by
  unfold issueOut
  repeat' (first
    | with_reducible assumption
    | with_reducible apply enqueue_keeps
    | split
    | (dsimp only))

theorem handOver_keeps {t : Nat} {w : BitVec 32} {fn : Nat} {go : State → Thread → Nat → Nat → Status × State} {s : State} (h : Keeps sA s) (hgo : ∀ s a1 a2 a3, Keeps sA s → Keeps sA (go s a1 a2 a3).2) :
    Keeps sA (handOver t w fn go s) := by
  unfold handOver
  repeat' (first
    | with_reducible assumption
    | with_reducible apply hgo
    | with_reducible apply insn_keeps
    | with_reducible apply insnFault_keeps
    | with_reducible apply cnt_keeps
    | with_reducible apply updThr_keeps
    | with_reducible apply result_keeps
    | intro _ _ _
    | split
    | (dsimp only))

theorem execIssue_keeps {t : Nat} {w : BitVec 32} {s : State} (h : Keeps sA s) :
    ∀ z, execIssue t w s = .next z → Keeps sA z := by
  intro z e
  unfold execIssue at e
  injection e with e
  subst e
  repeat' (first
    | with_reducible assumption
    | with_reducible apply dp_keeps
    | with_reducible apply handOver_keeps
    | with_reducible apply issueOut_keeps
    | intro _ _ _
    | intro _ _)

theorem execLaunch_keeps {t : Nat} {w : BitVec 32} {s : State} (h : Keeps sA s) :
    ∀ z, execLaunch t w s = .next z → Keeps sA z := by
  intro z e
  unfold execLaunch at e
  injection e with e
  subst e
  repeat' (first
    | with_reducible assumption
    | with_reducible apply dp_keeps
    | with_reducible apply handOver_keeps
    | with_reducible apply launchMany_keeps
    | intro _ _ _
    | intro _ _)

theorem vecInsn_keeps {t : Nat} {w : BitVec 32} {op : Nat} {uses : List RegId} {f : Thread → Nat → Nat} {s : State} (h : Keeps sA s) :
    Keeps sA (vecInsn t w op uses f s) := by
  unfold vecInsn
  repeat' (first
    | with_reducible assumption
    | with_reducible apply insn_keeps
    | with_reducible apply insnFault_keeps
    | with_reducible apply draw_keeps
    | with_reducible apply result_keeps
    | intro _ _ _
    | split)

theorem execVectorArith_keeps {t : Nat} {w : BitVec 32} {f : VArith} {s : State} (h : Keeps sA s) :
    ∀ z, execVectorArith t w f s = .next z → Keeps sA z := by
  intro z e
  unfold execVectorArith at e
  injection e with e
  subst e
  repeat' (first
    | with_reducible assumption
    | with_reducible apply dp_keeps
    | with_reducible apply vecInsn_keeps)

theorem execVectorConvert_keeps {t : Nat} {w : BitVec 32} {f : VConvert} {s : State} (h : Keeps sA s) :
    ∀ z, execVectorConvert t w f s = .next z → Keeps sA z := by
  intro z e
  unfold execVectorConvert at e
  injection e with e
  subst e
  repeat' (first
    | with_reducible assumption
    | with_reducible apply dp_keeps
    | with_reducible apply vecInsn_keeps)

theorem execVectorReduce_keeps {t : Nat} {w : BitVec 32} {f : VReduce} {s : State} (h : Keeps sA s) :
    ∀ z, execVectorReduce t w f s = .next z → Keeps sA z := by
  intro z e
  unfold execVectorReduce at e
  injection e with e
  subst e
  repeat' (first
    | with_reducible assumption
    | with_reducible apply dp_keeps
    | with_reducible apply vecInsn_keeps)

theorem execGroupEnd_keeps {group : Nat} {s : State} (h : Keeps sA s) :
    ∀ z, execGroupEnd group s = .next z → Keeps sA z := by
  intro z e
  unfold execGroupEnd at e
  injection e with e
  subst e
  repeat' (first
    | with_reducible assumption
    | with_reducible apply dp_keeps
    | with_reducible apply groupEnd_keeps
    | with_reducible apply serClose_keeps
    | with_reducible apply Keeps.fold
    | intro _ _ _
    | intro _ _
    | split)

end Sys2Proof.Machine
end

