-- ==== Sys2Proof/Laws/KeepsAdmin.lean ====
section
/-! SUPPORT. Each operation of the host port, resets and the catalogue's management commands keeps memory's form, the clocks' order and the queue. -/

namespace Sys2Proof.Machine

open Sys2Proof

variable {sA : State}

/-! ### HostPort -/

theorem updHost_keeps {f : HostPort → HostPort} {s : State} (h : Keeps sA s) :
    Keeps sA (updHost f s) := by
  unfold updHost
  repeat' (first
    | with_reducible assumption
    | fail_if_no_progress with_reducible refine Keeps.upd ?_ (by dsimp only))

theorem winRefused_keeps {s : State} (h : Keeps sA s) :
    Keeps sA (winRefused s) := by
  unfold winRefused
  repeat' (first
    | with_reducible assumption
    | with_reducible apply cnt_keeps)

theorem bar4Read_keeps {tag : Nat} {off : Nat} {len : Nat} {s : State} (h : Keeps sA s) :
    Keeps sA (bar4Read tag off len s) := by
  unfold bar4Read
  repeat' (first
    | with_reducible assumption
    | with_reducible apply emit_keeps
    | with_reducible apply winRefused_keeps
    | with_reducible apply deliver_keeps
    | with_reducible apply admitFail_keeps
    | with_reducible apply launchReq_keeps
    | split
    | (dsimp only))

theorem execBar4Read_keeps {tag : Nat} {off : Nat} {len : Nat} {s : State} (h : Keeps sA s) :
    ∀ z, execBar4Read tag off len s = .next z → Keeps sA z := by
  intro z e
  unfold execBar4Read at e
  injection e with e
  subst e
  repeat' (first
    | with_reducible assumption
    | with_reducible apply bar4Read_keeps)

theorem bar4Write_keeps {off : Nat} {data : List Byte} {poison : Bool} {s : State} (h : Keeps sA s) :
    Keeps sA (bar4Write off data poison s) := by
  unfold bar4Write
  repeat' (first
    | with_reducible assumption
    | with_reducible apply winRefused_keeps
    | with_reducible apply cnt_keeps
    | fail_if_no_progress with_reducible refine Keeps.upd ?_ (by dsimp only)
    | split
    | (dsimp only))

theorem execBar4Write_keeps {off : Nat} {data : List Byte} {poison : Bool} {s : State} (h : Keeps sA s) :
    ∀ z, execBar4Write off data poison s = .next z → Keeps sA z := by
  intro z e
  unfold execBar4Write at e
  injection e with e
  subst e
  repeat' (first
    | with_reducible assumption
    | with_reducible apply barWrite_keeps
    | with_reducible apply bar4Write_keeps)

theorem bar0Write_keeps {half : Nat} {f : State → State} {s : State} (h : Keeps sA s) (hf : ∀ s, Keeps sA s → Keeps sA (f s)) :
    Keeps sA (bar0Write half f s) := by
  unfold bar0Write
  repeat' (first
    | with_reducible assumption
    | with_reducible apply barWrite_keeps
    | split)

theorem winBase_keeps {n : Nat} {v : BitVec 64} {s : State} (h : Keeps sA s) :
    Keeps sA (winBase n v s) := by
  unfold winBase
  repeat' (first
    | with_reducible assumption
    | with_reducible apply updHost_keeps
    | split)

theorem execWinSeg_keeps {half : Nat} {n : Nat} {v : BitVec 64} {s : State} (h : Keeps sA s) :
    ∀ z, execWinSeg half n v s = .next z → Keeps sA z := by
  intro z e
  unfold execWinSeg at e
  injection e with e
  subst e
  repeat' (first
    | with_reducible assumption
    | with_reducible apply bar0Write_keeps
    | with_reducible apply winBase_keeps)

theorem msixWrite_keeps {k : Nat} {v : Nat} {s : State} (h : Keeps sA s) :
    Keeps sA (msixWrite k v s) := by
  unfold msixWrite
  repeat' (first
    | with_reducible assumption
    | with_reducible apply updHost_keeps
    | with_reducible apply emit_keeps
    | split
    | (dsimp only))

theorem stgShadow_keeps {f : StgCfg → StgCfg} {s : State} (h : Keeps sA s) :
    Keeps sA (stgShadow f s) := by
  unfold stgShadow
  repeat' (first
    | with_reducible assumption
    | fail_if_no_progress with_reducible refine Keeps.upd ?_ (by dsimp only)
    | split)

theorem rwWrite_keeps {o : Nat} {v : Nat} {s : State} (h : Keeps sA s) :
    Keeps sA (rwWrite o v s) := by
  unfold rwWrite
  repeat' (first
    | with_reducible assumption
    | with_reducible apply msixWrite_keeps
    | with_reducible apply updMbx_keeps
    | with_reducible apply stgShadow_keeps
    | with_reducible apply updXlt_keeps
    | fail_if_no_progress with_reducible refine Keeps.upd ?_ (by dsimp only)
    | split)

theorem regWrite_keeps {off : Nat} {size : Nat} {v : Nat} {s : State} (h : Keeps sA s) :
    Keeps sA (regWrite off size v s) := by
  unfold regWrite
  repeat' (first
    | with_reducible assumption
    | with_reducible apply rwWrite_keeps
    | split
    | (dsimp only))

theorem execRegisterWrite_keeps {half : Nat} {off : Nat} {size : Nat} {v : Nat} {s : State} (h : Keeps sA s) :
    ∀ z, execRegisterWrite half off size v s = .next z → Keeps sA z := by
  intro z e
  unfold execRegisterWrite at e
  injection e with e
  subst e
  repeat' (first
    | with_reducible assumption
    | with_reducible apply regWrite_keeps
    | split)

theorem execConfigSpaceAccess_keeps {tag : Nat} {power : Option Bool} {s : State} (h : Keeps sA s) :
    ∀ z, execConfigSpaceAccess tag power s = .next z → Keeps sA z := by
  intro z e
  unfold execConfigSpaceAccess at e
  injection e with e
  subst e
  repeat' (first
    | with_reducible assumption
    | with_reducible apply emit_keeps
    | with_reducible apply updHost_keeps
    | split)

theorem raiseCounter_keeps {n : Nat} {v : Nat} {s : State} (h : Keeps sA s) :
    Keeps sA (raiseCounter n v s) := by
  unfold raiseCounter
  repeat' (first
    | with_reducible assumption
    | fail_if_no_progress with_reducible refine Keeps.upd ?_ (by dsimp only)
    | split)

theorem settle_keeps {s : State} (h : Keeps sA s) :
    Keeps sA (settle s) := by
  unfold settle
  repeat' (first
    | with_reducible assumption
    | with_reducible apply raiseCounter_keeps
    | fail_if_no_progress with_reducible refine Keeps.upd ?_ (by dsimp only)
    | split
    | (dsimp only))

theorem hostLinkDown_keeps {half : Nat} {s : State} (h : Keeps sA s) :
    Keeps sA (hostLinkDown half s) := by
  unfold hostLinkDown
  repeat' (first
    | with_reducible assumption
    | exact Keeps.upd (updHost_keeps (updMbx_keeps h)) rfl
    | with_reducible apply updHost_keeps
    | split)

theorem execHostLinkDown_keeps {half : Nat} {s : State} (h : Keeps sA s) :
    ∀ z, execHostLinkDown half s = .next z → Keeps sA z := by
  intro z e
  unfold execHostLinkDown at e
  injection e with e
  subst e
  repeat' (first
    | with_reducible assumption
    | with_reducible apply hostLinkDown_keeps)

theorem reissueHost_keeps {s : State} (h : Keeps sA s) :
    Keeps sA (reissueHost s) := by
  unfold reissueHost
  repeat' (first
    | with_reducible assumption
    | with_reducible apply emit_keeps
    | with_reducible apply Keeps.fold
    | intro _ _ _
    | split)

theorem hostLinkUp_keeps {half : Nat} {s : State} (h : Keeps sA s) :
    Keeps sA (hostLinkUp half s) := by
  unfold hostLinkUp
  repeat' (first
    | with_reducible assumption
    | with_reducible apply updHost_keeps
    | with_reducible apply updMbx_keeps
    | with_reducible apply writeCpl_keeps
    | with_reducible apply settle_keeps
    | with_reducible apply rasLost_keeps
    | with_reducible apply reissueHost_keeps
    | fail_if_no_progress with_reducible refine Keeps.upd ?_ (by dsimp only)
    | split)

theorem execHostLinkUp_keeps {half : Nat} {s : State} (h : Keeps sA s) :
    ∀ z, execHostLinkUp half s = .next z → Keeps sA z := by
  intro z e
  unfold execHostLinkUp at e
  injection e with e
  subst e
  repeat' (first
    | with_reducible assumption
    | with_reducible apply hostLinkUp_keeps)

/-! ### Reset -/

theorem fullReset_keeps {s : State} (h : Keeps sA s) :
    Keeps sA (fullReset s) := by
  unfold fullReset
  repeat' (first
    | with_reducible assumption
    | fail_if_no_progress with_reducible refine Keeps.updMem ?_ (fun _ => ?_)
    | exact (rfl : memWf State.reset.store.mem = true))

theorem updBoot_keeps {f : Boot → Boot} {s : State} (h : Keeps sA s) :
    Keeps sA (updBoot f s) := by
  unfold updBoot
  repeat' (first
    | with_reducible assumption
    | fail_if_no_progress with_reducible refine Keeps.upd ?_ (by dsimp only))

theorem reference_keeps {bifur : Bool} {s : State} (h : Keeps sA s) :
    Keeps sA (reference bifur s) := by
  unfold reference
  repeat' (first
    | with_reducible assumption
    | with_reducible apply draw_keeps
    | with_reducible apply updBoot_keeps
    | fail_if_no_progress with_reducible refine Keeps.upd ?_ (by dsimp only)
    | split)

theorem resetFrom_keeps {f : State → State} {s : State} (h : Keeps sA s) (hf : ∀ s, Keeps sA s → Keeps sA (f s)) :
    Keeps sA (resetFrom f s) := by
  unfold resetFrom
  repeat' (first
    | with_reducible assumption
    | with_reducible apply hf
    | with_reducible apply fullReset_keeps
    | split)

theorem execPerstAssert_keeps {width : Nat} {s : State} (h : Keeps sA s) :
    ∀ z, execPerstAssert width s = .next z → Keeps sA z := by
  intro z e
  unfold execPerstAssert at e
  injection e with e
  subst e
  repeat' (first
    | with_reducible assumption
    | with_reducible apply resetFrom_keeps
    | with_reducible apply updBoot_keeps
    | split)

theorem execResetNAssert_keeps {width : Nat} {s : State} (h : Keeps sA s) :
    ∀ z, execResetNAssert width s = .next z → Keeps sA z := by
  intro z e
  unfold execResetNAssert at e
  injection e with e
  subst e
  repeat' (first
    | with_reducible assumption
    | with_reducible apply resetFrom_keeps
    | with_reducible apply updBoot_keeps
    | split)

theorem execHotReset_keeps {half : Nat} {bifur : Bool} {s : State} (h : Keeps sA s) :
    ∀ z, execHotReset half bifur s = .next z → Keeps sA z := by
  intro z e
  unfold execHotReset at e
  injection e with e
  subst e
  repeat' (first
    | with_reducible assumption
    | with_reducible apply resetFrom_keeps
    | with_reducible apply reference_keeps
    | split)

theorem execResetNRelease_keeps {bifur : Bool} {s : State} (h : Keeps sA s) :
    ∀ z, execResetNRelease bifur s = .next z → Keeps sA z := by
  intro z e
  unfold execResetNRelease at e
  injection e with e
  subst e
  repeat' (first
    | with_reducible assumption
    | with_reducible apply reference_keeps
    | with_reducible apply updBoot_keeps
    | fail_if_no_progress with_reducible refine Keeps.upd ?_ (by dsimp only)
    | split)

theorem execPerstRelease_keeps {bifur : Bool} {s : State} (h : Keeps sA s) :
    ∀ z, execPerstRelease bifur s = .next z → Keeps sA z := by
  intro z e
  unfold execPerstRelease at e
  injection e with e
  subst e
  repeat' (first
    | with_reducible assumption
    | with_reducible apply reference_keeps
    | with_reducible apply updBoot_keeps
    | split)

theorem execVauxInRegulation_keeps {sa : Nat} {s : State} (h : Keeps sA s) :
    ∀ z, execVauxInRegulation sa s = .next z → Keeps sA z := by
  intro z e
  unfold execVauxInRegulation at e
  injection e with e
  subst e
  repeat' (first
    | with_reducible assumption
    | fail_if_no_progress with_reducible refine Keeps.upd ?_ (by dsimp only)
    | split)

theorem execVauxLoss_keeps {s : State} (h : Keeps sA s) :
    ∀ z, execVauxLoss s = .next z → Keeps sA z := by
  intro z e
  unfold execVauxLoss at e
  injection e with e
  subst e
  repeat' (first
    | with_reducible assumption
    | with_reducible apply fullReset_keeps
    | fail_if_no_progress with_reducible refine Keeps.upd ?_ (by dsimp only))

/-! ### Admin -/

theorem execIdGet_keeps {mb : Nat} {s : State} (h : Keeps sA s) :
    ∀ z, execIdGet mb s = .next z → Keeps sA z := by
  intro z e
  unfold execIdGet at e
  injection e with e
  subst e
  repeat' (first
    | with_reducible assumption
    | with_reducible apply catalogue_keeps
    | with_reducible apply complete_keeps
    | intro _ _ _)

theorem execResGet_keeps {mb : Nat} {s : State} (h : Keeps sA s) :
    ∀ z, execResGet mb s = .next z → Keeps sA z := by
  intro z e
  unfold execResGet at e
  injection e with e
  subst e
  repeat' (first
    | with_reducible assumption
    | with_reducible apply catalogue_keeps
    | with_reducible apply complete_keeps
    | intro _ _ _)

theorem updKey_keeps {k : Nat} {f : KeySlot → KeySlot} {s : State} (h : Keeps sA s) :
    Keeps sA (updKey k f s) := by
  unfold updKey
  repeat' (first
    | with_reducible assumption
    | fail_if_no_progress with_reducible refine Keeps.upd ?_ (by dsimp only))

theorem issueSlot_keeps {k : Nat} {p : Nat} {s : State} (h : Keeps sA s) :
    Keeps sA (issueSlot k p s) := by
  unfold issueSlot
  repeat' (first
    | with_reducible assumption
    | with_reducible apply draw_keeps
    | with_reducible apply updKey_keeps)

theorem clearCells_keeps {cs : List Nat} {s : State} (h : Keeps sA s) :
    Keeps sA (clearCells cs s) := by
  unfold clearCells
  repeat' (first
    | with_reducible assumption
    | fail_if_no_progress with_reducible refine Keeps.upd ?_ (by dsimp only))

theorem powerCells_keeps {cs : List Nat} {s : State} (h : Keeps sA s) :
    Keeps sA (powerCells cs s) := by
  unfold powerCells
  repeat' (first
    | with_reducible assumption
    | with_reducible apply draw_keeps
    | fail_if_no_progress with_reducible refine Keeps.upd ?_ (by dsimp only))

theorem newPart_keeps {c : Cmd} {s : State} (h : Keeps sA s) :
    Keeps sA (newPart c s).2 := by
  unfold newPart
  repeat' (first
    | with_reducible assumption
    | with_reducible apply draw_keeps)

theorem partEnter_keeps {c : Cmd} {x : Part} {s : State} (h : Keeps sA s) :
    Keeps sA (partEnter c x s) := by
  unfold partEnter
  repeat' (first
    | with_reducible assumption
    | with_reducible apply issueSlot_keeps
    | with_reducible apply setGen_keeps
    | with_reducible apply updXlt_keeps
    | fail_if_no_progress with_reducible refine Keeps.upd ?_ (by dsimp only))

theorem partPlaces_keeps {c : Cmd} {s : State} (h : Keeps sA s) :
    Keeps sA (partPlaces c s).2 := by
  unfold partPlaces
  repeat' (first
    | with_reducible assumption
    | with_reducible apply makeAlloc_keeps)

theorem partMake_keeps {n : Nat} {c : Cmd} {s : State} (h : Keeps sA s) :
    Keeps sA (partMake n c s) := by
  unfold partMake
  repeat' (first
    | with_reducible assumption
    | with_reducible apply newPart_keeps
    | with_reducible apply partPlaces_keeps
    | with_reducible apply partEnter_keeps
    | with_reducible apply draw_keeps
    | with_reducible apply devWrite_keeps
    | with_reducible apply updMbx_keeps
    | with_reducible apply powerCells_keeps
    | with_reducible apply clearCells_keeps
    | with_reducible apply ownMgmt_keeps
    | with_reducible apply splitLogical_keeps
    | with_reducible apply complete_keeps
    | fail_if_no_progress with_reducible refine Keeps.upd ?_ (by dsimp only)
    | with_reducible apply Keeps.fold
    | intro _ _ _
    | split)

theorem partCreate_keeps {n : Nat} {c : Cmd} {s : State} (h : Keeps sA s) :
    Keeps sA (partCreate n c s) := by
  unfold partCreate
  repeat' (first
    | with_reducible assumption
    | with_reducible apply refuseOr_keeps
    | with_reducible apply partMake_keeps)

theorem execPartCreate_keeps {mb : Nat} {s : State} (h : Keeps sA s) :
    ∀ z, execPartCreate mb s = .next z → Keeps sA z := by
  intro z e
  unfold execPartCreate at e
  injection e with e
  subst e
  repeat' (first
    | with_reducible assumption
    | with_reducible apply catalogue_keeps
    | with_reducible apply partCreate_keeps)

theorem ctxCreate_keeps {n : Nat} {c : Cmd} {s : State} (h : Keeps sA s) :
    Keeps sA (ctxCreate n c s) := by
  unfold ctxCreate
  repeat' (first
    | with_reducible assumption
    | with_reducible apply refuseOr_keeps
    | with_reducible apply complete_keeps
    | with_reducible apply setGen_keeps
    | with_reducible apply updXlt_keeps
    | intro _ _)

theorem execCtxCreate_keeps {mb : Nat} {s : State} (h : Keeps sA s) :
    ∀ z, execCtxCreate mb s = .next z → Keeps sA z := by
  intro z e
  unfold execCtxCreate at e
  injection e with e
  subst e
  repeat' (first
    | with_reducible assumption
    | with_reducible apply catalogue_keeps
    | with_reducible apply ctxCreate_keeps)

theorem ctxSet_keeps {n : Nat} {c : Cmd} {s : State} (h : Keeps sA s) :
    Keeps sA (ctxSet n c s) := by
  unfold ctxSet
  repeat' (first
    | with_reducible assumption
    | with_reducible apply refuseOr_keeps
    | with_reducible apply updXlt_keeps
    | with_reducible apply completeGen_keeps
    | intro _ _)

theorem execCtxSet_keeps {mb : Nat} {s : State} (h : Keeps sA s) :
    ∀ z, execCtxSet mb s = .next z → Keeps sA z := by
  intro z e
  unfold execCtxSet at e
  injection e with e
  subst e
  repeat' (first
    | with_reducible assumption
    | with_reducible apply catalogue_keeps
    | with_reducible apply ctxSet_keeps)

theorem endCtx_keeps {ctx : Nat} {s : State} (h : Keeps sA s) :
    Keeps sA (endCtx ctx s) := by
  unfold endCtx
  repeat' (first
    | with_reducible assumption
    | with_reducible apply endRegion_keeps
    | with_reducible apply missFault_keeps
    | with_reducible apply updHost_keeps
    | with_reducible apply sweepKeys_keeps
    | with_reducible apply updXlt_keeps
    | with_reducible apply Keeps.fold
    | intro _ _ _)

theorem execCtxDestroy_keeps {mb : Nat} {s : State} (h : Keeps sA s) :
    ∀ z, execCtxDestroy mb s = .next z → Keeps sA z := by
  intro z e
  unfold execCtxDestroy at e
  injection e with e
  subst e
  repeat' (first
    | with_reducible assumption
    | with_reducible apply catalogue_keeps
    | with_reducible apply refuseOr_keeps
    | with_reducible apply complete_keeps
    | with_reducible apply endCtx_keeps
    | intro _ _ _
    | intro _ _)

theorem tlbInvalidate_keeps {n : Nat} {c : Cmd} {s : State} (h : Keeps sA s) :
    Keeps sA (tlbInvalidate n c s) := by
  unfold tlbInvalidate
  repeat' (first
    | with_reducible assumption
    | with_reducible apply complete_keeps
    | with_reducible apply setLastGen_keeps
    | with_reducible apply invQueue_keeps
    | split
    | (dsimp only))

theorem invOnce_keeps {n : Nat} {f : State → State} {s : State} (h : Keeps sA s) (hf : ∀ s, Keeps sA s → Keeps sA (f s)) :
    Keeps sA (invOnce n f s) := by
  unfold invOnce
  repeat' (first
    | with_reducible assumption
    | with_reducible apply hf
    | split)

theorem execTlbInvalidateRange_keeps {mb : Nat} {s : State} (h : Keeps sA s) :
    ∀ z, execTlbInvalidateRange mb s = .next z → Keeps sA z := by
  intro z e
  unfold execTlbInvalidateRange at e
  injection e with e
  subst e
  repeat' (first
    | with_reducible assumption
    | with_reducible apply catalogue_keeps
    | with_reducible apply invOnce_keeps
    | with_reducible apply tlbInvalidate_keeps
    | intro _ _ _
    | split)

theorem execTlbInvalidateCtx_keeps {mb : Nat} {s : State} (h : Keeps sA s) :
    ∀ z, execTlbInvalidateCtx mb s = .next z → Keeps sA z := by
  intro z e
  unfold execTlbInvalidateCtx at e
  injection e with e
  subst e
  repeat' (first
    | with_reducible assumption
    | with_reducible apply catalogue_keeps
    | with_reducible apply invOnce_keeps
    | with_reducible apply tlbInvalidate_keeps
    | intro _ _ _
    | split)

theorem execTlbInvalidateAll_keeps {mb : Nat} {s : State} (h : Keeps sA s) :
    ∀ z, execTlbInvalidateAll mb s = .next z → Keeps sA z := by
  intro z e
  unfold execTlbInvalidateAll at e
  injection e with e
  subst e
  repeat' (first
    | with_reducible assumption
    | with_reducible apply catalogue_keeps
    | with_reducible apply complete_keeps
    | with_reducible apply invOnce_keeps
    | with_reducible apply invQueue_keeps
    | intro _ _ _
    | split)

theorem endWork_keeps {p : Nat} {s : State} (h : Keeps sA s) :
    Keeps sA (endWork p s) := by
  unfold endWork
  repeat' (first
    | with_reducible assumption
    | with_reducible apply withdraw_keeps
    | fail_if_no_progress with_reducible refine Keeps.upd ?_ (by dsimp only)
    | with_reducible apply Keeps.fold
    | intro _ _ _)

theorem endWaiters_keeps {cs : List Nat} {s : State} (h : Keeps sA s) :
    Keeps sA (endWaiters cs s) := by
  unfold endWaiters
  repeat' (first
    | with_reducible assumption
    | with_reducible apply emit_keeps
    | fail_if_no_progress with_reducible refine Keeps.upd ?_ (by dsimp only)
    | with_reducible apply Keeps.fold
    | intro _ _ _
    | split)

theorem partDestroy_keeps {n : Nat} {c : Cmd} {s : State} (h : Keeps sA s) :
    Keeps sA (partDestroy n c s) := by
  unfold partDestroy
  repeat' (first
    | with_reducible assumption
    | with_reducible apply endWaiters_keeps
    | with_reducible apply endWork_keeps
    | with_reducible apply endCtx_keeps
    | with_reducible apply freeAlloc_keeps
    | with_reducible apply retireSlot_keeps
    | with_reducible apply updMbx_keeps
    | with_reducible apply complete_keeps
    | with_reducible apply sweepKeys_keeps
    | fail_if_no_progress with_reducible refine Keeps.upd ?_ (by dsimp only)
    | with_reducible apply Keeps.fold
    | intro _ _ _
    | split)

theorem execPartDestroy_keeps {mb : Nat} {s : State} (h : Keeps sA s) :
    ∀ z, execPartDestroy mb s = .next z → Keeps sA z := by
  intro z e
  unfold execPartDestroy at e
  injection e with e
  subst e
  repeat' (first
    | with_reducible assumption
    | with_reducible apply catalogue_keeps
    | with_reducible apply partDestroy_keeps)

theorem cellScrubDone_keeps {c : Nat} {s : State} (h : Keeps sA s) :
    Keeps sA (cellScrubDone c s) := by
  unfold cellScrubDone
  repeat' (first
    | with_reducible assumption
    | with_reducible apply sweepKeys_keeps
    | fail_if_no_progress with_reducible refine Keeps.upd ?_ (by dsimp only)
    | split)

theorem execCellScrubDone_keeps {cell : Nat} {s : State} (h : Keeps sA s) :
    ∀ z, execCellScrubDone cell s = .next z → Keeps sA z := by
  intro z e
  unfold execCellScrubDone at e
  injection e with e
  subst e
  repeat' (first
    | with_reducible assumption
    | with_reducible apply dp_keeps
    | with_reducible apply cellScrubDone_keeps)

theorem execPartGet_keeps {mb : Nat} {s : State} (h : Keeps sA s) :
    ∀ z, execPartGet mb s = .next z → Keeps sA z := by
  intro z e
  unfold execPartGet at e
  injection e with e
  subst e
  repeat' (first
    | with_reducible assumption
    | with_reducible apply catalogue_keeps
    | with_reducible apply complete_keeps
    | intro _ _ _
    | split)

theorem evictTo_keeps {n : Nat} : ∀ {p : Nat} {q : Nat} {s : State}, Keeps sA s → Keeps sA (evictTo n p q s) := by
  induction n with
  | zero =>
    intro p q s h
    unfold evictTo
    repeat' (first
      | with_reducible assumption)
  | succ k ih =>
    intro p q s h
    unfold evictTo
    repeat' (first
      | with_reducible assumption
      | with_reducible apply ih
      | with_reducible apply startEvict_keeps
      | split
      | (dsimp only))

theorem quotaSet_keeps {n : Nat} {c : Cmd} {s : State} (h : Keeps sA s) :
    Keeps sA (quotaSet n c s) := by
  unfold quotaSet
  repeat' (first
    | with_reducible assumption
    | with_reducible apply refuseOr_keeps
    | with_reducible apply evictTo_keeps
    | with_reducible apply updPart_keeps
    | with_reducible apply completeGen_keeps
    | with_reducible apply ownMgmt_keeps
    | intro _ _
    | split)

theorem execPartQuotaSet_keeps {mb : Nat} {s : State} (h : Keeps sA s) :
    ∀ z, execPartQuotaSet mb s = .next z → Keeps sA z := by
  intro z e
  unfold execPartQuotaSet at e
  injection e with e
  subst e
  repeat' (first
    | with_reducible assumption
    | with_reducible apply catalogue_keeps
    | with_reducible apply quotaSet_keeps)

theorem mbxSet_keeps {n : Nat} {c : Cmd} {s : State} (h : Keeps sA s) :
    Keeps sA (mbxSet n c s) := by
  unfold mbxSet
  repeat' (first
    | with_reducible assumption
    | with_reducible apply refuseOr_keeps
    | with_reducible apply updMbx_keeps
    | with_reducible apply completeGen_keeps
    | intro _ _)

theorem execMbxSet_keeps {mb : Nat} {s : State} (h : Keeps sA s) :
    ∀ z, execMbxSet mb s = .next z → Keeps sA z := by
  intro z e
  unfold execMbxSet at e
  injection e with e
  subst e
  repeat' (first
    | with_reducible assumption
    | with_reducible apply catalogue_keeps
    | with_reducible apply mbxSet_keeps)

theorem evqSet_keeps {n : Nat} {c : Cmd} {s : State} (h : Keeps sA s) :
    Keeps sA (evqSet n c s) := by
  unfold evqSet
  repeat' (first
    | with_reducible assumption
    | with_reducible apply refuseOr_keeps
    | with_reducible apply completeGen_keeps
    | with_reducible apply devWrite_keeps
    | with_reducible apply evqLost_keeps
    | with_reducible apply updPart_keeps
    | intro _ _)

theorem execEvqSet_keeps {mb : Nat} {s : State} (h : Keeps sA s) :
    ∀ z, execEvqSet mb s = .next z → Keeps sA z := by
  intro z e
  unfold execEvqSet at e
  injection e with e
  subst e
  repeat' (first
    | with_reducible assumption
    | with_reducible apply catalogue_keeps
    | with_reducible apply evqSet_keeps)

/-! ### StageCmd -/

theorem stageConfig_keeps {n : Nat} {c : Cmd} {s : State} (h : Keeps sA s) :
    Keeps sA (stageConfig n c s) := by
  unfold stageConfig
  repeat' (first
    | with_reducible assumption
    | with_reducible apply refuseOr_keeps
    | with_reducible apply completeGen_keeps
    | with_reducible apply ownMgmt_keeps
    | with_reducible apply stgApply_keeps
    | with_reducible apply updStg_keeps
    | intro _ _)

theorem execStageConfig_keeps {mb : Nat} {s : State} (h : Keeps sA s) :
    ∀ z, execStageConfig mb s = .next z → Keeps sA z := by
  intro z e
  unfold execStageConfig at e
  injection e with e
  subst e
  repeat' (first
    | with_reducible assumption
    | with_reducible apply catalogue_keeps
    | with_reducible apply stageConfig_keeps)

theorem tollCommit_keeps {n : Nat} {c : Cmd} {s : State} (h : Keeps sA s) :
    Keeps sA (tollCommit n c s) := by
  unfold tollCommit
  repeat' (first
    | with_reducible assumption
    | with_reducible apply refuseOr_keeps
    | with_reducible apply updStg_keeps
    | with_reducible apply completeGen_keeps
    | intro _ _
    | split)

theorem execTollCommit_keeps {mb : Nat} {s : State} (h : Keeps sA s) :
    ∀ z, execTollCommit mb s = .next z → Keeps sA z := by
  intro z e
  unfold execTollCommit at e
  injection e with e
  subst e
  repeat' (first
    | with_reducible assumption
    | with_reducible apply catalogue_keeps
    | with_reducible apply tollCommit_keeps)

theorem execTollGet_keeps {mb : Nat} {s : State} (h : Keeps sA s) :
    ∀ z, execTollGet mb s = .next z → Keeps sA z := by
  intro z e
  unfold execTollGet at e
  injection e with e
  subst e
  repeat' (first
    | with_reducible assumption
    | with_reducible apply catalogue_keeps
    | with_reducible apply complete_keeps
    | intro _ _ _)

theorem itinLoad_keeps {n : Nat} {c : Cmd} {s : State} (h : Keeps sA s) :
    Keeps sA (itinLoad n c s) := by
  unfold itinLoad
  repeat' (first
    | with_reducible assumption
    | with_reducible apply complete_keeps
    | with_reducible apply updItin_keeps
    | split
    | (dsimp only))

theorem execItinLoad_keeps {mb : Nat} {s : State} (h : Keeps sA s) :
    ∀ z, execItinLoad mb s = .next z → Keeps sA z := by
  intro z e
  unfold execItinLoad at e
  injection e with e
  subst e
  repeat' (first
    | with_reducible assumption
    | with_reducible apply catalogue_keeps
    | with_reducible apply itinLoad_keeps)

theorem execItinStart_keeps {mb : Nat} {s : State} (h : Keeps sA s) :
    ∀ z, execItinStart mb s = .next z → Keeps sA z := by
  intro z e
  unfold execItinStart at e
  injection e with e
  subst e
  repeat' (first
    | with_reducible assumption
    | with_reducible apply catalogue_keeps
    | with_reducible apply complete_keeps
    | with_reducible apply updItin_keeps
    | intro _ _ _)

theorem execItinStop_keeps {mb : Nat} {s : State} (h : Keeps sA s) :
    ∀ z, execItinStop mb s = .next z → Keeps sA z := by
  intro z e
  unfold execItinStop at e
  injection e with e
  subst e
  repeat' (first
    | with_reducible assumption
    | with_reducible apply catalogue_keeps
    | with_reducible apply complete_keeps
    | with_reducible apply updItin_keeps
    | intro _ _ _)

theorem tallyWrite_keeps {v : BitVec 64} {word : Nat} {s : State} (h : Keeps sA s) :
    Keeps sA (tallyWrite v word s) := by
  unfold tallyWrite
  repeat' (first
    | with_reducible assumption
    | with_reducible apply setTally_keeps
    | with_reducible apply wake_keeps
    | with_reducible apply endWait_keeps
    | fail_if_no_progress with_reducible refine Keeps.upd ?_ (by dsimp only)
    | with_reducible apply Keeps.fold
    | intro _ _ _)

theorem tallyInit_keeps {n : Nat} {c : Cmd} {s : State} (h : Keeps sA s) :
    Keeps sA (tallyInit n c s) := by
  unfold tallyInit
  repeat' (first
    | with_reducible assumption
    | with_reducible apply complete_keeps
    | with_reducible apply refuseOr_keeps
    | with_reducible apply tallyWrite_keeps
    | with_reducible apply Keeps.fold
    | intro _ _ _
    | intro _ _
    | split
    | (dsimp only))

theorem execTallyInit_keeps {mb : Nat} {s : State} (h : Keeps sA s) :
    ∀ z, execTallyInit mb s = .next z → Keeps sA z := by
  intro z e
  unfold execTallyInit at e
  injection e with e
  subst e
  repeat' (first
    | with_reducible assumption
    | with_reducible apply catalogue_keeps
    | with_reducible apply tallyInit_keeps)

theorem execStageGet_keeps {mb : Nat} {s : State} (h : Keeps sA s) :
    ∀ z, execStageGet mb s = .next z → Keeps sA z := by
  intro z e
  unfold execStageGet at e
  injection e with e
  subst e
  repeat' (first
    | with_reducible assumption
    | with_reducible apply catalogue_keeps
    | with_reducible apply complete_keeps
    | intro _ _ _)

/-! ### Fabric -/

theorem launchCmd_keeps {n : Nat} {c : Cmd} {s : State} (h : Keeps sA s) :
    Keeps sA (launchCmd n c s) := by
  unfold launchCmd
  repeat' (first
    | with_reducible assumption
    | with_reducible apply complete_keeps
    | with_reducible apply launchMany_keeps
    | split
    | (dsimp only))

theorem execLaunchCmd_keeps {mb : Nat} {s : State} (h : Keeps sA s) :
    ∀ z, execLaunchCmd mb s = .next z → Keeps sA z := by
  intro z e
  unfold execLaunchCmd at e
  injection e with e
  subst e
  repeat' (first
    | with_reducible assumption
    | with_reducible apply dp_keeps
    | with_reducible apply catalogue_keeps
    | with_reducible apply launchCmd_keeps
    | intro _ _)

theorem issueCmd_keeps {n : Nat} {c : Cmd} {s : State} (h : Keeps sA s) :
    Keeps sA (issueCmd n c s) := by
  unfold issueCmd
  repeat' (first
    | with_reducible assumption
    | with_reducible apply complete_keeps
    | with_reducible apply issueOut_keeps
    | split)

theorem execIssueCmd_keeps {mb : Nat} {s : State} (h : Keeps sA s) :
    ∀ z, execIssueCmd mb s = .next z → Keeps sA z := by
  intro z e
  unfold execIssueCmd at e
  injection e with e
  subst e
  repeat' (first
    | with_reducible assumption
    | with_reducible apply dp_keeps
    | with_reducible apply catalogue_keeps
    | with_reducible apply issueCmd_keeps
    | intro _ _)

theorem storeSet_keeps {n : Nat} {c : Cmd} {s : State} (h : Keeps sA s) :
    Keeps sA (storeSet n c s) := by
  unfold storeSet
  repeat' (first
    | with_reducible assumption
    | with_reducible apply refuseOr_keeps
    | with_reducible apply completeGen_keeps
    | fail_if_no_progress with_reducible refine Keeps.upd ?_ (by dsimp only)
    | intro _ _)

theorem execStoreSet_keeps {mb : Nat} {s : State} (h : Keeps sA s) :
    ∀ z, execStoreSet mb s = .next z → Keeps sA z := by
  intro z e
  unfold execStoreSet at e
  injection e with e
  subst e
  repeat' (first
    | with_reducible assumption
    | with_reducible apply catalogue_keeps
    | with_reducible apply storeSet_keeps)

theorem routeSet_keeps {n : Nat} {c : Cmd} {s : State} (h : Keeps sA s) :
    Keeps sA (routeSet n c s) := by
  unfold routeSet
  repeat' (first
    | with_reducible assumption
    | with_reducible apply refuseOr_keeps
    | with_reducible apply completeGen_keeps
    | fail_if_no_progress with_reducible refine Keeps.upd ?_ (by dsimp only)
    | intro _ _)

theorem execRouteSet_keeps {mb : Nat} {s : State} (h : Keeps sA s) :
    ∀ z, execRouteSet mb s = .next z → Keeps sA z := by
  intro z e
  unfold execRouteSet at e
  injection e with e
  subst e
  repeat' (first
    | with_reducible assumption
    | with_reducible apply catalogue_keeps
    | with_reducible apply routeSet_keeps)

theorem portConfig_keeps {n : Nat} {c : Cmd} {s : State} (h : Keeps sA s) :
    Keeps sA (portConfig n c s) := by
  unfold portConfig
  repeat' (first
    | with_reducible assumption
    | with_reducible apply refuseOr_keeps
    | with_reducible apply completeGen_keeps
    | with_reducible apply updPort_keeps
    | intro _ _)

theorem execPortConfig_keeps {mb : Nat} {s : State} (h : Keeps sA s) :
    ∀ z, execPortConfig mb s = .next z → Keeps sA z := by
  intro z e
  unfold execPortConfig at e
  injection e with e
  subst e
  repeat' (first
    | with_reducible assumption
    | with_reducible apply catalogue_keeps
    | with_reducible apply portConfig_keeps)

theorem syncModeSet_keeps {n : Nat} {c : Cmd} {s : State} (h : Keeps sA s) :
    Keeps sA (syncModeSet n c s) := by
  unfold syncModeSet
  repeat' (first
    | with_reducible assumption
    | with_reducible apply refuseOr_keeps
    | with_reducible apply completeGen_keeps
    | fail_if_no_progress with_reducible refine Keeps.upd ?_ (by dsimp only)
    | intro _ _)

theorem execSyncMode_keeps {mb : Nat} {s : State} (h : Keeps sA s) :
    ∀ z, execSyncMode mb s = .next z → Keeps sA z := by
  intro z e
  unfold execSyncMode at e
  injection e with e
  subst e
  repeat' (first
    | with_reducible assumption
    | with_reducible apply catalogue_keeps
    | with_reducible apply syncModeSet_keeps)

theorem fabricTimers_keeps {n : Nat} {c : Cmd} {s : State} (h : Keeps sA s) :
    Keeps sA (fabricTimers n c s) := by
  unfold fabricTimers
  repeat' (first
    | with_reducible assumption
    | with_reducible apply refuseOr_keeps
    | with_reducible apply completeGen_keeps
    | fail_if_no_progress with_reducible refine Keeps.upd ?_ (by dsimp only)
    | intro _ _)

theorem execFabricTimers_keeps {mb : Nat} {s : State} (h : Keeps sA s) :
    ∀ z, execFabricTimers mb s = .next z → Keeps sA z := by
  intro z e
  unfold execFabricTimers at e
  injection e with e
  subst e
  repeat' (first
    | with_reducible assumption
    | with_reducible apply catalogue_keeps
    | with_reducible apply fabricTimers_keeps)

theorem frbTableLoad_keeps {n : Nat} {c : Cmd} {s : State} (h : Keeps sA s) :
    Keeps sA (frbTableLoad n c s) := by
  unfold frbTableLoad
  repeat' (first
    | with_reducible assumption
    | (lift_lets; intro x; first | (refine (fun (_ : Keeps sA x) => ?_) ?_ <;> [clear_value x; subst x]) | ((have _z : List Byte := x); clear_value x) | subst x)
    | with_reducible apply complete_keeps
    | fail_if_no_progress with_reducible refine Keeps.upd ?_ (by dsimp only)
    | intro _ _ _
    | intro _ _
    | split)

theorem execFrbTableLoad_keeps {mb : Nat} {s : State} (h : Keeps sA s) :
    ∀ z, execFrbTableLoad mb s = .next z → Keeps sA z := by
  intro z e
  unfold execFrbTableLoad at e
  injection e with e
  subst e
  repeat' (first
    | with_reducible assumption
    | with_reducible apply catalogue_keeps
    | with_reducible apply frbTableLoad_keeps)

theorem frbTableFree_keeps {n : Nat} {c : Cmd} {s : State} (h : Keeps sA s) :
    Keeps sA (frbTableFree n c s) := by
  unfold frbTableFree
  repeat' (first
    | with_reducible assumption
    | with_reducible apply refuseOr_keeps
    | with_reducible apply complete_keeps
    | fail_if_no_progress with_reducible refine Keeps.upd ?_ (by dsimp only)
    | intro _ _)

theorem execFrbTableFree_keeps {mb : Nat} {s : State} (h : Keeps sA s) :
    ∀ z, execFrbTableFree mb s = .next z → Keeps sA z := by
  intro z e
  unfold execFrbTableFree at e
  injection e with e
  subst e
  repeat' (first
    | with_reducible assumption
    | with_reducible apply catalogue_keeps
    | with_reducible apply frbTableFree_keeps)

theorem frbDrop_keeps {p : Nat} {st : Nat} {s : State} (h : Keeps sA s) :
    Keeps sA (frbDrop p st s) := by
  unfold frbDrop
  repeat' (first
    | with_reducible assumption
    | with_reducible apply freeAlloc_keeps
    | fail_if_no_progress with_reducible refine Keeps.upd ?_ (by dsimp only)
    | split)

theorem frbStreamSet_keeps {n : Nat} {c : Cmd} {s : State} (h : Keeps sA s) :
    Keeps sA (frbStreamSet n c s) := by
  unfold frbStreamSet
  repeat' (first
    | with_reducible assumption
    | with_reducible apply frbDrop_keeps
    | with_reducible apply refuseOr_keeps
    | with_reducible apply makeAlloc_keeps
    | with_reducible apply complete_keeps
    | with_reducible apply clearStack_keeps
    | with_reducible apply completeGen_keeps
    | fail_if_no_progress with_reducible refine Keeps.upd ?_ (by dsimp only)
    | with_reducible apply Keeps.fold
    | intro _ _ _
    | intro _ _
    | split
    | (dsimp only))

theorem execFrbStreamSet_keeps {mb : Nat} {s : State} (h : Keeps sA s) :
    ∀ z, execFrbStreamSet mb s = .next z → Keeps sA z := by
  intro z e
  unfold execFrbStreamSet at e
  injection e with e
  subst e
  repeat' (first
    | with_reducible assumption
    | with_reducible apply catalogue_keeps
    | with_reducible apply frbStreamSet_keeps)

theorem execFrbStreamFree_keeps {mb : Nat} {s : State} (h : Keeps sA s) :
    ∀ z, execFrbStreamFree mb s = .next z → Keeps sA z := by
  intro z e
  unfold execFrbStreamFree at e
  injection e with e
  subst e
  repeat' (first
    | with_reducible assumption
    | with_reducible apply catalogue_keeps
    | with_reducible apply refuseOr_keeps
    | with_reducible apply complete_keeps
    | with_reducible apply setGen_keeps
    | with_reducible apply frbDrop_keeps
    | intro _ _ _
    | intro _ _)

theorem frbClear_keeps {p : Nat} {st : Nat} {s : State} (h : Keeps sA s) :
    Keeps sA (frbClear p st s) := by
  unfold frbClear
  repeat' (first
    | with_reducible assumption
    | with_reducible apply scrubBlocks_keeps
    | split)

theorem execFrbStreamClear_keeps {mb : Nat} {s : State} (h : Keeps sA s) :
    ∀ z, execFrbStreamClear mb s = .next z → Keeps sA z := by
  intro z e
  unfold execFrbStreamClear at e
  injection e with e
  subst e
  repeat' (first
    | with_reducible assumption
    | with_reducible apply catalogue_keeps
    | with_reducible apply refuseOr_keeps
    | with_reducible apply complete_keeps
    | with_reducible apply frbClear_keeps
    | intro _ _ _
    | intro _ _)

/-! ### Security -/

theorem bufferWrite_keeps {n : Nat} {sa : Nat} {b : List Byte} {s : State} (h : Keeps sA s) :
    Keeps sA (bufferWrite n sa b s) := by
  unfold bufferWrite
  repeat' (first
    | with_reducible assumption
    | with_reducible apply emit_keeps
    | with_reducible apply devWrite_keeps
    | split)

theorem attest_keeps {n : Nat} {c : Cmd} {s : State} (h : Keeps sA s) :
    Keeps sA (attest n c s) := by
  unfold attest
  repeat' (first
    | with_reducible assumption
    | with_reducible apply complete_keeps
    | with_reducible apply bufferWrite_keeps
    | split
    | (dsimp only))

theorem execAttest_keeps {mb : Nat} {s : State} (h : Keeps sA s) :
    ∀ z, execAttest mb s = .next z → Keeps sA z := by
  intro z e
  unfold execAttest at e
  injection e with e
  subst e
  repeat' (first
    | with_reducible assumption
    | with_reducible apply catalogue_keeps
    | with_reducible apply attest_keeps)

theorem keySeal_keeps {n : Nat} {c : Cmd} {s : State} (h : Keeps sA s) :
    Keeps sA (keySeal n c s) := by
  unfold keySeal
  repeat' (first
    | with_reducible assumption
    | with_reducible apply draw_keeps
    | with_reducible apply complete_keeps
    | with_reducible apply bufferWrite_keeps
    | split
    | (dsimp only))

theorem execWaybillKeySeal_keeps {mb : Nat} {s : State} (h : Keeps sA s) :
    ∀ z, execWaybillKeySeal mb s = .next z → Keeps sA z := by
  intro z e
  unfold execWaybillKeySeal at e
  injection e with e
  subst e
  repeat' (first
    | with_reducible assumption
    | with_reducible apply catalogue_keeps
    | with_reducible apply keySeal_keeps)

theorem fwStage_keeps {n : Nat} {c : Cmd} {s : State} (h : Keeps sA s) :
    Keeps sA (fwStage n c s) := by
  unfold fwStage
  repeat' (first
    | with_reducible assumption
    | with_reducible apply refuseOr_keeps
    | with_reducible apply complete_keeps
    | fail_if_no_progress with_reducible refine Keeps.upd ?_ (by dsimp only)
    | intro _ _)

theorem execFwStage_keeps {mb : Nat} {s : State} (h : Keeps sA s) :
    ∀ z, execFwStage mb s = .next z → Keeps sA z := by
  intro z e
  unfold execFwStage at e
  injection e with e
  subst e
  repeat' (first
    | with_reducible assumption
    | with_reducible apply catalogue_keeps
    | with_reducible apply fwStage_keeps)

theorem keyAlloc_keeps {n : Nat} {c : Cmd} {s : State} (h : Keeps sA s) :
    Keeps sA (keyAlloc n c s) := by
  unfold keyAlloc
  repeat' (first
    | with_reducible assumption
    | with_reducible apply pickFree_keeps
    | with_reducible apply complete_keeps
    | with_reducible apply issueSlot_keeps
    | with_reducible refine Keeps.ofPair (by assumption) ?_
    | split
    | (dsimp only))

theorem execKeyslotAlloc_keeps {mb : Nat} {s : State} (h : Keeps sA s) :
    ∀ z, execKeyslotAlloc mb s = .next z → Keeps sA z := by
  intro z e
  unfold execKeyslotAlloc at e
  injection e with e
  subst e
  repeat' (first
    | with_reducible assumption
    | with_reducible apply catalogue_keeps
    | with_reducible apply keyAlloc_keeps)

theorem keyRetire_keeps {n : Nat} {c : Cmd} {s : State} (h : Keeps sA s) :
    Keeps sA (keyRetire n c s) := by
  unfold keyRetire
  repeat' (first
    | with_reducible assumption
    | with_reducible apply complete_keeps
    | with_reducible apply refuseOr_keeps
    | with_reducible apply sweepKeys_keeps
    | with_reducible apply retireSlot_keeps
    | intro _ _
    | split
    | (dsimp only))

theorem execKeyslotRetire_keeps {mb : Nat} {s : State} (h : Keeps sA s) :
    ∀ z, execKeyslotRetire mb s = .next z → Keeps sA z := by
  intro z e
  unfold execKeyslotRetire at e
  injection e with e
  subst e
  repeat' (first
    | with_reducible assumption
    | with_reducible apply catalogue_keeps
    | with_reducible apply keyRetire_keeps)

end Sys2Proof.Machine
end

