-- ==== Sys2Proof/Laws/KeepsService.lean ====
section
/-! SUPPORT. Each operation of the ledger, bring-up, ports, power, events, management links and test access keeps memory's form, the clocks' order and the queue. -/

namespace Sys2Proof.Machine

open Sys2Proof

variable {sA : State}

/-! ### Ledger -/

theorem updRep_keeps {f : Rep → Rep} {s : State} (h : Keeps sA s) :
    Keeps sA (updRep f s) := by
  unfold updRep
  repeat' (first
    | with_reducible assumption
    | fail_if_no_progress with_reducible refine Keeps.upd ?_ (by dsimp only))

theorem testReports_keeps {s : State} (h : Keeps sA s) :
    Keeps sA (testReports s) := by
  unfold testReports
  repeat' (first
    | with_reducible assumption
    | with_reducible apply updRep_keeps
    | with_reducible apply asyncRecord_keeps
    | with_reducible apply Keeps.fold
    | intro _ _ _)

theorem ledgerTake_keeps {ok : List Nat} {s : State} (h : Keeps sA s) :
    Keeps sA (ledgerTake ok s) := by
  unfold ledgerTake
  repeat' (first
    | with_reducible assumption
    | with_reducible apply updRep_keeps
    | with_reducible apply evPlatform_keeps
    | with_reducible apply testReports_keeps
    | with_reducible apply complete_keeps
    | split
    | (dsimp only))

theorem execLedgerWrite_keeps {ok : List Nat} {s : State} (h : Keeps sA s) :
    ∀ z, execLedgerWrite ok s = .next z → Keeps sA z := by
  intro z e
  unfold execLedgerWrite at e
  injection e with e
  subst e
  repeat' (first
    | with_reducible assumption
    | with_reducible apply dp_keeps
    | with_reducible apply ledgerTake_keeps
    | intro _ _
    | split)

theorem execLedgerRetry_keeps {ok : List Nat} {s : State} (h : Keeps sA s) :
    ∀ z, execLedgerRetry ok s = .next z → Keeps sA z := by
  intro z e
  unfold execLedgerRetry at e
  injection e with e
  subst e
  repeat' (first
    | with_reducible assumption
    | with_reducible apply dp_keeps
    | with_reducible apply ledgerTake_keeps
    | with_reducible apply reachWall_keeps
    | intro _ _
    | split)

theorem ledgerCompact_keeps {ok : List Nat} {s : State} (h : Keeps sA s) :
    Keeps sA (ledgerCompact ok s) := by
  unfold ledgerCompact
  repeat' (first
    | with_reducible assumption
    | with_reducible apply updRep_keeps
    | split
    | (dsimp only))

theorem execLedgerCompact_keeps {ok : List Nat} {s : State} (h : Keeps sA s) :
    ∀ z, execLedgerCompact ok s = .next z → Keeps sA z := by
  intro z e
  unfold execLedgerCompact at e
  injection e with e
  subst e
  repeat' (first
    | with_reducible assumption
    | with_reducible apply dp_keeps
    | with_reducible apply ledgerCompact_keeps)

theorem bindCore_keeps {l : Nat} {slot : Nat} {s : State} (h : Keeps sA s) :
    Keeps sA (bindCore l slot s) := by
  unfold bindCore
  repeat' (first
    | with_reducible assumption
    | fail_if_no_progress with_reducible refine Keeps.upd ?_ (by dsimp only))

theorem bindMatrix_keeps {m : Nat} {slot : Nat} {s : State} (h : Keeps sA s) :
    Keeps sA (bindMatrix m slot s) := by
  unfold bindMatrix
  repeat' (first
    | with_reducible assumption
    | fail_if_no_progress with_reducible refine Keeps.upd ?_ (by dsimp only))

theorem replayEntry_keeps {e : LedEnt} {s : State} (h : Keeps sA s) :
    Keeps sA (replayEntry s e) := by
  unfold replayEntry
  repeat' (first
    | with_reducible assumption
    | with_reducible apply bindCore_keeps
    | with_reducible apply bindMatrix_keeps
    | with_reducible apply updStack_keeps
    | with_reducible apply updRep_keeps
    | with_reducible apply updFlash_keeps
    | with_reducible apply updPort_keeps
    | fail_if_no_progress with_reducible refine Keeps.upd ?_ (by dsimp only)
    | split)

theorem rebindFailed_keeps {unit : Nat} {s : State} (h : Keeps sA s) :
    Keeps sA (rebindFailed s unit) := by
  unfold rebindFailed
  repeat' (first
    | with_reducible assumption
    | with_reducible apply rebindCore_keeps
    | with_reducible apply rebindMatrix_keeps
    | with_reducible apply unbindEngine_keeps
    | with_reducible apply Keeps.mapGetD
    | intro _
    | split
    | (dsimp only))

theorem splitsAll_keeps {s : State} (h : Keeps sA s) :
    Keeps sA (splitsAll s) := by
  unfold splitsAll
  repeat' (first
    | with_reducible assumption
    | with_reducible apply splitNote_keeps
    | with_reducible apply Keeps.fold
    | intro _ _ _)

theorem ledgerMerge_keeps {held : List Nat} {s : State} (h : Keeps sA s) :
    Keeps sA (ledgerMerge held s) := by
  unfold ledgerMerge
  repeat' (first
    | with_reducible assumption
    | with_reducible apply replayEntry_keeps
    | with_reducible apply evPlatform_keeps
    | with_reducible apply updRep_keeps
    | with_reducible apply rebindFailed_keeps
    | with_reducible apply settle_keeps
    | with_reducible apply splitsAll_keeps
    | with_reducible apply updBoot_keeps
    | fail_if_no_progress with_reducible refine Keeps.upd ?_ (by dsimp only)
    | with_reducible apply Keeps.fold
    | intro _ _ _
    | split)

theorem execLedgerMerge_keeps {held : List Nat} {s : State} (h : Keeps sA s) :
    ∀ z, execLedgerMerge held s = .next z → Keeps sA z := by
  intro z e
  unfold execLedgerMerge at e
  injection e with e
  subst e
  repeat' (first
    | with_reducible assumption
    | with_reducible apply dp_keeps
    | with_reducible apply ledgerMerge_keeps)

/-! ### SelfTest -/

theorem updTested_keeps {t : TestUnit} {f : UnitRec → UnitRec} {s : State} (h : Keeps sA s) :
    Keeps sA (updTested t f s) := by
  unfold updTested
  repeat' (first
    | with_reducible assumption
    | fail_if_no_progress with_reducible refine Keeps.upd ?_ (by dsimp only))

theorem updTest_keeps {t : TestUnit} {f : SelfTest → SelfTest} {s : State} (h : Keeps sA s) :
    Keeps sA (updTest t f s) := by
  unfold updTest
  repeat' (first
    | with_reducible assumption
    | with_reducible apply updRep_keeps)

theorem testQueue_keeps {t : TestUnit} {mgmt : Bool} {cmd : List Byte} {s : State} (h : Keeps sA s) :
    Keeps sA (testQueue t mgmt cmd s) := by
  unfold testQueue
  repeat' (first
    | with_reducible assumption
    | with_reducible apply updRep_keeps)

theorem selftestRun_keeps {t : TestUnit} {s : State} (h : Keeps sA s) :
    Keeps sA (selftestRun t s) := by
  unfold selftestRun
  repeat' (first
    | with_reducible assumption
    | with_reducible apply updTested_keeps
    | with_reducible apply updTest_keeps
    | with_reducible apply reachWall_keeps
    | with_reducible apply testQueue_keeps
    | split
    | (dsimp only))

theorem execSelftestRun_keeps {unit : TestUnit} {s : State} (h : Keeps sA s) :
    ∀ z, execSelftestRun unit s = .next z → Keeps sA z := by
  intro z e
  unfold execSelftestRun at e
  injection e with e
  subst e
  repeat' (first
    | with_reducible assumption
    | with_reducible apply dp_keeps
    | with_reducible apply selftestRun_keeps)

theorem notDue_keeps {t : TestUnit} {s : State} (h : Keeps sA s) :
    Keeps sA (notDue t s) := by
  unfold notDue
  repeat' (first
    | with_reducible assumption
    | fail_if_no_progress with_reducible refine Keeps.upd ?_ (by dsimp only)
    | split)

theorem testEnd_keeps {t : TestUnit} {fail : Option Nat} {s : State} (h : Keeps sA s) :
    Keeps sA (testEnd t fail s) := by
  unfold testEnd
  repeat' (first
    | with_reducible assumption
    | with_reducible apply updTest_keeps
    | with_reducible apply updTested_keeps
    | with_reducible apply notDue_keeps
    | with_reducible apply bankRetire_keeps
    | with_reducible apply quarantine_keeps
    | with_reducible apply testReports_keeps
    | split)

theorem selftestDone_keeps {t : TestUnit} {fail : Option Nat} {s : State} (h : Keeps sA s) :
    Keeps sA (selftestDone t fail s) := by
  unfold selftestDone
  repeat' (first
    | with_reducible assumption
    | with_reducible apply testEnd_keeps
    | with_reducible apply reach_keeps
    | split)

theorem execSelftestDone_keeps {unit : TestUnit} {fail : Option Nat} {s : State} (h : Keeps sA s) :
    ∀ z, execSelftestDone unit fail s = .next z → Keeps sA z := by
  intro z e
  unfold execSelftestDone at e
  injection e with e
  subst e
  repeat' (first
    | with_reducible assumption
    | with_reducible apply dp_keeps
    | with_reducible apply selftestDone_keeps)

theorem selftestStarved_keeps {t : TestUnit} {s : State} (h : Keeps sA s) :
    Keeps sA (selftestStarved t s) := by
  unfold selftestStarved
  repeat' (first
    | with_reducible assumption
    | with_reducible apply updTested_keeps
    | with_reducible apply reachWall_keeps
    | with_reducible apply evUnit_keeps
    | split)

theorem execSelftestStarved_keeps {unit : TestUnit} {s : State} (h : Keeps sA s) :
    ∀ z, execSelftestStarved unit s = .next z → Keeps sA z := by
  intro z e
  unfold execSelftestStarved at e
  injection e with e
  subst e
  repeat' (first
    | with_reducible assumption
    | with_reducible apply dp_keeps
    | with_reducible apply selftestStarved_keeps)

theorem splitsEnd_keeps {k : UnitKind} {u : Nat} {s : State} (h : Keeps sA s) :
    Keeps sA (splitsEnd k u s) := by
  unfold splitsEnd
  repeat' (first
    | with_reducible assumption
    | with_reducible apply splitEnd_keeps
    | split
    | (dsimp only))

theorem selftest_keeps {n : Nat} {c : Cmd} {s : State} (h : Keeps sA s) :
    Keeps sA (selftest n c s) := by
  unfold selftest
  repeat' (first
    | with_reducible assumption
    | with_reducible apply refuseOr_keeps
    | with_reducible apply testQueue_keeps
    | with_reducible apply updTested_keeps
    | with_reducible apply markDue_keeps
    | with_reducible apply complete_keeps
    | with_reducible apply splitsEnd_keeps
    | intro _ _
    | split)

theorem execSelftest_keeps {mb : Nat} {s : State} (h : Keeps sA s) :
    ∀ z, execSelftest mb s = .next z → Keeps sA z := by
  intro z e
  unfold execSelftest at e
  injection e with e
  subst e
  repeat' (first
    | with_reducible assumption
    | with_reducible apply catalogue_keeps
    | with_reducible apply selftest_keeps)

theorem execTestGet_keeps {mb : Nat} {s : State} (h : Keeps sA s) :
    ∀ z, execTestGet mb s = .next z → Keeps sA z := by
  intro z e
  unfold execTestGet at e
  injection e with e
  subst e
  repeat' (first
    | with_reducible assumption
    | with_reducible apply catalogue_keeps
    | with_reducible apply complete_keeps
    | intro _ _ _
    | split)

theorem liftUnit_keeps {k : UnitKind} {u : Nat} {n : Nat} {s : State} (h : Keeps sA s) :
    Keeps sA (liftUnit k u n s) := by
  unfold liftUnit
  repeat' (first
    | with_reducible assumption
    | with_reducible apply updTested_keeps
    | with_reducible apply bindCore_keeps
    | with_reducible apply bindMatrix_keeps
    | with_reducible apply splitEnd_keeps
    | with_reducible apply ledgerAdd_keeps
    | fail_if_no_progress with_reducible refine Keeps.upd ?_ (by dsimp only)
    | with_reducible apply Keeps.mapGetD
    | intro _
    | split)

theorem quarantineLift_keeps {n : Nat} {c : Cmd} {s : State} (h : Keeps sA s) :
    Keeps sA (quarantineLift n c s) := by
  unfold quarantineLift
  repeat' (first
    | with_reducible assumption
    | with_reducible apply complete_keeps
    | with_reducible apply liftUnit_keeps
    | split
    | (dsimp only))

theorem execQuarantineLift_keeps {mb : Nat} {s : State} (h : Keeps sA s) :
    ∀ z, execQuarantineLift mb s = .next z → Keeps sA z := by
  intro z e
  unfold execQuarantineLift at e
  injection e with e
  subst e
  repeat' (first
    | with_reducible assumption
    | with_reducible apply catalogue_keeps
    | with_reducible apply quarantineLift_keeps)

/-! ### Service -/

theorem checkSet_keeps {n : Nat} {c : Cmd} {s : State} (h : Keeps sA s) :
    Keeps sA (checkSet n c s) := by
  unfold checkSet
  repeat' (first
    | with_reducible assumption
    | with_reducible apply refuseOr_keeps
    | with_reducible apply completeGen_keeps
    | with_reducible apply updPart_keeps
    | intro _ _)

theorem execCheckSet_keeps {mb : Nat} {s : State} (h : Keeps sA s) :
    ∀ z, execCheckSet mb s = .next z → Keeps sA z := by
  intro z e
  unfold execCheckSet at e
  injection e with e
  subst e
  repeat' (first
    | with_reducible assumption
    | with_reducible apply catalogue_keeps
    | with_reducible apply checkSet_keeps)

theorem shadowMaxSet_keeps {n : Nat} {c : Cmd} {s : State} (h : Keeps sA s) :
    Keeps sA (shadowMaxSet n c s) := by
  unfold shadowMaxSet
  repeat' (first
    | with_reducible assumption
    | with_reducible apply refuseOr_keeps
    | with_reducible apply completeGen_keeps
    | with_reducible apply updPart_keeps
    | intro _ _)

theorem execShadowMaxSet_keeps {mb : Nat} {s : State} (h : Keeps sA s) :
    ∀ z, execShadowMaxSet mb s = .next z → Keeps sA z := by
  intro z e
  unfold execShadowMaxSet at e
  injection e with e
  subst e
  repeat' (first
    | with_reducible assumption
    | with_reducible apply catalogue_keeps
    | with_reducible apply shadowMaxSet_keeps)

theorem ledgerRead_keeps {n : Nat} {c : Cmd} {s : State} (h : Keeps sA s) :
    Keeps sA (ledgerRead n c s) := by
  unfold ledgerRead
  repeat' (first
    | with_reducible assumption
    | with_reducible apply complete_keeps
    | with_reducible apply completeX_keeps
    | with_reducible apply emit_keeps
    | split
    | (dsimp only))

theorem execLedgerRead_keeps {mb : Nat} {s : State} (h : Keeps sA s) :
    ∀ z, execLedgerRead mb s = .next z → Keeps sA z := by
  intro z e
  unfold execLedgerRead at e
  injection e with e
  subst e
  repeat' (first
    | with_reducible assumption
    | with_reducible apply catalogue_keeps
    | with_reducible apply ledgerRead_keeps)

theorem scrubSet_keeps {n : Nat} {c : Cmd} {s : State} (h : Keeps sA s) :
    Keeps sA (scrubSet n c s) := by
  unfold scrubSet
  repeat' (first
    | with_reducible assumption
    | with_reducible apply refuseOr_keeps
    | with_reducible apply completeGen_keeps
    | fail_if_no_progress with_reducible refine Keeps.upd ?_ (by dsimp only)
    | intro _ _)

theorem execScrubSet_keeps {mb : Nat} {s : State} (h : Keeps sA s) :
    ∀ z, execScrubSet mb s = .next z → Keeps sA z := by
  intro z e
  unfold execScrubSet at e
  injection e with e
  subst e
  repeat' (first
    | with_reducible assumption
    | with_reducible apply catalogue_keeps
    | with_reducible apply scrubSet_keeps)

theorem mbxWdogSet_keeps {n : Nat} {c : Cmd} {s : State} (h : Keeps sA s) :
    Keeps sA (mbxWdogSet n c s) := by
  unfold mbxWdogSet
  repeat' (first
    | with_reducible assumption
    | with_reducible apply refuseOr_keeps
    | with_reducible apply completeGen_keeps
    | with_reducible apply updHost_keeps
    | intro _ _)

theorem execMbxWdogSet_keeps {mb : Nat} {s : State} (h : Keeps sA s) :
    ∀ z, execMbxWdogSet mb s = .next z → Keeps sA z := by
  intro z e
  unfold execMbxWdogSet at e
  injection e with e
  subst e
  repeat' (first
    | with_reducible assumption
    | with_reducible apply catalogue_keeps
    | with_reducible apply mbxWdogSet_keeps)

theorem updPwr_keeps {f : Pwr → Pwr} {s : State} (h : Keeps sA s) :
    Keeps sA (updPwr f s) := by
  unfold updPwr
  repeat' (first
    | with_reducible assumption
    | fail_if_no_progress with_reducible refine Keeps.upd ?_ (by dsimp only))

theorem updClk_keeps {f : Clk → Clk} {s : State} (h : Keeps sA s) :
    Keeps sA (updClk f s) := by
  unfold updClk
  repeat' (first
    | with_reducible assumption
    | fail_if_no_progress with_reducible refine Keeps.upd ?_ (by dsimp only))

theorem powerEnvelope_keeps {n : Nat} {c : Cmd} {s : State} (h : Keeps sA s) :
    Keeps sA (powerEnvelope n c s) := by
  unfold powerEnvelope
  repeat' (first
    | with_reducible assumption
    | with_reducible apply refuseOr_keeps
    | with_reducible apply completeGen_keeps
    | with_reducible apply updPwr_keeps
    | intro _ _)

theorem execPowerEnvelope_keeps {mb : Nat} {s : State} (h : Keeps sA s) :
    ∀ z, execPowerEnvelope mb s = .next z → Keeps sA z := by
  intro z e
  unfold execPowerEnvelope at e
  injection e with e
  subst e
  repeat' (first
    | with_reducible assumption
    | with_reducible apply catalogue_keeps
    | with_reducible apply powerEnvelope_keeps)

theorem cellFreqPin_keeps {n : Nat} {c : Cmd} {s : State} (h : Keeps sA s) :
    Keeps sA (cellFreqPin n c s) := by
  unfold cellFreqPin
  repeat' (first
    | with_reducible assumption
    | with_reducible apply refuseOr_keeps
    | with_reducible apply completeGen_keeps
    | with_reducible apply updPwr_keeps
    | intro _ _)

theorem execCellFreqPin_keeps {mb : Nat} {s : State} (h : Keeps sA s) :
    ∀ z, execCellFreqPin mb s = .next z → Keeps sA z := by
  intro z e
  unfold execCellFreqPin at e
  injection e with e
  subst e
  repeat' (first
    | with_reducible assumption
    | with_reducible apply catalogue_keeps
    | with_reducible apply cellFreqPin_keeps)

theorem clkoutSet_keeps {n : Nat} {c : Cmd} {s : State} (h : Keeps sA s) :
    Keeps sA (clkoutSet n c s) := by
  unfold clkoutSet
  repeat' (first
    | with_reducible assumption
    | with_reducible apply refuseOr_keeps
    | with_reducible apply completeGen_keeps
    | with_reducible apply updClk_keeps
    | intro _ _)

theorem execClkoutSet_keeps {mb : Nat} {s : State} (h : Keeps sA s) :
    ∀ z, execClkoutSet mb s = .next z → Keeps sA z := by
  intro z e
  unfold execClkoutSet at e
  injection e with e
  subst e
  repeat' (first
    | with_reducible assumption
    | with_reducible apply catalogue_keeps
    | with_reducible apply clkoutSet_keeps)

theorem execPowerGet_keeps {mb : Nat} {s : State} (h : Keeps sA s) :
    ∀ z, execPowerGet mb s = .next z → Keeps sA z := by
  intro z e
  unfold execPowerGet at e
  injection e with e
  subst e
  repeat' (first
    | with_reducible assumption
    | with_reducible apply catalogue_keeps
    | with_reducible apply complete_keeps
    | intro _ _ _)

theorem dbgUnlock_keeps {n : Nat} {c : Cmd} {s : State} (h : Keeps sA s) :
    Keeps sA (dbgUnlock n c s) := by
  unfold dbgUnlock
  repeat' (first
    | with_reducible assumption
    | with_reducible apply complete_keeps
    | with_reducible apply raiseCounter_keeps
    | fail_if_no_progress with_reducible refine Keeps.upd ?_ (by dsimp only)
    | split)

theorem execDbgUnlock_keeps {mb : Nat} {s : State} (h : Keeps sA s) :
    ∀ z, execDbgUnlock mb s = .next z → Keeps sA z := by
  intro z e
  unfold execDbgUnlock at e
  injection e with e
  subst e
  repeat' (first
    | with_reducible assumption
    | with_reducible apply catalogue_keeps
    | with_reducible apply dbgUnlock_keeps)

theorem dbgDump_keeps {n : Nat} {c : Cmd} {s : State} (h : Keeps sA s) :
    Keeps sA (dbgDump n c s) := by
  unfold dbgDump
  repeat' (first
    | with_reducible assumption
    | with_reducible apply refuseOr_keeps
    | with_reducible apply draw_keeps
    | with_reducible apply complete_keeps
    | with_reducible apply cnt_keeps
    | fail_if_no_progress with_reducible refine Keeps.upd ?_ (by dsimp only)
    | intro _ _)

theorem execDbgDump_keeps {mb : Nat} {s : State} (h : Keeps sA s) :
    ∀ z, execDbgDump mb s = .next z → Keeps sA z := by
  intro z e
  unfold execDbgDump at e
  injection e with e
  subst e
  repeat' (first
    | with_reducible assumption
    | with_reducible apply catalogue_keeps
    | with_reducible apply dbgDump_keeps)

theorem execDbgLock_keeps {mb : Nat} {s : State} (h : Keeps sA s) :
    ∀ z, execDbgLock mb s = .next z → Keeps sA z := by
  intro z e
  unfold execDbgLock at e
  injection e with e
  subst e
  repeat' (first
    | with_reducible assumption
    | with_reducible apply catalogue_keeps
    | with_reducible apply complete_keeps
    | fail_if_no_progress with_reducible refine Keeps.upd ?_ (by dsimp only)
    | intro _ _ _)

/-! ### Boot -/

theorem inPhase_keeps {ph : BootPhase} {f : State → State} {s : State} (h : Keeps sA s) (hf : ∀ s, Keeps sA s → Keeps sA (f s)) :
    Keeps sA (inPhase ph f s) := by
  unfold inPhase
  repeat' (first
    | with_reducible assumption
    | with_reducible apply hf
    | split)

theorem trained_keeps {f : State → State} {s : State} (h : Keeps sA s) (hf : ∀ s, Keeps sA s → Keeps sA (f s)) :
    Keeps sA (trained f s) := by
  unfold trained
  repeat' (first
    | with_reducible assumption
    | with_reducible apply dp_keeps
    | split)

theorem latchMap_keeps {s : State} (h : Keeps sA s) :
    Keeps sA (latchMap s) := by
  unfold latchMap
  repeat' (first
    | with_reducible assumption
    | fail_if_no_progress with_reducible refine Keeps.upd ?_ (by dsimp only))

theorem fuseReadDone_keeps {agree : Bool} {parity : Bool} {s : State} (h : Keeps sA s) :
    Keeps sA (fuseReadDone agree parity s) := by
  unfold fuseReadDone
  repeat' (first
    | with_reducible assumption
    | with_reducible apply inPhase_keeps
    | with_reducible apply updBoot_keeps
    | with_reducible apply latchMap_keeps
    | intro _ _
    | split)

theorem execFuseReadDone_keeps {agree : Bool} {parity : Bool} {s : State} (h : Keeps sA s) :
    ∀ z, execFuseReadDone agree parity s = .next z → Keeps sA z := by
  intro z e
  unfold execFuseReadDone at e
  injection e with e
  subst e
  repeat' (first
    | with_reducible assumption
    | with_reducible apply fuseReadDone_keeps)

theorem cpStart_keeps {s : State} (h : Keeps sA s) :
    Keeps sA (cpStart s) := by
  unfold cpStart
  repeat' (first
    | with_reducible assumption
    | with_reducible apply draw_keeps
    | with_reducible apply updPwr_keeps
    | with_reducible apply put_keeps
    | with_reducible apply updBoot_keeps)

theorem bootImageVerify_keeps {fail : Option Nat} {svn : Nat} {s : State} (h : Keeps sA s) :
    Keeps sA (bootImageVerify fail svn s) := by
  unfold bootImageVerify
  repeat' (first
    | with_reducible assumption
    | with_reducible apply inPhase_keeps
    | with_reducible apply updRep_keeps
    | with_reducible apply cpStart_keeps
    | with_reducible apply updBoot_keeps
    | intro _ _
    | split)

theorem execBootImageVerify_keeps {fail : Option Nat} {svn : BitVec 32} {s : State} (h : Keeps sA s) :
    ∀ z, execBootImageVerify fail svn s = .next z → Keeps sA z := by
  intro z e
  unfold execBootImageVerify at e
  injection e with e
  subst e
  repeat' (first
    | with_reducible assumption
    | with_reducible apply bootImageVerify_keeps)

theorem imageFailed_keeps {u : Nat} {s : State} (h : Keeps sA s) :
    Keeps sA (imageFailed s u) := by
  unfold imageFailed
  repeat' (first
    | with_reducible assumption
    | with_reducible apply evUnit_keeps
    | with_reducible apply updBoot_keeps
    | with_reducible apply updTested_keeps
    | split)

theorem imageBroadcast_keeps {fails : List Nat} {s : State} (h : Keeps sA s) :
    Keeps sA (imageBroadcast fails s) := by
  unfold imageBroadcast
  repeat' (first
    | with_reducible assumption
    | with_reducible apply inPhase_keeps
    | with_reducible apply dp_keeps
    | with_reducible apply updBoot_keeps
    | with_reducible apply imageFailed_keeps
    | with_reducible apply Keeps.fold
    | intro _ _ _
    | intro _ _)

theorem execImageBroadcast_keeps {fails : List Nat} {s : State} (h : Keeps sA s) :
    ∀ z, execImageBroadcast fails s = .next z → Keeps sA z := by
  intro z e
  unfold execImageBroadcast at e
  injection e with e
  subst e
  repeat' (first
    | with_reducible assumption
    | with_reducible apply imageBroadcast_keeps)

theorem stackWaveStart_keeps {w : Nat} {s : State} (h : Keeps sA s) :
    Keeps sA (stackWaveStart w s) := by
  unfold stackWaveStart
  repeat' (first
    | with_reducible assumption
    | with_reducible apply trained_keeps
    | with_reducible apply updBoot_keeps
    | with_reducible apply reachWall_keeps
    | intro _ _
    | split)

theorem execStackWaveStart_keeps {w : Nat} {s : State} (h : Keeps sA s) :
    ∀ z, execStackWaveStart w s = .next z → Keeps sA z := by
  intro z e
  unfold execStackWaveStart at e
  injection e with e
  subst e
  repeat' (first
    | with_reducible assumption
    | with_reducible apply stackWaveStart_keeps)

theorem stackTrainingDone_keeps {c : Nat} {okay : Bool} {s : State} (h : Keeps sA s) :
    Keeps sA (stackTrainingDone c okay s) := by
  unfold stackTrainingDone
  repeat' (first
    | with_reducible assumption
    | with_reducible apply trained_keeps
    | with_reducible apply settle_keeps
    | with_reducible apply updStack_keeps
    | with_reducible apply evUnit_keeps
    | with_reducible apply updBoot_keeps
    | intro _ _
    | split
    | (dsimp only))

theorem execStackTrainingDone_keeps {stack : Nat} {okay : Bool} {s : State} (h : Keeps sA s) :
    ∀ z, execStackTrainingDone stack okay s = .next z → Keeps sA z := by
  intro z e
  unfold execStackTrainingDone at e
  injection e with e
  subst e
  repeat' (first
    | with_reducible assumption
    | with_reducible apply stackTrainingDone_keeps)

theorem cellReady_keeps {c : Nat} {s : State} (h : Keeps sA s) :
    Keeps sA (cellReady c s) := by
  unfold cellReady
  repeat' (first
    | with_reducible assumption
    | with_reducible apply trained_keeps
    | with_reducible apply settle_keeps
    | with_reducible apply updBoot_keeps
    | intro _ _
    | split)

theorem execCellReady_keeps {cell : Nat} {s : State} (h : Keeps sA s) :
    ∀ z, execCellReady cell s = .next z → Keeps sA z := by
  intro z e
  unfold execCellReady at e
  injection e with e
  subst e
  repeat' (first
    | with_reducible assumption
    | with_reducible apply cellReady_keeps)

theorem portCalibrated_keeps {p : Nat} {okay : Bool} {s : State} (h : Keeps sA s) :
    Keeps sA (portCalibrated p okay s) := by
  unfold portCalibrated
  repeat' (first
    | with_reducible assumption
    | with_reducible apply trained_keeps
    | with_reducible apply settle_keeps
    | with_reducible apply updBoot_keeps
    | intro _ _
    | split)

theorem execPortCalibrated_keeps {p : Nat} {okay : Bool} {s : State} (h : Keeps sA s) :
    ∀ z, execPortCalibrated p okay s = .next z → Keeps sA z := by
  intro z e
  unfold execPortCalibrated at e
  injection e with e
  subst e
  repeat' (first
    | with_reducible assumption
    | with_reducible apply portCalibrated_keeps)

theorem mgmtPortReady_keeps {x : Nat} {s : State} (h : Keeps sA s) :
    Keeps sA (mgmtPortReady x s) := by
  unfold mgmtPortReady
  repeat' (first
    | with_reducible assumption
    | with_reducible apply settle_keeps
    | with_reducible apply updBoot_keeps
    | fail_if_no_progress with_reducible refine Keeps.upd ?_ (by dsimp only)
    | split)

theorem execMgmtPortReady_keeps {port : Nat} {s : State} (h : Keeps sA s) :
    ∀ z, execMgmtPortReady port s = .next z → Keeps sA z := by
  intro z e
  unfold execMgmtPortReady at e
  injection e with e
  subst e
  repeat' (first
    | with_reducible assumption
    | with_reducible apply mgmtPortReady_keeps)

theorem censusNext_keeps {ch : Nat} {s : State} (h : Keeps sA s) :
    Keeps sA (censusNext ch s) := by
  unfold censusNext
  repeat' (first
    | with_reducible assumption
    | with_reducible apply updBoot_keeps
    | with_reducible apply settle_keeps
    | with_reducible apply evFlash_keeps
    | with_reducible apply updFlash_keeps
    | split
    | (dsimp only))

theorem admitTarget_keeps {ch : Nat} {target : Nat} {t : TargetPage} {s : State} (h : Keeps sA s) :
    Keeps sA (admitTarget ch target t s) := by
  unfold admitTarget
  repeat' (first
    | with_reducible assumption
    | with_reducible apply censusNext_keeps
    | with_reducible apply updFlash_keeps)

theorem censusTarget_keeps {ch : Nat} {target : Nat} {t : Option TargetPage} {s : State} (h : Keeps sA s) :
    Keeps sA (censusTarget ch target t s) := by
  unfold censusTarget
  repeat' (first
    | with_reducible assumption
    | with_reducible apply trained_keeps
    | with_reducible apply censusNext_keeps
    | with_reducible apply evFlash_keeps
    | with_reducible apply admitTarget_keeps
    | with_reducible apply updBoot_keeps
    | intro _ _
    | split
    | (dsimp only))

theorem execCensusTarget_keeps {ch : Nat} {target : Nat} {t : Option TargetPage} {s : State} (h : Keeps sA s) :
    ∀ z, execCensusTarget ch target t s = .next z → Keeps sA z := by
  intro z e
  unfold execCensusTarget at e
  injection e with e
  subst e
  repeat' (first
    | with_reducible assumption
    | with_reducible apply censusTarget_keeps)

theorem enrolScanDone_keeps {ch : Nat} {bad : List Nat} {s : State} (h : Keeps sA s) :
    Keeps sA (enrolScanDone ch bad s) := by
  unfold enrolScanDone
  repeat' (first
    | with_reducible assumption
    | with_reducible apply trained_keeps
    | with_reducible apply ledgerAdd_keeps
    | with_reducible apply admitTarget_keeps
    | with_reducible apply evFlash_keeps
    | with_reducible apply Keeps.fold
    | intro _ _ _
    | intro _ _
    | split)

theorem execEnrolScanDone_keeps {ch : Nat} {bad : List Nat} {s : State} (h : Keeps sA s) :
    ∀ z, execEnrolScanDone ch bad s = .next z → Keeps sA z := by
  intro z e
  unfold execEnrolScanDone at e
  injection e with e
  subst e
  repeat' (first
    | with_reducible assumption
    | with_reducible apply enrolScanDone_keeps)

theorem backgroundErase_keeps {ch : Nat} {blocks : List Nat} {s : State} (h : Keeps sA s) :
    Keeps sA (backgroundErase ch blocks s) := by
  unfold backgroundErase
  repeat' (first
    | with_reducible assumption
    | with_reducible apply releaseWrites_keeps
    | with_reducible apply updFlash_keeps
    | split
    | (dsimp only))

theorem execBackgroundErase_keeps {ch : Nat} {erased : List Nat} {s : State} (h : Keeps sA s) :
    ∀ z, execBackgroundErase ch erased s = .next z → Keeps sA z := by
  intro z e
  unfold execBackgroundErase at e
  injection e with e
  subst e
  repeat' (first
    | with_reducible assumption
    | with_reducible apply dp_keeps
    | with_reducible apply backgroundErase_keeps)

/-! ### Port -/

theorem enter_keeps {p : Nat} {st : PortSt} {s : State} (h : Keeps sA s) :
    Keeps sA (enter p st s) := by
  unfold enter
  repeat' (first
    | with_reducible assumption
    | with_reducible apply updPort_keeps)

theorem linkLost_keeps {p : Nat} {s : State} (h : Keeps sA s) :
    Keeps sA (linkLost p s) := by
  unfold linkLost
  repeat' (first
    | with_reducible assumption
    | with_reducible apply resumePublish_keeps
    | with_reducible apply agentLost_keeps
    | with_reducible apply tagsLost_keeps
    | with_reducible apply withdrawRemote_keeps
    | with_reducible apply serLost_keeps
    | with_reducible apply streamsLost_keeps
    | with_reducible apply carsLost_keeps
    | with_reducible apply depLinkLost_keeps
    | with_reducible apply Keeps.fold
    | intro _ _ _)

theorem leaveActive_keeps {p : Nat} {st : PortSt} {s : State} (h : Keeps sA s) :
    Keeps sA (leaveActive p st s) := by
  unfold leaveActive
  repeat' (first
    | with_reducible assumption
    | with_reducible apply updPort_keeps
    | with_reducible apply linkLost_keeps
    | split
    | (dsimp only))

theorem enterActive_keeps {p : Nat} {s : State} (h : Keeps sA s) :
    Keeps sA (enterActive p s) := by
  unfold enterActive
  repeat' (first
    | with_reducible assumption
    | with_reducible apply updPort_keeps)

theorem inState_keeps {p : Nat} {st : PortSt} {f : State → State} {s : State} (h : Keeps sA s) (hf : ∀ s, Keeps sA s → Keeps sA (f s)) :
    Keeps sA (inState p st f s) := by
  unfold inState
  repeat' (first
    | with_reducible assumption
    | with_reducible apply hf
    | split)

theorem stateTimeout_keeps {p : Nat} {st : PortSt} {next : PortSt} {ns : Nat} {s : State} (h : Keeps sA s) :
    Keeps sA (stateTimeout p st next ns s) := by
  unfold stateTimeout
  repeat' (first
    | with_reducible assumption
    | with_reducible apply inState_keeps
    | with_reducible apply timer_keeps
    | with_reducible apply enter_keeps
    | intro _ _)

theorem execPartnerDetect_keeps {p : Nat} {lanes : Nat} {s : State} (h : Keeps sA s) :
    ∀ z, execPartnerDetect p lanes s = .next z → Keeps sA z := by
  intro z e
  unfold execPartnerDetect at e
  injection e with e
  subst e
  repeat' (first
    | with_reducible assumption
    | with_reducible apply dp_keeps
    | with_reducible apply inState_keeps
    | with_reducible apply enter_keeps
    | intro _ _
    | split)

theorem execDetectTimeout_keeps {p : Nat} {s : State} (h : Keeps sA s) :
    ∀ z, execDetectTimeout p s = .next z → Keeps sA z := by
  intro z e
  unfold execDetectTimeout at e
  injection e with e
  subst e
  repeat' (first
    | with_reducible assumption
    | with_reducible apply stateTimeout_keeps)

theorem eqDone_keeps {p : Nat} {good : List Nat} {s : State} (h : Keeps sA s) :
    Keeps sA (eqDone p good s) := by
  unfold eqDone
  repeat' (first
    | with_reducible assumption
    | with_reducible apply updPort_keeps
    | with_reducible apply enter_keeps
    | split)

theorem execEqDone_keeps {p : Nat} {good : List Nat} {s : State} (h : Keeps sA s) :
    ∀ z, execEqDone p good s = .next z → Keeps sA z := by
  intro z e
  unfold execEqDone at e
  injection e with e
  subst e
  repeat' (first
    | with_reducible assumption
    | with_reducible apply dp_keeps
    | with_reducible apply inState_keeps
    | with_reducible apply eqDone_keeps
    | intro _ _)

theorem execEqTimeout_keeps {p : Nat} {s : State} (h : Keeps sA s) :
    ∀ z, execEqTimeout p s = .next z → Keeps sA z := by
  intro z e
  unfold execEqTimeout at e
  injection e with e
  subst e
  repeat' (first
    | with_reducible assumption
    | with_reducible apply stateTimeout_keeps)

theorem execAlignDone_keeps {p : Nat} {s : State} (h : Keeps sA s) :
    ∀ z, execAlignDone p s = .next z → Keeps sA z := by
  intro z e
  unfold execAlignDone at e
  injection e with e
  subst e
  repeat' (first
    | with_reducible assumption
    | with_reducible apply dp_keeps
    | with_reducible apply inState_keeps
    | with_reducible apply enter_keeps
    | intro _ _)

theorem execAlignTimeout_keeps {p : Nat} {s : State} (h : Keeps sA s) :
    ∀ z, execAlignTimeout p s = .next z → Keeps sA z := by
  intro z e
  unfold execAlignTimeout at e
  injection e with e
  subst e
  repeat' (first
    | with_reducible assumption
    | with_reducible apply stateTimeout_keeps)

theorem goDown_keeps {p : Nat} {cause : Nat} {s : State} (h : Keeps sA s) :
    Keeps sA (goDown p cause s) := by
  unfold goDown
  repeat' (first
    | with_reducible assumption
    | with_reducible apply splitNote_keeps
    | with_reducible apply updPort_keeps
    | with_reducible apply enter_keeps)

theorem execLinkAuthDone_keeps {p : Nat} {okay : Bool} {s : State} (h : Keeps sA s) :
    ∀ z, execLinkAuthDone p okay s = .next z → Keeps sA z := by
  intro z e
  unfold execLinkAuthDone at e
  injection e with e
  subst e
  repeat' (first
    | with_reducible assumption
    | with_reducible apply dp_keeps
    | with_reducible apply inState_keeps
    | with_reducible apply enter_keeps
    | with_reducible apply evPort_keeps
    | with_reducible apply goDown_keeps
    | intro _ _
    | split)

theorem execAuthTimeout_keeps {p : Nat} {s : State} (h : Keeps sA s) :
    ∀ z, execAuthTimeout p s = .next z → Keeps sA z := by
  intro z e
  unfold execAuthTimeout at e
  injection e with e
  subst e
  repeat' (first
    | with_reducible assumption
    | with_reducible apply stateTimeout_keeps)

theorem execConfigDone_keeps {p : Nat} {partner : Nat} {sptag : Nat} {coherent : Bool} {s : State} (h : Keeps sA s) :
    ∀ z, execConfigDone p partner sptag coherent s = .next z → Keeps sA z := by
  intro z e
  unfold execConfigDone at e
  injection e with e
  subst e
  repeat' (first
    | with_reducible assumption
    | with_reducible apply dp_keeps
    | with_reducible apply inState_keeps
    | with_reducible apply updPort_keeps
    | with_reducible apply evPort_keeps
    | with_reducible apply goDown_keeps
    | with_reducible apply enterActive_keeps
    | intro _ _
    | split
    | (dsimp only))

theorem execConfigTimeout_keeps {p : Nat} {s : State} (h : Keeps sA s) :
    ∀ z, execConfigTimeout p s = .next z → Keeps sA z := by
  intro z e
  unfold execConfigTimeout at e
  injection e with e
  subst e
  repeat' (first
    | with_reducible assumption
    | with_reducible apply stateTimeout_keeps)

theorem execRecoverDone_keeps {p : Nat} {good : List Nat} {s : State} (h : Keeps sA s) :
    ∀ z, execRecoverDone p good s = .next z → Keeps sA z := by
  intro z e
  unfold execRecoverDone at e
  injection e with e
  subst e
  repeat' (first
    | with_reducible assumption
    | with_reducible apply dp_keeps
    | with_reducible apply inState_keeps
    | with_reducible apply updPort_keeps
    | with_reducible apply cnt_keeps
    | with_reducible apply enterActive_keeps
    | intro _ _
    | split
    | (dsimp only))

theorem execRecoverTimeout_keeps {p : Nat} {s : State} (h : Keeps sA s) :
    ∀ z, execRecoverTimeout p s = .next z → Keeps sA z := by
  intro z e
  unfold execRecoverTimeout at e
  injection e with e
  subst e
  repeat' (first
    | with_reducible assumption
    | with_reducible apply stateTimeout_keeps)

theorem execFecLockLoss_keeps {p : Nat} {s : State} (h : Keeps sA s) :
    ∀ z, execFecLockLoss p s = .next z → Keeps sA z := by
  intro z e
  unfold execFecLockLoss at e
  injection e with e
  subst e
  repeat' (first
    | with_reducible assumption
    | with_reducible apply dp_keeps
    | with_reducible apply inState_keeps
    | with_reducible apply leaveActive_keeps
    | intro _ _)

theorem laneNote_keeps {p : Nat} {phys : Nat} {s : State} (h : Keeps sA s) :
    Keeps sA (laneNote p phys s) := by
  unfold laneNote
  repeat' (first
    | with_reducible assumption
    | with_reducible apply updPort_keeps
    | with_reducible apply ledgerAdd_keeps
    | split
    | (dsimp only))

theorem laneFails_keeps {p : Nat} {phys : Nat} {s : State} (h : Keeps sA s) :
    Keeps sA (laneFails p phys s) := by
  unfold laneFails
  repeat' (first
    | with_reducible assumption
    | with_reducible apply laneNote_keeps
    | with_reducible apply updPort_keeps
    | with_reducible apply emit_keeps
    | with_reducible apply leaveActive_keeps
    | split
    | (dsimp only))

theorem laneWindow_keeps {p : Nat} {s : State} (h : Keeps sA s) :
    Keeps sA (laneWindow p s) := by
  unfold laneWindow
  repeat' (first
    | with_reducible assumption
    | with_reducible apply timer_keeps
    | with_reducible apply updPort_keeps
    | with_reducible apply laneFails_keeps
    | with_reducible apply Keeps.fold
    | intro _ _ _
    | intro _ _
    | split
    | (dsimp only))

theorem execLaneSerWindow_keeps {p : Nat} {s : State} (h : Keeps sA s) :
    ∀ z, execLaneSerWindow p s = .next z → Keeps sA z := by
  intro z e
  unfold execLaneSerWindow at e
  injection e with e
  subst e
  repeat' (first
    | with_reducible assumption
    | with_reducible apply laneWindow_keeps
    | split)

theorem execClockRecoveryLoss_keeps {p : Nat} {lane : Nat} {s : State} (h : Keeps sA s) :
    ∀ z, execClockRecoveryLoss p lane s = .next z → Keeps sA z := by
  intro z e
  unfold execClockRecoveryLoss at e
  injection e with e
  subst e
  repeat' (first
    | with_reducible assumption
    | with_reducible apply dp_keeps
    | with_reducible apply laneFails_keeps
    | intro _ _
    | split)

theorem remapAsk_keeps {p : Nat} {s : State} (h : Keeps sA s) :
    Keeps sA (remapAsk p s) := by
  unfold remapAsk
  repeat' (first
    | with_reducible assumption
    | with_reducible apply emit_keeps
    | with_reducible apply updPort_keeps)

theorem substitute_keeps {p : Nat} {lane : Nat} {s : State} (h : Keeps sA s) :
    Keeps sA (substitute p lane s) := by
  unfold substitute
  repeat' (first
    | with_reducible assumption
    | with_reducible apply cnt_keeps
    | with_reducible apply updPort_keeps
    | with_reducible apply remapAsk_keeps
    | split
    | (dsimp only))

theorem execSubstitute_keeps {p : Nat} {lane : Nat} {s : State} (h : Keeps sA s) :
    ∀ z, execSubstitute p lane s = .next z → Keeps sA z := by
  intro z e
  unfold execSubstitute at e
  injection e with e
  subst e
  repeat' (first
    | with_reducible assumption
    | with_reducible apply dp_keeps
    | with_reducible apply substitute_keeps
    | intro _ _
    | split)

theorem remapFail_keeps {p : Nat} {s : State} (h : Keeps sA s) :
    Keeps sA (remapFail p s) := by
  unfold remapFail
  repeat' (first
    | with_reducible assumption
    | with_reducible apply evPort_keeps
    | with_reducible apply cnt_keeps
    | with_reducible apply updPort_keeps)

theorem remapAnswer_keeps {p : Nat} {seq : Nat} {ans : Nat} {s : State} (h : Keeps sA s) :
    Keeps sA (remapAnswer p seq ans s) := by
  unfold remapAnswer
  repeat' (first
    | with_reducible assumption
    | with_reducible apply updPort_keeps
    | with_reducible apply remapFail_keeps
    | split
    | (dsimp only))

theorem execRemapAnswer_keeps {p : Nat} {seq : Nat} {ans : Nat} {s : State} (h : Keeps sA s) :
    ∀ z, execRemapAnswer p seq ans s = .next z → Keeps sA z := by
  intro z e
  unfold execRemapAnswer at e
  injection e with e
  subst e
  repeat' (first
    | with_reducible assumption
    | with_reducible apply dp_keeps
    | with_reducible apply remapAnswer_keeps
    | intro _ _
    | split)

theorem remapTimeout_keeps {p : Nat} {s : State} (h : Keeps sA s) :
    Keeps sA (remapTimeout p s) := by
  unfold remapTimeout
  repeat' (first
    | with_reducible assumption
    | with_reducible apply timer_keeps
    | with_reducible apply remapAsk_keeps
    | with_reducible apply updPort_keeps
    | with_reducible apply remapFail_keeps
    | intro _ _
    | split
    | (dsimp only))

theorem execRemapTimeout_keeps {p : Nat} {s : State} (h : Keeps sA s) :
    ∀ z, execRemapTimeout p s = .next z → Keeps sA z := by
  intro z e
  unfold execRemapTimeout at e
  injection e with e
  subst e
  repeat' (first
    | with_reducible assumption
    | with_reducible apply remapTimeout_keeps
    | split)

theorem spareEq_keeps {p : Nat} {s : State} (h : Keeps sA s) :
    Keeps sA (spareEq p s) := by
  unfold spareEq
  repeat' (first
    | with_reducible assumption
    | with_reducible apply cnt_keeps
    | with_reducible apply updPort_keeps
    | split
    | (dsimp only))

theorem execSpareEqDone_keeps {p : Nat} {s : State} (h : Keeps sA s) :
    ∀ z, execSpareEqDone p s = .next z → Keeps sA z := by
  intro z e
  unfold execSpareEqDone at e
  injection e with e
  subst e
  repeat' (first
    | with_reducible assumption
    | with_reducible apply dp_keeps
    | with_reducible apply spareEq_keeps
    | intro _ _
    | split)

theorem askRetry_keeps {p : Nat} {s : State} (h : Keeps sA s) :
    Keeps sA (askRetry p s) := by
  unfold askRetry
  repeat' (first
    | with_reducible assumption
    | with_reducible apply emit_keeps
    | with_reducible apply updPort_keeps)

theorem flitAck_keeps {p : Nat} {f : Flit} {s : State} (h : Keeps sA s) :
    Keeps sA (flitAck p f s) := by
  unfold flitAck
  repeat' (first
    | with_reducible assumption
    | with_reducible apply pump_keeps
    | with_reducible apply updPort_keeps)

theorem flitNote_keeps {p : Nat} {f : Flit} {s : State} (h : Keeps sA s) :
    Keeps sA (flitNote p f s) := by
  unfold flitNote
  repeat' (first
    | with_reducible assumption
    | with_reducible apply cnt_keeps
    | with_reducible apply updPort_keeps
    | with_reducible apply Keeps.fold
    | intro _ _ _
    | split
    | (dsimp only))

theorem flitStep_keeps {p : Nat} {f : Flit} {s : State} (h : Keeps sA s) :
    Keeps sA (flitStep p f s) := by
  unfold flitStep
  repeat' (first
    | with_reducible assumption
    | with_reducible apply updPort_keeps)

theorem flitReceive_keeps {p : Nat} {f : Flit} {s : State} (h : Keeps sA s) :
    Keeps sA (flitReceive p f s) := by
  unfold flitReceive
  repeat' (first
    | with_reducible assumption
    | with_reducible apply flitNote_keeps
    | with_reducible apply askRetry_keeps
    | with_reducible apply cnt_keeps
    | with_reducible apply updPort_keeps
    | with_reducible apply leaveActive_keeps
    | with_reducible apply evPort_keeps
    | with_reducible apply flitStep_keeps
    | with_reducible apply flitAck_keeps
    | split
    | (dsimp only))

theorem execFlitReceive_keeps {p : Nat} {f : Flit} {s : State} (h : Keeps sA s) :
    ∀ z, execFlitReceive p f s = .next z → Keeps sA z := by
  intro z e
  unfold execFlitReceive at e
  injection e with e
  subst e
  repeat' (first
    | with_reducible assumption
    | with_reducible apply dp_keeps
    | with_reducible apply flitReceive_keeps
    | intro _ _
    | split)

theorem retry_keeps {p : Nat} {seq : Nat} {s : State} (h : Keeps sA s) :
    Keeps sA (retry p seq s) := by
  unfold retry
  repeat' (first
    | with_reducible assumption
    | with_reducible apply updPort_keeps
    | with_reducible apply leaveActive_keeps
    | with_reducible apply put_keeps
    | with_reducible apply cnt_keeps
    | with_reducible apply Keeps.fold
    | intro _ _ _
    | split
    | (dsimp only))

theorem execRetry_keeps {p : Nat} {seq : Nat} {s : State} (h : Keeps sA s) :
    ∀ z, execRetry p seq s = .next z → Keeps sA z := by
  intro z e
  unfold execRetry at e
  injection e with e
  subst e
  repeat' (first
    | with_reducible assumption
    | with_reducible apply dp_keeps
    | with_reducible apply retry_keeps
    | intro _ _
    | split)

theorem keyUpdate_keeps {p : Nat} {own : Bool} {s : State} (h : Keeps sA s) :
    Keeps sA (keyUpdate p own s) := by
  unfold keyUpdate
  repeat' (first
    | with_reducible assumption
    | with_reducible apply emit_keeps
    | with_reducible apply pump_keeps
    | with_reducible apply updPort_keeps
    | split)

theorem execKeyupdate_keeps {p : Nat} {own : Bool} {s : State} (h : Keeps sA s) :
    ∀ z, execKeyupdate p own s = .next z → Keeps sA z := by
  intro z e
  unfold execKeyupdate at e
  injection e with e
  subst e
  repeat' (first
    | with_reducible assumption
    | with_reducible apply dp_keeps
    | with_reducible apply keyUpdate_keeps
    | intro _ _
    | split)

theorem flitAckSend_keeps {p : Nat} {s : State} (h : Keeps sA s) :
    Keeps sA (flitAckSend p s) := by
  unfold flitAckSend
  repeat' (first
    | with_reducible assumption
    | with_reducible apply emit_keeps
    | with_reducible apply updPort_keeps
    | with_reducible apply Keeps.fold
    | intro _ _ _
    | split
    | (dsimp only))

theorem execFlitAckSend_keeps {p : Nat} {s : State} (h : Keeps sA s) :
    ∀ z, execFlitAckSend p s = .next z → Keeps sA z := by
  intro z e
  unfold execFlitAckSend at e
  injection e with e
  subst e
  repeat' (first
    | with_reducible assumption
    | with_reducible apply dp_keeps
    | with_reducible apply flitAckSend_keeps
    | intro _ _
    | split)

theorem arrive_keeps {p : Nat} {k : MsgKind} {data : List Byte} {f : State → State} {s : State} (h : Keeps sA s) (hf : ∀ s, Keeps sA s → Keeps sA (f s)) :
    Keeps sA (arrive p k data f s) := by
  unfold arrive
  repeat' (first
    | with_reducible assumption
    | with_reducible apply hf
    | with_reducible apply leaveActive_keeps
    | with_reducible apply updPort_keeps
    | split
    | (dsimp only))

theorem execRdS_keeps {p : Nat} {tag : Nat} {ctx : Nat} {addr : Addr} {s : State} (h : Keeps sA s) :
    ∀ z, execRdS p tag ctx addr s = .next z → Keeps sA z := by
  intro z e
  unfold execRdS at e
  injection e with e
  subst e
  repeat' (first
    | with_reducible assumption
    | with_reducible apply arrive_keeps
    | with_reducible apply agentReq_keeps)

theorem execRdM_keeps {p : Nat} {tag : Nat} {ctx : Nat} {addr : Addr} {s : State} (h : Keeps sA s) :
    ∀ z, execRdM p tag ctx addr s = .next z → Keeps sA z := by
  intro z e
  unfold execRdM at e
  injection e with e
  subst e
  repeat' (first
    | with_reducible assumption
    | with_reducible apply arrive_keeps
    | with_reducible apply agentReq_keeps)

theorem execUpgM_keeps {p : Nat} {tag : Nat} {ctx : Nat} {addr : Addr} {s : State} (h : Keeps sA s) :
    ∀ z, execUpgM p tag ctx addr s = .next z → Keeps sA z := by
  intro z e
  unfold execUpgM at e
  injection e with e
  subst e
  repeat' (first
    | with_reducible assumption
    | with_reducible apply arrive_keeps
    | with_reducible apply agentReq_keeps)

theorem execWb_keeps {p : Nat} {tag : Nat} {ctx : Nat} {addr : Addr} {data : List Byte} {s : State} (h : Keeps sA s) :
    ∀ z, execWb p tag ctx addr data s = .next z → Keeps sA z := by
  intro z e
  unfold execWb at e
  injection e with e
  subst e
  repeat' (first
    | with_reducible assumption
    | with_reducible apply arrive_keeps
    | with_reducible apply agentGives_keeps)

theorem execEvict_keeps {p : Nat} {tag : Nat} {ctx : Nat} {addr : Addr} {s : State} (h : Keeps sA s) :
    ∀ z, execEvict p tag ctx addr s = .next z → Keeps sA z := by
  intro z e
  unfold execEvict at e
  injection e with e
  subst e
  repeat' (first
    | with_reducible assumption
    | with_reducible apply arrive_keeps
    | with_reducible apply agentGives_keeps)

theorem execRdNc_keeps {p : Nat} {tag : Nat} {ctx : Nat} {addr : Addr} {s : State} (h : Keeps sA s) :
    ∀ z, execRdNc p tag ctx addr s = .next z → Keeps sA z := by
  intro z e
  unfold execRdNc at e
  injection e with e
  subst e
  repeat' (first
    | with_reducible assumption
    | with_reducible apply arrive_keeps
    | with_reducible apply linkReq_keeps)

theorem execWrLine_keeps {p : Nat} {tag : Nat} {ctx : Nat} {addr : Addr} {data : List Byte} {s : State} (h : Keeps sA s) :
    ∀ z, execWrLine p tag ctx addr data s = .next z → Keeps sA z := by
  intro z e
  unfold execWrLine at e
  injection e with e
  subst e
  repeat' (first
    | with_reducible assumption
    | with_reducible apply arrive_keeps
    | with_reducible apply linkReq_keeps)

theorem execWrPart_keeps {p : Nat} {tag : Nat} {ctx : Nat} {addr : Addr} {data : List Byte} {mask : BitVec 64} {s : State} (h : Keeps sA s) :
    ∀ z, execWrPart p tag ctx addr data mask s = .next z → Keeps sA z := by
  intro z e
  unfold execWrPart at e
  injection e with e
  subst e
  repeat' (first
    | with_reducible assumption
    | with_reducible apply arrive_keeps
    | with_reducible apply linkReq_keeps)

theorem execSyncUpd_keeps {p : Nat} {tag : Nat} {ctx : Nat} {sa : BitVec 64} {opnd : BitVec 64} {sub : Bool} {s : State} (h : Keeps sA s) :
    ∀ z, execSyncUpd p tag ctx sa opnd sub s = .next z → Keeps sA z := by
  intro z e
  unfold execSyncUpd at e
  injection e with e
  subst e
  repeat' (first
    | with_reducible assumption
    | with_reducible apply arrive_keeps
    | with_reducible apply syncUpd_keeps)

theorem execSyncRd_keeps {p : Nat} {tag : Nat} {ctx : Nat} {sa : BitVec 64} {s : State} (h : Keeps sA s) :
    ∀ z, execSyncRd p tag ctx sa s = .next z → Keeps sA z := by
  intro z e
  unfold execSyncRd at e
  injection e with e
  subst e
  repeat' (first
    | with_reducible assumption
    | with_reducible apply arrive_keeps
    | with_reducible apply syncRd_keeps)

theorem execSyncWait_keeps {p : Nat} {tag : Nat} {ctx : Nat} {sa : BitVec 64} {opnd : BitVec 64} {timeout : BitVec 32} {kind : Nat} {s : State} (h : Keeps sA s) :
    ∀ z, execSyncWait p tag ctx sa opnd timeout kind s = .next z → Keeps sA z := by
  intro z e
  unfold execSyncWait at e
  injection e with e
  subst e
  repeat' (first
    | with_reducible assumption
    | with_reducible apply arrive_keeps
    | with_reducible apply syncWait_keeps
    | with_reducible apply rspFault_keeps
    | intro _ _
    | split)

theorem execFeOp_keeps {p : Nat} {tag : Nat} {ctx : Nat} {sa : BitVec 64} {f : FeOp} {timeout : BitVec 32} {data : List Byte} {s : State} (h : Keeps sA s) :
    ∀ z, execFeOp p tag ctx sa f timeout data s = .next z → Keeps sA z := by
  intro z e
  unfold execFeOp at e
  injection e with e
  subst e
  repeat' (first
    | with_reducible assumption
    | with_reducible apply arrive_keeps
    | with_reducible apply feOpMsg_keeps)

theorem execSnpInv_keeps {p : Nat} {line : Nat} {s : State} (h : Keeps sA s) :
    ∀ z, execSnpInv p line s = .next z → Keeps sA z := by
  intro z e
  unfold execSnpInv at e
  injection e with e
  subst e
  repeat' (first
    | with_reducible assumption
    | with_reducible apply dp_keeps
    | with_reducible apply demand_keeps
    | intro _ _
    | split)

theorem execSnpShr_keeps {p : Nat} {line : Nat} {s : State} (h : Keeps sA s) :
    ∀ z, execSnpShr p line s = .next z → Keeps sA z := by
  intro z e
  unfold execSnpShr at e
  injection e with e
  subst e
  repeat' (first
    | with_reducible assumption
    | with_reducible apply dp_keeps
    | with_reducible apply demand_keeps
    | intro _ _
    | split)

theorem execRspData_keeps {p : Nat} {tag : Nat} {data : List Byte} {poison : Bool} {s : State} (h : Keeps sA s) :
    ∀ z, execRspData p tag data poison s = .next z → Keeps sA z := by
  intro z e
  unfold execRspData at e
  injection e with e
  subst e
  repeat' (first
    | with_reducible assumption
    | with_reducible apply arrive_keeps
    | with_reducible apply answer_keeps)

theorem execRspAck_keeps {p : Nat} {tag : Nat} {s : State} (h : Keeps sA s) :
    ∀ z, execRspAck p tag s = .next z → Keeps sA z := by
  intro z e
  unfold execRspAck at e
  injection e with e
  subst e
  repeat' (first
    | with_reducible assumption
    | with_reducible apply arrive_keeps
    | with_reducible apply answer_keeps)

theorem execRspSnp_keeps {p : Nat} {line : Nat} {data : Option (List Byte)} {poison : Bool} {s : State} (h : Keeps sA s) :
    ∀ z, execRspSnp p line data poison s = .next z → Keeps sA z := by
  intro z e
  unfold execRspSnp at e
  injection e with e
  subst e
  repeat' (first
    | with_reducible assumption
    | with_reducible apply arrive_keeps
    | with_reducible apply snoopAnswer_keeps)

theorem execRspFault_keeps {p : Nat} {tag : Nat} {status : Nat} {s : State} (h : Keeps sA s) :
    ∀ z, execRspFault p tag status s = .next z → Keeps sA z := by
  intro z e
  unfold execRspFault at e
  injection e with e
  subst e
  repeat' (first
    | with_reducible assumption
    | with_reducible apply arrive_keeps
    | with_reducible apply answer_keeps
    | intro _ _
    | split)

theorem execRspSync_keeps {p : Nat} {tag : Nat} {status : Nat} {word : BitVec 64} {s : State} (h : Keeps sA s) :
    ∀ z, execRspSync p tag status word s = .next z → Keeps sA z := by
  intro z e
  unfold execRspSync at e
  injection e with e
  subst e
  repeat' (first
    | with_reducible assumption
    | with_reducible apply arrive_keeps
    | with_reducible apply answer_keeps)

theorem execCaravanStart_keeps {kind : UnitKind} {unit : Nat} {id : Nat} {host : Option (List Byte)} {s : State} (h : Keeps sA s) :
    ∀ z, execCaravanStart kind unit id host s = .next z → Keeps sA z := by
  intro z e
  unfold execCaravanStart at e
  injection e with e
  subst e
  repeat' (first
    | with_reducible assumption
    | with_reducible apply dp_keeps
    | with_reducible apply caravanStart_keeps)

theorem execOpen_keeps {p : Nat} {m : Msg} {s : State} (h : Keeps sA s) :
    ∀ z, execOpen p m s = .next z → Keeps sA z := by
  intro z e
  unfold execOpen at e
  injection e with e
  subst e
  repeat' (first
    | with_reducible assumption
    | with_reducible apply arrive_keeps
    | with_reducible apply landOpen_keeps)

theorem execPull_keeps {p : Nat} {m : Msg} {s : State} (h : Keeps sA s) :
    ∀ z, execPull p m s = .next z → Keeps sA z := by
  intro z e
  unfold execPull at e
  injection e with e
  subst e
  repeat' (first
    | with_reducible assumption
    | with_reducible apply arrive_keeps
    | with_reducible apply pullArrives_keeps)

theorem execDataFlit_keeps {p : Nat} {stream : Nat} {chunk : Nat} {data : List Byte} {lane : Lane} {s : State} (h : Keeps sA s) :
    ∀ z, execDataFlit p stream chunk data lane s = .next z → Keeps sA z := by
  intro z e
  unfold execDataFlit at e
  injection e with e
  subst e
  repeat' (first
    | with_reducible assumption
    | with_reducible apply arrive_keeps
    | with_reducible apply landChunk_keeps)

theorem execClose_keeps {p : Nat} {m : Msg} {s : State} (h : Keeps sA s) :
    ∀ z, execClose p m s = .next z → Keeps sA z := by
  intro z e
  unfold execClose at e
  injection e with e
  subst e
  repeat' (first
    | with_reducible assumption
    | with_reducible apply arrive_keeps
    | with_reducible apply landClose_keeps)

theorem execPoison_keeps {p : Nat} {m : Msg} {s : State} (h : Keeps sA s) :
    ∀ z, execPoison p m s = .next z → Keeps sA z := by
  intro z e
  unfold execPoison at e
  injection e with e
  subst e
  repeat' (first
    | with_reducible assumption
    | with_reducible apply arrive_keeps
    | with_reducible apply landPoison_keeps)

theorem execBeacon_keeps {p : Nat} {m : Msg} {s : State} (h : Keeps sA s) :
    ∀ z, execBeacon p m s = .next z → Keeps sA z := by
  intro z e
  unfold execBeacon at e
  injection e with e
  subst e
  repeat' (first
    | with_reducible assumption
    | with_reducible apply arrive_keeps
    | with_reducible apply beaconArrives_keeps)

theorem execAck_keeps {p : Nat} {m : Msg} {s : State} (h : Keeps sA s) :
    ∀ z, execAck p m s = .next z → Keeps sA z := by
  intro z e
  unfold execAck at e
  injection e with e
  subst e
  repeat' (first
    | with_reducible assumption
    | with_reducible apply arrive_keeps
    | with_reducible apply ackArrives_keeps)

theorem execLegClose_keeps {p : Nat} {stream : Nat} {lane : Lane} {s : State} (h : Keeps sA s) :
    ∀ z, execLegClose p stream lane s = .next z → Keeps sA z := by
  intro z e
  unfold execLegClose at e
  injection e with e
  subst e
  repeat' (first
    | with_reducible assumption
    | with_reducible apply dp_keeps
    | with_reducible apply legClose_keeps)

theorem execFinal_keeps {p : Nat} {m : Msg} {s : State} (h : Keeps sA s) :
    ∀ z, execFinal p m s = .next z → Keeps sA z := by
  intro z e
  unfold execFinal at e
  injection e with e
  subst e
  repeat' (first
    | with_reducible assumption
    | with_reducible apply arrive_keeps
    | with_reducible apply finalArrives_keeps)

theorem execAbandon_keeps {p : Nat} {m : Msg} {s : State} (h : Keeps sA s) :
    ∀ z, execAbandon p m s = .next z → Keeps sA z := by
  intro z e
  unfold execAbandon at e
  injection e with e
  subst e
  repeat' (first
    | with_reducible assumption
    | with_reducible apply arrive_keeps
    | with_reducible apply abandonArrives_keeps)

theorem execBcnResult_keeps {p : Nat} {m : Msg} {s : State} (h : Keeps sA s) :
    ∀ z, execBcnResult p m s = .next z → Keeps sA z := by
  intro z e
  unfold execBcnResult at e
  injection e with e
  subst e
  repeat' (first
    | with_reducible assumption
    | with_reducible apply arrive_keeps
    | with_reducible apply bcnResult_keeps)

theorem execBatch_keeps {p : Nat} {m : Msg} {s : State} (h : Keeps sA s) :
    ∀ z, execBatch p m s = .next z → Keeps sA z := by
  intro z e
  unfold execBatch at e
  injection e with e
  subst e
  repeat' (first
    | with_reducible assumption
    | with_reducible apply arrive_keeps
    | with_reducible apply batchArrives_keeps)

theorem execBatchResult_keeps {p : Nat} {m : Msg} {s : State} (h : Keeps sA s) :
    ∀ z, execBatchResult p m s = .next z → Keeps sA z := by
  intro z e
  unfold execBatchResult at e
  injection e with e
  subst e
  repeat' (first
    | with_reducible assumption
    | with_reducible apply arrive_keeps
    | with_reducible apply batchResult_keeps)

theorem execBatchDone_keeps {p : Nat} {stream : Nat} {status : Option Nat} {s : State} (h : Keeps sA s) :
    ∀ z, execBatchDone p stream status s = .next z → Keeps sA z := by
  intro z e
  unfold execBatchDone at e
  injection e with e
  subst e
  repeat' (first
    | with_reducible assumption
    | with_reducible apply dp_keeps
    | with_reducible apply batchFarDone_keeps
    | with_reducible apply arrive_keeps
    | with_reducible apply batchDoneArrives_keeps
    | split)

theorem execAckTimeout_keeps {u : OutUse} {s : State} (h : Keeps sA s) :
    ∀ z, execAckTimeout u s = .next z → Keeps sA z := by
  intro z e
  unfold execAckTimeout at e
  injection e with e
  subst e
  repeat' (first
    | with_reducible assumption
    | with_reducible apply legTimeout_keeps
    | with_reducible apply batchTimeout_keeps
    | split)

theorem execStreamIdleFree_keeps {p : Nat} {stream : Nat} {s : State} (h : Keeps sA s) :
    ∀ z, execStreamIdleFree p stream s = .next z → Keeps sA z := by
  intro z e
  unfold execStreamIdleFree at e
  injection e with e
  subst e
  repeat' (first
    | with_reducible assumption
    | with_reducible apply streamIdle_keeps)

theorem execFenceDone_keeps {car : Nat} {s : State} (h : Keeps sA s) :
    ∀ z, execFenceDone car s = .next z → Keeps sA z := by
  intro z e
  unfold execFenceDone at e
  injection e with e
  subst e
  repeat' (first
    | with_reducible assumption
    | with_reducible apply dp_keeps
    | with_reducible apply fenceDone_keeps)

theorem execSeraiWindowExpiry_keeps {batch : Nat} {s : State} (h : Keeps sA s) :
    ∀ z, execSeraiWindowExpiry batch s = .next z → Keeps sA z := by
  intro z e
  unfold execSeraiWindowExpiry at e
  injection e with e
  subst e
  repeat' (first
    | with_reducible assumption
    | with_reducible apply serExpiry_keeps)

theorem execBeaconRelease_keeps {p : Nat} {stream : Nat} {s : State} (h : Keeps sA s) :
    ∀ z, execBeaconRelease p stream s = .next z → Keeps sA z := by
  intro z e
  unfold execBeaconRelease at e
  injection e with e
  subst e
  repeat' (first
    | with_reducible assumption
    | with_reducible apply dp_keeps
    | with_reducible apply beaconRelease_keeps)

theorem execBeaconHoldExpiry_keeps {p : Nat} {stream : Nat} {s : State} (h : Keeps sA s) :
    ∀ z, execBeaconHoldExpiry p stream s = .next z → Keeps sA z := by
  intro z e
  unfold execBeaconHoldExpiry at e
  injection e with e
  subst e
  repeat' (first
    | with_reducible assumption
    | with_reducible apply beaconExpiry_keeps)

theorem fencesDone_keeps {s : State} (h : Keeps sA s) :
    Keeps sA (fencesDone s) := by
  unfold fencesDone
  repeat' (first
    | with_reducible assumption
    | with_reducible apply complete_keeps
    | with_reducible apply Keeps.fold
    | intro _ _ _
    | split)

theorem electricalFence_keeps {p : Nat} {s : State} (h : Keeps sA s) :
    Keeps sA (electricalFence p s) := by
  unfold electricalFence
  repeat' (first
    | with_reducible assumption
    | with_reducible apply leaveActive_keeps
    | with_reducible apply fencesDone_keeps
    | with_reducible apply updPort_keeps
    | split
    | (dsimp only))

theorem execElectricalFence_keeps {p : Nat} {s : State} (h : Keeps sA s) :
    ∀ z, execElectricalFence p s = .next z → Keeps sA z := by
  intro z e
  unfold execElectricalFence at e
  injection e with e
  subst e
  repeat' (first
    | with_reducible assumption
    | with_reducible apply dp_keeps
    | with_reducible apply electricalFence_keeps
    | intro _ _
    | split)

theorem portCmd_keeps {mb : Nat} {action : Nat} {act : Nat → State → State} {wait : Bool} {s : State} (h : Keeps sA s) (hact : ∀ a0 s, Keeps sA s → Keeps sA (act a0 s)) :
    Keeps sA (portCmd mb action act wait s) := by
  unfold portCmd
  repeat' (first
    | with_reducible assumption
    | with_reducible apply hact
    | with_reducible apply catalogue_keeps
    | with_reducible apply splitEnd_keeps
    | with_reducible apply fencesDone_keeps
    | with_reducible apply complete_keeps
    | with_reducible apply Keeps.fold
    | intro _ _ _
    | split)

theorem execPortDisable_keeps {mb : Nat} {s : State} (h : Keeps sA s) :
    ∀ z, execPortDisable mb s = .next z → Keeps sA z := by
  intro z e
  unfold execPortDisable at e
  injection e with e
  subst e
  repeat' (first
    | with_reducible assumption
    | with_reducible apply portCmd_keeps
    | with_reducible apply updPort_keeps
    | with_reducible apply leaveActive_keeps
    | intro _ _ _
    | split)

theorem execPortEnable_keeps {mb : Nat} {s : State} (h : Keeps sA s) :
    ∀ z, execPortEnable mb s = .next z → Keeps sA z := by
  intro z e
  unfold execPortEnable at e
  injection e with e
  subst e
  repeat' (first
    | with_reducible assumption
    | with_reducible apply portCmd_keeps
    | with_reducible apply updPort_keeps
    | with_reducible apply enter_keeps
    | intro _ _ _
    | split
    | (dsimp only))

theorem execPortFence_keeps {mb : Nat} {s : State} (h : Keeps sA s) :
    ∀ z, execPortFence mb s = .next z → Keeps sA z := by
  intro z e
  unfold execPortFence at e
  injection e with e
  subst e
  repeat' (first
    | with_reducible assumption
    | with_reducible apply portCmd_keeps
    | with_reducible apply carsLost_keeps
    | with_reducible apply updPort_keeps
    | intro _ _ _
    | split)

theorem execPortUnfence_keeps {mb : Nat} {s : State} (h : Keeps sA s) :
    ∀ z, execPortUnfence mb s = .next z → Keeps sA z := by
  intro z e
  unfold execPortUnfence at e
  injection e with e
  subst e
  repeat' (first
    | with_reducible assumption
    | with_reducible apply portCmd_keeps
    | with_reducible apply updPort_keeps
    | with_reducible apply enter_keeps
    | intro _ _ _
    | split)

/-! ### Power -/

theorem safePins_keeps {s : State} (h : Keeps sA s) :
    Keeps sA (safePins s) := by
  unfold safePins
  repeat' (first
    | with_reducible assumption
    | with_reducible apply put_keeps
    | fail_if_no_progress with_reducible refine Keeps.upd ?_ (by dsimp only))

theorem portsSilent_keeps {s : State} (h : Keeps sA s) :
    Keeps sA (portsSilent s) := by
  unfold portsSilent
  repeat' (first
    | with_reducible assumption
    | fail_if_no_progress with_reducible refine Keeps.upd ?_ (by dsimp only))

theorem haltDead_keeps {s : State} (h : Keeps sA s) :
    Keeps sA (haltDead s) := by
  unfold haltDead
  repeat' (first
    | with_reducible assumption
    | with_reducible apply portsSilent_keeps
    | with_reducible apply safePins_keeps
    | fail_if_no_progress with_reducible refine Keeps.upd ?_ (by dsimp only))

theorem portsDetect_keeps {ps : List Nat} {s : State} (h : Keeps sA s) :
    Keeps sA (portsDetect ps s) := by
  unfold portsDetect
  repeat' (first
    | with_reducible assumption
    | with_reducible apply leaveActive_keeps
    | with_reducible apply Keeps.fold
    | intro _ _ _
    | split)

theorem clockLoss_keeps {src : Nat} {s : State} (h : Keeps sA s) :
    Keeps sA (clockLoss src s) := by
  unfold clockLoss
  repeat' (first
    | with_reducible assumption
    | with_reducible apply hostLinkDown_keeps
    | with_reducible apply portsDetect_keeps
    | with_reducible apply safePins_keeps
    | with_reducible apply updClk_keeps
    | with_reducible apply evPlatform_keeps
    | with_reducible apply cnt_keeps
    | fail_if_no_progress with_reducible refine Keeps.upd ?_ (by dsimp only)
    | split)

theorem execClockLoss_keeps {source : Nat} {s : State} (h : Keeps sA s) :
    ∀ z, execClockLoss source s = .next z → Keeps sA z := by
  intro z e
  unfold execClockLoss at e
  injection e with e
  subst e
  repeat' (first
    | with_reducible assumption
    | with_reducible apply clockLoss_keeps)

theorem leasesEnd_keeps {s : State} (h : Keeps sA s) :
    Keeps sA (leasesEnd s) := by
  unfold leasesEnd
  repeat' (first
    | with_reducible assumption
    | with_reducible apply leaseOver_keeps
    | with_reducible apply Keeps.fold
    | intro _ _ _)

theorem sysRestart_keeps {s : State} (h : Keeps sA s) :
    Keeps sA (sysRestart s) := by
  unfold sysRestart
  repeat' (first
    | with_reducible assumption
    | with_reducible apply updStg_keeps
    | with_reducible apply stageLost_keeps
    | with_reducible apply leasesEnd_keeps
    | fail_if_no_progress with_reducible refine Keeps.upd ?_ (by dsimp only)
    | split)

theorem clockRestart_keeps {src : Nat} {s : State} (h : Keeps sA s) :
    Keeps sA (clockRestart src s) := by
  unfold clockRestart
  repeat' (first
    | with_reducible assumption
    | with_reducible apply reachWall_keeps
    | with_reducible apply updClk_keeps
    | with_reducible apply sysRestart_keeps
    | split)

theorem execClockRestart_keeps {source : Nat} {s : State} (h : Keeps sA s) :
    ∀ z, execClockRestart source s = .next z → Keeps sA z := by
  intro z e
  unfold execClockRestart at e
  injection e with e
  subst e
  repeat' (first
    | with_reducible assumption
    | with_reducible apply clockRestart_keeps)

theorem trip_keeps {cause : Nat} {rail : Nat} {s : State} (h : Keeps sA s) :
    Keeps sA (trip cause rail s) := by
  unfold trip
  repeat' (first
    | with_reducible assumption
    | with_reducible apply haltDead_keeps
    | with_reducible apply updPwr_keeps
    | with_reducible apply put_keeps
    | with_reducible apply updHost_keeps
    | split)

theorem railFault_keeps {rail : Nat} {ns : Nat} {silent : Bool} {s : State} (h : Keeps sA s) :
    Keeps sA (railFault rail ns silent s) := by
  unfold railFault
  repeat' (first
    | with_reducible assumption
    | with_reducible apply trip_keeps
    | split)

theorem execRailFault_keeps {rail : Nat} {ns : Nat} {silent : Bool} {s : State} (h : Keeps sA s) :
    ∀ z, execRailFault rail ns silent s = .next z → Keeps sA z := by
  intro z e
  unfold execRailFault at e
  injection e with e
  subst e
  repeat' (first
    | with_reducible assumption
    | with_reducible apply railFault_keeps)

theorem execVcoreOvercurrent_keeps {overI : Bool} {s : State} (h : Keeps sA s) :
    ∀ z, execVcoreOvercurrent overI s = .next z → Keeps sA z := by
  intro z e
  unfold execVcoreOvercurrent at e
  injection e with e
  subst e
  repeat' (first
    | with_reducible assumption
    | with_reducible apply dp_keeps
    | with_reducible apply updPwr_keeps)

theorem cnt32_keeps {a : Nat} {s : State} (h : Keeps sA s) :
    Keeps sA (cnt32 a s) := by
  unfold cnt32
  repeat' (first
    | with_reducible assumption
    | fail_if_no_progress with_reducible refine Keeps.upd ?_ (by dsimp only))

theorem dvfsCell_keeps {x : Nat × DvfsObs} {s : State} (h : Keeps sA s) :
    Keeps sA (dvfsCell s x) := by
  unfold dvfsCell
  repeat' (first
    | with_reducible assumption
    | with_reducible apply updPwr_keeps
    | with_reducible apply cnt32_keeps
    | split
    | (dsimp only))

theorem dvfsInterval_keeps {cells : List DvfsObs} {pkg : Nat} {logic : Nat} {stks : Nat} {s : State} (h : Keeps sA s) :
    Keeps sA (dvfsInterval cells pkg logic stks s) := by
  unfold dvfsInterval
  repeat' (first
    | with_reducible assumption
    | with_reducible apply dvfsCell_keeps
    | with_reducible apply cnt_keeps
    | with_reducible apply updPwr_keeps
    | with_reducible apply Keeps.fold
    | intro _ _ _
    | split)

theorem execDvfsInterval_keeps {cells : List DvfsObs} {pkg : Nat} {logic : Nat} {stks : Nat} {s : State} (h : Keeps sA s) :
    ∀ z, execDvfsInterval cells pkg logic stks s = .next z → Keeps sA z := by
  intro z e
  unfold execDvfsInterval at e
  injection e with e
  subst e
  repeat' (first
    | with_reducible assumption
    | with_reducible apply dp_keeps
    | with_reducible apply dvfsInterval_keeps)

theorem sensed_keeps {cells : List Nat} {tiles : List Nat} {stks : List Nat} {s : State} (h : Keeps sA s) :
    Keeps sA (sensed cells tiles stks s) := by
  unfold sensed
  repeat' (first
    | with_reducible assumption
    | with_reducible apply updPwr_keeps
    | fail_if_no_progress with_reducible refine Keeps.upd ?_ (by dsimp only))

theorem sensorRead_keeps {cells : List Nat} {tiles : List Nat} {stks : List Nat} {s : State} (h : Keeps sA s) :
    Keeps sA (sensorRead cells tiles stks s) := by
  unfold sensorRead
  repeat' (first
    | with_reducible assumption
    | with_reducible apply sensed_keeps
    | with_reducible apply trip_keeps
    | split)

theorem execSensorRead_keeps {cells : List Nat} {tiles : List Nat} {stks : List Nat} {s : State} (h : Keeps sA s) :
    ∀ z, execSensorRead cells tiles stks s = .next z → Keeps sA z := by
  intro z e
  unfold execSensorRead at e
  injection e with e
  subst e
  repeat' (first
    | with_reducible assumption
    | with_reducible apply sensorRead_keeps)

theorem coolBegin_keeps {s : State} (h : Keeps sA s) :
    Keeps sA (coolBegin s) := by
  unfold coolBegin
  repeat' (first
    | with_reducible assumption
    | with_reducible apply updPwr_keeps
    | with_reducible apply evPlatform_keeps
    | with_reducible apply cnt_keeps
    | split
    | (dsimp only))

theorem coolUpdate_keeps {s : State} (h : Keeps sA s) :
    Keeps sA (coolUpdate s) := by
  unfold coolUpdate
  repeat' (first
    | with_reducible assumption
    | with_reducible apply updPwr_keeps
    | with_reducible apply coolBegin_keeps
    | with_reducible apply evPlatform_keeps
    | split
    | (dsimp only))

theorem coolInlet_keeps {v : Nat} {s : State} (h : Keeps sA s) :
    Keeps sA (coolInlet v s) := by
  unfold coolInlet
  repeat' (first
    | with_reducible assumption
    | with_reducible apply coolBegin_keeps
    | with_reducible apply inputRefused_keeps
    | with_reducible apply coolUpdate_keeps
    | with_reducible apply updPwr_keeps
    | split)

theorem execCoolInlet_keeps {value : BitVec 16} {s : State} (h : Keeps sA s) :
    ∀ z, execCoolInlet value s = .next z → Keeps sA z := by
  intro z e
  unfold execCoolInlet at e
  injection e with e
  subst e
  repeat' (first
    | with_reducible assumption
    | with_reducible apply coolInlet_keeps)

theorem coolFlow_keeps {v : Nat} {s : State} (h : Keeps sA s) :
    Keeps sA (coolFlow v s) := by
  unfold coolFlow
  repeat' (first
    | with_reducible assumption
    | with_reducible apply coolBegin_keeps
    | with_reducible apply inputRefused_keeps
    | with_reducible apply coolUpdate_keeps
    | with_reducible apply updPwr_keeps
    | split)

theorem execCoolFlow_keeps {value : BitVec 16} {s : State} (h : Keeps sA s) :
    ∀ z, execCoolFlow value s = .next z → Keeps sA z := by
  intro z e
  unfold execCoolFlow at e
  injection e with e
  subst e
  repeat' (first
    | with_reducible assumption
    | with_reducible apply coolFlow_keeps)

theorem coolantStale_keeps {s : State} (h : Keeps sA s) :
    Keeps sA (coolantStale s) := by
  unfold coolantStale
  repeat' (first
    | with_reducible assumption
    | with_reducible apply reachWall_keeps
    | with_reducible apply coolBegin_keeps
    | with_reducible apply updPwr_keeps
    | split)

theorem execCoolantStale_keeps {s : State} (h : Keeps sA s) :
    ∀ z, execCoolantStale s = .next z → Keeps sA z := by
  intro z e
  unfold execCoolantStale at e
  injection e with e
  subst e
  repeat' (first
    | with_reducible assumption
    | with_reducible apply coolantStale_keeps)

theorem coreFault_keeps {phys : Nat} {s : State} (h : Keeps sA s) :
    Keeps sA (coreFault phys s) := by
  unfold coreFault
  repeat' (first
    | with_reducible assumption
    | with_reducible apply evUnit_keeps
    | with_reducible apply faultThread_keeps
    | with_reducible apply updTested_keeps
    | with_reducible apply updTest_keeps
    | with_reducible apply testReports_keeps
    | with_reducible apply quarantine_keeps
    | with_reducible apply Keeps.fold
    | intro _ _ _
    | split
    | (dsimp only))

theorem execCoreUncorrectableFault_keeps {core : Nat} {s : State} (h : Keeps sA s) :
    ∀ z, execCoreUncorrectableFault core s = .next z → Keeps sA z := by
  intro z e
  unfold execCoreUncorrectableFault at e
  injection e with e
  subst e
  repeat' (first
    | with_reducible assumption
    | with_reducible apply dp_keeps
    | with_reducible apply coreFault_keeps)

/-! ### Ras -/

theorem fatalError_keeps {cause : Nat} {loc : Nat} {s : State} (h : Keeps sA s) :
    Keeps sA (fatalError cause loc s) := by
  unfold fatalError
  repeat' (first
    | with_reducible assumption
    | with_reducible apply haltDead_keeps
    | with_reducible apply rasPost_keeps
    | with_reducible apply updBoot_keeps
    | fail_if_no_progress with_reducible refine Keeps.upd ?_ (by dsimp only)
    | split)

theorem execFatalError_keeps {cause : Nat} {loc : Nat} {s : State} (h : Keeps sA s) :
    ∀ z, execFatalError cause loc s = .next z → Keeps sA z := by
  intro z e
  unfold execFatalError at e
  injection e with e
  subst e
  repeat' (first
    | with_reducible assumption
    | with_reducible apply fatalError_keeps)

theorem eventSignal_keeps {p : Nat} {s : State} (h : Keeps sA s) :
    Keeps sA (eventSignal p s) := by
  unfold eventSignal
  repeat' (first
    | with_reducible assumption
    | with_reducible apply timer_keeps
    | with_reducible apply evqSignal_keeps
    | split)

theorem execEventSignal_keeps {part : Nat} {s : State} (h : Keeps sA s) :
    ∀ z, execEventSignal part s = .next z → Keeps sA z := by
  intro z e
  unfold execEventSignal at e
  injection e with e
  subst e
  repeat' (first
    | with_reducible assumption
    | with_reducible apply eventSignal_keeps)

theorem rasCommit_keeps {gen : BitVec 32} {s : State} (h : Keeps sA s) :
    Keeps sA (rasCommit gen s) := by
  unfold rasCommit
  repeat' (first
    | with_reducible assumption
    | with_reducible apply rasLost_keeps
    | fail_if_no_progress with_reducible refine Keeps.upd ?_ (by dsimp only)
    | split
    | (dsimp only))

theorem execRasCommit_keeps {gen : BitVec 32} {s : State} (h : Keeps sA s) :
    ∀ z, execRasCommit gen s = .next z → Keeps sA z := by
  intro z e
  unfold execRasCommit at e
  injection e with e
  subst e
  repeat' (first
    | with_reducible assumption
    | with_reducible apply barWrite_keeps
    | with_reducible apply rasCommit_keeps)

theorem execRasCommitErrClear_keeps {s : State} (h : Keeps sA s) :
    ∀ z, execRasCommitErrClear s = .next z → Keeps sA z := by
  intro z e
  unfold execRasCommitErrClear at e
  injection e with e
  subst e
  repeat' (first
    | with_reducible assumption
    | with_reducible apply barWrite_keeps
    | fail_if_no_progress with_reducible refine Keeps.upd ?_ (by dsimp only)
    | intro _ _)

theorem execRasQHead_keeps {head : Nat} {s : State} (h : Keeps sA s) :
    ∀ z, execRasQHead head s = .next z → Keeps sA z := by
  intro z e
  unfold execRasQHead at e
  injection e with e
  subst e
  repeat' (first
    | with_reducible assumption
    | with_reducible apply barWrite_keeps
    | with_reducible apply rasLost_keeps
    | fail_if_no_progress with_reducible refine Keeps.upd ?_ (by dsimp only)
    | intro _ _)

/-! ### Pmp -/

theorem updPmp_keeps {f : Pmp → Pmp} {s : State} (h : Keeps sA s) :
    Keeps sA (updPmp f s) := by
  unfold updPmp
  repeat' (first
    | with_reducible assumption
    | fail_if_no_progress with_reducible refine Keeps.upd ?_ (by dsimp only))

theorem hello_keeps {p : Nat} {keyIdx : Nat} {payload : List Byte} {s : State} (h : Keeps sA s) :
    Keeps sA (hello p keyIdx payload s) := by
  unfold hello
  repeat' (first
    | with_reducible assumption
    | with_reducible apply draw_keeps
    | with_reducible apply updPmp_keeps
    | with_reducible apply put_keeps
    | split
    | (dsimp only))

theorem execHello_keeps {port : Nat} {keyIdx : Nat} {payload : List Byte} {s : State} (h : Keeps sA s) :
    ∀ z, execHello port keyIdx payload s = .next z → Keeps sA z := by
  intro z e
  unfold execHello at e
  injection e with e
  subst e
  repeat' (first
    | with_reducible assumption
    | with_reducible apply hello_keeps)

theorem auth_keeps {p : Nat} {block : List Byte} {s : State} (h : Keeps sA s) :
    Keeps sA (auth p block s) := by
  unfold auth
  repeat' (first
    | with_reducible assumption
    | with_reducible apply updPmp_keeps
    | with_reducible apply put_keeps
    | split
    | (dsimp only))

theorem execAuth_keeps {port : Nat} {block : List Byte} {s : State} (h : Keeps sA s) :
    ∀ z, execAuth port block s = .next z → Keeps sA z := by
  intro z e
  unfold execAuth at e
  injection e with e
  subst e
  repeat' (first
    | with_reducible assumption
    | with_reducible apply auth_keeps)

theorem handshakeTimeout_keeps {p : Nat} {s : State} (h : Keeps sA s) :
    Keeps sA (handshakeTimeout p s) := by
  unfold handshakeTimeout
  repeat' (first
    | with_reducible assumption
    | with_reducible apply reachWall_keeps
    | with_reducible apply updPmp_keeps
    | split)

theorem execHandshakeTimeout_keeps {port : Nat} {s : State} (h : Keeps sA s) :
    ∀ z, execHandshakeTimeout port s = .next z → Keeps sA z := by
  intro z e
  unfold execHandshakeTimeout at e
  injection e with e
  subst e
  repeat' (first
    | with_reducible assumption
    | with_reducible apply handshakeTimeout_keeps)

theorem closeSession_keeps {n : Nat} {s : State} (h : Keeps sA s) :
    Keeps sA (closeSession n s) := by
  unfold closeSession
  repeat' (first
    | with_reducible assumption
    | with_reducible apply updPmp_keeps)

theorem updSession_keeps {n : Nat} {f : Session → Session} {s : State} (h : Keeps sA s) :
    Keeps sA (updSession n f s) := by
  unfold updSession
  repeat' (first
    | with_reducible assumption
    | with_reducible apply updPmp_keeps)

theorem pmpFrame_keeps {f : PmpFrame} {go : State → State} {s : State} (h : Keeps sA s) (hgo : ∀ s, Keeps sA s → Keeps sA (go s)) :
    Keeps sA (pmpFrame f go s) := by
  unfold pmpFrame
  repeat' (first
    | with_reducible assumption
    | with_reducible apply hgo
    | with_reducible apply closeSession_keeps
    | with_reducible apply updSession_keeps
    | split)

theorem pmpMessage_keeps {f : PmpFrame} {go : List Byte → State → State} {s : State} (h : Keeps sA s) (hgo : ∀ a0 s, Keeps sA s → Keeps sA (go a0 s)) :
    Keeps sA (pmpMessage f go s) := by
  unfold pmpMessage
  repeat' (first
    | with_reducible assumption
    | with_reducible apply hgo
    | with_reducible apply updSession_keeps
    | split
    | (dsimp only))

theorem execCmd_keeps {f : PmpFrame} {s : State} (h : Keeps sA s) :
    ∀ z, execCmd f s = .next z → Keeps sA z := by
  intro z e
  unfold execCmd at e
  injection e with e
  subst e
  repeat' (first
    | with_reducible assumption
    | with_reducible apply pmpFrame_keeps
    | with_reducible apply pmpMessage_keeps
    | with_reducible apply updPmp_keeps
    | intro _ _ _
    | intro _ _)

theorem execImage_keeps {f : PmpFrame} {s : State} (h : Keeps sA s) :
    ∀ z, execImage f s = .next z → Keeps sA z := by
  intro z e
  unfold execImage at e
  injection e with e
  subst e
  repeat' (first
    | with_reducible assumption
    | with_reducible apply pmpFrame_keeps
    | with_reducible apply pmpMessage_keeps
    | with_reducible apply updPmp_keeps
    | intro _ _ _
    | intro _ _)

theorem execKeepalive_keeps {f : PmpFrame} {s : State} (h : Keeps sA s) :
    ∀ z, execKeepalive f s = .next z → Keeps sA z := by
  intro z e
  unfold execKeepalive at e
  injection e with e
  subst e
  repeat' (first
    | with_reducible assumption
    | (dsimp only [id]; assumption)
    | with_reducible apply pmpFrame_keeps
    | intro _ _)

theorem execFullReset_keeps {f : PmpFrame} {bifur : Bool} {s : State} (h : Keeps sA s) :
    ∀ z, execFullReset f bifur s = .next z → Keeps sA z := by
  intro z e
  unfold execFullReset at e
  injection e with e
  subst e
  repeat' (first
    | with_reducible assumption
    | with_reducible apply pmpFrame_keeps
    | with_reducible apply resetFrom_keeps
    | with_reducible apply reference_keeps
    | intro _ _)

theorem execPmpClose_keeps {f : PmpFrame} {s : State} (h : Keeps sA s) :
    ∀ z, execPmpClose f s = .next z → Keeps sA z := by
  intro z e
  unfold execPmpClose at e
  injection e with e
  subst e
  repeat' (first
    | with_reducible assumption
    | with_reducible apply pmpFrame_keeps
    | with_reducible apply closeSession_keeps)

theorem sessionTimeout_keeps {n : Nat} {s : State} (h : Keeps sA s) :
    Keeps sA (sessionTimeout n s) := by
  unfold sessionTimeout
  repeat' (first
    | with_reducible assumption
    | with_reducible apply closeSession_keeps
    | with_reducible apply reachWall_keeps
    | split)

theorem execSessionTimeout_keeps {session : Nat} {s : State} (h : Keeps sA s) :
    ∀ z, execSessionTimeout session s = .next z → Keeps sA z := by
  intro z e
  unfold execSessionTimeout at e
  injection e with e
  subst e
  repeat' (first
    | with_reducible assumption
    | with_reducible apply sessionTimeout_keeps)

theorem fragmentTimeout_keeps {n : Nat} {s : State} (h : Keeps sA s) :
    Keeps sA (fragmentTimeout n s) := by
  unfold fragmentTimeout
  repeat' (first
    | with_reducible assumption
    | with_reducible apply updSession_keeps
    | with_reducible apply reachWall_keeps
    | split)

theorem execFragmentTimeout_keeps {session : Nat} {s : State} (h : Keeps sA s) :
    ∀ z, execFragmentTimeout session s = .next z → Keeps sA z := by
  intro z e
  unfold execFragmentTimeout at e
  injection e with e
  subst e
  repeat' (first
    | with_reducible assumption
    | with_reducible apply fragmentTimeout_keeps)

theorem enrol_keeps {p : Nat} {slot : Nat} {hash : Nat} {usage : Nat} {serial : Nat} {block : List Byte} {s : State} (h : Keeps sA s) :
    Keeps sA (enrol p slot hash usage serial block s) := by
  unfold enrol
  repeat' (first
    | with_reducible assumption
    | with_reducible apply updRep_keeps
    | split)

theorem execEnrol_keeps {port : Nat} {slot : Nat} {hash : Nat} {usage : Nat} {serial : Nat} {block : List Byte} {s : State} (h : Keeps sA s) :
    ∀ z, execEnrol port slot hash usage serial block s = .next z → Keeps sA z := by
  intro z e
  unfold execEnrol at e
  injection e with e
  subst e
  repeat' (first
    | with_reducible assumption
    | with_reducible apply enrol_keeps)

theorem mgmtLinkDown_keeps {p : Nat} {s : State} (h : Keeps sA s) :
    Keeps sA (mgmtLinkDown p s) := by
  unfold mgmtLinkDown
  repeat' (first
    | with_reducible assumption
    | with_reducible apply closeSession_keeps
    | with_reducible apply updPmp_keeps
    | with_reducible apply Keeps.fold
    | intro _ _ _
    | split)

theorem execMgmtLinkDown_keeps {port : Nat} {s : State} (h : Keeps sA s) :
    ∀ z, execMgmtLinkDown port s = .next z → Keeps sA z := by
  intro z e
  unfold execMgmtLinkDown at e
  injection e with e
  subst e
  repeat' (first
    | with_reducible assumption
    | with_reducible apply mgmtLinkDown_keeps)

theorem execMgmtLinkUp_keeps {port : Nat} {s : State} (h : Keeps sA s) :
    ∀ z, execMgmtLinkUp port s = .next z → Keeps sA z := by
  intro z e
  unfold execMgmtLinkUp at e
  injection e with e
  subst e
  repeat' (first
    | with_reducible assumption
    | with_reducible apply updPmp_keeps
    | split)

/-! ### TestPort -/

theorem updTap_keeps {f : Tap → Tap} {s : State} (h : Keeps sA s) :
    Keeps sA (updTap f s) := by
  unfold updTap
  repeat' (first
    | with_reducible assumption
    | fail_if_no_progress with_reducible refine Keeps.upd ?_ (by dsimp only))

theorem tapRun_keeps {code : Nat} {go : State → State} {s : State} (h : Keeps sA s) (hgo : ∀ s, Keeps sA s → Keeps sA (go s)) :
    Keeps sA (tapRun code go s) := by
  unfold tapRun
  repeat' (first
    | with_reducible assumption
    | with_reducible apply hgo
    | with_reducible apply updTap_keeps
    | split)

theorem tapScan_keeps {pins : BitVec 2944} {next : BitVec 2944} {s : State} (h : Keeps sA s) :
    Keeps sA (tapScan pins next s) := by
  unfold tapScan
  repeat' (first
    | with_reducible assumption
    | with_reducible apply put_keeps
    | with_reducible apply updTap_keeps)

theorem tapDrive_keeps {s : State} (h : Keeps sA s) :
    Keeps sA (tapDrive s) := by
  unfold tapDrive
  repeat' (first
    | with_reducible assumption
    | with_reducible apply put_keeps)

theorem execIdcode_keeps {s : State} (h : Keeps sA s) :
    ∀ z, execIdcode s = .next z → Keeps sA z := by
  intro z e
  unfold execIdcode at e
  injection e with e
  subst e
  repeat' (first
    | with_reducible assumption
    | with_reducible apply put_keeps
    | with_reducible apply updTap_keeps
    | split)

theorem execSamplePreload_keeps {pins : BitVec 2944} {next : BitVec 2944} {s : State} (h : Keeps sA s) :
    ∀ z, execSamplePreload pins next s = .next z → Keeps sA z := by
  intro z e
  unfold execSamplePreload at e
  injection e with e
  subst e
  repeat' (first
    | with_reducible assumption
    | with_reducible apply tapRun_keeps
    | with_reducible apply tapScan_keeps)

theorem execExtest_keeps {pins : BitVec 2944} {next : BitVec 2944} {s : State} (h : Keeps sA s) :
    ∀ z, execExtest pins next s = .next z → Keeps sA z := by
  intro z e
  unfold execExtest at e
  injection e with e
  subst e
  repeat' (first
    | with_reducible assumption
    | with_reducible apply tapRun_keeps
    | with_reducible apply tapDrive_keeps
    | with_reducible apply tapScan_keeps
    | intro _ _)

theorem execClamp_keeps {s : State} (h : Keeps sA s) :
    ∀ z, execClamp s = .next z → Keeps sA z := by
  intro z e
  unfold execClamp at e
  injection e with e
  subst e
  repeat' (first
    | with_reducible assumption
    | with_reducible apply tapRun_keeps
    | with_reducible apply put_keeps
    | intro _ _)

theorem execHighz_keeps {s : State} (h : Keeps sA s) :
    ∀ z, execHighz s = .next z → Keeps sA z := by
  intro z e
  unfold execHighz at e
  injection e with e
  subst e
  repeat' (first
    | with_reducible assumption
    | with_reducible apply tapRun_keeps
    | with_reducible apply put_keeps)

theorem execExtestPulse_keeps {pins : BitVec 2944} {next : BitVec 2944} {s : State} (h : Keeps sA s) :
    ∀ z, execExtestPulse pins next s = .next z → Keeps sA z := by
  intro z e
  unfold execExtestPulse at e
  injection e with e
  subst e
  repeat' (first
    | with_reducible assumption
    | with_reducible apply tapRun_keeps
    | with_reducible apply tapDrive_keeps
    | with_reducible apply tapScan_keeps
    | intro _ _)

theorem execExtestTrain_keeps {pins : BitVec 2944} {next : BitVec 2944} {s : State} (h : Keeps sA s) :
    ∀ z, execExtestTrain pins next s = .next z → Keeps sA z := by
  intro z e
  unfold execExtestTrain at e
  injection e with e
  subst e
  repeat' (first
    | with_reducible assumption
    | with_reducible apply tapRun_keeps
    | with_reducible apply tapDrive_keeps
    | with_reducible apply tapScan_keeps
    | intro _ _)

theorem execBypass_keeps {s : State} (h : Keeps sA s) :
    ∀ z, execBypass s = .next z → Keeps sA z := by
  intro z e
  unfold execBypass at e
  injection e with e
  subst e
  repeat' (first
    | with_reducible assumption
    | with_reducible apply updTap_keeps
    | split)

theorem execTestLogicReset_keeps {s : State} (h : Keeps sA s) :
    ∀ z, execTestLogicReset s = .next z → Keeps sA z := by
  intro z e
  unfold execTestLogicReset at e
  injection e with e
  subst e
  repeat' (first
    | with_reducible assumption
    | with_reducible apply updTap_keeps)

end Sys2Proof.Machine
end

