-- ==== Sys2Proof/Laws/Mailbox.lean ====
section
/-! SUPPORT. What serving a catalogue command does once its checks pass. -/

namespace Sys2Proof.Machine

open Sys2Proof

/-- A command whose common checks pass runs its body. -/
theorem catalogue_of_serves {s : State} {n op : Nat} {c : Cmd} {chk : State → Cmd → CChk} {body : Cmd → State → State}
    (h : Serves s n op c (chk s c)) : catalogue n op chk body s = body c s := by
  obtain ⟨h1, h2, h3, h4⟩ := h
  simp only [catalogue, h1, h2, h3, h4, bne_self_eq_false, Bool.not_true, Bool.or_self, Bool.false_eq_true, if_false]

/-- A row none of whose own checks holds goes on. -/
theorem refuseOr_none {n : Nat} {l : List (Bool × Nat)} {go : State → State} {s : State} (h : ownChecks l = none) :
    refuseOr n l go s = go s := by
  simp only [refuseOr, h]

/-- A row whose own checks fail completes with the first status. -/
theorem refuseOr_some {n st : Nat} {l : List (Bool × Nat)} {go : State → State} {s : State} (h : ownChecks l = some st) :
    refuseOr n l go s = complete n st [] s := by
  simp only [refuseOr, h]

/-- Checks in a row: the first list's, then the second's. -/
theorem ownChecks_append (a b : List (Bool × Nat)) : ownChecks (a ++ b) = (ownChecks a).or (ownChecks b) := by
  simp only [ownChecks, List.find?_append]
  cases a.find? (fun x => x.1) <;> rfl

end Sys2Proof.Machine
end

