-- ==== Sys2Proof/Laws/Pmp.lean ====
section
/-! SUPPORT. What an accepted management frame does before what it carries acts. -/

namespace Sys2Proof.Machine

open Sys2Proof

/-- What an accepted frame carries acts on the state that has noted the frame. -/
theorem pmpFrame_of_framed {s : State} {f : PmpFrame} {x : Session} (h : Framed s f x) (go : State → State) :
    pmpFrame f go s = go (framed f x s) := by
  have a : ¬ f.seq = 0 := by have := h.low; omega
  have b : ¬ f.seq + 1024 < x.rxSeq := by have := h.recent; omega
  have c : ¬ 2 ^ 32 - 1 ≤ f.seq := by have := h.high; omega
  simp only [pmpFrame, h.session, h.good, h.port, h.up, h.fresh, a, b, c]
  simp [framed]

/-- The session's record once its frame is noted. -/
theorem session_of_framed {s : State} {f : PmpFrame} {x : Session} (h : Framed s f x) :
    tget f.session (framed f x s).pmp.sessions = some { x with
      lastFrame := s.wall, rxSeq := max x.rxSeq f.seq
      seen := (f.seq :: x.seen).filter (fun q => decide (max x.rxSeq f.seq ≤ q + 1024)) } := by
  simp only [framed, updSession, updPmp, tupd, h.session]
  exact tget_tput_self _ _ _

end Sys2Proof.Machine
end

