-- ==== Sys2Proof/Laws/Port.lean ====
section
/-! SUPPORT. What the shared operations of an edge port do. -/

namespace Sys2Proof.Machine

open Sys2Proof

/-- A training event in its state happens. -/
theorem inState_of_trains {s : State} {p : Nat} {st : PortSt} (h : Trains s p st) (f : State → State) :
    inState p st f s = f s := by
  obtain ⟨_, h1, h2, h3⟩ := h
  simp [inState, h1, h2, h3]

/-- A training timeout in its state happens at its time. -/
theorem stateTimeout_of_trains {s : State} {p : Nat} {st : PortSt} (h : Trains s p st) (next : PortSt) (ns : Nat) :
    stateTimeout p st next ns s = enter p next (reach ((port s p).since + ns) s) := by
  simp [stateTimeout, inState_of_trains h, timer, h.runs]

/-- A message that arrives within its credits is taken. -/
theorem arrive_of_open {s : State} {p : Nat} {k : MsgKind} {data : List Byte} (h : Open s p) (hc : creditLeft s p k data)
    (f : State → State) : arrive p k data f s = f (heard p k data s) := by
  obtain ⟨h1, h2, h3, h4⟩ := h
  have h2' : ¬ 8 ≤ p := by omega
  have h3' : ((port s p).st != .active) = false := by simp [h3]
  have hc' := Nat.not_lt.mpr hc
  simp only [arrive, h1, h2', h3', h4, decide_false, Bool.or_self, Bool.false_eq_true, if_false, hc', heard]

end Sys2Proof.Machine
end

