-- ==== Sys2Proof/Laws/State.lean ====
section
/-! SUPPORT. What each named update of the state leaves alone: one lemma per field, true by definition. -/

namespace Sys2Proof.Machine

open Sys2Proof

/-! ### cnt -/

@[simp] theorem cnt_pending (a n : Nat) (s : State) : (cnt a n s).pending = s.pending := rfl
@[simp] theorem cnt_now (a n : Nat) (s : State) : (cnt a n s).now = s.now := rfl
@[simp] theorem cnt_wall (a n : Nat) (s : State) : (cnt a n s).wall = s.wall := rfl
@[simp] theorem cnt_halted (a n : Nat) (s : State) : (cnt a n s).halted = s.halted := rfl
@[simp] theorem cnt_fresh (a n : Nat) (s : State) : (cnt a n s).fresh = s.fresh := rfl
@[simp] theorem cnt_outs (a n : Nat) (s : State) : (cnt a n s).outs = s.outs := rfl
@[simp] theorem cnt_xlt (a n : Nat) (s : State) : (cnt a n s).xlt = s.xlt := rfl
@[simp] theorem cnt_store (a n : Nat) (s : State) : (cnt a n s).store = s.store := rfl
@[simp] theorem cnt_coh (a n : Nat) (s : State) : (cnt a n s).coh = s.coh := rfl
@[simp] theorem cnt_sync (a n : Nat) (s : State) : (cnt a n s).sync = s.sync := rfl
@[simp] theorem cnt_drv (a n : Nat) (s : State) : (cnt a n s).drv = s.drv := rfl
@[simp] theorem cnt_stg (a n : Nat) (s : State) : (cnt a n s).stg = s.stg := rfl
@[simp] theorem cnt_eng (a n : Nat) (s : State) : (cnt a n s).eng = s.eng := rfl
@[simp] theorem cnt_dep (a n : Nat) (s : State) : (cnt a n s).dep = s.dep := rfl
@[simp] theorem cnt_idx (a n : Nat) (s : State) : (cnt a n s).idx = s.idx := rfl
@[simp] theorem cnt_car (a n : Nat) (s : State) : (cnt a n s).car = s.car := rfl
@[simp] theorem cnt_ports (a n : Nat) (s : State) : (cnt a n s).ports = s.ports := rfl
@[simp] theorem cnt_clk (a n : Nat) (s : State) : (cnt a n s).clk = s.clk := rfl
@[simp] theorem cnt_pwr (a n : Nat) (s : State) : (cnt a n s).pwr = s.pwr := rfl
@[simp] theorem cnt_tap (a n : Nat) (s : State) : (cnt a n s).tap = s.tap := rfl
@[simp] theorem cnt_rep (a n : Nat) (s : State) : (cnt a n s).rep = s.rep := rfl
@[simp] theorem cnt_parts (a n : Nat) (s : State) : (cnt a n s).parts = s.parts := rfl
@[simp] theorem cnt_ras (a n : Nat) (s : State) : (cnt a n s).ras = s.ras := rfl
@[simp] theorem cnt_host (a n : Nat) (s : State) : (cnt a n s).host = s.host := rfl
@[simp] theorem cnt_pmp (a n : Nat) (s : State) : (cnt a n s).pmp = s.pmp := rfl

/-! ### updThr -/

@[simp] theorem updThr_pending (t : Nat) (f : Thread → Thread) (s : State) : (updThr t f s).pending = s.pending := rfl
@[simp] theorem updThr_now (t : Nat) (f : Thread → Thread) (s : State) : (updThr t f s).now = s.now := rfl
@[simp] theorem updThr_wall (t : Nat) (f : Thread → Thread) (s : State) : (updThr t f s).wall = s.wall := rfl
@[simp] theorem updThr_halted (t : Nat) (f : Thread → Thread) (s : State) : (updThr t f s).halted = s.halted := rfl
@[simp] theorem updThr_fresh (t : Nat) (f : Thread → Thread) (s : State) : (updThr t f s).fresh = s.fresh := rfl
@[simp] theorem updThr_outs (t : Nat) (f : Thread → Thread) (s : State) : (updThr t f s).outs = s.outs := rfl
@[simp] theorem updThr_csr (t : Nat) (f : Thread → Thread) (s : State) : (updThr t f s).csr = s.csr := rfl
@[simp] theorem updThr_xlt (t : Nat) (f : Thread → Thread) (s : State) : (updThr t f s).xlt = s.xlt := rfl
@[simp] theorem updThr_store (t : Nat) (f : Thread → Thread) (s : State) : (updThr t f s).store = s.store := rfl
@[simp] theorem updThr_coh (t : Nat) (f : Thread → Thread) (s : State) : (updThr t f s).coh = s.coh := rfl
@[simp] theorem updThr_sync (t : Nat) (f : Thread → Thread) (s : State) : (updThr t f s).sync = s.sync := rfl
@[simp] theorem updThr_drv (t : Nat) (f : Thread → Thread) (s : State) : (updThr t f s).drv = { s.drv with threads := tupd t f s.drv.threads } := rfl
@[simp] theorem updThr_stg (t : Nat) (f : Thread → Thread) (s : State) : (updThr t f s).stg = s.stg := rfl
@[simp] theorem updThr_eng (t : Nat) (f : Thread → Thread) (s : State) : (updThr t f s).eng = s.eng := rfl
@[simp] theorem updThr_dep (t : Nat) (f : Thread → Thread) (s : State) : (updThr t f s).dep = s.dep := rfl
@[simp] theorem updThr_idx (t : Nat) (f : Thread → Thread) (s : State) : (updThr t f s).idx = s.idx := rfl
@[simp] theorem updThr_car (t : Nat) (f : Thread → Thread) (s : State) : (updThr t f s).car = s.car := rfl
@[simp] theorem updThr_ports (t : Nat) (f : Thread → Thread) (s : State) : (updThr t f s).ports = s.ports := rfl
@[simp] theorem updThr_clk (t : Nat) (f : Thread → Thread) (s : State) : (updThr t f s).clk = s.clk := rfl
@[simp] theorem updThr_pwr (t : Nat) (f : Thread → Thread) (s : State) : (updThr t f s).pwr = s.pwr := rfl
@[simp] theorem updThr_tap (t : Nat) (f : Thread → Thread) (s : State) : (updThr t f s).tap = s.tap := rfl
@[simp] theorem updThr_rep (t : Nat) (f : Thread → Thread) (s : State) : (updThr t f s).rep = s.rep := rfl
@[simp] theorem updThr_parts (t : Nat) (f : Thread → Thread) (s : State) : (updThr t f s).parts = s.parts := rfl
@[simp] theorem updThr_ras (t : Nat) (f : Thread → Thread) (s : State) : (updThr t f s).ras = s.ras := rfl
@[simp] theorem updThr_host (t : Nat) (f : Thread → Thread) (s : State) : (updThr t f s).host = s.host := rfl
@[simp] theorem updThr_pmp (t : Nat) (f : Thread → Thread) (s : State) : (updThr t f s).pmp = s.pmp := rfl

/-! ### updGrp -/

@[simp] theorem updGrp_pending (g : Nat) (f : Group → Group) (s : State) : (updGrp g f s).pending = s.pending := rfl
@[simp] theorem updGrp_now (g : Nat) (f : Group → Group) (s : State) : (updGrp g f s).now = s.now := rfl
@[simp] theorem updGrp_wall (g : Nat) (f : Group → Group) (s : State) : (updGrp g f s).wall = s.wall := rfl
@[simp] theorem updGrp_halted (g : Nat) (f : Group → Group) (s : State) : (updGrp g f s).halted = s.halted := rfl
@[simp] theorem updGrp_fresh (g : Nat) (f : Group → Group) (s : State) : (updGrp g f s).fresh = s.fresh := rfl
@[simp] theorem updGrp_outs (g : Nat) (f : Group → Group) (s : State) : (updGrp g f s).outs = s.outs := rfl
@[simp] theorem updGrp_csr (g : Nat) (f : Group → Group) (s : State) : (updGrp g f s).csr = s.csr := rfl
@[simp] theorem updGrp_xlt (g : Nat) (f : Group → Group) (s : State) : (updGrp g f s).xlt = s.xlt := rfl
@[simp] theorem updGrp_store (g : Nat) (f : Group → Group) (s : State) : (updGrp g f s).store = s.store := rfl
@[simp] theorem updGrp_coh (g : Nat) (f : Group → Group) (s : State) : (updGrp g f s).coh = s.coh := rfl
@[simp] theorem updGrp_sync (g : Nat) (f : Group → Group) (s : State) : (updGrp g f s).sync = s.sync := rfl
@[simp] theorem updGrp_drv (g : Nat) (f : Group → Group) (s : State) : (updGrp g f s).drv = { s.drv with groups := tupd g f s.drv.groups } := rfl
@[simp] theorem updGrp_stg (g : Nat) (f : Group → Group) (s : State) : (updGrp g f s).stg = s.stg := rfl
@[simp] theorem updGrp_eng (g : Nat) (f : Group → Group) (s : State) : (updGrp g f s).eng = s.eng := rfl
@[simp] theorem updGrp_dep (g : Nat) (f : Group → Group) (s : State) : (updGrp g f s).dep = s.dep := rfl
@[simp] theorem updGrp_idx (g : Nat) (f : Group → Group) (s : State) : (updGrp g f s).idx = s.idx := rfl
@[simp] theorem updGrp_car (g : Nat) (f : Group → Group) (s : State) : (updGrp g f s).car = s.car := rfl
@[simp] theorem updGrp_ports (g : Nat) (f : Group → Group) (s : State) : (updGrp g f s).ports = s.ports := rfl
@[simp] theorem updGrp_clk (g : Nat) (f : Group → Group) (s : State) : (updGrp g f s).clk = s.clk := rfl
@[simp] theorem updGrp_pwr (g : Nat) (f : Group → Group) (s : State) : (updGrp g f s).pwr = s.pwr := rfl
@[simp] theorem updGrp_tap (g : Nat) (f : Group → Group) (s : State) : (updGrp g f s).tap = s.tap := rfl
@[simp] theorem updGrp_rep (g : Nat) (f : Group → Group) (s : State) : (updGrp g f s).rep = s.rep := rfl
@[simp] theorem updGrp_parts (g : Nat) (f : Group → Group) (s : State) : (updGrp g f s).parts = s.parts := rfl
@[simp] theorem updGrp_ras (g : Nat) (f : Group → Group) (s : State) : (updGrp g f s).ras = s.ras := rfl
@[simp] theorem updGrp_host (g : Nat) (f : Group → Group) (s : State) : (updGrp g f s).host = s.host := rfl
@[simp] theorem updGrp_pmp (g : Nat) (f : Group → Group) (s : State) : (updGrp g f s).pmp = s.pmp := rfl

/-! ### updPart -/

@[simp] theorem updPart_pending (p : Nat) (f : Part → Part) (s : State) : (updPart p f s).pending = s.pending := rfl
@[simp] theorem updPart_now (p : Nat) (f : Part → Part) (s : State) : (updPart p f s).now = s.now := rfl
@[simp] theorem updPart_wall (p : Nat) (f : Part → Part) (s : State) : (updPart p f s).wall = s.wall := rfl
@[simp] theorem updPart_halted (p : Nat) (f : Part → Part) (s : State) : (updPart p f s).halted = s.halted := rfl
@[simp] theorem updPart_fresh (p : Nat) (f : Part → Part) (s : State) : (updPart p f s).fresh = s.fresh := rfl
@[simp] theorem updPart_outs (p : Nat) (f : Part → Part) (s : State) : (updPart p f s).outs = s.outs := rfl
@[simp] theorem updPart_csr (p : Nat) (f : Part → Part) (s : State) : (updPart p f s).csr = s.csr := rfl
@[simp] theorem updPart_xlt (p : Nat) (f : Part → Part) (s : State) : (updPart p f s).xlt = s.xlt := rfl
@[simp] theorem updPart_store (p : Nat) (f : Part → Part) (s : State) : (updPart p f s).store = s.store := rfl
@[simp] theorem updPart_coh (p : Nat) (f : Part → Part) (s : State) : (updPart p f s).coh = s.coh := rfl
@[simp] theorem updPart_sync (p : Nat) (f : Part → Part) (s : State) : (updPart p f s).sync = s.sync := rfl
@[simp] theorem updPart_drv (p : Nat) (f : Part → Part) (s : State) : (updPart p f s).drv = s.drv := rfl
@[simp] theorem updPart_stg (p : Nat) (f : Part → Part) (s : State) : (updPart p f s).stg = s.stg := rfl
@[simp] theorem updPart_eng (p : Nat) (f : Part → Part) (s : State) : (updPart p f s).eng = s.eng := rfl
@[simp] theorem updPart_dep (p : Nat) (f : Part → Part) (s : State) : (updPart p f s).dep = s.dep := rfl
@[simp] theorem updPart_idx (p : Nat) (f : Part → Part) (s : State) : (updPart p f s).idx = s.idx := rfl
@[simp] theorem updPart_car (p : Nat) (f : Part → Part) (s : State) : (updPart p f s).car = s.car := rfl
@[simp] theorem updPart_ports (p : Nat) (f : Part → Part) (s : State) : (updPart p f s).ports = s.ports := rfl
@[simp] theorem updPart_clk (p : Nat) (f : Part → Part) (s : State) : (updPart p f s).clk = s.clk := rfl
@[simp] theorem updPart_pwr (p : Nat) (f : Part → Part) (s : State) : (updPart p f s).pwr = s.pwr := rfl
@[simp] theorem updPart_tap (p : Nat) (f : Part → Part) (s : State) : (updPart p f s).tap = s.tap := rfl
@[simp] theorem updPart_rep (p : Nat) (f : Part → Part) (s : State) : (updPart p f s).rep = s.rep := rfl
@[simp] theorem updPart_parts (p : Nat) (f : Part → Part) (s : State) : (updPart p f s).parts = { s.parts with live := tupd p f s.parts.live } := rfl
@[simp] theorem updPart_ras (p : Nat) (f : Part → Part) (s : State) : (updPart p f s).ras = s.ras := rfl
@[simp] theorem updPart_host (p : Nat) (f : Part → Part) (s : State) : (updPart p f s).host = s.host := rfl
@[simp] theorem updPart_pmp (p : Nat) (f : Part → Part) (s : State) : (updPart p f s).pmp = s.pmp := rfl

/-! ### updPort -/

@[simp] theorem updPort_pending (p : Nat) (f : Port → Port) (s : State) : (updPort p f s).pending = s.pending := rfl
@[simp] theorem updPort_now (p : Nat) (f : Port → Port) (s : State) : (updPort p f s).now = s.now := rfl
@[simp] theorem updPort_wall (p : Nat) (f : Port → Port) (s : State) : (updPort p f s).wall = s.wall := rfl
@[simp] theorem updPort_halted (p : Nat) (f : Port → Port) (s : State) : (updPort p f s).halted = s.halted := rfl
@[simp] theorem updPort_fresh (p : Nat) (f : Port → Port) (s : State) : (updPort p f s).fresh = s.fresh := rfl
@[simp] theorem updPort_outs (p : Nat) (f : Port → Port) (s : State) : (updPort p f s).outs = s.outs := rfl
@[simp] theorem updPort_csr (p : Nat) (f : Port → Port) (s : State) : (updPort p f s).csr = s.csr := rfl
@[simp] theorem updPort_xlt (p : Nat) (f : Port → Port) (s : State) : (updPort p f s).xlt = s.xlt := rfl
@[simp] theorem updPort_store (p : Nat) (f : Port → Port) (s : State) : (updPort p f s).store = s.store := rfl
@[simp] theorem updPort_coh (p : Nat) (f : Port → Port) (s : State) : (updPort p f s).coh = s.coh := rfl
@[simp] theorem updPort_sync (p : Nat) (f : Port → Port) (s : State) : (updPort p f s).sync = s.sync := rfl
@[simp] theorem updPort_drv (p : Nat) (f : Port → Port) (s : State) : (updPort p f s).drv = s.drv := rfl
@[simp] theorem updPort_stg (p : Nat) (f : Port → Port) (s : State) : (updPort p f s).stg = s.stg := rfl
@[simp] theorem updPort_eng (p : Nat) (f : Port → Port) (s : State) : (updPort p f s).eng = s.eng := rfl
@[simp] theorem updPort_dep (p : Nat) (f : Port → Port) (s : State) : (updPort p f s).dep = s.dep := rfl
@[simp] theorem updPort_idx (p : Nat) (f : Port → Port) (s : State) : (updPort p f s).idx = s.idx := rfl
@[simp] theorem updPort_car (p : Nat) (f : Port → Port) (s : State) : (updPort p f s).car = s.car := rfl
@[simp] theorem updPort_ports (p : Nat) (f : Port → Port) (s : State) : (updPort p f s).ports = s.ports.setIfInBounds p (f (port s p)) := rfl
@[simp] theorem updPort_clk (p : Nat) (f : Port → Port) (s : State) : (updPort p f s).clk = s.clk := rfl
@[simp] theorem updPort_pwr (p : Nat) (f : Port → Port) (s : State) : (updPort p f s).pwr = s.pwr := rfl
@[simp] theorem updPort_tap (p : Nat) (f : Port → Port) (s : State) : (updPort p f s).tap = s.tap := rfl
@[simp] theorem updPort_rep (p : Nat) (f : Port → Port) (s : State) : (updPort p f s).rep = s.rep := rfl
@[simp] theorem updPort_parts (p : Nat) (f : Port → Port) (s : State) : (updPort p f s).parts = s.parts := rfl
@[simp] theorem updPort_ras (p : Nat) (f : Port → Port) (s : State) : (updPort p f s).ras = s.ras := rfl
@[simp] theorem updPort_host (p : Nat) (f : Port → Port) (s : State) : (updPort p f s).host = s.host := rfl
@[simp] theorem updPort_pmp (p : Nat) (f : Port → Port) (s : State) : (updPort p f s).pmp = s.pmp := rfl

/-! ### updXlt -/

@[simp] theorem updXlt_pending (f : Xlt → Xlt) (s : State) : (updXlt f s).pending = s.pending := rfl
@[simp] theorem updXlt_now (f : Xlt → Xlt) (s : State) : (updXlt f s).now = s.now := rfl
@[simp] theorem updXlt_wall (f : Xlt → Xlt) (s : State) : (updXlt f s).wall = s.wall := rfl
@[simp] theorem updXlt_halted (f : Xlt → Xlt) (s : State) : (updXlt f s).halted = s.halted := rfl
@[simp] theorem updXlt_fresh (f : Xlt → Xlt) (s : State) : (updXlt f s).fresh = s.fresh := rfl
@[simp] theorem updXlt_outs (f : Xlt → Xlt) (s : State) : (updXlt f s).outs = s.outs := rfl
@[simp] theorem updXlt_csr (f : Xlt → Xlt) (s : State) : (updXlt f s).csr = s.csr := rfl
@[simp] theorem updXlt_xlt (f : Xlt → Xlt) (s : State) : (updXlt f s).xlt = f s.xlt := rfl
@[simp] theorem updXlt_store (f : Xlt → Xlt) (s : State) : (updXlt f s).store = s.store := rfl
@[simp] theorem updXlt_coh (f : Xlt → Xlt) (s : State) : (updXlt f s).coh = s.coh := rfl
@[simp] theorem updXlt_sync (f : Xlt → Xlt) (s : State) : (updXlt f s).sync = s.sync := rfl
@[simp] theorem updXlt_drv (f : Xlt → Xlt) (s : State) : (updXlt f s).drv = s.drv := rfl
@[simp] theorem updXlt_stg (f : Xlt → Xlt) (s : State) : (updXlt f s).stg = s.stg := rfl
@[simp] theorem updXlt_eng (f : Xlt → Xlt) (s : State) : (updXlt f s).eng = s.eng := rfl
@[simp] theorem updXlt_dep (f : Xlt → Xlt) (s : State) : (updXlt f s).dep = s.dep := rfl
@[simp] theorem updXlt_idx (f : Xlt → Xlt) (s : State) : (updXlt f s).idx = s.idx := rfl
@[simp] theorem updXlt_car (f : Xlt → Xlt) (s : State) : (updXlt f s).car = s.car := rfl
@[simp] theorem updXlt_ports (f : Xlt → Xlt) (s : State) : (updXlt f s).ports = s.ports := rfl
@[simp] theorem updXlt_clk (f : Xlt → Xlt) (s : State) : (updXlt f s).clk = s.clk := rfl
@[simp] theorem updXlt_pwr (f : Xlt → Xlt) (s : State) : (updXlt f s).pwr = s.pwr := rfl
@[simp] theorem updXlt_tap (f : Xlt → Xlt) (s : State) : (updXlt f s).tap = s.tap := rfl
@[simp] theorem updXlt_rep (f : Xlt → Xlt) (s : State) : (updXlt f s).rep = s.rep := rfl
@[simp] theorem updXlt_parts (f : Xlt → Xlt) (s : State) : (updXlt f s).parts = s.parts := rfl
@[simp] theorem updXlt_ras (f : Xlt → Xlt) (s : State) : (updXlt f s).ras = s.ras := rfl
@[simp] theorem updXlt_host (f : Xlt → Xlt) (s : State) : (updXlt f s).host = s.host := rfl
@[simp] theorem updXlt_pmp (f : Xlt → Xlt) (s : State) : (updXlt f s).pmp = s.pmp := rfl

/-! ### updStg -/

@[simp] theorem updStg_pending (f : Stage → Stage) (s : State) : (updStg f s).pending = s.pending := rfl
@[simp] theorem updStg_now (f : Stage → Stage) (s : State) : (updStg f s).now = s.now := rfl
@[simp] theorem updStg_wall (f : Stage → Stage) (s : State) : (updStg f s).wall = s.wall := rfl
@[simp] theorem updStg_halted (f : Stage → Stage) (s : State) : (updStg f s).halted = s.halted := rfl
@[simp] theorem updStg_fresh (f : Stage → Stage) (s : State) : (updStg f s).fresh = s.fresh := rfl
@[simp] theorem updStg_outs (f : Stage → Stage) (s : State) : (updStg f s).outs = s.outs := rfl
@[simp] theorem updStg_csr (f : Stage → Stage) (s : State) : (updStg f s).csr = s.csr := rfl
@[simp] theorem updStg_xlt (f : Stage → Stage) (s : State) : (updStg f s).xlt = s.xlt := rfl
@[simp] theorem updStg_store (f : Stage → Stage) (s : State) : (updStg f s).store = s.store := rfl
@[simp] theorem updStg_coh (f : Stage → Stage) (s : State) : (updStg f s).coh = s.coh := rfl
@[simp] theorem updStg_sync (f : Stage → Stage) (s : State) : (updStg f s).sync = s.sync := rfl
@[simp] theorem updStg_drv (f : Stage → Stage) (s : State) : (updStg f s).drv = s.drv := rfl
@[simp] theorem updStg_stg (f : Stage → Stage) (s : State) : (updStg f s).stg = f s.stg := rfl
@[simp] theorem updStg_eng (f : Stage → Stage) (s : State) : (updStg f s).eng = s.eng := rfl
@[simp] theorem updStg_dep (f : Stage → Stage) (s : State) : (updStg f s).dep = s.dep := rfl
@[simp] theorem updStg_idx (f : Stage → Stage) (s : State) : (updStg f s).idx = s.idx := rfl
@[simp] theorem updStg_car (f : Stage → Stage) (s : State) : (updStg f s).car = s.car := rfl
@[simp] theorem updStg_ports (f : Stage → Stage) (s : State) : (updStg f s).ports = s.ports := rfl
@[simp] theorem updStg_clk (f : Stage → Stage) (s : State) : (updStg f s).clk = s.clk := rfl
@[simp] theorem updStg_pwr (f : Stage → Stage) (s : State) : (updStg f s).pwr = s.pwr := rfl
@[simp] theorem updStg_tap (f : Stage → Stage) (s : State) : (updStg f s).tap = s.tap := rfl
@[simp] theorem updStg_rep (f : Stage → Stage) (s : State) : (updStg f s).rep = s.rep := rfl
@[simp] theorem updStg_parts (f : Stage → Stage) (s : State) : (updStg f s).parts = s.parts := rfl
@[simp] theorem updStg_ras (f : Stage → Stage) (s : State) : (updStg f s).ras = s.ras := rfl
@[simp] theorem updStg_host (f : Stage → Stage) (s : State) : (updStg f s).host = s.host := rfl
@[simp] theorem updStg_pmp (f : Stage → Stage) (s : State) : (updStg f s).pmp = s.pmp := rfl

/-! ### updRep -/

@[simp] theorem updRep_pending (f : Rep → Rep) (s : State) : (updRep f s).pending = s.pending := rfl
@[simp] theorem updRep_now (f : Rep → Rep) (s : State) : (updRep f s).now = s.now := rfl
@[simp] theorem updRep_wall (f : Rep → Rep) (s : State) : (updRep f s).wall = s.wall := rfl
@[simp] theorem updRep_halted (f : Rep → Rep) (s : State) : (updRep f s).halted = s.halted := rfl
@[simp] theorem updRep_fresh (f : Rep → Rep) (s : State) : (updRep f s).fresh = s.fresh := rfl
@[simp] theorem updRep_outs (f : Rep → Rep) (s : State) : (updRep f s).outs = s.outs := rfl
@[simp] theorem updRep_csr (f : Rep → Rep) (s : State) : (updRep f s).csr = s.csr := rfl
@[simp] theorem updRep_xlt (f : Rep → Rep) (s : State) : (updRep f s).xlt = s.xlt := rfl
@[simp] theorem updRep_store (f : Rep → Rep) (s : State) : (updRep f s).store = s.store := rfl
@[simp] theorem updRep_coh (f : Rep → Rep) (s : State) : (updRep f s).coh = s.coh := rfl
@[simp] theorem updRep_sync (f : Rep → Rep) (s : State) : (updRep f s).sync = s.sync := rfl
@[simp] theorem updRep_drv (f : Rep → Rep) (s : State) : (updRep f s).drv = s.drv := rfl
@[simp] theorem updRep_stg (f : Rep → Rep) (s : State) : (updRep f s).stg = s.stg := rfl
@[simp] theorem updRep_eng (f : Rep → Rep) (s : State) : (updRep f s).eng = s.eng := rfl
@[simp] theorem updRep_dep (f : Rep → Rep) (s : State) : (updRep f s).dep = s.dep := rfl
@[simp] theorem updRep_idx (f : Rep → Rep) (s : State) : (updRep f s).idx = s.idx := rfl
@[simp] theorem updRep_car (f : Rep → Rep) (s : State) : (updRep f s).car = s.car := rfl
@[simp] theorem updRep_ports (f : Rep → Rep) (s : State) : (updRep f s).ports = s.ports := rfl
@[simp] theorem updRep_clk (f : Rep → Rep) (s : State) : (updRep f s).clk = s.clk := rfl
@[simp] theorem updRep_pwr (f : Rep → Rep) (s : State) : (updRep f s).pwr = s.pwr := rfl
@[simp] theorem updRep_tap (f : Rep → Rep) (s : State) : (updRep f s).tap = s.tap := rfl
@[simp] theorem updRep_rep (f : Rep → Rep) (s : State) : (updRep f s).rep = f s.rep := rfl
@[simp] theorem updRep_parts (f : Rep → Rep) (s : State) : (updRep f s).parts = s.parts := rfl
@[simp] theorem updRep_ras (f : Rep → Rep) (s : State) : (updRep f s).ras = s.ras := rfl
@[simp] theorem updRep_host (f : Rep → Rep) (s : State) : (updRep f s).host = s.host := rfl
@[simp] theorem updRep_pmp (f : Rep → Rep) (s : State) : (updRep f s).pmp = s.pmp := rfl

/-! ### updHost -/

@[simp] theorem updHost_pending (f : HostPort → HostPort) (s : State) : (updHost f s).pending = s.pending := rfl
@[simp] theorem updHost_now (f : HostPort → HostPort) (s : State) : (updHost f s).now = s.now := rfl
@[simp] theorem updHost_wall (f : HostPort → HostPort) (s : State) : (updHost f s).wall = s.wall := rfl
@[simp] theorem updHost_halted (f : HostPort → HostPort) (s : State) : (updHost f s).halted = s.halted := rfl
@[simp] theorem updHost_fresh (f : HostPort → HostPort) (s : State) : (updHost f s).fresh = s.fresh := rfl
@[simp] theorem updHost_outs (f : HostPort → HostPort) (s : State) : (updHost f s).outs = s.outs := rfl
@[simp] theorem updHost_csr (f : HostPort → HostPort) (s : State) : (updHost f s).csr = s.csr := rfl
@[simp] theorem updHost_xlt (f : HostPort → HostPort) (s : State) : (updHost f s).xlt = s.xlt := rfl
@[simp] theorem updHost_store (f : HostPort → HostPort) (s : State) : (updHost f s).store = s.store := rfl
@[simp] theorem updHost_coh (f : HostPort → HostPort) (s : State) : (updHost f s).coh = s.coh := rfl
@[simp] theorem updHost_sync (f : HostPort → HostPort) (s : State) : (updHost f s).sync = s.sync := rfl
@[simp] theorem updHost_drv (f : HostPort → HostPort) (s : State) : (updHost f s).drv = s.drv := rfl
@[simp] theorem updHost_stg (f : HostPort → HostPort) (s : State) : (updHost f s).stg = s.stg := rfl
@[simp] theorem updHost_eng (f : HostPort → HostPort) (s : State) : (updHost f s).eng = s.eng := rfl
@[simp] theorem updHost_dep (f : HostPort → HostPort) (s : State) : (updHost f s).dep = s.dep := rfl
@[simp] theorem updHost_idx (f : HostPort → HostPort) (s : State) : (updHost f s).idx = s.idx := rfl
@[simp] theorem updHost_car (f : HostPort → HostPort) (s : State) : (updHost f s).car = s.car := rfl
@[simp] theorem updHost_ports (f : HostPort → HostPort) (s : State) : (updHost f s).ports = s.ports := rfl
@[simp] theorem updHost_clk (f : HostPort → HostPort) (s : State) : (updHost f s).clk = s.clk := rfl
@[simp] theorem updHost_pwr (f : HostPort → HostPort) (s : State) : (updHost f s).pwr = s.pwr := rfl
@[simp] theorem updHost_tap (f : HostPort → HostPort) (s : State) : (updHost f s).tap = s.tap := rfl
@[simp] theorem updHost_rep (f : HostPort → HostPort) (s : State) : (updHost f s).rep = s.rep := rfl
@[simp] theorem updHost_parts (f : HostPort → HostPort) (s : State) : (updHost f s).parts = s.parts := rfl
@[simp] theorem updHost_ras (f : HostPort → HostPort) (s : State) : (updHost f s).ras = s.ras := rfl
@[simp] theorem updHost_host (f : HostPort → HostPort) (s : State) : (updHost f s).host = f s.host := rfl
@[simp] theorem updHost_pmp (f : HostPort → HostPort) (s : State) : (updHost f s).pmp = s.pmp := rfl

/-! ### updClk -/

@[simp] theorem updClk_pending (f : Clk → Clk) (s : State) : (updClk f s).pending = s.pending := rfl
@[simp] theorem updClk_now (f : Clk → Clk) (s : State) : (updClk f s).now = s.now := rfl
@[simp] theorem updClk_wall (f : Clk → Clk) (s : State) : (updClk f s).wall = s.wall := rfl
@[simp] theorem updClk_halted (f : Clk → Clk) (s : State) : (updClk f s).halted = s.halted := rfl
@[simp] theorem updClk_fresh (f : Clk → Clk) (s : State) : (updClk f s).fresh = s.fresh := rfl
@[simp] theorem updClk_outs (f : Clk → Clk) (s : State) : (updClk f s).outs = s.outs := rfl
@[simp] theorem updClk_csr (f : Clk → Clk) (s : State) : (updClk f s).csr = s.csr := rfl
@[simp] theorem updClk_xlt (f : Clk → Clk) (s : State) : (updClk f s).xlt = s.xlt := rfl
@[simp] theorem updClk_store (f : Clk → Clk) (s : State) : (updClk f s).store = s.store := rfl
@[simp] theorem updClk_coh (f : Clk → Clk) (s : State) : (updClk f s).coh = s.coh := rfl
@[simp] theorem updClk_sync (f : Clk → Clk) (s : State) : (updClk f s).sync = s.sync := rfl
@[simp] theorem updClk_drv (f : Clk → Clk) (s : State) : (updClk f s).drv = s.drv := rfl
@[simp] theorem updClk_stg (f : Clk → Clk) (s : State) : (updClk f s).stg = s.stg := rfl
@[simp] theorem updClk_eng (f : Clk → Clk) (s : State) : (updClk f s).eng = s.eng := rfl
@[simp] theorem updClk_dep (f : Clk → Clk) (s : State) : (updClk f s).dep = s.dep := rfl
@[simp] theorem updClk_idx (f : Clk → Clk) (s : State) : (updClk f s).idx = s.idx := rfl
@[simp] theorem updClk_car (f : Clk → Clk) (s : State) : (updClk f s).car = s.car := rfl
@[simp] theorem updClk_ports (f : Clk → Clk) (s : State) : (updClk f s).ports = s.ports := rfl
@[simp] theorem updClk_clk (f : Clk → Clk) (s : State) : (updClk f s).clk = f s.clk := rfl
@[simp] theorem updClk_pwr (f : Clk → Clk) (s : State) : (updClk f s).pwr = s.pwr := rfl
@[simp] theorem updClk_tap (f : Clk → Clk) (s : State) : (updClk f s).tap = s.tap := rfl
@[simp] theorem updClk_rep (f : Clk → Clk) (s : State) : (updClk f s).rep = s.rep := rfl
@[simp] theorem updClk_parts (f : Clk → Clk) (s : State) : (updClk f s).parts = s.parts := rfl
@[simp] theorem updClk_ras (f : Clk → Clk) (s : State) : (updClk f s).ras = s.ras := rfl
@[simp] theorem updClk_host (f : Clk → Clk) (s : State) : (updClk f s).host = s.host := rfl
@[simp] theorem updClk_pmp (f : Clk → Clk) (s : State) : (updClk f s).pmp = s.pmp := rfl

/-! ### updPwr -/

@[simp] theorem updPwr_pending (f : Pwr → Pwr) (s : State) : (updPwr f s).pending = s.pending := rfl
@[simp] theorem updPwr_now (f : Pwr → Pwr) (s : State) : (updPwr f s).now = s.now := rfl
@[simp] theorem updPwr_wall (f : Pwr → Pwr) (s : State) : (updPwr f s).wall = s.wall := rfl
@[simp] theorem updPwr_halted (f : Pwr → Pwr) (s : State) : (updPwr f s).halted = s.halted := rfl
@[simp] theorem updPwr_fresh (f : Pwr → Pwr) (s : State) : (updPwr f s).fresh = s.fresh := rfl
@[simp] theorem updPwr_outs (f : Pwr → Pwr) (s : State) : (updPwr f s).outs = s.outs := rfl
@[simp] theorem updPwr_csr (f : Pwr → Pwr) (s : State) : (updPwr f s).csr = s.csr := rfl
@[simp] theorem updPwr_xlt (f : Pwr → Pwr) (s : State) : (updPwr f s).xlt = s.xlt := rfl
@[simp] theorem updPwr_store (f : Pwr → Pwr) (s : State) : (updPwr f s).store = s.store := rfl
@[simp] theorem updPwr_coh (f : Pwr → Pwr) (s : State) : (updPwr f s).coh = s.coh := rfl
@[simp] theorem updPwr_sync (f : Pwr → Pwr) (s : State) : (updPwr f s).sync = s.sync := rfl
@[simp] theorem updPwr_drv (f : Pwr → Pwr) (s : State) : (updPwr f s).drv = s.drv := rfl
@[simp] theorem updPwr_stg (f : Pwr → Pwr) (s : State) : (updPwr f s).stg = s.stg := rfl
@[simp] theorem updPwr_eng (f : Pwr → Pwr) (s : State) : (updPwr f s).eng = s.eng := rfl
@[simp] theorem updPwr_dep (f : Pwr → Pwr) (s : State) : (updPwr f s).dep = s.dep := rfl
@[simp] theorem updPwr_idx (f : Pwr → Pwr) (s : State) : (updPwr f s).idx = s.idx := rfl
@[simp] theorem updPwr_car (f : Pwr → Pwr) (s : State) : (updPwr f s).car = s.car := rfl
@[simp] theorem updPwr_ports (f : Pwr → Pwr) (s : State) : (updPwr f s).ports = s.ports := rfl
@[simp] theorem updPwr_clk (f : Pwr → Pwr) (s : State) : (updPwr f s).clk = s.clk := rfl
@[simp] theorem updPwr_pwr (f : Pwr → Pwr) (s : State) : (updPwr f s).pwr = f s.pwr := rfl
@[simp] theorem updPwr_tap (f : Pwr → Pwr) (s : State) : (updPwr f s).tap = s.tap := rfl
@[simp] theorem updPwr_rep (f : Pwr → Pwr) (s : State) : (updPwr f s).rep = s.rep := rfl
@[simp] theorem updPwr_parts (f : Pwr → Pwr) (s : State) : (updPwr f s).parts = s.parts := rfl
@[simp] theorem updPwr_ras (f : Pwr → Pwr) (s : State) : (updPwr f s).ras = s.ras := rfl
@[simp] theorem updPwr_host (f : Pwr → Pwr) (s : State) : (updPwr f s).host = s.host := rfl
@[simp] theorem updPwr_pmp (f : Pwr → Pwr) (s : State) : (updPwr f s).pmp = s.pmp := rfl

/-! ### updOp -/

@[simp] theorem updOp_pending (i : Nat) (f : EngOp → EngOp) (s : State) : (updOp i f s).pending = s.pending := rfl
@[simp] theorem updOp_now (i : Nat) (f : EngOp → EngOp) (s : State) : (updOp i f s).now = s.now := rfl
@[simp] theorem updOp_wall (i : Nat) (f : EngOp → EngOp) (s : State) : (updOp i f s).wall = s.wall := rfl
@[simp] theorem updOp_halted (i : Nat) (f : EngOp → EngOp) (s : State) : (updOp i f s).halted = s.halted := rfl
@[simp] theorem updOp_fresh (i : Nat) (f : EngOp → EngOp) (s : State) : (updOp i f s).fresh = s.fresh := rfl
@[simp] theorem updOp_outs (i : Nat) (f : EngOp → EngOp) (s : State) : (updOp i f s).outs = s.outs := rfl
@[simp] theorem updOp_csr (i : Nat) (f : EngOp → EngOp) (s : State) : (updOp i f s).csr = s.csr := rfl
@[simp] theorem updOp_xlt (i : Nat) (f : EngOp → EngOp) (s : State) : (updOp i f s).xlt = s.xlt := rfl
@[simp] theorem updOp_store (i : Nat) (f : EngOp → EngOp) (s : State) : (updOp i f s).store = s.store := rfl
@[simp] theorem updOp_coh (i : Nat) (f : EngOp → EngOp) (s : State) : (updOp i f s).coh = s.coh := rfl
@[simp] theorem updOp_sync (i : Nat) (f : EngOp → EngOp) (s : State) : (updOp i f s).sync = s.sync := rfl
@[simp] theorem updOp_drv (i : Nat) (f : EngOp → EngOp) (s : State) : (updOp i f s).drv = s.drv := rfl
@[simp] theorem updOp_stg (i : Nat) (f : EngOp → EngOp) (s : State) : (updOp i f s).stg = s.stg := rfl
@[simp] theorem updOp_eng (i : Nat) (f : EngOp → EngOp) (s : State) : (updOp i f s).eng = { s.eng with ops := tupd i f s.eng.ops } := rfl
@[simp] theorem updOp_dep (i : Nat) (f : EngOp → EngOp) (s : State) : (updOp i f s).dep = s.dep := rfl
@[simp] theorem updOp_idx (i : Nat) (f : EngOp → EngOp) (s : State) : (updOp i f s).idx = s.idx := rfl
@[simp] theorem updOp_car (i : Nat) (f : EngOp → EngOp) (s : State) : (updOp i f s).car = s.car := rfl
@[simp] theorem updOp_ports (i : Nat) (f : EngOp → EngOp) (s : State) : (updOp i f s).ports = s.ports := rfl
@[simp] theorem updOp_clk (i : Nat) (f : EngOp → EngOp) (s : State) : (updOp i f s).clk = s.clk := rfl
@[simp] theorem updOp_pwr (i : Nat) (f : EngOp → EngOp) (s : State) : (updOp i f s).pwr = s.pwr := rfl
@[simp] theorem updOp_tap (i : Nat) (f : EngOp → EngOp) (s : State) : (updOp i f s).tap = s.tap := rfl
@[simp] theorem updOp_rep (i : Nat) (f : EngOp → EngOp) (s : State) : (updOp i f s).rep = s.rep := rfl
@[simp] theorem updOp_parts (i : Nat) (f : EngOp → EngOp) (s : State) : (updOp i f s).parts = s.parts := rfl
@[simp] theorem updOp_ras (i : Nat) (f : EngOp → EngOp) (s : State) : (updOp i f s).ras = s.ras := rfl
@[simp] theorem updOp_host (i : Nat) (f : EngOp → EngOp) (s : State) : (updOp i f s).host = s.host := rfl
@[simp] theorem updOp_pmp (i : Nat) (f : EngOp → EngOp) (s : State) : (updOp i f s).pmp = s.pmp := rfl

/-! ### updUnit -/

@[simp] theorem updUnit_pending (k : UnitKind) (u : Nat) (f : UnitRec → UnitRec) (s : State) : (updUnit k u f s).pending = s.pending := rfl
@[simp] theorem updUnit_now (k : UnitKind) (u : Nat) (f : UnitRec → UnitRec) (s : State) : (updUnit k u f s).now = s.now := rfl
@[simp] theorem updUnit_wall (k : UnitKind) (u : Nat) (f : UnitRec → UnitRec) (s : State) : (updUnit k u f s).wall = s.wall := rfl
@[simp] theorem updUnit_halted (k : UnitKind) (u : Nat) (f : UnitRec → UnitRec) (s : State) : (updUnit k u f s).halted = s.halted := rfl
@[simp] theorem updUnit_fresh (k : UnitKind) (u : Nat) (f : UnitRec → UnitRec) (s : State) : (updUnit k u f s).fresh = s.fresh := rfl
@[simp] theorem updUnit_outs (k : UnitKind) (u : Nat) (f : UnitRec → UnitRec) (s : State) : (updUnit k u f s).outs = s.outs := rfl
@[simp] theorem updUnit_csr (k : UnitKind) (u : Nat) (f : UnitRec → UnitRec) (s : State) : (updUnit k u f s).csr = s.csr := rfl
@[simp] theorem updUnit_xlt (k : UnitKind) (u : Nat) (f : UnitRec → UnitRec) (s : State) : (updUnit k u f s).xlt = s.xlt := rfl
@[simp] theorem updUnit_store (k : UnitKind) (u : Nat) (f : UnitRec → UnitRec) (s : State) : (updUnit k u f s).store = s.store := rfl
@[simp] theorem updUnit_coh (k : UnitKind) (u : Nat) (f : UnitRec → UnitRec) (s : State) : (updUnit k u f s).coh = s.coh := rfl
@[simp] theorem updUnit_sync (k : UnitKind) (u : Nat) (f : UnitRec → UnitRec) (s : State) : (updUnit k u f s).sync = s.sync := rfl
@[simp] theorem updUnit_drv (k : UnitKind) (u : Nat) (f : UnitRec → UnitRec) (s : State) : (updUnit k u f s).drv = s.drv := rfl
@[simp] theorem updUnit_stg (k : UnitKind) (u : Nat) (f : UnitRec → UnitRec) (s : State) : (updUnit k u f s).stg = s.stg := rfl
@[simp] theorem updUnit_dep (k : UnitKind) (u : Nat) (f : UnitRec → UnitRec) (s : State) : (updUnit k u f s).dep = s.dep := rfl
@[simp] theorem updUnit_idx (k : UnitKind) (u : Nat) (f : UnitRec → UnitRec) (s : State) : (updUnit k u f s).idx = s.idx := rfl
@[simp] theorem updUnit_car (k : UnitKind) (u : Nat) (f : UnitRec → UnitRec) (s : State) : (updUnit k u f s).car = s.car := rfl
@[simp] theorem updUnit_ports (k : UnitKind) (u : Nat) (f : UnitRec → UnitRec) (s : State) : (updUnit k u f s).ports = s.ports := rfl
@[simp] theorem updUnit_clk (k : UnitKind) (u : Nat) (f : UnitRec → UnitRec) (s : State) : (updUnit k u f s).clk = s.clk := rfl
@[simp] theorem updUnit_pwr (k : UnitKind) (u : Nat) (f : UnitRec → UnitRec) (s : State) : (updUnit k u f s).pwr = s.pwr := rfl
@[simp] theorem updUnit_tap (k : UnitKind) (u : Nat) (f : UnitRec → UnitRec) (s : State) : (updUnit k u f s).tap = s.tap := rfl
@[simp] theorem updUnit_rep (k : UnitKind) (u : Nat) (f : UnitRec → UnitRec) (s : State) : (updUnit k u f s).rep = s.rep := rfl
@[simp] theorem updUnit_parts (k : UnitKind) (u : Nat) (f : UnitRec → UnitRec) (s : State) : (updUnit k u f s).parts = s.parts := rfl
@[simp] theorem updUnit_ras (k : UnitKind) (u : Nat) (f : UnitRec → UnitRec) (s : State) : (updUnit k u f s).ras = s.ras := rfl
@[simp] theorem updUnit_host (k : UnitKind) (u : Nat) (f : UnitRec → UnitRec) (s : State) : (updUnit k u f s).host = s.host := rfl
@[simp] theorem updUnit_pmp (k : UnitKind) (u : Nat) (f : UnitRec → UnitRec) (s : State) : (updUnit k u f s).pmp = s.pmp := rfl

/-! ### updMem -/

@[simp] theorem updMem_pending (p d : Nat) (f : Member → Member) (s : State) : (updMem p d f s).pending = s.pending := rfl
@[simp] theorem updMem_now (p d : Nat) (f : Member → Member) (s : State) : (updMem p d f s).now = s.now := rfl
@[simp] theorem updMem_wall (p d : Nat) (f : Member → Member) (s : State) : (updMem p d f s).wall = s.wall := rfl
@[simp] theorem updMem_halted (p d : Nat) (f : Member → Member) (s : State) : (updMem p d f s).halted = s.halted := rfl
@[simp] theorem updMem_fresh (p d : Nat) (f : Member → Member) (s : State) : (updMem p d f s).fresh = s.fresh := rfl
@[simp] theorem updMem_outs (p d : Nat) (f : Member → Member) (s : State) : (updMem p d f s).outs = s.outs := rfl
@[simp] theorem updMem_csr (p d : Nat) (f : Member → Member) (s : State) : (updMem p d f s).csr = s.csr := rfl
@[simp] theorem updMem_xlt (p d : Nat) (f : Member → Member) (s : State) : (updMem p d f s).xlt = s.xlt := rfl
@[simp] theorem updMem_store (p d : Nat) (f : Member → Member) (s : State) : (updMem p d f s).store = s.store := rfl
@[simp] theorem updMem_coh (p d : Nat) (f : Member → Member) (s : State) : (updMem p d f s).coh = s.coh := rfl
@[simp] theorem updMem_sync (p d : Nat) (f : Member → Member) (s : State) : (updMem p d f s).sync = s.sync := rfl
@[simp] theorem updMem_drv (p d : Nat) (f : Member → Member) (s : State) : (updMem p d f s).drv = s.drv := rfl
@[simp] theorem updMem_stg (p d : Nat) (f : Member → Member) (s : State) : (updMem p d f s).stg = s.stg := rfl
@[simp] theorem updMem_eng (p d : Nat) (f : Member → Member) (s : State) : (updMem p d f s).eng = s.eng := rfl
@[simp] theorem updMem_idx (p d : Nat) (f : Member → Member) (s : State) : (updMem p d f s).idx = s.idx := rfl
@[simp] theorem updMem_car (p d : Nat) (f : Member → Member) (s : State) : (updMem p d f s).car = s.car := rfl
@[simp] theorem updMem_ports (p d : Nat) (f : Member → Member) (s : State) : (updMem p d f s).ports = s.ports := rfl
@[simp] theorem updMem_clk (p d : Nat) (f : Member → Member) (s : State) : (updMem p d f s).clk = s.clk := rfl
@[simp] theorem updMem_pwr (p d : Nat) (f : Member → Member) (s : State) : (updMem p d f s).pwr = s.pwr := rfl
@[simp] theorem updMem_tap (p d : Nat) (f : Member → Member) (s : State) : (updMem p d f s).tap = s.tap := rfl
@[simp] theorem updMem_rep (p d : Nat) (f : Member → Member) (s : State) : (updMem p d f s).rep = s.rep := rfl
@[simp] theorem updMem_parts (p d : Nat) (f : Member → Member) (s : State) : (updMem p d f s).parts = s.parts := rfl
@[simp] theorem updMem_ras (p d : Nat) (f : Member → Member) (s : State) : (updMem p d f s).ras = s.ras := rfl
@[simp] theorem updMem_host (p d : Nat) (f : Member → Member) (s : State) : (updMem p d f s).host = s.host := rfl
@[simp] theorem updMem_pmp (p d : Nat) (f : Member → Member) (s : State) : (updMem p d f s).pmp = s.pmp := rfl

/-! ### updCar -/

@[simp] theorem updCar_pending (i : Nat) (f : Caravan → Caravan) (s : State) : (updCar i f s).pending = s.pending := rfl
@[simp] theorem updCar_now (i : Nat) (f : Caravan → Caravan) (s : State) : (updCar i f s).now = s.now := rfl
@[simp] theorem updCar_wall (i : Nat) (f : Caravan → Caravan) (s : State) : (updCar i f s).wall = s.wall := rfl
@[simp] theorem updCar_halted (i : Nat) (f : Caravan → Caravan) (s : State) : (updCar i f s).halted = s.halted := rfl
@[simp] theorem updCar_fresh (i : Nat) (f : Caravan → Caravan) (s : State) : (updCar i f s).fresh = s.fresh := rfl
@[simp] theorem updCar_outs (i : Nat) (f : Caravan → Caravan) (s : State) : (updCar i f s).outs = s.outs := rfl
@[simp] theorem updCar_csr (i : Nat) (f : Caravan → Caravan) (s : State) : (updCar i f s).csr = s.csr := rfl
@[simp] theorem updCar_xlt (i : Nat) (f : Caravan → Caravan) (s : State) : (updCar i f s).xlt = s.xlt := rfl
@[simp] theorem updCar_store (i : Nat) (f : Caravan → Caravan) (s : State) : (updCar i f s).store = s.store := rfl
@[simp] theorem updCar_coh (i : Nat) (f : Caravan → Caravan) (s : State) : (updCar i f s).coh = s.coh := rfl
@[simp] theorem updCar_sync (i : Nat) (f : Caravan → Caravan) (s : State) : (updCar i f s).sync = s.sync := rfl
@[simp] theorem updCar_drv (i : Nat) (f : Caravan → Caravan) (s : State) : (updCar i f s).drv = s.drv := rfl
@[simp] theorem updCar_stg (i : Nat) (f : Caravan → Caravan) (s : State) : (updCar i f s).stg = s.stg := rfl
@[simp] theorem updCar_eng (i : Nat) (f : Caravan → Caravan) (s : State) : (updCar i f s).eng = s.eng := rfl
@[simp] theorem updCar_dep (i : Nat) (f : Caravan → Caravan) (s : State) : (updCar i f s).dep = s.dep := rfl
@[simp] theorem updCar_idx (i : Nat) (f : Caravan → Caravan) (s : State) : (updCar i f s).idx = s.idx := rfl
@[simp] theorem updCar_car (i : Nat) (f : Caravan → Caravan) (s : State) : (updCar i f s).car = { s.car with cars := tupd i f s.car.cars } := rfl
@[simp] theorem updCar_ports (i : Nat) (f : Caravan → Caravan) (s : State) : (updCar i f s).ports = s.ports := rfl
@[simp] theorem updCar_clk (i : Nat) (f : Caravan → Caravan) (s : State) : (updCar i f s).clk = s.clk := rfl
@[simp] theorem updCar_pwr (i : Nat) (f : Caravan → Caravan) (s : State) : (updCar i f s).pwr = s.pwr := rfl
@[simp] theorem updCar_tap (i : Nat) (f : Caravan → Caravan) (s : State) : (updCar i f s).tap = s.tap := rfl
@[simp] theorem updCar_rep (i : Nat) (f : Caravan → Caravan) (s : State) : (updCar i f s).rep = s.rep := rfl
@[simp] theorem updCar_parts (i : Nat) (f : Caravan → Caravan) (s : State) : (updCar i f s).parts = s.parts := rfl
@[simp] theorem updCar_ras (i : Nat) (f : Caravan → Caravan) (s : State) : (updCar i f s).ras = s.ras := rfl
@[simp] theorem updCar_host (i : Nat) (f : Caravan → Caravan) (s : State) : (updCar i f s).host = s.host := rfl
@[simp] theorem updCar_pmp (i : Nat) (f : Caravan → Caravan) (s : State) : (updCar i f s).pmp = s.pmp := rfl

/-! ### updStr -/

@[simp] theorem updStr_pending (p i : Nat) (f : Stream → Stream) (s : State) : (updStr p i f s).pending = s.pending := rfl
@[simp] theorem updStr_now (p i : Nat) (f : Stream → Stream) (s : State) : (updStr p i f s).now = s.now := rfl
@[simp] theorem updStr_wall (p i : Nat) (f : Stream → Stream) (s : State) : (updStr p i f s).wall = s.wall := rfl
@[simp] theorem updStr_halted (p i : Nat) (f : Stream → Stream) (s : State) : (updStr p i f s).halted = s.halted := rfl
@[simp] theorem updStr_fresh (p i : Nat) (f : Stream → Stream) (s : State) : (updStr p i f s).fresh = s.fresh := rfl
@[simp] theorem updStr_outs (p i : Nat) (f : Stream → Stream) (s : State) : (updStr p i f s).outs = s.outs := rfl
@[simp] theorem updStr_csr (p i : Nat) (f : Stream → Stream) (s : State) : (updStr p i f s).csr = s.csr := rfl
@[simp] theorem updStr_xlt (p i : Nat) (f : Stream → Stream) (s : State) : (updStr p i f s).xlt = s.xlt := rfl
@[simp] theorem updStr_store (p i : Nat) (f : Stream → Stream) (s : State) : (updStr p i f s).store = s.store := rfl
@[simp] theorem updStr_coh (p i : Nat) (f : Stream → Stream) (s : State) : (updStr p i f s).coh = s.coh := rfl
@[simp] theorem updStr_sync (p i : Nat) (f : Stream → Stream) (s : State) : (updStr p i f s).sync = s.sync := rfl
@[simp] theorem updStr_drv (p i : Nat) (f : Stream → Stream) (s : State) : (updStr p i f s).drv = s.drv := rfl
@[simp] theorem updStr_stg (p i : Nat) (f : Stream → Stream) (s : State) : (updStr p i f s).stg = s.stg := rfl
@[simp] theorem updStr_eng (p i : Nat) (f : Stream → Stream) (s : State) : (updStr p i f s).eng = s.eng := rfl
@[simp] theorem updStr_dep (p i : Nat) (f : Stream → Stream) (s : State) : (updStr p i f s).dep = s.dep := rfl
@[simp] theorem updStr_idx (p i : Nat) (f : Stream → Stream) (s : State) : (updStr p i f s).idx = s.idx := rfl
@[simp] theorem updStr_ports (p i : Nat) (f : Stream → Stream) (s : State) : (updStr p i f s).ports = s.ports := rfl
@[simp] theorem updStr_clk (p i : Nat) (f : Stream → Stream) (s : State) : (updStr p i f s).clk = s.clk := rfl
@[simp] theorem updStr_pwr (p i : Nat) (f : Stream → Stream) (s : State) : (updStr p i f s).pwr = s.pwr := rfl
@[simp] theorem updStr_tap (p i : Nat) (f : Stream → Stream) (s : State) : (updStr p i f s).tap = s.tap := rfl
@[simp] theorem updStr_rep (p i : Nat) (f : Stream → Stream) (s : State) : (updStr p i f s).rep = s.rep := rfl
@[simp] theorem updStr_parts (p i : Nat) (f : Stream → Stream) (s : State) : (updStr p i f s).parts = s.parts := rfl
@[simp] theorem updStr_ras (p i : Nat) (f : Stream → Stream) (s : State) : (updStr p i f s).ras = s.ras := rfl
@[simp] theorem updStr_host (p i : Nat) (f : Stream → Stream) (s : State) : (updStr p i f s).host = s.host := rfl
@[simp] theorem updStr_pmp (p i : Nat) (f : Stream → Stream) (s : State) : (updStr p i f s).pmp = s.pmp := rfl

/-! ### updMbx -/

@[simp] theorem updMbx_pending (n : Nat) (f : Mbx → Mbx) (s : State) : (updMbx n f s).pending = s.pending := rfl
@[simp] theorem updMbx_now (n : Nat) (f : Mbx → Mbx) (s : State) : (updMbx n f s).now = s.now := rfl
@[simp] theorem updMbx_wall (n : Nat) (f : Mbx → Mbx) (s : State) : (updMbx n f s).wall = s.wall := rfl
@[simp] theorem updMbx_halted (n : Nat) (f : Mbx → Mbx) (s : State) : (updMbx n f s).halted = s.halted := rfl
@[simp] theorem updMbx_fresh (n : Nat) (f : Mbx → Mbx) (s : State) : (updMbx n f s).fresh = s.fresh := rfl
@[simp] theorem updMbx_outs (n : Nat) (f : Mbx → Mbx) (s : State) : (updMbx n f s).outs = s.outs := rfl
@[simp] theorem updMbx_csr (n : Nat) (f : Mbx → Mbx) (s : State) : (updMbx n f s).csr = s.csr := rfl
@[simp] theorem updMbx_xlt (n : Nat) (f : Mbx → Mbx) (s : State) : (updMbx n f s).xlt = s.xlt := rfl
@[simp] theorem updMbx_store (n : Nat) (f : Mbx → Mbx) (s : State) : (updMbx n f s).store = s.store := rfl
@[simp] theorem updMbx_coh (n : Nat) (f : Mbx → Mbx) (s : State) : (updMbx n f s).coh = s.coh := rfl
@[simp] theorem updMbx_sync (n : Nat) (f : Mbx → Mbx) (s : State) : (updMbx n f s).sync = s.sync := rfl
@[simp] theorem updMbx_drv (n : Nat) (f : Mbx → Mbx) (s : State) : (updMbx n f s).drv = s.drv := rfl
@[simp] theorem updMbx_stg (n : Nat) (f : Mbx → Mbx) (s : State) : (updMbx n f s).stg = s.stg := rfl
@[simp] theorem updMbx_eng (n : Nat) (f : Mbx → Mbx) (s : State) : (updMbx n f s).eng = s.eng := rfl
@[simp] theorem updMbx_dep (n : Nat) (f : Mbx → Mbx) (s : State) : (updMbx n f s).dep = s.dep := rfl
@[simp] theorem updMbx_idx (n : Nat) (f : Mbx → Mbx) (s : State) : (updMbx n f s).idx = s.idx := rfl
@[simp] theorem updMbx_car (n : Nat) (f : Mbx → Mbx) (s : State) : (updMbx n f s).car = s.car := rfl
@[simp] theorem updMbx_ports (n : Nat) (f : Mbx → Mbx) (s : State) : (updMbx n f s).ports = s.ports := rfl
@[simp] theorem updMbx_clk (n : Nat) (f : Mbx → Mbx) (s : State) : (updMbx n f s).clk = s.clk := rfl
@[simp] theorem updMbx_pwr (n : Nat) (f : Mbx → Mbx) (s : State) : (updMbx n f s).pwr = s.pwr := rfl
@[simp] theorem updMbx_tap (n : Nat) (f : Mbx → Mbx) (s : State) : (updMbx n f s).tap = s.tap := rfl
@[simp] theorem updMbx_rep (n : Nat) (f : Mbx → Mbx) (s : State) : (updMbx n f s).rep = s.rep := rfl
@[simp] theorem updMbx_parts (n : Nat) (f : Mbx → Mbx) (s : State) : (updMbx n f s).parts = s.parts := rfl
@[simp] theorem updMbx_ras (n : Nat) (f : Mbx → Mbx) (s : State) : (updMbx n f s).ras = s.ras := rfl
@[simp] theorem updMbx_pmp (n : Nat) (f : Mbx → Mbx) (s : State) : (updMbx n f s).pmp = s.pmp := rfl

end Sys2Proof.Machine
end

