-- ==== Sys2Proof/Laws/Translation.lean ====
section
/-! SUPPORT. What walks of the mirror and fills of the TLBs give. -/

namespace Sys2Proof.Machine

open Sys2Proof

/-- The entry a walk ends at is the one at the offset it names. -/
theorem walkFrom_leaf {s : State} {page l off : Nat} {e : BitVec 64} :
    ∀ (n table : Nat), walkFrom s page n table = .leaf l off e → e = mirrorEntry s off := by
  intro n
  induction n with
  | zero => intro table h; simp [walkFrom] at h
  | succ n ih =>
    intro table h
    unfold walkFrom at h
    generalize hi : (if n = 3 then page / 512 ^ 3 % 262144 else page / 512 ^ n % 512) = i at h
    clear hi
    dsimp only at h
    split at h
    · simp at h
    · split at h
      · simp at h
      · split at h
        · rw [WalkRes.leaf.injEq] at h
          rw [← h.2.2, h.2.1]
        · exact ih _ h

/-- An entry filled from a leaf has the leaf's WRITE bit. -/
theorem fillEntry_write {s : State} {ctx : Nat} {gen : BitVec 32} {page level off : Nat} {e : BitVec 64} {tlb : Nat}
    (he : e = mirrorEntry s off) : (fillEntry s ctx gen page level off e tlb).write = meWrite e := by
  unfold fillEntry
  dsimp only
  split
  · next hk =>
    simp only [Bool.and_eq_true, List.all_eq_true] at hk
    have hi : off / 8 % 16 < 16 := Nat.mod_lt _ (by omega)
    have hb : off - off / 8 % 16 * 8 + off / 8 % 16 * 8 = off := by omega
    have h := hk.1 (mirrorEntry s (off - off / 8 % 16 * 8 + off / 8 % 16 * 8), off / 8 % 16) (by
      generalize off / 8 % 16 = i at hi
      generalize off - i * 8 = b
      refine List.mem_iff_getElem.mpr ⟨i, by simpa using hi, ?_⟩
      simp)
    rw [hb, ← he] at h
    exact (beq_iff_eq.mp h.1.2).symm
  · rfl

/-- Putting a TLB entry touches the TLBs and the counter of free values only. -/
theorem tlbPut_frame (e : TlbEnt) (s : State) :
    ∃ l n, tlbPut e s = { s with xlt := { s.xlt with tlb := l }, fresh := n } := by
  unfold tlbPut
  split <;> dsimp only <;> split <;> exact ⟨_, _, rfl⟩

end Sys2Proof.Machine
end

