-- ==== Sys2Proof/Tests/Slice0.lean ====
section
/-! SUPPORT. Smoke tests of the operand check, tests of single meanings, and for each obligation with hypotheses states
that meet them. -/

namespace Sys2Proof.Tests

set_option Elab.async false

open Sys2Proof Sys2Proof.Machine

/-! ### Operands the check refuses -/

theorem test_wf_port : (Instr.upgM 8 0 0 (.sa 0)).wellFormed = false := by decide
theorem test_wf_mailbox : (Instr.mbxHeartbeat).wellFormed = true ∧ (Instr.alloc 22).wellFormed = false := by decide
theorem test_wf_unit : (Instr.matmul 40).wellFormed = false := by decide
theorem test_wf_thread : (Instr.yieldOp 20480 0).wellFormed = false := by decide
theorem test_wf_core : (Instr.groupStart 320).wellFormed = false := by decide
theorem test_wf_cell : (Instr.cellReady 20).wellFormed = false := by decide
theorem test_wf_stack : (Instr.stackTrainingDone 20 true).wellFormed = false := by decide
theorem test_wf_channel : (Instr.flashPatrol 20 0 false).wellFormed = false := by decide
theorem test_wf_target : (Instr.censusTarget 0 16 none).wellFormed = false := by decide
theorem test_wf_half : (Instr.hostLinkDown 2).wellFormed = false := by decide
theorem test_wf_management_port : (Instr.mgmtLinkUp 2).wellFormed = false := by decide
theorem test_wf_stream_port : (Instr.streamIdleFree 9 0).wellFormed = false := by decide
theorem test_wf_line : (Instr.wrLine 0 0 0 (.sa 0) []).wellFormed = false := by decide
theorem test_wf_entry : (Instr.commandFetch 0 [] none false).wellFormed = false := by decide
theorem test_wf_size : (Instr.registerWrite 0 0 3 0).wellFormed = false := by decide
theorem test_wf_segment : (Instr.winSeg 0 16 0).wellFormed = false := by decide
theorem test_wf_built : (Instr.caravanStart .dma 1 0 none).wellFormed = false := by decide
theorem test_wf_logical : (Instr.unitRebind .matrix 40).wellFormed = false := by decide
theorem test_wf_bank : (Instr.selftestRun (.bank 20 0)).wellFormed = false := by decide
theorem test_wf_slot : (Instr.enrol 0 32 0 0 0 []).wellFormed = false := by decide
theorem test_wf_sensors : (Instr.sensorRead [] [] []).wellFormed = false := by decide
theorem test_wf_partition : (Instr.sweep 256 0).wellFormed = false := by decide

/-- A miss of context 2 in a state of its table. -/
def aMiss (st : MissSt) (first : BitVec 32) : Miss :=
  { ctx := 2, page := 5, ingress := 0, st := st, since := 0, reqs := [], genFirst := first, genLast := 0,
    missId := if st = .wait then some 0 else none }
/-- Context 2 live with its mirror header in an HBM allocation of context 1 that is all zero, GEN 0, and one miss. -/
def withMiss (st : MissSt) (first : BitVec 32) : State :=
  { State.reset with
    xlt := { State.reset.xlt with
      ctxs := [(2, { part := 0, keyslot := 4, ingress := 0x1FF, translate := true, mirrorHdr := 0, root := 65536, lastGen := 0 })],
      misses := [(7, aMiss st first)], run := { State.reset.xlt.run with enable := true },
      held := [{ req := { who := .port 0 0, ctx := 2, off := 0, op := .rdNc, len := 64 }, ingress := 0, page := 9,
                 write := false, since := 0 }] },
    store := { State.reset.store with allocs := [(0, { size := 131072, part := 0, ctx := 1, tier := .hbm, cells := [0] })] },
    host := { State.reset.host with linkUp := true } }
/-- The context of `withMiss`. -/
def missCtx : Ctx := { part := 0, keyslot := 4, ingress := 0x1FF, translate := true, mirrorHdr := 0, root := 65536, lastGen := 0 }

/-- Little-endian 8-byte entry: VALID, LEAF, WRITE, TARGET 0 (Table 2.5), at index 0 of a level-1 walk. -/
theorem witness_RequestsWalksAndMissesComplete :
    (let s := withMiss .walk 0
     s.runs ∧ ingressCheck s (Sa.of 0x0FFF000000000000) 2 0 = none ∧ (Sa.of 0x0FFF000000000000).space = 0) ∧
    (let s := withMiss .walk 0
     s.runs ∧ tget 7 s.xlt.misses = some (aMiss .walk 0) ∧ ctxOf s 2 = some missCtx ∧ mirrorOk s 0 = true ∧
      poisoned s 0 = false ∧ mirrorGen s missCtx = 0 ∧ older 0 missCtx.lastGen = false ∧
      walkFrom s 5 4 missCtx.root = .none ∧ s.xlt.run.enable = true ∧ s.xlt.run.timeout ≠ 0 ∧
      missExpired s (aMiss .walk 0) = false) ∧
    (let s := withMiss .walk 1
     tget 7 s.xlt.misses = some (aMiss .walk 1) ∧ (1#32).getLsbD 0 = true ∧ (mirrorGen s missCtx).getLsbD 0 = false) ∧
    (let s := withMiss .post 0
     tget 7 s.xlt.misses = some (aMiss .post 0) ∧ (s.xlt.mqTail + 1) % 2 ^ s.xlt.run.mqLog ≠ s.xlt.mqHead ∧
      s.host.linkUp = true ∧ s.xlt.held.length = 1 ∧ s.xlt.misses.length < 1024) ∧
    (let s := withMiss .wait 0
     s.barOpen ∧ s.xlt.misses.find? (fun z => z.2.st = .wait && z.2.missId = some 0) = some (7, aMiss .wait 0)) ∧
    (let s := withMiss .rewalk 0
     tget 7 s.xlt.misses = some (aMiss .rewalk 0) ∧ mirrorGen s missCtx = 0 ∧ walkFrom s 5 4 missCtx.root = .none) := by
  unfold State.barOpen State.runs; decide

/-- A context 2 of partition 0 with ingress and translation, GEN 4. -/
def ctx2 : Ctx := { part := 0, keyslot := 4, ingress := 0x3FF, translate := true, mirrorHdr := 0, root := 0, lastGen := 4 }
/-- Reset with context 2 live. -/
def withCtx : State := { State.reset with xlt := { State.reset.xlt with ctxs := [(2, ctx2)], invLen := 1 } }

theorem witness_InvalidationsAndXltRegistersComplete :
    (State.reset.barOpen ∧ invBusy withCtx = false ∧ ctxOf withCtx 2 = some ctx2 ∧ older ctx2.lastGen 6 = true ∧
      (6#32).getLsbD 0 = false ∧ withCtx.xlt.invLen ≠ 0) ∧
    (withCtx.barOpen ∧ older ctx2.lastGen 4 = false ∧ (7#32).getLsbD 0 = true) ∧
    (let i : Inv := { scope := 1, ctx := 2, gen := 6, page := 0, pages := 0, waits := [], started := true, mb := none }
     { withCtx with xlt := { withCtx.xlt with invs := [i] } }.runs) ∧
    (State.reset.parts.mgmtOwned.contains 0x70000 = false ∧ State.reset.xlt.shadow.timeout ≤ 1000 ∧
      6 ≤ State.reset.xlt.shadow.mqLog ∧ State.reset.xlt.shadow.mqLog ≤ 12) := by
  unfold State.barOpen State.runs; decide

/-- Partition 0: cell 0, no frames of its pool. -/
def part0 : Part :=
  { cells := [0], q := 0, retryLimit := 0, ownerCtx := 2, creation := 0, sealKeys := [], waybillKey := 0, hostTierKey := 0 }
/-- A read in flight to placed HBM data of context 2 in partition 0, blocks of a managed allocation in motion, one full
and one partly filled unit in the write buffer, and a frame held by a location switch. -/
def inMotion : State :=
  { State.reset with
    xlt := { State.reset.xlt with ctxs := [(2, ctx2)] },
    parts := { State.reset.parts with live := [(0, part0)] },
    coh := { State.reset.coh with fly := [{ req := { who := .host 1, ctx := 2, off := 64, op := .rdNc, len := 64, id := 1 }, tr := none }] },
    host := { State.reset.host with linkUp := true },
    store := { State.reset.store with
      allocs := [(0, { size := 65536, tier := .hbm, cells := [0], ctx := 2, part := 0 }),
                 (65536, { size := 262144, tier := .managed, cells := [0], ctx := 2, part := 0 })]
      prot := [(0, { owner := 2, isSealed := false, gset := 0 })]
      blocks := [(1, { alloc := 65536, st := .fetching, frame := some 0, lower := some (.flash 0 [0, 1, 2, 3]), first := 1 }),
                 (2, { alloc := 65536, st := .evicting, frame := some 0, lower := some (.flash 0 [0]) }),
                 (3, { alloc := 65536, st := .evicting, frame := some 0, lower := some (.host 1) })]
      shoot := [{ block := 4, cell := 0, since := 0 }]
      buf := [(5, { since := 0, lines := List.replicate 256 0 }), (6, { since := 0, lines := [0] })] } }

theorem witness_HomeFetchAndEvictionRowsComplete :
    inMotion.runs ∧
    (let s1 := ordered 1 { inMotion with coh := { inMotion.coh with fly := [] } }
     homeCheck s1 2 64 false = none ∧ homeCheck s1 2 127 false = none ∧ mayCross s1 (.host 1) 2 64 = true ∧
     (allocAt s1 64).map (fun x => (x.1, x.2.tier)) = some (0, .hbm)) ∧
    (∃ pt, partOf inMotion 0 = some pt ∧ (partCells inMotion 0).all (idleWindow inMotion) = true ∧
      pt.q < poolUsed inMotion 0 + evictReserve pt) ∧
    (∃ x, tget 1 inMotion.store.blocks = some x ∧ x.lower = some (.flash 0 [0, 1, 2, 3]) ∧ x.st = .fetching ∧ x.waitSince = none) ∧
    (∃ x, tget 2 inMotion.store.blocks = some x ∧ x.st = .evicting ∧ x.lower = some (.flash 0 [0]) ∧
      gcState (inMotion.store.flash.getD 0 {}) ≠ 3) ∧
    (∃ x, tget 3 inMotion.store.blocks = some x ∧ x.st = .evicting ∧ x.lower = some (.host 1)) ∧
    inMotion.store.shoot.any (fun x => x.block = 4) = true ∧
    (∃ x, tget 5 inMotion.store.buf = some x ∧ x.lines.length = 256) ∧
    (∃ x, tget 6 inMotion.store.buf = some x ∧ x.lines.length ≠ 256) := by
  unfold State.runs
  refine ⟨by decide, by decide +kernel, ⟨_, rfl, by decide +kernel⟩, ⟨_, rfl, by decide⟩, ⟨_, rfl, by decide +kernel⟩,
    ⟨_, rfl, by decide⟩, by decide, ⟨_, rfl, by decide +kernel⟩, ⟨_, rfl, by decide⟩⟩

theorem witness_noOwners : noOwners inMotion 2 = true ∧ noOwners inMotion 3 = true := by decide +kernel

/-- A stack that is trained with a row corrected in three passes, a channel census of which is done, with an admitted
target, one tenth of its capacity erased and one erase block worn 300 times; blocks 7 and 8 are being fetched. -/
def worn : State :=
  { State.reset with
    host := { State.reset.host with linkUp := true },
    store := { State.reset.store with
      stks := State.reset.store.stks.set 0 { ready := true, rows := [(9, 3)] },
      flash := State.reset.store.flash.set 0
        { admitted := 1, censusDone := true, good := 1000, usable := 900, erased := 60, wear := [(1, 0), (2, 300)] },
      blocks := [(7, { alloc := 0, st := .fetching, frame := some 0, lower := some (.flash 0 [0, 0, 0, 0]) }),
                 (8, { alloc := 0, st := .fetching, frame := some 0, lower := some (.host 1) })] } }

theorem witness_LowerTierFailureAndUpkeepRowsComplete :
    worn.runs ∧ (worn.store.flash.getD 0 {}).admitted.getLsbD 0 = true ∧
    (worn.store.blocks.map (fun x => (x.2.st, x.2.waitSince, x.2.lower))) =
      [(.fetching, none, some (.flash 0 [0, 0, 0, 0])), (.fetching, none, some (.host 1))] ∧
    worn.store.hostDownSince = none ∧ worn.host.linkUp = true ∧ gcState (worn.store.flash.getD 0 {}) = 2 ∧
    256 < wearSpread (worn.store.flash.getD 0 {}) ∧ idleWindow worn 0 = true ∧
    (tget 2 (worn.store.flash.getD 0 {}).wear).isSome = true ∧ (worn.store.stks.getD 0 {}).ready = true ∧
    3 ≤ rowStreak (worn.store.stks.getD 0 {}) 9 ∧ (worn.store.flash.getD 0 {}).censusDone = true := by
  unfold State.runs; decide +kernel

/-- Leg 0 of a caravan whose beacon is held. -/
def aStream : Stream := { bcn := some { target := 0, opnd := 0, count := 0, since := 0 } }
/-- One snoop, one waiter that polls for a count of zero, one full/empty waiter, one posted write and a stream on port 0
that holds a beacon with no earlier write outstanding. -/
def waiting : State :=
  { State.reset with
    coh := { State.reset.coh with
      snoops := [{ line := 3, port := 1, inv := true, since := 0, reqs := [] }],
      heldWr := [({ id := 4, ctx := 2, sa := 0, data := [], poison := false }, [])] },
    sync := { State.reset.sync with
      waiters := [{ word := 0, op := .waitGe, operand := 0, timeout := 1, since := 0, ctx := 2, who := .remote 0 0, poll := true }],
      feq := [{ line := 0, op := .readFe, data := [], poison := false, timeout := 1, since := 0, ctx := 2, who := .remote 0 0 }] },
    car := { State.reset.car with streams := [(5, aStream)], land := [(landKey 0 0 0, { legs := [(0, (0, .done))] })] } }

theorem witness_AgentsHostWritesAndWaitsComplete :
    waiting.runs ∧ waiting.coh.snoops.filter (fun x => x.line = 3) = [{ line := 3, port := 1, inv := true, since := 0, reqs := [] }] ∧
    strOf waiting 0 5 = some aStream ∧ aStream.bcn.isSome = true ∧ beaconState waiting 0 aStream = some .done ∧
    waiting.coh.heldWr.find? (fun x => x.1.id = 4) = some ({ id := 4, ctx := 2, sa := 0, data := [], poison := false }, []) ∧
    waiting.sync.waiters.length = 1 ∧ waiting.sync.feq.length = 1 ∧ waitHolds .waitGe (tallyAt waiting 0) 0 = true := by
  unfold State.runs; decide +kernel

def anEntry : Entry :=
  { deadline := 65534, start := 0, valid := true, publish := false, rate := 0, slot := 0, cells := 0, sub := 0, ukind := 2,
    opkind := 1, opref := 0, depFirst := 0, depCount := 0, ralFirst := 0, ralCount := 0 }
def aReport : Report :=
  { stage := 0, flags := 0, due := 0, started := 0, delayed := 0, dropped := 0, firstDrop := 0xFFFF, estimate := 0, drift := {},
    maxEntry := 0xFFFF, deltas := [], chkFail := 0, retryOk := 0, evDrop := 0, since := 0 }
/-- A Stage unit locked on a 20 µs period of 2,000 units at date 0, window 1 %, with partition 0's itinerary of one entry
that names no unit, and a report to post. -/
def staged (st : StgSt) (e : EntSt) : State :=
  { State.reset with
    host := { State.reset.host with linkUp := true },
    parts := { State.reset.parts with live := [(0, { part0 with evq := { sa := some 0, log2 := 6 } })] },
    stg := { State.reset.stg with
      st := st, lastFly := true, ptm := some (0, 0), intervals := [2000],
      run := { State.reset.stg.run with nominal := 2000, window := 100, flywheel := 1, outmode := 0 },
      shadow := { State.reset.stg.run with nominal := 2000, window := 100, flywheel := 1, outmode := 0 },
      itin := [(0, { run := some { entries := [anEntry], deps := [], rals := [], stage := none }, ents := [(0, e)],
                     reports := [aReport] })] } }

theorem witness_StageRowsComplete :
    ((staged .acquire .due).runs ∧ (staged .acquire .due).barOpen ∧ (staged .acquire .due).stg.seen = false) ∧
    (let s := staged .locked .due
     s.stg.date ≤ 2000 * 840 ∧ 2000 * 840 * 10000 ≤ windowEnd s.stg ∧
      within (2000 * 840 - s.stg.date) (est840 s.stg) s.stg.run.window (est840 s.stg) = true ∧
      within (2000 * 840 - s.stg.date) (s.stg.run.nominal * 840) s.stg.run.window (s.stg.run.nominal * 840) = true ∧
      stgRuns s = true ∧ s.stg.missed + 1 ≤ s.stg.run.flywheel ∧ stgCfgOk { s with stg := { s.stg with itin := [] } } s.stg.shadow = true) ∧
    (let s := staged .locked .due
     let u := reach (phaseTime s anEntry.start) s
     entryOf s 0 0 = some anEntry ∧ entryWaits u 0 0 anEntry = true ∧ unitsFree u 0 anEntry = true ∧
      entryBehind u 0 0 anEntry = false ∧ anEntry.deadline ≠ 65535) ∧
    (let s := staged .locked .started
     tget 0 (itinOf s 0).ents = some .started ∧ (itinOf s 0).reports = [aReport]) ∧
    (let u := evqLost 0 (updItin 0 (fun t => { t with reports := [] }) (staged .locked .due))
     ∃ x, partOf u 0 = some x ∧ x.evq.dropped = 0 ∧ evqRoom u x.evq (reportRecords u 0 aReport).length = true) := by
  unfold State.barOpen State.runs
  refine ⟨by decide, by decide +kernel, by decide +kernel, by decide, ⟨_, rfl, by decide +kernel⟩⟩

/-- One thread of group 0 in partition 0, context 2, at pc 0 in placed HBM data that context 2 owns. -/
def aThread : Thread := { ctx := 2, pc := 0x0FFF000000000000 }
def aGroup : Group := { st := .running, core := 0, phys := 0, part := 0, index := 0, off := 0, desc := List.replicate 64 0, entry := none, threads := [0] }
def threaded : State :=
  { inMotion with
    coh := { inMotion.coh with fly := [] },
    drv := { inMotion.drv with threads := [(0, aThread)], groups := [(0, aGroup)] } }
/-- A word of an opcode, with rd 1, and FUNC. -/
def word (op fn : Nat) : BitVec 32 := BitVec.ofNat 32 (op * 2 ^ 26 + 2 ^ 21 + fn)
def fetchedB (w : BitVec 32) (uses : List RegId) (o : Ord) : Bool :=
  !threaded.halted && thr threaded 0 = some aThread && aThread.st = .running && fetchFault threaded aThread = none
    && wDefined w && mayIssue threaded 0 aThread uses o
theorem fetched_of_bool {w : BitVec 32} {uses : List RegId} {o : Ord} (h : fetchedB w uses o = true) :
    Fetched threaded 0 w aThread uses o := by
  simp only [fetchedB, Bool.and_eq_true, Bool.not_eq_true', decide_eq_true_eq] at h
  exact ⟨h.1.1.1.1.1, h.1.1.1.1.2, h.1.1.1.2, h.1.1.2, h.1.2, h.2⟩

theorem witness_ScalarInstructionsComplete :
    Fetched threaded 0 (word 0 0) aThread [.r 1, .r 0, .r 0] .none ∧ Fetched threaded 0 (word 1 0) aThread [.r 1, .r 0] .none ∧
    Fetched threaded 0 (word 6 0) aThread [.r 1, .r 0] .none ∧
    Fetched threaded 0 (word 7 0) aThread [.r 1] .none ∧ Fetched threaded 0 (word 0 0x18) aThread [.r 1] .none ∧
    Fetched threaded 0 (word 0x21 1) aThread [] .none ∧ Fetched threaded 0 (word 0x21 0) aThread [] .none ∧
    Fetched threaded 0 (word 8 0) aThread [.r 1, .r 0] .none ∧ Fetched threaded 0 (word 0x0E 0) aThread [.r 1] .none ∧
    Fetched threaded 0 (word 0x0F 0) aThread [.r 1, .r 0] .none ∧
    aThread.pois (.r 1) = false ∧ aThread.pois (.r 0) = false ∧ wOp (word 0x21 1) = 0x21 ∧ wFn (word 0 0x17) = 0x17 := by
  refine ⟨fetched_of_bool ?_, fetched_of_bool ?_, fetched_of_bool ?_, fetched_of_bool ?_, fetched_of_bool ?_, fetched_of_bool ?_,
    fetched_of_bool ?_, fetched_of_bool ?_, fetched_of_bool ?_, fetched_of_bool ?_, ?_, ?_, ?_, ?_⟩ <;> decide +kernel

/-- `threaded` with the partition's flat scratchpad of cell 0. -/
def addrThread (a : BitVec 64) : Thread := { aThread with regs := aThread.regs.set 2 a }
/-- A word of an opcode with rd 1, rs1 2, and low bits. -/
def word2 (op low : Nat) : BitVec 32 := BitVec.ofNat 32 (op * 2 ^ 26 + 2 ^ 21 + 2 * 2 ^ 16 + low)
def addressed (a : BitVec 64) : State := { threaded with drv := { threaded.drv with threads := [(0, addrThread a)] } }
def fetchedA (a : BitVec 64) (w : BitVec 32) (uses : List RegId) (o : Ord) : Bool :=
  !(addressed a).halted && thr (addressed a) 0 = some (addrThread a) && (addrThread a).st = .running
    && fetchFault (addressed a) (addrThread a) = none && wDefined w && mayIssue (addressed a) 0 (addrThread a) uses o
theorem fetchedA_spec {a : BitVec 64} {w : BitVec 32} {uses : List RegId} {o : Ord} (h : fetchedA a w uses o = true) :
    Fetched (addressed a) 0 w (addrThread a) uses o := by
  simp only [fetchedA, Bool.and_eq_true, Bool.not_eq_true', decide_eq_true_eq] at h
  exact ⟨h.1.1.1.1.1, h.1.1.1.1.2, h.1.1.1.2, h.1.1.2, h.1.2, h.2⟩
/-- Store offset 64 and scratchpad offset 64 of this device. -/
def storeSa : BitVec 64 := 0x0FFF000000000040
def spadSa : BitVec 64 := 0x1FFF000000000040

theorem witness_MemoryInstructionsComplete :
    Fetched (addressed storeSa) 0 (word2 0x14 0) (addrThread storeSa) [.r 1, .r 2] .access ∧
    Fetched (addressed storeSa) 0 (word2 0x18 0) (addrThread storeSa) [.r 1, .r 2] .access ∧
    Fetched (addressed storeSa) 0 (word2 0x19 0) (addrThread storeSa) [.v 1, .r 2] .access ∧
    Fetched (addressed storeSa) 0 (word2 0x1A 0) (addrThread storeSa) [.v 1, .r 2] .access ∧
    Fetched (addressed spadSa) 0 (word2 0x1B 0) (addrThread spadSa) [.v 1, .r 2, .v 0] .access ∧
    Fetched (addressed spadSa) 0 (word2 0x1C 0) (addrThread spadSa) [.r 1, .r 2, .r 0] .release ∧
    (let x := addrThread storeSa
     let u := fun w => issuing 0 w (addressed storeSa)
     route (u (word2 0x14 0)) 0 { x with insn := word2 0x14 0 } (.load 8) (effAddr x (word2 0x14 0)) = .store 64 ∧
     route (u (word2 0x18 0)) 0 { x with insn := word2 0x18 0 } (.store 8) (effAddr x (word2 0x18 0)) = .store 64 ∧
     route (u (word2 0x19 0)) 0 { x with insn := word2 0x19 0 } .vload (effAddr x (word2 0x19 0)) = .store 64 ∧
     route (u (word2 0x1A 0)) 0 { x with insn := word2 0x1A 0 } .vstore (effAddr x (word2 0x1A 0)) = .store 64) ∧
    (let x := addrThread spadSa
     let u := fun w => issuing 0 w (addressed spadSa)
     let l := laneAddrs x (word2 0x1B 0)
     laneFault (u (word2 0x1B 0)) 0 { x with insn := word2 0x1B 0 } (.load l.1) l.2 = none ∧
     laneFault (u (word2 0x1B 0)) 0 { x with insn := word2 0x1B 0 } (.store l.1) l.2 = none ∧
     route (u (word2 0x1C 0)) 0 { x with insn := word2 0x1C 0 } (.atomic 8) (x.read (.r 2)) = .spad 64) := by
  refine ⟨fetchedA_spec ?_, fetchedA_spec ?_, fetchedA_spec ?_, fetchedA_spec ?_, fetchedA_spec ?_, fetchedA_spec ?_, ?_, ?_⟩ <;>
    decide +kernel

/-- Sync word 1 of cell 0 on this device, and a state in full/empty mode. -/
def syncSa : BitVec 64 := 0x2FFF000000000008
def feState1 : State := { addressed storeSa with sync := { (addressed storeSa).sync with feMode := true } }

theorem witness_SyncInstructionsComplete :
    Fetched (addressed syncSa) 0 (word2 0x1D 0) (addrThread syncSa) [.r 1, .r 2, .r 0] .release ∧
    Fetched (addressed syncSa) 0 (word2 0x1D 0) (addrThread syncSa) [.r 1, .r 2] .release ∧
    Fetched (addressed syncSa) 0 (word2 0x1D 0) (addrThread syncSa) [.r 1, .r 2, .r 0, .r 0] .release ∧
    Fetched (addressed syncSa) 0 (word2 0x1D 0) (addrThread syncSa) [.r 1, .r 2, .r 1, .r 0] .release ∧
    (feState1.halted = false ∧ thr feState1 0 = some (addrThread storeSa) ∧ (addrThread storeSa).st = .running ∧
      fetchFault feState1 (addrThread storeSa) = none ∧ wDefined (word2 0x1E 0) = true ∧
      mayIssue feState1 0 (addrThread storeSa) [.v 1, .r 2, .r 0, .r 0] .release = true) ∧
    (let x := addrThread syncSa
     route (issuing 0 (word2 0x1D 0) (addressed syncSa)) 0 { x with insn := word2 0x1D 0 } .tally (x.read (.r 2)) = .sync 1 ∧
     tRsvdZero (BitVec.ofNat 64 (x.read (.r 0))) = true ∧ x.pois (.r 0) = false ∧ x.pois (.r 1) = false ∧ x.pois (.r 2) = false) ∧
    (let x := addrThread storeSa
     route (issuing 0 (word2 0x1E 0) feState1) 0 { x with insn := word2 0x1E 0 } .fe (x.read (.r 2)) = .store 64) := by
  refine ⟨fetchedA_spec ?_, fetchedA_spec ?_, fetchedA_spec ?_, fetchedA_spec ?_, ⟨rfl, ?_, rfl, ?_, ?_, ?_⟩, ?_, ?_⟩ <;>
    decide +kernel

/-- A thread that names the store address in r2 and matrix unit 1 in r3; one queued group of one thread on core 0 and one
that is ending; logical matrix unit 0 due to be re-bound. -/
def issuer (a b : BitVec 64) : Thread := { aThread with regs := (aThread.regs.set 2 a).set 3 b }
def grouped (a b : BitVec 64) : State :=
  { threaded with
    drv := { threaded.drv with
      threads := [(0, issuer a b)],
      groups := [(0, aGroup), (1, { aGroup with st := .queued, threads := [], desc := (List.replicate 6 0) ++ [1] ++ List.replicate 57 0 }),
                 (2, { aGroup with st := .ending, threads := [] })] },
    eng := { threaded.eng with due := [0] } }
/-- Words of ISSUE and LAUNCH and FLUSH_RANGE: rd 1, rs1 2, rs2 3. -/
def word3 (op fn : Nat) : BitVec 32 := BitVec.ofNat 32 (op * 2 ^ 26 + 2 ^ 21 + 2 * 2 ^ 16 + 3 * 2 ^ 11 + fn)
def fetchedG (b : BitVec 64) (w : BitVec 32) (uses : List RegId) (o : Ord) : Bool :=
  !(grouped storeSa b).halted && thr (grouped storeSa b) 0 = some (issuer storeSa b) && (issuer storeSa b).st = .running
    && fetchFault (grouped storeSa b) (issuer storeSa b) = none && wDefined w
    && mayIssue (grouped storeSa b) 0 (issuer storeSa b) uses o
theorem fetchedG_spec {b : BitVec 64} {w : BitVec 32} {uses : List RegId} {o : Ord} (h : fetchedG b w uses o = true) :
    Fetched (grouped storeSa b) 0 w (issuer storeSa b) uses o := by
  simp only [fetchedG, Bool.and_eq_true, Bool.not_eq_true', decide_eq_true_eq] at h
  exact ⟨h.1.1.1.1.1, h.1.1.1.1.2, h.1.1.1.2, h.1.1.2, h.1.2, h.2⟩

theorem witness_IssueVectorAndGroupRowsComplete :
    Fetched (grouped storeSa 64) 0 (word3 0x1F 0) (issuer storeSa 64) [.r 2, .r 3] .release ∧
    Fetched (grouped storeSa 64) 0 (word3 0x1F 1) (issuer storeSa 64) [] .release ∧
    Fetched (grouped storeSa 0x2001) 0 (word3 0x20 0) (issuer storeSa 0x2001) [.r 1, .r 2, .r 3] .release ∧
    Fetched (grouped storeSa 1) 0 (word3 0x20 1) (issuer storeSa 1) [.r 1, .r 2, .r 3] .release ∧
    Fetched threaded 0 (word 0x22 0) aThread [.v 0, .v 8, .v 0] .none ∧
    Fetched threaded 0 (word 0x23 0) aThread [.v 0, .v 8] .none ∧
    Fetched threaded 0 (word 0x24 0) aThread [.v 0, .v 8] .none ∧
    (let u := issuing 0 (word3 0x20 0) (grouped storeSa 0x2001)
     let x : Thread := { issuer storeSa 0x2001 with insn := word3 0x20 0 }
     descFault u x (x.read (.r 2)) = none ∧ (partCells u (thrPart u x)).contains (1 / 2) = true ∧
      queuedAt u .matrix 1 (thrPart u x) < 64 ∧ x.read (.r 3) = 0x2001 ∧ isOwn u 0xFFF = true) ∧
    (let u := issuing 0 (word3 0x20 1) (grouped storeSa 1)
     let x : Thread := { issuer storeSa 1 with insn := word3 0x20 1 }
     descFault u x (x.read (.r 2)) = none ∧ (launchMany (thrPart u x) 64 1 (thrEntry u x) u).1.1 ≠ .busy) ∧
    (let s := grouped storeSa 64
     (s.drv.groups.find? (fun x => x.2.core = 0 && x.2.st = .queued)).map Prod.fst = some 1 ∧
      s.drv.unbound.contains 0 = false ∧ s.drv.due.contains 0 = false ∧
      (unitRec s .core (physOf s .core 0)).testing = false ∧ 1 ≤ (ctxFree s 0).length ∧
      s.eng.due.contains 0 = true ∧ runningOp s .matrix 0 = none ∧ onlyTesting s .matrix (physOf s .matrix 0) = false) := by
  refine ⟨fetchedG_spec ?_, fetchedG_spec ?_, fetchedG_spec ?_, fetchedG_spec ?_, fetched_of_bool ?_, fetched_of_bool ?_,
    fetched_of_bool ?_, ?_, ?_, ?_⟩ <;> decide +kernel

/-- A descriptor of fields (offset, bytes, value). -/
def mkDesc (fs : List (Nat × Nat × Nat)) : List Byte := (List.range 128).map (fun i =>
  match fs.find? (fun f => decide (f.1 ≤ i) && decide (i < f.1 + f.2.1)) with
  | some f => BitVec.ofNat 8 (f.2.2 / 2 ^ (8 * (i - f.1)))
  | none => 0)
/-- Header fields: OP, context 2, the waybill at store offset 8192 of this device. -/
def header (op : Nat) : List (Nat × Nat × Nat) := [(4, 1, op), (6, 2, 2), (8, 8, 0x0FFF000000002000)]
/-- An operation queued at unit 0 with its descriptor at store offset 4096, and further bytes at 12288 and 16384. -/
def anOp (k : UnitKind) : EngOp := { id := 0, kind := k, unit := 0, part := 0, sa := 4096, slot := 0, n := 1, entry := none, core := none }
def queuedOp (k : UnitKind) (d a b : List Byte) : State :=
  { threaded with
    eng := { threaded.eng with ops := [(0, anOp k)], nextOp := 1 },
    store := { threaded.store with mem := putBytes 4096 d (putBytes 12288 a (putBytes 16384 b [])) } }
theorem takes_of_bool {s : State} {k : UnitKind} {o : EngOp}
    (h : (!s.halted && !(runningOp s k 0).isSome && !(s.eng.due.contains 0 && decide (k = .matrix))
      && !(unitRec s k (physOf s k 0)).testing && decide (headOp s k 0 = some o)
      && !(linesOf o.sa 128).any (fun l => poisoned s l || (allocAt s l).isNone) && waybillOk s (readDesc s o)
      && !unitUnbound s k 0) = true) : Takes s k 0 o := by
  simp only [Bool.and_eq_true, Bool.not_eq_true', decide_eq_true_eq] at h
  exact ⟨h.1.1.1.1.1.1.1, h.1.1.1.1.1.1.2, h.1.1.1.1.1.2, h.1.1.1.1.2, h.1.1.1.2, h.1.1.2, h.1.2, h.2⟩
/-- MATMUL of one element on scratchpad operands; EXPERT_FFN of one token of width 64. -/
def matOp : State := queuedOp .matrix (mkDesc (header 1 ++ [(36, 2, 1), (38, 2, 1), (40, 2, 1), (44, 4, 0x3F800000),
  (48, 8, 0x1FFF000000000000), (56, 8, 0x1FFF000000000040), (64, 8, 0x1FFF000000000080), (96, 4, 64), (100, 4, 64), (104, 4, 64)])) [] []
theorem witness_matmul : Takes matOp .matrix 0 (anOp .matrix) ∧ dOp (readDesc matOp (anOp .matrix)) = 1 ∧
    (let o := takenOp matOp .matrix 0 (anOp .matrix) 1
     matCheck o matOp = none ∧ (matRows o (matBody o.desc 0)).2 ≠ 0 ∧ o.publish = false) := by
  refine ⟨takes_of_bool ?_, ?_, ?_⟩ <;> decide +kernel
def ffnOp : State := queuedOp .matrix (mkDesc (header 2 ++ [(32, 1, 1), (33, 1, 1), (34, 1, 1), (36, 2, 1), (38, 2, 64), (40, 2, 64),
  (48, 8, 0x1FFF000000000000), (56, 8, 0x1FFF000000001000), (64, 8, 0x0FFF000000006000), (72, 8, 0x0FFF000000008000),
  (80, 8, 0x0FFF00000000A000), (112, 4, 128), (116, 4, 256)])) [] []
theorem witness_expertFfn : Takes ffnOp .matrix 0 (anOp .matrix) ∧ dOp (readDesc ffnOp (anOp .matrix)) = 2 ∧
    (let o := takenOp ffnOp .matrix 0 (anOp .matrix) 1
     let x := ffnBody o.desc
     let b := bulkOp o o.ctx ((x.tokens 1 ++ x.weights).map (fun r => (r.1, r.2, false))) (ffnFlush o x 1 ffnOp)
     ffnCheck o ffnOp = none ∧ min x.tmax (ffnCount ffnOp o.ctx x) = 1 ∧ b.1 = .ok ∧ (takeShadows (ffnRun o 1 1 b.2) b.2).isSome) := by
  refine ⟨takes_of_bool ?_, ?_, ?_⟩ <;> decide +kernel
/-- A member of one layer that owns key 1 at epoch 1 with an empty lading. -/
def aParams : DepParams := { hkv := 1, d := 64, kfmt := 1, layers := 1, pool := 1, cells := [0], lease := 1000, handoff := 1000, lostHold := 1000 }
def aLease : Lease := { role := .owner, epoch := 1, acked := 1000, nextRenew := 500, since := 0 }
def aMember : Member := { depot := 0, part := 0, params := aParams, digest := 0, base := 0, leases := [(1, aLease)] }
def attOp : State :=
  { queuedOp .matrix (mkDesc (header 3 ++ [(32, 8, 1), (40, 4, 1), (46, 1, 1), (54, 1, 1), (56, 2, 1), (48, 4, 1), (60, 4, 0x3F800000),
      (64, 8, 0x1FFF000000000000), (88, 8, 0x1FFF000000001000), (96, 4, 1024)])) [] [] with
      dep := { State.reset.dep with members := [(0, aMember)] } }
theorem witness_attend : Takes attOp .matrix 0 (anOp .matrix) ∧ dOp (readDesc attOp (anOp .matrix)) = 3 ∧
    (let o := takenOp attOp .matrix 0 (anOp .matrix) (attTotal true (readDesc attOp (anOp .matrix)))
     let b := attBody o.desc
     let r := bulkOp o o.ctx ((b.inputs aParams).map (fun r => (r.1, r.2, false))) attOp
     let r2 := bulkOp o 0 (attRanges r.2 o b aMember) r.2
     o.resolving = false ∧ attMember attOp 0 b.key = some aMember ∧ attCheck o aMember attOp = none ∧
      leaseCheck attOp aMember b = none ∧ b.new = 0 ∧ r.1 = .ok ∧ r2.1 = .ok ∧
      (takeShadows (attRun o b aMember r2.2).1 (attRun o b aMember r2.2).2).isSome) := by
  refine ⟨takes_of_bool ?_, ?_, ?_⟩ <;> decide +kernel
/-- A table of one row of 64 bytes at 16384, its record at 12288, with and without a row map at 24576. -/
def tableRec (map : Nat) : List Byte := (mkDesc [(0, 8, 0x0FFF000000004000), (16, 4, 1), (20, 2, 64), (22, 1, 6), (23, 1, 1), (24, 8, map)]).take 64
def porFields0 (op : Nat) : List (Nat × Nat × Nat) := header op ++ [(32, 8, 0x0FFF000000003000), (40, 8, 0x0FFF000000005000), (48, 4, 1)]
def gatherOp : State := queuedOp .porter (mkDesc (porFields0 0x10 ++ [(72, 8, 0x1FFF000000000000), (80, 4, 64), (85, 1, 1)])) (tableRec 0) []
def scatterOp : State := queuedOp .porter (mkDesc (porFields0 0x11 ++ [(72, 8, 0x1FFF000000000000), (80, 4, 64), (85, 1, 1)])) (tableRec 0) []
def moveOp : State := queuedOp .porter (mkDesc (porFields0 0x12)) (tableRec 0x0FFF000000006000) []
theorem witness_gather : Takes gatherOp .porter 0 (anOp .porter) ∧ dOp (readDesc gatherOp (anOp .porter)) = 0x10 ∧
    (let o := takenOp gatherOp .porter 0 (anOp .porter) (porTotal (readDesc gatherOp (anOp .porter)))
     porCheck o gatherOp = none ∧ (match porPrep o gatherOp with
      | .inl (x, o1, s1) => decide ((gatherRows x o1 s1).1 = .ok) && !o1.publish
      | .inr _ => false) = true) := by
  refine ⟨takes_of_bool ?_, ?_, ?_⟩ <;> decide +kernel
theorem witness_scatterAdd : Takes scatterOp .porter 0 (anOp .porter) ∧ dOp (readDesc scatterOp (anOp .porter)) = 0x11 ∧
    (let o := takenOp scatterOp .porter 0 (anOp .porter) (porTotal (readDesc scatterOp (anOp .porter)))
     porCheck o scatterOp = none ∧ (match porPrep o scatterOp with | .inl (_, o1, _) => !o1.publish | .inr _ => false) = true) := by
  refine ⟨takes_of_bool ?_, ?_, ?_⟩ <;> decide +kernel
theorem witness_moveRows : Takes moveOp .porter 0 (anOp .porter) ∧ dOp (readDesc moveOp (anOp .porter)) = 0x12 ∧
    (let o := takenOp moveOp .porter 0 (anOp .porter) (porTotal (readDesc moveOp (anOp .porter)))
     let b := porBody o.desc
     let r := bulkOp o o.ctx (b.inputs.map (fun x => (x.1, x.2, false))) (porFlush o b (tblOf (storeBytes moveOp (saOff b.table) 64)) moveOp)
     porCheck o moveOp = none ∧ r.1 = .ok ∧ rangePoison r.2 b.idx (16 * b.count) = false) := by
  refine ⟨takes_of_bool ?_, ?_, ?_⟩ <;> decide +kernel
/-- An index of 16 slots, one live, on channel 0 and cell 0 of partition 0. -/
def anIndex : Index :=
  { part := 0, num := 0, sbits := 256, dim := 32, vfmt := 0x0B, ip := false, vflash := false, channels := [0]
    cells := [0], cap := 16, degree := 8, parts := [], slots := [(0, { node := 7, ins := 1, del := ones48, sketch := [], list := List.replicate 8 ones32 })] }
def asyOp (op : Nat) (fs : List (Nat × Nat × Nat)) : State :=
  let base := queuedOp .assay (mkDesc (header op ++ [(33, 1, 1), (34, 2, 1), (44, 4, 64), (48, 8, 0x1FFF000000000000), (56, 8, 0x1FFF000000001000)] ++ fs)) [] []
  { base with idx := [(idxKey 0 0, anIndex)] }
/-- A search that validates and whose inputs are read. -/
def searches (s : State) (op : Nat) : Bool :=
  let o := anOp .assay
  let t := takenOp s .assay 0 o (asyTotal s o.part 0 o.id (readDesc s o))
  let b := asyBody (readDesc s o)
  let t' := { t with hold := if b.op = 0x22 then o.hold else some (idxKey o.part b.index, b.version anIndex) }
  let r := bulkOp t' t'.ctx ((b.inputs anIndex).map (fun r => (r.1, r.2, false))) (asyFlush t' b anIndex (updOp t'.id (fun _ => t') s))
  b.op = op && asyCheck t s = none && idxOf s 0 b.index = some anIndex && decide (r.1 = .ok)
    && !(b.inputs anIndex).any (fun y => rangePoison r.2 y.1 y.2) && decide (inIndexBad b anIndex r.2 = none)
    && !t'.publish && !unitUnbound s .matrix (b.munit 0)
def scanOp : State := asyOp 0x20 []
def walkOp : State := asyOp 0x21 [(64, 8, 0x1FFF000000002000), (72, 8, 0x0FFF000000005000), (80, 4, 37000), (84, 4, 1), (88, 4, 1), (92, 1, 1)]
def rerankOp : State := asyOp 0x22 [(42, 2, 1), (64, 8, 0x1FFF000000002000), (72, 8, 0x1FFF000000003000), (80, 4, 20000), (84, 4, 1)]
theorem witness_searches : Takes scanOp .assay 0 (anOp .assay) ∧ searches scanOp 0x20 = true ∧
    Takes walkOp .assay 0 (anOp .assay) ∧ searches walkOp 0x21 = true ∧
    Takes rerankOp .assay 0 (anOp .assay) ∧ searches rerankOp 0x22 = true := by
  refine ⟨takes_of_bool ?_, ?_, takes_of_bool ?_, ?_, takes_of_bool ?_, ?_⟩ <;> decide +kernel
theorem witness_EngineStartRowsComplete : Takes matOp .matrix 0 (anOp .matrix) ∧ Takes ffnOp .matrix 0 (anOp .matrix) ∧
    Takes attOp .matrix 0 (anOp .matrix) ∧ Takes gatherOp .porter 0 (anOp .porter) ∧ Takes scatterOp .porter 0 (anOp .porter) ∧
    Takes moveOp .porter 0 (anOp .porter) ∧ Takes scanOp .assay 0 (anOp .assay) ∧ Takes walkOp .assay 0 (anOp .assay) ∧
    Takes rerankOp .assay 0 (anOp .assay) :=
  ⟨witness_matmul.1, witness_expertFfn.1, witness_attend.1, witness_gather.1, witness_scatterAdd.1, witness_moveRows.1,
    witness_searches.1, witness_searches.2.2.1, witness_searches.2.2.2.2.1⟩

/-- A matrix operation, a scatter with one row update and three row moves that run. -/
def ranOp : EngOp := { anOp .matrix with st := .running, ctx := 2, desc := mkDesc (header 1), total := 1, processed := 1 }
def aRow : RowUpd := { row := 0, loc := 16384, vals := List.replicate 32 0, poison := false, desc := mkDesc (porFields0 0x11) }
def scOp : EngOp := { anOp .porter with id := 1, st := .running, ctx := 2, desc := mkDesc (porFields0 0x11), total := 1, rows := [aRow] }
def aMove (k : Nat) (st : MoveSt) : RowMove := { id := k, op := 1, item := 0, st := st, row := 0, ent := 24576, seq := 0, src := 16384,
                                                 dst := 28672, rb := 64, snap := List.replicate 64 0, poison := false }
def progress : State :=
  { threaded with
    eng := { threaded.eng with
      ops := [(0, ranOp), (1, scOp)]
      moves := [aMove 0 .copying, aMove 1 .replay, aMove 2 .commit, { aMove 3 .replay with log := [(1, aRow)] }] },
    store := { threaded.store with mem := putBytes 12288 (tableRec 0) [] },
    idx := [(idxKey 0 0, { anIndex with repq := [(0, 1)] }), (idxKey 0 1, { anIndex with num := 1, sweeping := true })] }
theorem witness_EngineProgressRowsComplete :
    (progress.runs ∧ runningOp progress .matrix 0 = some ranOp ∧ (bulkOp ranOp 2 ranOp.outRanges (dropShadows ranOp progress)).1 = .ok) ∧
    (runningOp progress .porter 0 = some scOp ∧
      (let r := bulkOpStore scOp 16384 64 true (dropShadows scOp progress)
       (tblOf (storeBytes progress (saOff (porBody scOp.desc).table) 64)).rb = 64 ∧ r.1 = .ok ∧ isSyncLine r.2 16384 = false ∧
        r.2.store.shadow = progress.store.shadow ∧ rowAgents 16384 64 r.2 = [])) ∧
    (let r := bulkOpStore scOp 28672 64 true progress
     r.1 = .ok ∧ isSyncLine r.2 28672 = false ∧ tget 1 progress.eng.ops = some scOp) ∧
    crc64 (storeBytes progress 16384 64) = crc64 (storeBytes progress 28672 64) ∧
    idxOf progress 0 0 = some { anIndex with repq := [(0, 1)] } ∧ idleWindow progress 0 = true ∧
    (let x : Index := { anIndex with num := 1, sweeping := true }
     idxOf progress 0 1 = some x ∧ x.channels.find? (fun c => !x.sweeping || !x.swept.contains c) = some 0 ∧ x.degree ≠ 0 ∧ x.repq = []) := by
  unfold State.runs; decide +kernel

/-- A member of a shortened map with leases in every role, home records, slots in motion and a held request. -/
def homeRec (st : HomeSt) : HomeRec := { epoch := 1, owner := 0xFFF, ownerPart := 0, st := st, taker := 0xFFF, takerPart := 0, left := 10 }
def depMsg (key e : Nat) : DepMsg := { part := 0, depot := 0, dev := 0xFFF, sender := 0, mapgen := 1, digest := 0, key := key, epoch := e }
def fullMember : Member :=
  { aMember with
    mapgen := 1, map := List.replicate 16 (2 ^ 31 + 0xFFF)
    leases := [(1, aLease), (2, { aLease with role := .taking, src := (5, 0) }), (3, { aLease with role := .released })]
    homes := [(4, { r := homeRec .lost, set := 0 }), (610, { r := homeRec .held, set := 0 }), (843, { r := homeRec .taking, set := 0 })]
    moving := [(7, { sending := false, dev := 5, part := 0 }), (8, { sending := true, dev := 5, part := 0 }),
               (homeSlot 9, { sending := false, dev := 5, part := 0 })]
    held := [{ kind := .renew, port := none, m := depMsg 1 1, since := 0 }], resolving := [(3, 0)] }
def depoted : State := { threaded with dep := { threaded.dep with members := [(0, fullMember)] } }
theorem witness_DepotRowsComplete :
    (depoted.runs ∧ memberOf depoted 0 0 = some fullMember ∧ tget 1 fullMember.leases = some aLease ∧ aLease.role = .owner ∧ aLease.sent = none) ∧
    Homed depoted (depMsg 610 1) fullMember ∧ Homed depoted (depMsg 843 2) fullMember ∧
    (tget 610 fullMember.homes = some { r := homeRec .held, set := 0 } ∧ tget 843 fullMember.homes = some { r := homeRec .taking, set := 0 } ∧
      tget 4 fullMember.homes = some { r := homeRec .lost, set := 0 } ∧ tget 4 fullMember.leases = none ∧
      (tget (homeSlot 610) fullMember.moving).isSome = false) ∧
    (tget 2 fullMember.leases = some { aLease with role := .taking, src := (5, 0) } ∧ isOwn depoted 5 = false ∧
      landLayers aParams [] fullMember depoted = (some ([], [], fullMember), depoted)) ∧
    (tget 3 fullMember.leases = some { aLease with role := .released } ∧ tget 3 fullMember.resolving = some 0) ∧
    (tget 7 fullMember.moving = some { sending := false, dev := 5, part := 0 } ∧ tget 8 fullMember.moving = some { sending := true, dev := 5, part := 0 } ∧
      tget (homeSlot 9) fullMember.moving = some { sending := false, dev := 5, part := 0 } ∧ (fullMember.held[0]?).isSome) := by
  refine ⟨?_, ⟨?_, ?_, ?_, ?_, ?_, ?_, ?_⟩, ⟨?_, ?_, ?_, ?_, ?_, ?_, ?_⟩, ?_, ⟨?_, ?_, rfl⟩, ?_, ?_⟩ <;> (try unfold State.runs) <;> decide +kernel

/-- Eight ports, one in each state of training, ACTIVE first; the ACTIVE one has a lane to substitute and a remap out. -/
def trainPorts (f : Port → Port) : Vector Port 8 :=
  #v[f { st := .active }, { st := .eq }, { st := .align }, { st := .auth }, { st := .config }, { st := .recover }, {}, { st := .detect }]
def training (f : Port → Port) : State := { inMotion with ports := trainPorts f }
theorem witness_EdgePortTrainingRowsComplete :
    Trains (training id) 7 .detect ∧ Trains (training id) 1 .eq ∧ 4 ≤ (usable [0, 1, 2, 3] (port (training id) 1)).length ∧
    Trains (training id) 2 .align ∧ Trains (training id) 3 .auth ∧ Trains (training id) 4 .config ∧ (port (training id) 4).cfg.sptag = 0 ∧
    Trains (training id) 5 .recover ∧ (port (training id) 5).needEq = false ∧ Trains (training id) 0 .active ∧ Open (training id) 0 ∧
    ((port (training id) 0).spareUsed = false ∧ (port (training id) 0).subst = none ∧ (port (training id) 0).cfg.remapEn = false) ∧
    (let s := training (fun x => { x with remapPend := true, remapTries := 1, remapSeq := 3 })
     s.runs ∧ (port s 0).remapPend = true ∧ (port s 0).remapEq = false ∧ (port s 0).remapTries = 1 ∧ (port s 0).remapSeq = 3) ∧
    (let s := training (fun x => { x with remapPend := true, remapEq := true })
     s.runs ∧ (port s 0).remapEq = true) := by
  refine ⟨⟨?_, ?_, ?_, ?_⟩, ⟨?_, ?_, ?_, ?_⟩, ?_, ⟨?_, ?_, ?_, ?_⟩, ⟨?_, ?_, ?_, ?_⟩, ⟨?_, ?_, ?_, ?_⟩, ?_, ⟨?_, ?_, ?_, ?_⟩, ?_,
    ⟨?_, ?_, ?_, ?_⟩, ⟨?_, ?_, ?_, ?_⟩, ?_, ?_, ?_⟩ <;> (try unfold State.runs) <;> decide +kernel

/-- A coherent ACTIVE port 0 with a request out under TAG 1; the directory holds a line of its agent. -/
def linked (dir : Tab DirEnt) (snoops : List Snoop) (fe : Bool) : State :=
  { training (fun x => { x with coherent := true, rxCount := 1, tags := [(1, .tally 0 0 0 0)] }) with
    coh := { inMotion.coh with dir := dir, snoops := snoops },
    sync := { inMotion.sync with feMode := fe } }
theorem witness_LinkMessageRowsComplete :
    Open (linked [] [] false) 0 ∧ (port (linked [] [] false) 0).coherent = true ∧ (port (linked [] [] false) 0).rxCount ≠ 0 ∧
    (port (linked [] [] false) 0).rxHeld = [0, 0, 0, 0] ∧ (port (linked [] [] false) 0).rxSeq = 0 ∧ (port (linked [] [] false) 0).cfg.sptag = 0 ∧
    (creditLeft (linked [] [] false) 0 .rdS [] ∧ creditLeft (linked [] [] false) 0 .rspData [] ∧ creditLeft (linked [] [] false) 0 .rspSnp [] ∧
      creditLeft (linked [] [] false) 0 .wb [] ∧ creditLeft (linked [] [] false) 0 .feOp []) ∧
    (let u := heard 0 .wb [] (linked [(1, { m := true, owner := 0x40, sharers := 0, stamp := 0 })] [] false)
     agentLine u 0 2 (.sa 0x0FFF000000000040) = some 64 ∧ tget 1 u.coh.dir = some { m := true, owner := 0x40, sharers := 0, stamp := 0 } ∧
      homeCheck u 2 64 true = none ∧ homeCheck u 2 64 false = none ∧
      agentsOf { m := true, owner := 0x40, sharers := 0, stamp := 0 } = [0]) ∧
    (let u := heard 0 .syncUpd [] (linked [] [] false)
     syncCheck u 0 2 0x2FFF000000000000 = none ∧ tallyRefused u 0 0 = false ∧ u.sync.feMode = false) ∧
    (linked [] [] true).sync.feMode = true ∧
    tget 1 (port (heard 0 .rspData [] (linked [] [] false)) 0).tags = some (.tally 0 0 0 0) ∧ (statusOf 0x90).ok = false ∧
    ((linked [] [{ line := 1, port := 0, inv := true, since := 0, reqs := [] }] false).coh.snoops.find?
      (fun x => x.line = 1 && x.port = 0)).isSome := by
  refine ⟨⟨?_, ?_, ?_, ?_⟩, ?_⟩ <;> (try unfold creditLeft) <;> decide +kernel

/-- Port 0 ACTIVE with its toll slot held: a caravan queued, one started with a leg to send to device 5 and one FENCE sent,
streams and batches in both directions; port 6 fenced but not yet electrically. -/
def legDesc : List Byte := (List.range 8).flatMap (fun i => leBytes 8 ([2 * 2 ^ 48 + 2 ^ 32 * 1, 0x0FFF000000000040, 0x0005000000000040, 64, 0, 0, 8192, 0].getD i 0))
def aCar (id : Nat) (l : Leg) : Caravan := { id := id, kind := .port, unit := 0, part := 0, ctx := 2, fclass := 0, first := 4096, next := 0, legs := [l] }
def toSend : Leg := { off := 4096, desc := legDesc, total := 1 }
def aFence : Leg := { off := 4096, desc := leBytes 8 (7 * 2 ^ 32) ++ List.replicate 56 0, total := 0, st := .sent }
def aStr (c : Option (Nat × Nat × Nat)) : Machine.Stream := { ctx := 2, dev := 5, close := c }
def aSer (i : Nat) (x : Option (Nat × Nat)) : SerBatch := { id := i, port := 0, dev := 5, part := 0, ctx := 2, since := 0, sent := x }
def hauled : State :=
  { inMotion with
    ports := #v[{ st := .active }, {}, {}, {}, {}, {}, { fenceLog := true }, {}]
    stg := { inMotion.stg with toll := [(0, 0)] }
    eng := { inMotion.eng with ops := [(1, { anOp .port with id := 1 }), (2, { anOp .port with id := 2, st := .running })] }
    car := { inMotion.car with
      cars := [(2, aCar 2 toSend), (3, aCar 3 aFence), (4, aCar 4 { toSend with st := .sent })]
      streams := [(1, aStr none), (4, aStr (some (0, 0, 0)))], outs := [(2, .leg 2 0)]
      batches := [(1, {})], ser := [aSer 0 none, aSer 1 (some (1, 1))] } }
def pullMsg : Msg := { kind := .pull, ctx := 2, sa := storeSa, args := [64, 0, 0, 3] }
theorem witness_CaravanAndSeraiRowsComplete :
    (hauled.runs ∧ (port hauled 6).fenceLog = true ∧ (port hauled 6).fenceElec = false) ∧ Open hauled 0 ∧
    (creditLeft hauled 0 .openStream [] ∧ creditLeft hauled 0 .chunk [] ∧ creditLeft hauled 0 .close [] ∧ creditLeft hauled 0 .poisonLines []) ∧
    (tget 1 hauled.eng.ops = some { anOp .port with id := 1 } ∧ carsRunning hauled .port 0 0 < 16 ∧
      hauled.eng.ops.any (fun x => decide (x.1 < 1) && x.2.kind = .port && x.2.unit = 0 && x.2.part = 0 && x.2.st = .queued) = false) ∧
    (tget 2 hauled.eng.ops = some { anOp .port with id := 2, st := .running } ∧ carOf hauled 2 = some (aCar 2 toSend) ∧
      (List.range 1).find? (fun i => (legAt (aCar 2 toSend) i).st = .waiting) = some 0 ∧ portActive hauled 0 = true ∧
      lPull hauled legDesc = false ∧ lHost legDesc = false ∧ lKind legDesc ≠ 4 ∧
      (readPieces 2 0 (lPieces legDesc) (legFlush (aCar 2 toSend) legDesc hauled)).1.res = .ok) ∧
    (let u := heard 0 .pull [] hauled
     strOf u 0 5 = none ∧ isOwn u (Sa.of pullMsg.sa).dev = true ∧ (Sa.of pullMsg.sa).space = 0 ∧ admits u 2 0 = true ∧
      holdsSlot u ((ctxPart u 2).getD 20) 0 = true ∧ (readPieces 2 0 [(pullMsg.sa.toNat, 64)] u).1.res = .ok) ∧
    (let u := heard 0 .close [] hauled
     strOf u 0 1 = some (aStr none) ∧ outLeg u 0 2 = some (2, 0) ∧ serParse 0 [] = some [] ∧
      (u.car.ser.find? (fun b => b.port = 0 && (b.sent.map Prod.snd) == some 1)).isSome) ∧
    (let v := updStr 0 1 (fun x => { x with bcn := some { target := 0, opnd := 0, count := 0, since := 0 } }) hauled
     (strOf v 0 1).isSome ∧ (strOf v 0 1).map (beaconState v 0) = some none) ∧
    (let u := landReady 0 4 hauled
     strOf u 0 4 = some (aStr (some (0, 0, 0))) ∧ (aStr (some (0, 0, 0))).finished = true ∧ u.parts.devNo ≠ 5) ∧
    (tget (strKey 0 1) hauled.car.batches = some {} ∧ carOf hauled 4 = some (aCar 4 { toSend with st := .sent }) ∧
      lKind toSend.desc ≠ 7 ∧ carOf hauled 3 = some (aCar 3 aFence) ∧ lKind aFence.desc = 7 ∧
      (hauled.car.ser.find? (fun y => y.id = 1 && y.sent.isSome)).isSome ∧ (hauled.car.ser.find? (fun y => y.id = 0 && y.sent.isNone)).isSome) := by
  refine ⟨?_, ⟨?_, ?_, ?_, ?_⟩, ?_, ?_, ?_, ?_, ?_, ?_, ?_, ?_⟩ <;> (try unfold creditLeft) <;> (try unfold State.runs) <;> decide +kernel

/-- Reset with the CP up, the link up, MB0 enabled with one entry submitted, and two segments bound to context 2. -/
def hostMbx : Mbx := { cfg := { enable := true, sqLog := 4, cqLog := 4 }, sqTail := 1, shadow := { enable := true, sqLog := 5, cqLog := 5 } }
def hosted (up : Bool) (m : Mbx) : State :=
  { inMotion with
    host := { inMotion.host with
      linkUp := up, bifur := true, segs := #v[{ bound := true, ctx := 2 }, { bound := true, ctx := 2, space := 2 }, {}, {}, {}, {}, {}, {}, {}, {}, {}, {}, {}, {}, {}, {}]
      mbx := inMotion.host.mbx.setIfInBounds 0 m }
    rep := { inMotion.rep with boot := { inMotion.rep.boot with cp := true, mb0 := true, fused := true } } }
/-- An ID_GET of context 1 with SEQ 0. -/
def idGetEntry : List Byte := leBytes 2 0x0101 ++ leBytes 2 0 ++ leBytes 2 1 ++ List.replicate 58 0
theorem witness_HostPortAndMailboxRowsComplete :
    ((hosted true hostMbx).barOpen ∧ (hosted true hostMbx).runs ∧ (hosted true hostMbx).cpUp) ∧
    (let s := hosted true hostMbx
     (winSeg s 64).bound = true ∧ winCheck s (winSeg s 64) (Sa.of (winSa (winSeg s 64) 64)) = none ∧
      (Sa.of (winSa (winSeg s 64) 64)).space ≠ 2 ∧
      (winSeg s (2 ^ 32)).bound = true ∧ winCheck s (winSeg s (2 ^ 32)) (Sa.of (winSa (winSeg s (2 ^ 32)) (2 ^ 32))) = none ∧
      (Sa.of (winSa (winSeg s (2 ^ 32)) (2 ^ 32))).space = 2 ∧ syncShape (Sa.of (winSa (winSeg s (2 ^ 32)) (2 ^ 32))) 8 = true) ∧
    (rwValue (hosted true hostMbx) 0x10008).isSome ∧
    (let s := hosted true hostMbx
     let e := padTo 64 idGetEntry
     mbxNext s = some 0 ∧ cmdsRunning s < 4 ∧ fld e 2 2 = (mbxOf s 0).consumed % 65536 ∧ fld e 4 2 = 1 ∧
      opAccepted (fld e 0 2) 0 = true ∧ entryFormOk e = true ∧ bit (fld e 6 1) 0 = false ∧ fld e 0 2 ≠ 0x0B06 ∧
      argReserved (fld e 0 2) ((e.drop 16).take 48) = false) ∧
    (1 : BitVec 32) = (mbxOf (hosted true hostMbx) 0).gen + 1 ∧
    (let s := hosted true { hostMbx with run := some { entry := idGetEntry, args := [], since := 0 } }
     (mbxOf s 0).run.isSome ∧ (mbxOf s 0).wedged = false ∧ cpRuns s = true) ∧
    (let s := hosted false hostMbx
     s.rep.boot.fused = true ∧ s.pwr.trip = none ∧ tget 2 s.clk.lostAt = none ∧ s.host.linkUp = false ∧ (mbxOf s 0).held = none ∧
      s.host.bifur = true) ∧ functionReady (hosted true hostMbx) = true := by
  unfold State.barOpen State.runs State.cpUp; decide +kernel

/-- Reset with its sources as given. -/
def sources (perst resetN : Bool) : State :=
  { State.reset with
    host := { State.reset.host with linkUp := true }
    rep := { State.reset.rep with boot := { State.reset.rep.boot with perst := perst, resetN := resetN } } }
theorem witness_ResetRowsComplete :
    (State.reset.pwr.trip = none ∧ (1000 : Nat) ≤ 1000) ∧
    (let s := sources false false
     s.pwr.trip = none ∧ s.rep.boot.perst = false ∧ s.rep.boot.resetN = false ∧ s.host.linkUp = true) ∧
    (let s := sources false true
     s.rep.boot.resetN = true ∧ s.rep.boot.perst = false ∧ s.pwr.vaux = true ∧ s.pwr.trip = none) ∧
    (let s := sources true false
     s.rep.boot.perst = true ∧ s.rep.boot.resetN = false ∧ s.pwr.vaux = true ∧ s.pwr.trip = none) ∧
    ({ State.reset with pwr := { State.reset.pwr with vaux := false } } : State).pwr.vaux = false := by decide +kernel

/-! ### Commands of the catalogue -/

/-- Argument bytes from fields (offset, bytes, value). -/
def argBytes (k : Nat) (fs : List (Nat × Nat)) : List Byte := leBytes k ((fs.map (fun f => f.2 * 256 ^ f.1)).sum)
def cmdOf (op ctx : Nat) (a : List Byte) : Cmd := { entry := leBytes 2 op ++ leBytes 2 0 ++ leBytes 2 ctx ++ List.replicate 58 0, args := a, since := 0 }
def bootUp : Boot :=
  { cp := true, mb0 := true, stage := true, xlt := true, ledger := true, ports := 0xFF, cells := 0xFFFFF, fused := true, perst := false, resetN := false }
/-- A state in which mailbox `n` runs the command, everything booted. -/
def served (n : Nat) (c : Cmd) (s : State) : State :=
  { s with rep := { s.rep with boot := bootUp }
           host := { s.host with mbx := s.host.mbx.setIfInBounds n { cfg := { enable := true }, run := some c } } }
theorem witness_IdentityAndPartitionCommandsComplete :
    (let n := 0; let c := cmdOf 0x0101 1 []; let s := served n c (inMotion); Serves s n 0x0101 c {}) ∧
    (let n := 0; let c := cmdOf 0x0102 1 []; let s := served n c (inMotion); Serves s n 0x0102 c {}) ∧
    (let n := 0; let c := cmdOf 0x0201 1 (argBytes 1264 [(0, 0), (1, 4), (2, 4), (4, 1), (8, 64), (12, 2), (16, 3)]); let s := served n c (State.reset); Serves s n 0x0201 c { ready := cellsReady s (maskCells (c.arg 4 4)) } ∧ c.arg 4 4 ≠ 0 ∧ c.part ≤ 19 ∧ 4 ≤ c.arg 1 1 ∧ c.arg 1 1 ≤ 12 ∧ 4 ≤ c.arg 2 1 ∧ c.arg 2 1 ≤ 12 ∧ c.arg 3 1 ≤ 3 ∧ 2 ≤ c.arg 12 2 ∧ c.arg 12 2 ≠ 0xFFFF ∧ c.arg 16 1 ≤ 63 ∧ partOf s c.part = none ∧ ((∀ x ∈ maskCells (c.arg 4 4), cellPart s x = none ∧ x ∉ s.parts.scrubbing)) ∧ nblk (blockSize (ringBytes (c.arg 1 1))) + nblk (blockSize (ringBytes (c.arg 2 1))) + 1 + c.arg 8 4 ≤ ((maskCells (c.arg 4 4)).map (fun x => stackFrames - (s.store.stks.getD x {}).retired)).sum ∧ ctxOf s (c.arg 12 2) = none ∧ (s.parts.keys.getD (c.arg 16 1) {}).st = .free ∧ c.arg 18 2 ≤ 2047 ∧ s.xlt.ctxs.length < 4096) ∧
    (let n := 0; let c := cmdOf 0x0202 1 (argBytes 48 []); let s := served n c (inMotion); Serves s n 0x0202 c (partChk s n c)) ∧
    (let n := 1; let c := cmdOf 0x0203 1 (argBytes 48 []); let s := served n c (inMotion); let x := part0; Serves s n 0x0203 c (partChk s n c) ∧ partOf s c.part = some x) ∧
    (let n := 1; let c := cmdOf 0x0204 1 (argBytes 48 [(4, 64)]); let s := served n c ({ State.reset with parts := { State.reset.parts with live := [(0, part0)] } }); Serves s n 0x0204 c { partChk s n c with gen := some c.part, mgmt := [(objQ c.part, some (c.arg 4 4) != (partOf s c.part).map Part.q)] } ∧ poolUsed s c.part ≤ c.arg 4 4 ∧ partPlaced s c.part + c.arg 4 4 ≤ partFrames s c.part ∧ pinnedCount s c.part = 0 ∨ pinnedCount s c.part + 64 ≤ c.arg 4 4 ∧ backingSlots s c.part none ≠ 0 ∨ managedBlocks s c.part ≤ c.arg 4 4) ∧
    (let n := 1; let c := cmdOf 0x0205 1 (argBytes 48 [(1, 4), (2, 4), (8, 0x0FFF000000000000), (16, 0x0FFF000000001000), (24, 0x2FFF000000000008)]); let s := served n c (inMotion); let f : MbxCfg := { enable := true, sqLog := 4, cqLog := 4, vector := 0, novec := false, sqBase := 0x0FFF000000000000, cqBase := 0x0FFF000000001000 }; Serves s n 0x0205 c { partChk s n c with gen := some c.part } ∧ f = { enable := true, sqLog := c.arg 1 1, cqLog := c.arg 2 1, vector := c.arg 4 2, novec := c.arg 6 1 = 1, sqBase := c.arg 8 8, cqBase := c.arg 16 8 } ∧ 4 ≤ c.arg 1 1 ∧ c.arg 1 1 ≤ 12 ∧ 4 ≤ c.arg 2 1 ∧ c.arg 2 1 ≤ 12 ∧ c.arg 4 2 ≤ 2047 ∧ placedHbm s c.part (c.arg 8 8) (ringBytes (c.arg 1 1)) = true ∧ placedHbm s c.part (c.arg 16 8) (ringBytes (c.arg 2 1)) = true ∧ saOff (c.arg 16 8) + ringBytes (c.arg 2 1) ≤ saOff (c.arg 8 8) ∨ saOff (c.arg 8 8) + ringBytes (c.arg 1 1) ≤ saOff (c.arg 16 8) ∧ mbxTallyOk s c.part (c.arg 24 8) = true ∧ c.arg 32 8 = 0 ∨ mbxTallyOk s c.part (c.arg 32 8) = true) ∧
    (let n := 1; let c := cmdOf 0x0206 1 (argBytes 48 [(1, 6), (8, 0x0FFF000000000000)]); let s := served n c (inMotion); Serves s n 0x0206 c { partChk s n c with gen := some c.part } ∧ 6 ≤ c.arg 1 1 ∧ c.arg 1 1 ≤ 16 ∧ c.arg 2 2 ≤ 2047 ∧ placedHbm s c.part (c.arg 8 8) (ringBytes (c.arg 1 1)) = true) ∧
    ((let s := { State.reset with parts := { State.reset.parts with scrubbing := [3] } }; s.runs ∧ 3 ∈ s.parts.scrubbing)) := by
  refine ⟨?_, ?_, ?_, ?_, ?_, ?_, ?_, ?_, ?_⟩ <;> (try unfold Serves) <;> (try unfold State.runs) <;> decide +kernel

theorem witness_AllocationCommandsComplete :
    (let n := 1; let c := cmdOf 0x0301 1 (argBytes 48 [(2, 2), (8, 65536)]); let s := served n c ({ inMotion with parts := { inMotion.parts with live := [(0, { part0 with q := 1000 })], keys := inMotion.parts.keys.setIfInBounds 4 { st := .issued, part := 0 } } }); let al : Alloc := { size := c.arg 8 8, tier := .managed, cells := allocCells s c, ctx := c.arg 2 2, part := c.part }; Serves s n 0x0301 c { exist := (partOf s c.part).isSome && (!decide (allocTier (c.arg 1 1) = .host) || (tget (c.arg 16 2) s.store.exts).isSome), mine := c.part + 1 = n && (!decide (allocTier (c.arg 1 1) = .host) || ((tget (c.arg 16 2) s.store.exts).map Extent.part) = some c.part), ready := cellsReady s (allocCells s c) && (allocTier (c.arg 1 1) != .flash || censusReady s (allocCells s c)) } ∧ c.arg 1 1 = 0 ∧ c.arg 8 8 ≠ 0 ∧ c.arg 8 8 % 65536 = 0 ∧ (allocCells s c).all (partCells s c.part).contains = true ∧ reserveFits s c.part (nblk (c.arg 8 8)) none = true ∧ ctxPart s (c.arg 2 2) = some c.part ∧ slotRevoked s (keyOf s (c.arg 2 2)) = false ∧ al = { size := c.arg 8 8, tier := .managed, cells := allocCells s c, ctx := c.arg 2 2, part := c.part } ∧ (s.store.allocs.map (fun x => x.2.extent)).sum + (s.store.allocs.length + 1) * c.arg 8 8 ≤ 2 ^ 48) ∧
    (let n := 1; let c := cmdOf 0x0302 1 (argBytes 48 [(8, 0x0FFF000000000000), (16, 65536)]); let s := served n c (inMotion); let a : Alloc := { size := 65536, tier := .hbm, cells := [0], ctx := 2, part := 0 }; Serves s n 0x0302 c (partChk s n c) ∧ argOwn s c 8 = true ∧ tget (argSa c 8) s.store.allocs = some a ∧ a.part = c.part ∧ a.size = c.arg 16 8 ∧ a.ctx ≠ 0 ∧ ((∀ r, a.region = some r → r.work = []))) ∧
    (let n := 1; let c := cmdOf 0x0303 1 (argBytes 48 [(1, 1), (8, 0x0FFF000000010000), (16, 65536)]); let s := served n c ({ inMotion with parts := { inMotion.parts with live := [(0, { part0 with q := 1000 })] } }); let b := 65536; let al : Alloc := { size := 262144, tier := .managed, cells := [0], ctx := 2, part := 0 }; Serves s n 0x0303 c { partChk s n c with ready := rangeReady s c } ∧ c.arg 1 1 = 1 ∧ c.arg 16 8 ≠ 0 ∧ argOwn s c 8 = true ∧ inAlloc s c.part (argSa c 8) (c.arg 16 8) = some (b, al) ∧ al.tier = .managed ∧ pinnedCount s c.part + (rangeBlocks b (argSa c 8) (c.arg 16 8)).length + 64 ≤ ((partOf s c.part).map Part.q).getD 0) ∧
    (let n := 1; let c := cmdOf 0x0303 1 (argBytes 48 [(8, 0x0FFF000000010000), (16, 65536)]); let s := served n c (inMotion); let b := 65536; let al : Alloc := { size := 262144, tier := .managed, cells := [0], ctx := 2, part := 0 }; Serves s n 0x0303 c { partChk s n c with ready := rangeReady s c } ∧ c.arg 1 1 = 0 ∧ c.arg 16 8 ≠ 0 ∧ argOwn s c 8 = true ∧ inAlloc s c.part (argSa c 8) (c.arg 16 8) = some (b, al) ∧ al.tier = .managed) ∧
    (let n := 1; let c := cmdOf 0x0304 1 (argBytes 112 [(2, 1), (48, 0xE0000002)]); let s := served n c (inMotion); Serves s n 0x0304 c { partChk s n c with gen := some (objGset c.part (c.arg 2 2)) } ∧ 0 < c.arg 2 2 ∧ c.arg 2 2 ≤ 4095 ∧ ((List.range 16).map (fun i => c.arg (48 + 4 * i) 4)).any (fun e => bitsOf e 28 16 != 0) = false) ∧
    (let n := 1; let c := cmdOf 0x0305 1 (argBytes 48 [(8, 0x0FFF000000010000), (16, 65536)]); let s := served n c (inMotion); let x : Nat × Alloc := (65536, { size := 262144, tier := .managed, cells := [0], ctx := 2, part := 0 }); Serves s n 0x0305 c { partChk s n c with ready := rangeReady s c } ∧ c.arg 16 8 ≠ 0 ∧ c.arg 16 8 % 4096 = 0 ∧ argSa c 8 % 4096 = 0 ∧ argOwn s c 8 = true ∧ inAlloc s c.part (argSa c 8) (c.arg 16 8) = some x ∧ c.arg 2 2 = 0 ∨ (tget (c.part * 4096 + c.arg 2 2) s.store.gsets).isSome = true) ∧
    (let n := 1; let c := cmdOf 0x0309 1 (argBytes 48 []); let s := served n c (inMotion); Serves s n 0x0309 c { partChk s n c with gen := some c.part, ready := cellsReady s (partCells s c.part) } ∧ c.arg 4 4 ≤ ((partOf s c.part).map Part.q).getD 0 / 16) ∧
    (let n := 0; let c := cmdOf 0x030A 1 (argBytes 48 [(4, 1), (8, 50)]); let s := served n c (inMotion); let t : State := { s with store := { s.store with flashTimeout := c.arg 4 4 * 1000000, hostTimeout := c.arg 8 4 * 1000 } }; Serves s n 0x030A c { gen := some objTier, mgmt := [(objTier, c.arg 4 4 * 1000000 != s.store.flashTimeout || c.arg 8 4 * 1000 != s.store.hostTimeout)] } ∧ 0 < c.arg 4 4 ∧ c.arg 4 4 ≤ 1000 ∧ 50 ≤ c.arg 8 4 ∧ c.arg 8 4 ≤ 100000 ∧ t = { s with store := { s.store with flashTimeout := c.arg 4 4 * 1000000, hostTimeout := c.arg 8 4 * 1000 } }) ∧
    (let n := 0; let c := cmdOf 0x030B 1 (argBytes 48 [(0, 0xFF), (2, 1), (4, 1)]); let s := served n c (inMotion); let w : WinSeg := {}; Serves s n 0x030B c (winChk s n c) ∧ bit (c.arg 2 1) 0 = true ∧ w = s.host.segs.getD (c.arg 1 1) {} ∧ c.arg 1 1 ≤ 15 ∧ (c.arg 2 1 / 2 % 4 = 0 ∨ c.arg 2 1 / 2 % 4 = 2) ∧ (n = 0 ∧ c.part = 0xFF ∧ c.arg 4 2 = 1) ∨ (n ≠ 0 ∧ ctxPart s (c.arg 4 2) = some c.part) ∧ w.bound = false ∨ w.binder = n) ∧
    (let n := 0; let c := cmdOf 0x030B 1 (argBytes 48 [(0, 0xFF), (2, 0), (4, 1)]); let s := served n c (inMotion); let w : WinSeg := {}; Serves s n 0x030B c (winChk s n c) ∧ bit (c.arg 2 1) 0 = false ∧ w = s.host.segs.getD (c.arg 1 1) {} ∧ c.arg 1 1 ≤ 15 ∧ (c.arg 2 1 / 2 % 4 = 0 ∨ c.arg 2 1 / 2 % 4 = 2) ∧ (n = 0 ∧ c.part = 0xFF ∧ c.arg 4 2 = 1) ∨ n ≠ 0 ∧ w.bound = false ∨ w.binder = n) := by
  refine ⟨?_, ?_, ?_, ?_, ?_, ?_, ?_, ?_, ?_, ?_⟩ <;> (try unfold Serves) <;> decide +kernel

def anExt : Extent := { part := 0, size := 65536, pages := [], huge := false, cell := 0, backing := false, ctx := 2, keyslot := 4 }
def exted : State :=
  { inMotion with
    store := { inMotion.store with exts := [(0, anExt)] }
    parts := { inMotion.parts with keys := inMotion.parts.keys.setIfInBounds 4 { st := .issued, part := 0 } } }
def aWork : Work := { ctx := 2, base := 1, isSealed := false, copied := [] }
def aRegion : Region := { version := 1, winVer := [(0, 1)], opens := [(2, 1)], work := [(16, aWork)] }
def regioned : State :=
  { exted with
    store := { exted.store with
      allocs := [(0, { size := 65536, tier := .hbm, cells := [0], ctx := 2, part := 0, region := some aRegion })] } }
theorem witness_ExtentAndRegionCommandsComplete :
    (let n := 1; let c := cmdOf 0x0306 1 (argBytes 48 [(8, 65536), (24, 20)]); let s := served n c (inMotion); let pages := (List.range 20).map (fun i => 4096 * i); Serves s n 0x0306 c { partChk s n c with ready := s.host.linkUp && cellsReady s [c.arg 2 1] } ∧ c.arg 8 8 ≠ 0 ∧ c.arg 8 8 % 65536 = 0 ∧ c.arg 1 1 ≤ 1 ∧ c.arg 3 1 = 0 ∧ (partCells s c.part).contains (c.arg 2 1) = true ∧ pages.length = c.arg 24 4 ∧ c.arg 8 8 + nblk (c.arg 8 8) * 8448 ≤ c.arg 24 4 * 4096 ∧ pages.any (fun a => a % 4096 != 0) = false ∧ ((List.range 1024).filter (fun e => (tget e s.store.exts).isNone)) ≠ [] ∧ slotRevoked s (keyOf s c.ctx) = false) ∧
    (let n := 1; let c := cmdOf 0x0307 1 (argBytes 48 []); let s := served n c (exted); let x := anExt; let u : State := { s with store := { s.store with exts := tput (c.arg 2 2) { x with draining := true } s.store.exts }, parts := { s.parts with keys := s.parts.keys.setIfInBounds x.keyslot { s.parts.keys.getD x.keyslot {} with st := .draining }, revokes := s.parts.revokes ++ [{ ext := c.arg 2 2, slot := x.keyslot, part := x.part, mb := n, ends := s.wall + (if c.arg 4 4 = 0 then 2000 else c.arg 4 4) * 1000 }] } }; Serves s n 0x0307 c (extChk s n c) ∧ tget (c.arg 2 2) s.store.exts = some x ∧ c.arg 4 4 ≤ 100000 ∧ x.draining = false ∧ x.retired = false ∧ slotRevoked s x.keyslot = false ∧ u = { s with store := { s.store with exts := tput (c.arg 2 2) { x with draining := true } s.store.exts }, parts := { s.parts with keys := s.parts.keys.setIfInBounds x.keyslot { s.parts.keys.getD x.keyslot {} with st := .draining }, revokes := s.parts.revokes ++ [{ ext := c.arg 2 2, slot := x.keyslot, part := x.part, mb := n, ends := s.wall + (if c.arg 4 4 = 0 then 2000 else c.arg 4 4) * 1000 }] } }) ∧
    (({ exted with parts := { exted.parts with revokes := [{ ext := 0, slot := 4, part := 0, mb := 1, ends := 10 }] } } : State).parts.revokes.find? (fun r => r.ext = 0) = some { ext := 0, slot := 4, part := 0, mb := 1, ends := 10 }) ∧
    (let n := 1; let c := cmdOf 0x0308 1 (argBytes 48 []); let s := served n c (exted); Serves s n 0x0308 c (extChk s n c) ∧ s.store.allocs.any (fun x => x.2.ext = some (c.arg 2 2)) = false ∧ lowerExt s (c.arg 2 2) = 0 ∧ ((tget (c.arg 2 2) s.store.exts).map Extent.backing) = some false ∨ reserveFits s c.part 0 (some (c.arg 2 2)) = true ∧ s.parts.revokes.any (fun r => r.ext = c.arg 2 2) = false) ∧
    (let n := 1; let c := cmdOf 0x030C 2 (argBytes 48 [(8, 0x0FFF000000000000)]); let s := served n c (regioned); let al : Alloc := { size := 65536, tier := .hbm, cells := [0], ctx := 2, part := 0, region := some aRegion }; let r := aRegion; let w := 0; let u := updRegion (argSa c 8) (fun r => { r with opens := r.opens ++ [(c.ctx, r.version)], barred := r.barred.filter (fun x => x != (c.ctx, w)) }) s; Serves s n 0x030C c (regionChk false s n c) ∧ regionAt s (argSa c 8) = some (al, r) ∧ w = ((r.winVer.find? (fun x => x.2 = r.version)).map Prod.fst).getD 0 ∧ u = updRegion (argSa c 8) (fun r => { r with opens := r.opens ++ [(c.ctx, r.version)], barred := r.barred.filter (fun x => x != (c.ctx, w)) }) s) ∧
    (let n := 1; let c := cmdOf 0x030D 2 (argBytes 48 [(8, 0x0FFF000000000000), (16, 1)]); let s := served n c (regioned); let al : Alloc := { size := 65536, tier := .hbm, cells := [0], ctx := 2, part := 0, region := some aRegion }; let r := aRegion; Serves s n 0x030D c (regionChk false s n c) ∧ regionAt s (argSa c 8) = some (al, r) ∧ r.opens.contains (c.ctx, c.arg 16 8) = true) ∧
    (let n := 1; let c := cmdOf 0x030E 2 (argBytes 48 [(8, 0x0FFF000000000000), (16, 1)]); let s := served n c (regioned); let al : Alloc := { size := 65536, tier := .hbm, cells := [0], ctx := 2, part := 0, region := some aRegion }; let r := aRegion; let w := 17; let cur := 0; let k := 1; let u := updRegion (argSa c 8) (fun r' => { r' with work := tput w { ctx := c.ctx, base := r.version, isSealed := false, copied := [] } r'.work, map := (List.range k).foldl (fun m i => match tget (cur * k + i) r.map with | some x => tput (w * k + i) x m | none => m) r.map, barred := r'.barred.filter (fun x => x != (c.ctx, w)) }) s; Serves s n 0x030E c (regionChk true s n c) ∧ regionAt s (argSa c 8) = some (al, r) ∧ (span 16 8).find? (fun w => (tget w r.work).isNone) = some w ∧ c.arg 16 8 = r.version ∧ cur = ((r.winVer.find? (fun x => x.2 = r.version)).map Prod.fst).getD 0 ∧ k = nblk al.size ∧ u = updRegion (argSa c 8) (fun r' => { r' with work := tput w { ctx := c.ctx, base := r.version, isSealed := false, copied := [] } r'.work, map := (List.range k).foldl (fun m i => match tget (cur * k + i) r.map with | some x => tput (w * k + i) x m | none => m) r.map, barred := r'.barred.filter (fun x => x != (c.ctx, w)) }) s) ∧
    (let n := 1; let c := cmdOf 0x0310 2 (argBytes 48 [(1, 16), (8, 0x0FFF000000000000)]); let s := served n c (regioned); let x : Alloc × Region := ({ size := 65536, tier := .hbm, cells := [0], ctx := 2, part := 0, region := some aRegion }, aRegion); let k := aWork; Serves s n 0x0310 c (regionChk true s n c) ∧ regionAt s (argSa c 8) = some x ∧ tget (c.arg 1 1) x.2.work = some k ∧ k.ctx = c.ctx) ∧
    (let n := 1; let c := cmdOf 0x030F 2 (argBytes 48 [(1, 16), (8, 0x0FFF000000000000), (16, 1)]); let s := served n c (regioned); let al : Alloc := { size := 65536, tier := .hbm, cells := [0], ctx := 2, part := 0, region := some aRegion }; let r := aRegion; let k := aWork; let b := argSa c 8; let off := b + c.arg 1 1 * al.size; let nb := nblk al.size; let u := recallRange off al.size (updRegion b (fun r => { r with work := tput (c.arg 1 1) { k with isSealed := true } r.work }) s); Serves s n 0x030F c (regionChk true s n c) ∧ b = argSa c 8 ∧ off = b + c.arg 1 1 * al.size ∧ nb = nblk al.size ∧ regionAt s b = some (al, r) ∧ tget (c.arg 1 1) r.work = some k ∧ k.ctx = c.ctx ∧ u = recallRange off al.size (updRegion b (fun r => { r with work := tput (c.arg 1 1) { k with isSealed := true } r.work }) s) ∧ agentLines u off al.size = [] ∧ r.version = c.arg 16 8 ∧ (r.opens.map Prod.snd).eraseDups.length < 16) ∧
    (let n := 21; let c := cmdOf 0x0311 1 (argBytes 48 [(8, 0x0FFF000000000000)]); let s := served n c (regioned); Serves s n 0x0311 c { exist := (partOf s c.part).isSome && argOwn s c 8 && ((regionAt s (argSa c 8)).map (fun x => x.1.part)) = some c.part }) := by
  refine ⟨?_, ?_, ?_, ?_, ?_, ?_, ?_, ?_, ?_, ?_⟩ <;> (try unfold Serves) <;> decide +kernel

/-- Argument bytes of a TOLL_COMMIT that leaves every slot unused. -/
def emptyToll : List Byte := argBytes 48 [] ++ List.replicate 5376 0xFF
theorem emptyToll_rows : ((cmdOf 0x0502 1 emptyToll).args.drop 48).take (tollRows * 256) = List.replicate 5376 0xFF := by
  have h : (argBytes 48 []).length = 48 := length_leBytes _ _
  simp [cmdOf, emptyToll, tollRows, h, -List.reduceReplicate]
/-- An itinerary image of one entry not in use, for the toll table after reset. -/
def anImage : List Byte :=
  leBytes 16 (1 + inMotion.stg.run.nominal * 2 ^ 64) ++ (leBytes 48 (tollDigest []) ++ List.replicate 32 0)
def imaged : State := { inMotion with store := { inMotion.store with mem := putBytes 0 anImage [] } }
theorem anImage_digest : fld anImage 16 48 = tollDigest [] := by
  have h : (leBytes 16 (1 + inMotion.stg.run.nominal * 2 ^ 64)).length = 16 := length_leBytes _ _
  have h2 : (leBytes 48 (tollDigest [])).length = 48 := length_leBytes _ _
  have h3 : tollDigest [] < 256 ^ 48 := (Config.sha384Bits (tollBytes [])).isLt
  simp only [fld, anImage]
  rw [List.drop_left' h, List.take_left' h2, leNat_leBytes, Nat.mod_eq_of_lt h3]
theorem anImage_length : anImage.length = 96 := by simp [anImage]
theorem imaged_bytes : storeBytes (served 1 (cmdOf 0x0504 2 (argBytes 48 [(4, 96), (8, 0x0FFF000000000000)])) imaged) 0 96 = anImage := by
  have h : ∀ a ∈ span 0 96, content (served 1 (cmdOf 0x0504 2 (argBytes 48 [(4, 96), (8, 0x0FFF000000000000)])) imaged) a = a := by
    decide +kernel
  have h2 : bytesAt (putBytes 0 anImage []) 0 anImage.length = anImage := bytesAt_putBytes (by decide)
  rw [anImage_length] at h2
  refine Eq.trans ?_ h2
  unfold storeBytes bytesAt
  refine List.map_congr_left (fun a ha => ?_)
  rw [h a ha]
  rfl
theorem anImage_parse (s : State) (h1 : s.stg.toll = []) (h2 : s.stg.run.nominal = inMotion.stg.run.nominal) :
    itinParse s 0 anImage 0 = .inl { entries := [entryParse (List.replicate 32 0)], deps := [], rals := [], digest := fld anImage 16 48, image := Config.sha384 anImage, stage := none } := by
  have h4 : (fld anImage 16 48 != tollDigest s.stg.toll) = false := by rw [anImage_digest, h1]; simp
  have h5 : (fld anImage 8 4 != s.stg.run.nominal) = false := by rw [h2]; decide +kernel
  have f0 : fld anImage 0 2 = 1 := by decide +kernel
  have f2 : fld anImage 2 2 = 0 := by decide +kernel
  have f4 : fld anImage 4 2 = 0 := by decide +kernel
  have f6 : zeroAt anImage 6 2 = true := by decide +kernel
  have f8 : (bitsOf (fld anImage 8 4) 31 27 != 0) = false := by decide +kernel
  have f12 : zeroAt anImage 12 4 = true := by decide +kernel
  have f64 : recordsOf 32 1 (anImage.drop 64) = [List.replicate 32 0] := by decide +kernel
  have fe : entryOk s 0 0 0 (List.replicate 32 0#8) = true := rfl
  unfold itinParse
  simp only [f0, f2, f4, f6, f8, f12, f64, anImage_length, h4, h5]
  simp [recordsOf, fe, firstIdx, ralClash, -List.reduceReplicate]
theorem witness_ContextAndStageCommandsComplete :
    (let n := 1; let c := cmdOf 0x0401 1 (argBytes 48 [(2, 3), (6, 4)]); let s := served n c ({ inMotion with parts := { inMotion.parts with keys := inMotion.parts.keys.setIfInBounds 4 { st := .issued, part := 0 } } }); let r := ctxRecord c 0; Serves s n 0x0401 c { partChk s n c with ready := s.rep.boot.xlt } ∧ ctxOf s (c.arg 2 2) = none ∧ s.xlt.ctxs.length < 4096 ∧ ownChecks (ctxChecks s c) = none ∧ ctxBad (c.arg 2 2) = false ∧ slotRevoked s (c.arg 6 1) = false ∧ r = ctxRecord c (if c.arg 8 8 = 0 then 0 else mirrorGen s (ctxRecord c 0))) ∧
    (let n := 1; let c := cmdOf 0x0402 1 (argBytes 48 [(2, 2), (6, 4)]); let s := served n c ({ inMotion with parts := { inMotion.parts with keys := inMotion.parts.keys.setIfInBounds 4 { st := .issued, part := 0 } } }); let r := ctxRecord c (((ctxOf s (c.arg 2 2)).map Ctx.lastGen).getD 0); let g := mirrorGen s r; let u := updXlt (fun x => { x with ctxs := tput (c.arg 2 2) r x.ctxs, misses := x.misses.map (fun (m : Nat × Miss) => if m.2.ctx = c.arg 2 2 && m.2.st = .walk then (m.1, { m.2 with genFirst := g, genLast := g, repeated := false }) else m) }) s; Serves s n 0x0402 c { ctxChk s n c with gen := some (objCtx (c.arg 2 2)) } ∧ ownChecks (ctxChecks s c) = none ∧ ctxBad (c.arg 2 2) = false ∧ slotRevoked s (c.arg 6 1) = false ∧ r = ctxRecord c (((ctxOf s (c.arg 2 2)).map Ctx.lastGen).getD 0) ∧ g = mirrorGen s r ∧ u = updXlt (fun x => { x with ctxs := tput (c.arg 2 2) r x.ctxs, misses := x.misses.map (fun (m : Nat × Miss) => if m.2.ctx = c.arg 2 2 && m.2.st = .walk then (m.1, { m.2 with genFirst := g, genLast := g, repeated := false }) else m) }) s) ∧
    (let n := 1; let c := cmdOf 0x0403 1 (argBytes 48 [(2, 2)]); let s := served n c ({ State.reset with xlt := { State.reset.xlt with ctxs := [(2, ctx2)] }, parts := { State.reset.parts with live := [(0, part0)] } }); Serves s n 0x0403 c (ctxChk s n c) ∧ s.store.allocs.any (fun a => a.2.ctx = c.arg 2 2) = false) ∧
    (let n := 1; let c := cmdOf 0x0404 1 (argBytes 48 [(2, 2), (16, 1), (20, 6)]); let s := served n c (inMotion); let x := ctx2; let i : Inv := { scope := 0, ctx := c.arg 2 2, gen := BitVec.ofNat 32 (c.arg 20 4), page := c.arg 8 8 / 4096 % 2 ^ 45, pages := c.arg 16 4, waits := [], started := true, mb := some n }; Serves s n 0x0404 c (ctxChk s n c) ∧ c.arg 1 1 = 0 ∧ s.xlt.invs.any (fun i => i.mb = some n) = false ∧ ctxOf s (c.arg 2 2) = some x ∧ invGenBad x (BitVec.ofNat 32 (c.arg 20 4)) = false ∧ c.arg 16 4 ≠ 0 ∧ i = { scope := 0, ctx := c.arg 2 2, gen := BitVec.ofNat 32 (c.arg 20 4), page := c.arg 8 8 / 4096 % 2 ^ 45, pages := c.arg 16 4, waits := [], started := true, mb := some n }) ∧
    (let n := 1; let c := cmdOf 0x0404 1 (argBytes 48 [(1, 1), (2, 2), (20, 6)]); let s := served n c (inMotion); let x := ctx2; let i : Inv := { scope := 1, ctx := c.arg 2 2, gen := BitVec.ofNat 32 (c.arg 20 4), page := c.arg 8 8 / 4096 % 2 ^ 45, pages := c.arg 16 4, waits := [], started := true, mb := some n }; Serves s n 0x0404 c (ctxChk s n c) ∧ c.arg 1 1 = 1 ∧ s.xlt.invs.any (fun i => i.mb = some n) = false ∧ ctxOf s (c.arg 2 2) = some x ∧ invGenBad x (BitVec.ofNat 32 (c.arg 20 4)) = false ∧ i = { scope := 1, ctx := c.arg 2 2, gen := BitVec.ofNat 32 (c.arg 20 4), page := c.arg 8 8 / 4096 % 2 ^ 45, pages := c.arg 16 4, waits := [], started := true, mb := some n }) ∧
    (let n := 0; let c := cmdOf 0x0404 1 (argBytes 48 [(1, 2)]); let s := served n c (inMotion); Serves s n 0x0404 c { ready := s.rep.boot.xlt } ∧ n = 0 ∧ c.arg 1 1 = 2 ∧ s.xlt.invs.any (fun i => i.mb = some 0) = false) ∧
    (let n := 21; let c := cmdOf 0x0501 1 (argBytes 48 [(2, 4), (3, 1), (4, 1000000), (8, 1000), (10, 0)]); let s := served n c (inMotion); let g : StgCfg := { enable := c.arg 3 1 = 1, outmode := c.arg 1 1, flywheel := c.arg 2 1, vector := c.arg 10 2, window := c.arg 8 2, nominal := c.arg 4 4 }; Serves s n 0x0501 c { gen := some objStage, ready := s.rep.boot.stage } ∧ g = { enable := c.arg 3 1 = 1, outmode := c.arg 1 1, flywheel := c.arg 2 1, vector := c.arg 10 2, window := c.arg 8 2, nominal := c.arg 4 4 } ∧ stgCfgOk { s with stg := { s.stg with itin := [] } } g = true ∧ g.vector < 2048 ∧ g.nominal = s.stg.run.nominal ∨ itinRunning s = []) ∧
    (let c := cmdOf 0x0502 1 emptyToll; let s := served 21 c inMotion; let b := (c.args.drop 48).take (tollRows * 256); Serves s 21 0x0502 c { gen := some objToll, ready := s.rep.boot.stage } ∧ b.any (fun x => decide (0x13 < x.toNat) && decide (x.toNat < 0xFE)) = false ∧ (span 8 13).any (fun r => decide ((((b.drop (r * 256)).take 256).filter (fun x => x.toNat = 0xFF)).length < 2)) = false ∧ s.stg.itin = [] ∧ stgRuns s = false) ∧
    (let n := 0; let c := cmdOf 0x0503 1 []; let s := served n c (inMotion); Serves s n 0x0503 c { ready := s.rep.boot.stage }) ∧
    (let c := cmdOf 0x0504 2 (argBytes 48 [(4, 96), (8, 0x0FFF000000000000)]); let s := served 1 c imaged; Serves s 1 0x0504 c (stageChk s 1 c) ∧ c.arg 4 4 ≠ 0 ∧ imageBad s c.ctx (c.arg 8 8) (c.arg 4 4) = none ∧ (∃ it, itinParse s c.part (storeBytes s (saOff (c.arg 8 8)) (c.arg 4 4)) (c.arg 16 6) = .inl it)) ∧
    (let n := 1; let c := cmdOf 0x0505 1 (argBytes 48 []); let s := served n c ({ inMotion with stg := { inMotion.stg with itin := [(0, { pending := some { entries := [], deps := [], rals := [], digest := 0, image := 0, stage := none } })] } }); Serves s n 0x0505 c { stageChk s n c with exist := (partOf s c.part).isSome && ((itinOf s c.part).isHeld || (itinOf s c.part).pending.isSome) }) ∧
    (let n := 1; let c := cmdOf 0x0506 1 (argBytes 48 []); let s := served n c (inMotion); Serves s n 0x0506 c (stageChk s n c)) ∧
    (let n := 1; let c := cmdOf 0x0507 1 (argBytes 48 [(4, 2), (8, 0x2FFF000000000008), (16, 5)]); let s := served n c (inMotion); let x := Sa.of (BitVec.ofNat 64 (c.arg 8 8)); Serves s n 0x0507 c (stageChk s n c) ∧ x = Sa.of (BitVec.ofNat 64 (c.arg 8 8)) ∧ c.arg 4 4 ≠ 0 ∧ x.space = 2 ∧ isOwn s x.dev = true ∧ partTally s c.part x.off = true ∧ x.off % 2 ^ 18 + 8 * c.arg 4 4 ≤ 2 ^ 18) ∧
    (let n := 0; let c := cmdOf 0x0508 1 []; let s := served n c (inMotion); Serves s n 0x0508 c { ready := s.rep.boot.stage }) := by
  refine ⟨?_, ?_, ?_, ?_, ?_, ?_, ?_, ?_, ?_, ?_, ?_, ?_, ?_, ?_⟩
  · (try unfold Serves) <;> decide +kernel
  · (try unfold Serves) <;> decide +kernel
  · (try unfold Serves) <;> decide +kernel
  · (try unfold Serves) <;> decide +kernel
  · (try unfold Serves) <;> decide +kernel
  · (try unfold Serves) <;> decide +kernel
  · (try unfold Serves) <;> decide +kernel
  · refine ⟨⟨rfl, by decide +kernel, by decide +kernel, by decide +kernel⟩, ?_, ?_, rfl, by decide +kernel⟩
    · rw [emptyToll_rows]; simp [-List.reduceReplicate, List.any_replicate]
    · rw [emptyToll_rows]; simp [-List.reduceReplicate, span]; intro x hx; omega
  · (try unfold Serves) <;> decide +kernel
  · refine ⟨⟨rfl, by decide +kernel, by decide +kernel, by decide +kernel⟩, by decide +kernel, by decide +kernel, ?_⟩
    have h : storeBytes (served 1 (cmdOf 0x0504 2 (argBytes 48 [(4, 96), (8, 0x0FFF000000000000)])) imaged) 0 96 = anImage := imaged_bytes
    exact ⟨_, (congrArg (fun b => itinParse _ 0 b 0) h).trans (anImage_parse _ rfl rfl)⟩
  · (try unfold Serves) <;> decide +kernel
  · (try unfold Serves) <;> decide +kernel
  · (try unfold Serves) <;> decide +kernel
  · (try unfold Serves) <;> decide +kernel

/-- A DEPOT_MAP_SET of generation 9 that gives every slot to device 0 and partition 0. -/
def slotMap : List Byte := argBytes 48 [(8, 9)] ++ (List.replicate 4096 (leBytes 4 0x80000000)).flatten
theorem drop_past (a b : List Byte) (k : Nat) : (a ++ b).drop (a.length + k) = b.drop k := by simp [List.drop_append]
theorem flatten_take {w : List Byte} (hw : w.length = 4) (n i : Nat) (h : i < n) :
    (((List.replicate n w).flatten).drop (4 * i)).take 4 = w := by
  induction n generalizing i with
  | zero => omega
  | succ n ih =>
    rw [List.replicate_succ, List.flatten_cons]
    cases i with
    | zero => exact List.take_left' hw
    | succ i =>
      have e : 4 * (i + 1) = w.length + 4 * i := by omega
      rw [e, drop_past]
      exact ih i (by omega)
theorem slotMap_arg {i : Nat} (h : i < 4096) : (cmdOf 0x0702 1 slotMap).arg (48 + 4 * i) 4 = 0x80000000 := by
  have h1 : (argBytes 48 [(8, 9)]).length = 48 := length_leBytes _ _
  have e : 48 + 4 * i = (argBytes 48 [(8, 9)]).length + 4 * i := by omega
  show leNat (((slotMap).drop (48 + 4 * i)).take 4) = _
  rw [slotMap, e, drop_past, flatten_take (length_leBytes _ _) _ _ h, leNat_leBytes]
  norm_num
theorem witness_LaunchDepotAndIndexCommandsComplete :
    (let n := 1; let c := cmdOf 0x0601 2 (argBytes 48 [(4, 1), (8, 0x0FFF000000002000)]); let s := served n c (threaded); let k := (launchMany c.part (saOff (c.arg 8 8)) (c.arg 4 4) none s).1.2; let t := (launchMany c.part (saOff (c.arg 8 8)) (c.arg 4 4) none s).2; s.runs ∧ Serves s n 0x0601 c { partChk s n c with ready := cellsReady s (launchCells s (saOff (c.arg 8 8)) (c.arg 4 4)) } ∧ 0 < c.arg 4 4 ∧ c.arg 4 4 ≤ 320 ∧ descArg s c.ctx (c.arg 8 8) = none ∧ launchMany c.part (saOff (c.arg 8 8)) (c.arg 4 4) none s = ((.done, k), t)) ∧
    (let n := 1; let c := cmdOf 0x0602 2 (argBytes 48 [(2, 0x2000), (8, 0x0FFF000000002000)]); let s := served n c (threaded); let m := 0; s.runs ∧ Serves s n 0x0602 c { partChk s n c with ready := cellsReady s (issueCells (c.arg 2 2)) } ∧ m < 40 ∧ c.arg 2 2 = 0x2000 + m ∧ descArg s c.ctx (c.arg 8 8) = none ∧ (partCells s c.part).contains (m / 2) = true ∧ queuedAt s .matrix m c.part < 64) ∧
    (let n := 21; let c := cmdOf 0x0701 1 (argBytes 48 [(1, 1), (2, 1), (8, 262144), (16, 64), (18, 1), (24, 1000), (28, 1000), (32, 1000)]); let s := served n c ({ inMotion with parts := { inMotion.parts with live := [(0, { part0 with q := 1000 })] } }); Serves s n 0x0701 c { exist := (partOf s c.part).isSome, ready := cellsReady s (depParams s c).cells } ∧ (depParams s c).pool ≠ 0 ∧ (depParams s c).ok = true ∧ (depParams s c).cells.all (partCells s c.part).contains = true ∧ memberOf s c.part (c.arg 4 4) = none ∧ reserveFits s c.part (nblk (depParams s c).pool) none = true ∧ 0 < ((partOf s c.part).map Part.q).getD 0 ∧ (s.store.allocs.map (fun x => x.2.extent)).sum + (s.store.allocs.length + 1) * (depParams s c).pool ≤ 2 ^ 48) ∧
    (let c := cmdOf 0x0702 1 slotMap; let s := served 21 c depoted; Serves s 21 0x0702 c { depChk s 21 c with ready := memberReady s c } ∧ memberOf s c.part (c.arg 4 4) = some fullMember ∧ ((List.range 4096).map (fun i => c.arg (48 + 4 * i) 4)).any (fun v => !slotValid v || bitsOf v 30 17 != 0) = false ∧ fullMember.mapgen < c.arg 8 4) ∧
    (let n := 1; let c := cmdOf 0x0703 1 (argBytes 48 [(8, 99)]); let s := served n c (depoted); let a : HomeAns := .unreachable; let m := fullMember; Serves s n 0x0703 c (depChk s n c) ∧ memberOf s c.part (c.arg 4 4) = some m ∧ m.mapgen ≠ 0 ∧ m.leases.length < 262144 ∨ (tget (c.arg 8 8) m.leases).isSome = true) ∧
    (let n := 1; let c := cmdOf 0x0704 1 (argBytes 48 [(8, 1), (16, 1)]); let s := served n c ({ threaded with dep := { threaded.dep with members := [(0, { aMember with mapgen := 1 })] } }); let a : HomeAns := .unreachable; let m : Member := { aMember with mapgen := 1 }; let l := aLease; Serves s n 0x0704 c (depChk s n c) ∧ memberOf s c.part (c.arg 4 4) = some m ∧ tget (c.arg 8 8) m.leases = some l ∧ l.role = .owner ∧ l.epoch = c.arg 16 4) ∧
    (let n := 1; let c := cmdOf 0x0705 1 (argBytes 48 [(8, 99), (16, 1)]); let s := served n c (depoted); let a : HomeAns := .unreachable; let m := fullMember; Serves s n 0x0705 c (depChk s n c) ∧ memberOf s c.part (c.arg 4 4) = some m ∧ m.mapgen ≠ 0 ∧ 0 < c.arg 16 4 ∧ c.arg 16 4 ≠ 2 ^ 32 - 1 ∧ tget (c.arg 8 8) m.leases = none ∧ m.leases.length < 262144) ∧
    (let n := 1; let c := cmdOf 0x0706 1 (argBytes 48 [(8, 1), (16, 1)]); let s := served n c ({ threaded with dep := { threaded.dep with members := [(0, { aMember with mapgen := 1 })] } }); let a : HomeAns := .unreachable; let m : Member := { aMember with mapgen := 1 }; let l := aLease; Serves s n 0x0706 c (depChk s n c) ∧ memberOf s c.part (c.arg 4 4) = some m ∧ tget (c.arg 8 8) m.leases = some l ∧ l.role ≠ .lost ∧ l.epoch = c.arg 16 4) ∧
    (let n := 21; let c := cmdOf 0x0707 1 (argBytes 48 []); let s := served n c ({ threaded with dep := { threaded.dep with members := [(0, { aMember with leases := [] })] } }); let m : Member := { aMember with leases := [] }; Serves s n 0x0707 c (depChk s n c) ∧ memberOf s c.part (c.arg 4 4) = some m ∧ m.leases = [] ∧ m.moving = [] ∧ m.mapgen = 0) ∧
    (let n := 1; let c := cmdOf 0x0708 1 (argBytes 48 []); let s := served n c (depoted); let m := fullMember; Serves s n 0x0708 c (depChk s n c) ∧ memberOf s c.part (c.arg 4 4) = some m) ∧
    (let n := 1; let c := cmdOf 0x0801 1 (argBytes 48 [(2, 256), (4, 32), (6, 0x0B), (8, 16), (12, 8), (16, 1), (20, 1)]); let s := served n c ({ State.reset with store := { State.reset.store with flash := State.reset.store.flash.setIfInBounds 0 { censusDone := true, usable := 1000 } }, parts := { State.reset.parts with live := [(0, part0)] } }); let x := indexOf c; let k := 65536; Serves s n 0x0801 c { partChk s n c with ready := cellsReady s (maskCells (c.arg 20 4)) && censusReady s (maskCells (c.arg 16 4)) } ∧ x = indexOf c ∧ x.cap ≠ 0 ∧ x.ok s = true ∧ idxOf s c.part x.num = none ∧ placeFits x s = true ∧ ((∀ y ∈ x.partsOf, (x.partAlloc y).extent ≤ k)) ∧ (s.store.allocs.map (fun x => x.2.extent)).sum + (s.store.allocs.length + 2 * x.partsOf.length) * k ≤ 2 ^ 48) ∧
    (let n := 1; let c := cmdOf 0x0802 1 (argBytes 48 []); let s := served n c (scanOp); let x := anIndex; Serves s n 0x0802 c (idxChk s n c) ∧ idxOf s c.part (c.arg 1 1) = some x ∧ x.holds = [] ∧ s.eng.ops.any (fun o => o.2.kind = .assay && o.2.st != .queued && o.2.part = c.part && fld o.2.desc 32 1 = x.num) = false) ∧
    (let n := 1; let c := cmdOf 0x0803 2 (argBytes 48 [(4, 1), (8, 0x0FFF000000008000)]); let s := served n c (scanOp); let x := anIndex; let t := (batchGo (insertOne c) (List.range (c.arg 4 4)) s).2; Serves s n 0x0803 c (idxChk s n c) ∧ idxOf s c.part (c.arg 1 1) = some x ∧ c.arg 4 4 ≠ 0 ∧ batchGo (insertOne c) (List.range (c.arg 4 4)) s = (none, t)) ∧
    (let n := 1; let c := cmdOf 0x0804 2 (argBytes 48 [(4, 1), (8, 0x0FFF000000008000)]); let s := served n c ({ scanOp with store := { scanOp.store with mem := putByte 32768 7 scanOp.store.mem } }); let x := anIndex; let t := (batchGo (deleteOne c) (List.range (c.arg 4 4)) s).2; Serves s n 0x0804 c (idxChk s n c) ∧ idxOf s c.part (c.arg 1 1) = some x ∧ c.arg 4 4 ≠ 0 ∧ batchGo (deleteOne c) (List.range (c.arg 4 4)) s = (none, t)) ∧
    (let n := 1; let c := cmdOf 0x0805 2 (argBytes 48 [(4, 1), (8, 0x0FFF000000008000)]); let s := served n c (scanOp); let x := anIndex; let t := (batchGo (linkOne c) (List.range (c.arg 4 4)) s).2; Serves s n 0x0805 c (idxChk s n c) ∧ idxOf s c.part (c.arg 1 1) = some x ∧ c.arg 4 4 ≠ 0 ∧ batchGo (linkOne c) (List.range (c.arg 4 4)) s = (none, t)) ∧
    (let n := 1; let c := cmdOf 0x0806 1 (argBytes 48 []); let s := served n c (scanOp); let x := anIndex; Serves s n 0x0806 c (idxChk s n c) ∧ idxOf s c.part (c.arg 1 1) = some x ∧ x.version + 1 ≠ ones48) ∧
    (let n := 1; let c := cmdOf 0x0807 1 (argBytes 48 [(8, 1)]); let s := served n c (scanOp); let x := anIndex; Serves s n 0x0807 c (idxChk s n c) ∧ idxOf s c.part (c.arg 1 1) = some x ∧ x.holds.length < 16 ∧ idxFloor s x ≤ c.arg 8 6 ∧ c.arg 8 6 ≤ x.version) ∧
    (let n := 1; let c := cmdOf 0x0808 1 (argBytes 48 [(8, 1)]); let s := served n c ({ scanOp with idx := [(idxKey 0 0, { anIndex with holds := [1] })] }); let x : Index := { anIndex with holds := [1] }; Serves s n 0x0808 c (idxChk s n c) ∧ idxOf s c.part (c.arg 1 1) = some x ∧ x.holds.contains (c.arg 8 6) = true) ∧
    (let n := 1; let c := cmdOf 0x0809 1 (argBytes 48 []); let s := served n c (scanOp); let x := anIndex; Serves s n 0x0809 c (idxChk s n c) ∧ idxOf s c.part (c.arg 1 1) = some x) := by
  refine ⟨?_, ?_, ?_, ?_, ?_, ?_, ?_, ?_, ?_, ?_, ?_, ?_, ?_, ?_, ?_, ?_, ?_, ?_, ?_⟩
  · (try unfold Serves) <;> (try unfold State.runs) <;> decide +kernel
  · (try unfold Serves) <;> (try unfold State.runs) <;> decide +kernel
  · (try unfold Serves) <;> (try unfold State.runs) <;> decide +kernel
  · refine ⟨⟨rfl, by decide +kernel, by decide +kernel, by decide +kernel⟩, by decide +kernel, ?_, by decide +kernel⟩
    rw [List.any_eq_false]
    intro v hv
    obtain ⟨i, hi, rfl⟩ := List.mem_map.mp hv
    rw [slotMap_arg (List.mem_range.mp hi)]
    decide
  · (try unfold Serves) <;> (try unfold State.runs) <;> decide +kernel
  · (try unfold Serves) <;> (try unfold State.runs) <;> decide +kernel
  · (try unfold Serves) <;> (try unfold State.runs) <;> decide +kernel
  · (try unfold Serves) <;> (try unfold State.runs) <;> decide +kernel
  · (try unfold Serves) <;> (try unfold State.runs) <;> decide +kernel
  · (try unfold Serves) <;> (try unfold State.runs) <;> decide +kernel
  · (try unfold Serves) <;> (try unfold State.runs) <;> decide +kernel
  · (try unfold Serves) <;> (try unfold State.runs) <;> decide +kernel
  · (try unfold Serves) <;> (try unfold State.runs) <;> decide +kernel
  · (try unfold Serves) <;> (try unfold State.runs) <;> decide +kernel
  · (try unfold Serves) <;> (try unfold State.runs) <;> decide +kernel
  · (try unfold Serves) <;> (try unfold State.runs) <;> decide +kernel
  · (try unfold Serves) <;> (try unfold State.runs) <;> decide +kernel
  · (try unfold Serves) <;> (try unfold State.runs) <;> decide +kernel
  · (try unfold Serves) <;> (try unfold State.runs) <;> decide +kernel

def aTable : FrbTable := { w := 2, cb := [], scale := [], image := [] }
/-- A state that holds a table set 3 and a stream 0 that names it. -/
def frbed : State :=
  { inMotion with
    car := { inMotion.car with
      tables := [(frbTableKey 0 3, aTable)]
      frb := [(frbKey 0 0, { port := 0, sfmt := 0, table := 3, base := 0, length := 1024, ef := false, resid := none })] } }
/-- A state whose store begins with a table set of width 2: codes -1, -1/2, 1/2, 1 and the 256 least scales. -/
def tableImage : List Byte :=
  leBytes 4 0x31425246 ++ leBytes 4 3 ++ leBytes 56 2 ++ leBytes 4 0xBF800000 ++ leBytes 4 0xBF000000 ++ leBytes 4 0x3F000000
    ++ leBytes 4 0x3F800000 ++ (List.range 256).flatMap (fun i => leBytes 4 (i + 1))
def tabled : State := { inMotion with store := { inMotion.store with mem := putBytes 0 tableImage [] } }
theorem tableImage_length : tableImage.length = 1104 := by
  have h : ∀ l : List Nat, (l.flatMap (fun i => leBytes 4 (i + 1))).length = 4 * l.length := by
    intro l; induction l with
    | nil => rfl
    | cons a l ih => rw [List.flatMap_cons, List.length_append, ih, length_leBytes, List.length_cons]; omega
  unfold tableImage
  simp only [List.length_append, length_leBytes, h, List.length_range]
theorem tableImage_parse : frbParse tableImage = some (3, (((frbParse tableImage).getD (0, aTable)).2)) := by
  have h : (frbParse tableImage).map Prod.fst = some 3 := by decide +kernel
  revert h
  generalize frbParse tableImage = o
  intro h
  cases o with
  | none => cases h
  | some x =>
    obtain ⟨a, b⟩ := x
    cases h
    rfl
/-- Bytes put at offset 0 of placed data read back. -/
theorem stored_take (s : State) (img : List Byte) (n : Nat) (hm : s.store.mem = putBytes 0 img []) (hn : img.length ≤ n)
    (hc : ∀ a, a < img.length → content s a = a) : (storeBytes s 0 n).take img.length = img := by
  have h2 : bytesAt (putBytes 0 img []) 0 img.length = img := bytesAt_putBytes (by decide)
  refine Eq.trans ?_ h2
  unfold storeBytes bytesAt span
  rw [← List.map_take, ← List.map_take, List.take_range, Nat.min_eq_left hn]
  refine List.map_congr_left (fun a ha => ?_)
  obtain ⟨k, hk, rfl⟩ := List.mem_map.mp ha
  rw [hc _ (by have := List.mem_range.mp hk; omega), hm]
theorem content_placed (s : State) (a : Nat) (al : Alloc) (t : Tab Alloc) (hs : s.store.allocs = (0, al) :: t) (hr : al.region = none)
    (hz : al.size = 65536) (ha : a < 65536) : content s a = a := by
  have h : allocAt s a = some (0, al) := by
    unfold allocAt
    rw [hs]
    simp [hr, hz, ha]
  simp only [content, contentBlock, h, hr]
  omega
theorem sigSplit_take {l : List Byte} (h : l.length = 6544) : (sigSplit l).1 = l.take 1104 := by
  simp [sigSplit, List.drop_reverse, h, sigLen]
theorem storeBytes_length' (s : State) (a n : Nat) : (storeBytes s a n).length = n := by simp [storeBytes, span]
theorem tabled_bytes : (sigSplit (storeBytes (served 1 (cmdOf 0x0907 2 (argBytes 48 [(4, 6544), (8, 0x0FFF000000000000)])) tabled) 0 6544)).1 = tableImage := by
  rw [sigSplit_take (storeBytes_length' _ _ _)]
  have h := stored_take (served 1 (cmdOf 0x0907 2 (argBytes 48 [(4, 6544), (8, 0x0FFF000000000000)])) tabled) tableImage 6544 (by simp only [served, tabled])
    (by rw [tableImage_length]; decide) (fun a ha => content_placed _ a _ _ rfl rfl rfl (by rw [tableImage_length] at ha; omega))
  rw [tableImage_length] at h
  exact h
theorem witness_FabricCommandsComplete :
    (∃ devs : List Nat, let c := cmdOf 0x0901 1 (argBytes 560 [(0, 5), (48, 32)]); let s := served 21 c { inMotion with sync := { inMotion.sync with feMode := true }, parts := { inMotion.parts with live := [] } }; devs = (List.range 4096).filter (fun i => bit (((c.args.drop 48).take 512).getD (i / 8) 0).toNat (i % 8)) ∧ Serves s 21 0x0901 c { gen := some objStore } ∧ c.arg 0 2 ≤ 4094 ∧ bit (((c.args.drop 48).take 512).getD (c.arg 0 2 / 8) 0).toNat (c.arg 0 2 % 8) = true ∧ bit (((c.args.drop 48).take 512).getD (4095 / 8) 0).toNat (4095 % 8) = false ∧ (s.sync.feMode = true ∨ devs.length ≤ 8) ∧ (c.arg 0 2 = s.parts.devNo ∨ ((List.range 8).any (portActive s) = false ∧ s.parts.live = []))) ∧
    (∃ es : List Nat, let c := cmdOf 0x0902 1 (argBytes 48 []); let s := served 21 c inMotion; es = (List.range 4096).map (fun i => fld (c.args.drop 48) (4 * i) 4) ∧ Serves s 21 0x0902 c { gen := some objRoute } ∧ es.any (fun v => bitsOf v 30 12 != 0 || bitsOf v 7 3 != 0) = false) ∧
    (let n := 21; let c := cmdOf 0x0903 1 (argBytes 48 [(5, 4), (6, 1), (10, 10), (12, 4)]); let s := served n c (inMotion); Serves s n 0x0903 c { exist := decide (c.arg 1 1 < 8), gen := some (objPort (c.arg 1 1)), ready := s.rep.boot.ports.getLsbD (c.arg 1 1) } ∧ c.arg 3 1 ≤ 15 ∧ c.arg 4 1 ≤ 127 ∧ c.arg 8 2 ≤ 4095 ∧ 10 ≤ c.arg 10 2 ∧ c.arg 10 2 ≤ 200 ∧ 4 ≤ c.arg 12 1 ∧ c.arg 12 1 ≤ 64 ∧ 1 ≤ c.arg 6 1 ∧ c.arg 6 1 ≤ 9 ∧ 10 ^ c.arg 5 1 ≤ c.arg 6 1 * 10 ^ 6 ∧ c.arg 6 1 * 10 ^ 3 ≤ 10 ^ c.arg 5 1 ∧ portActive s (c.arg 1 1) = false ∨ c.arg 8 2 = (port s (c.arg 1 1)).cfg.sptag) ∧
    (let n := 21; let c := cmdOf 0x0904 1 (argBytes 48 [(1, 1)]); let s := served n c (inMotion); Serves s n 0x0904 c { ready := (cmdPorts c).all (fun p => s.rep.boot.ports.getLsbD p) } ∧ c.arg 2 1 = 0) ∧
    (let n := 21; let c := cmdOf 0x0904 1 (argBytes 48 [(1, 1), (2, 1)]); let s := served n c (inMotion); let p := 0; let t := updPort p (fun x => { x with cfg := { x.cfg with enable := true } }) s; let u := (if (port t p).st = .disabled || (port t p).st = .down then updPort p (fun x => { x with cause := 0 }) (enter p .detect t) else t); Serves s n 0x0904 c { ready := (cmdPorts c).all (fun p => s.rep.boot.ports.getLsbD p) } ∧ c.arg 2 1 = 1 ∧ cmdPorts c = [p] ∧ t = updPort p (fun x => { x with cfg := { x.cfg with enable := true } }) s ∧ u = (if (port t p).st = .disabled || (port t p).st = .down then updPort p (fun x => { x with cause := 0 }) (enter p .detect t) else t)) ∧
    (let n := 21; let c := cmdOf 0x0904 1 (argBytes 48 [(1, 1), (2, 2)]); let s := served n c (inMotion); let p := 0; let u := carsLost p .abortedFenced true (updPort p (fun x => { x with fenceLog := true, fenceAt := s.now }) s); Serves s n 0x0904 c { ready := (cmdPorts c).all (fun p => s.rep.boot.ports.getLsbD p) } ∧ c.arg 2 1 = 2 ∧ cmdPorts c = [p] ∧ (port s p).fenceLog = false ∧ u = carsLost p .abortedFenced true (updPort p (fun x => { x with fenceLog := true, fenceAt := s.now }) s)) ∧
    (let n := 21; let c := cmdOf 0x0904 1 (argBytes 48 [(1, 1), (2, 3)]); let s := served n c ((training (fun x => { x with st := .fenced }))); let p := 0; let u := updPort p (fun x => { x with fenceLog := false, fenceElec := false }) (enter p .detect s); Serves s n 0x0904 c { ready := (cmdPorts c).all (fun p => s.rep.boot.ports.getLsbD p) } ∧ c.arg 2 1 = 3 ∧ cmdPorts c = [p] ∧ (port s p).st = .fenced ∧ u = updPort p (fun x => { x with fenceLog := false, fenceElec := false }) (enter p .detect s)) ∧
    (let n := 21; let c := cmdOf 0x0905 1 (argBytes 48 [(1, 1)]); let s := served n c (inMotion); Serves s n 0x0905 c { gen := some objSyncMode } ∧ c.arg 1 1 = 1 ∨ (c.arg 1 1 = 0 ∧ s.parts.assigned.length ≤ 8)) ∧
    (let n := 21; let c := cmdOf 0x0906 1 (argBytes 48 [(4, 10), (8, 100)]); let s := served n c (inMotion); Serves s n 0x0906 c { gen := some objTimers } ∧ 10 ≤ c.arg 4 4 ∧ c.arg 4 4 ≤ 100000 ∧ 100 ≤ c.arg 8 4 ∧ c.arg 8 4 ≤ 1000000) ∧
    (let c := cmdOf 0x0907 2 (argBytes 48 [(4, 6544), (8, 0x0FFF000000000000)]); let s := served 1 c tabled; ∃ (obj : List Byte) (i : Nat) (t : FrbTable), Serves s 1 0x0907 c (partChk s 1 c) ∧ c.arg 4 4 ≠ 0 ∧ imageBad s c.ctx (c.arg 8 8) (c.arg 4 4) = none ∧ obj = storeBytes s (saOff (c.arg 8 8)) (c.arg 4 4) ∧ tget (frbTableKey c.part (fld (sigSplit obj).1 4 4)) s.car.tables = none ∧ frbParse (sigSplit obj).1 = some (i, t) ∧ frbHeld s c.part < 16) ∧
    (let n := 1; let c := cmdOf 0x0908 1 (argBytes 48 [(4, 3)]); let s := served n c ({ inMotion with car := { inMotion.car with tables := [(frbTableKey 0 3, aTable)] } }); Serves s n 0x0908 c { partChk s n c with exist := (partOf s c.part).isSome && (tget (frbTableKey c.part (c.arg 4 4)) s.car.tables).isSome } ∧ s.car.frb.any (fun x => x.1 / 64 = c.part && x.2.table = c.arg 4 4) = false) ∧
    (let n := 1; let c := cmdOf 0x0909 1 (argBytes 48 [(4, 3), (8, 0x0FFF000000000000), (16, 1024)]); let s := served n c ({ inMotion with stg := { inMotion.stg with toll := [(5, 0)] }, car := { inMotion.car with tables := [(frbTableKey 0 3, aTable)] } }); let es := frbEs (c.arg 3 1); let base := saOff (c.arg 8 8); let t := frbDrop c.part (c.arg 1 1) s; Serves s n 0x0909 c { partChk s n c with gen := some (objFrb c.part (c.arg 1 1)), ready := decide (7 < c.arg 2 1) || s.rep.boot.ports.getLsbD (c.arg 2 1) } ∧ es = frbEs (c.arg 3 1) ∧ base = saOff (c.arg 8 8) ∧ c.arg 16 8 ≠ 0 ∧ c.arg 1 1 ≤ 63 ∧ c.arg 2 1 ≤ 7 ∧ c.arg 3 1 ≤ 1 ∧ c.arg 24 1 = 0 ∧ holdsSlot s c.part (c.arg 2 1) = true ∧ (tget (frbTableKey c.part (c.arg 4 4)) s.car.tables).isSome = true ∧ ownStore s (c.arg 8 8) = true ∧ base % (256 * es) = 0 ∧ c.arg 16 8 % (256 * es) = 0 ∧ base + c.arg 16 8 ≤ 2 ^ 48 ∧ s.car.frb.any (fun x => x.1 / 64 = c.part && x.1 != frbKey c.part (c.arg 1 1) && decide (x.2.base < base + c.arg 16 8) && decide (base < x.2.base + x.2.length)) = false ∧ frbBusy s c.part (c.arg 1 1) = false ∧ t = frbDrop c.part (c.arg 1 1) s) ∧
    (let n := 1; let c := cmdOf 0x090A 1 (argBytes 48 []); let s := served n c (frbed); Serves s n 0x090A c (frbChk s n c) ∧ frbBusy s c.part (c.arg 1 1) = false) ∧
    (let n := 1; let c := cmdOf 0x090B 1 (argBytes 48 []); let s := served n c (frbed); Serves s n 0x090B c (frbChk s n c) ∧ frbBusy s c.part (c.arg 1 1) = false) := by
  refine ⟨?_, ?_, ?_, ?_, ?_, ?_, ?_, ?_, ?_, ?_, ?_, ?_, ?_, ?_⟩
  · exact ⟨_, rfl, by unfold Serves; decide +kernel, by decide +kernel, by decide +kernel, by decide +kernel, .inl (by decide +kernel), .inr (by decide +kernel)⟩
  · refine ⟨_, rfl, by unfold Serves; decide +kernel, ?_⟩
    rw [List.any_eq_false]
    intro v hv
    obtain ⟨i, -, rfl⟩ := List.mem_map.mp hv
    have e : (cmdOf 0x0902 1 (argBytes 48 [])).args.drop 48 = [] := by decide
    rw [e]
    simp [fld, leNat, bitsOf]
  · (try unfold Serves) <;> decide +kernel
  · (try unfold Serves) <;> decide +kernel
  · (try unfold Serves) <;> decide +kernel
  · (try unfold Serves) <;> decide +kernel
  · (try unfold Serves) <;> decide +kernel
  · (try unfold Serves) <;> decide +kernel
  · (try unfold Serves) <;> decide +kernel
  · refine ⟨_, 3, ((frbParse tableImage).getD (0, aTable)).2, by unfold Serves; decide +kernel, by decide +kernel, by decide +kernel, rfl, ?_, ?_, by decide +kernel⟩
    · rfl
    · have h1 : (cmdOf 0x0907 2 (argBytes 48 [(4, 6544), (8, 0x0FFF000000000000)])).arg 4 4 = 6544 := by decide +kernel
      have h2 : saOff ((cmdOf 0x0907 2 (argBytes 48 [(4, 6544), (8, 0x0FFF000000000000)])).arg 8 8) = 0 := by decide +kernel
      rw [h1, h2]
      exact (congrArg frbParse tabled_bytes).trans tableImage_parse
  · (try unfold Serves) <;> decide +kernel
  · (try unfold Serves) <;> decide +kernel
  · (try unfold Serves) <;> decide +kernel
  · (try unfold Serves) <;> decide +kernel

theorem padTo_length (n : Nat) (l : List Byte) : (padTo n l).length = n := by
  simp [padTo]; omega
theorem sigBlock_length (b : List Byte) : (sigBlock b).length = 5440 := by
  simp only [sigBlock, List.length_append, length_leBytes, padTo_length, List.length_replicate, List.length_cons, List.length_nil]
theorem attestReport_length (s : State) (p : Nat) (x : List Byte) :
    (attestReport s p x).length = 128 + 64 * (measures s p).length + 5440 := by
  have h : ∀ (k : Nat) (l : List (Nat × Nat × Nat)), (((List.range' k l.length).zip l).flatMap (fun x =>
      leBytes 1 x.2.1 ++ leBytes 3 0 ++ leBytes 4 x.1 ++ leBytes 8 x.2.2.1 ++ leBytes 48 x.2.2.2)).length = 64 * l.length := by
    intro k l
    induction l generalizing k with
    | nil => rfl
    | cons a l ih => simp only [List.length_cons, List.range'_succ, List.zip_cons_cons, List.flatMap_cons, List.length_append, length_leBytes, ih]; omega
  have h' := h 0 (measures s p)
  rw [← List.range_eq_range'] at h'
  simp only [attestReport, List.length_append, length_leBytes, padTo_length, sigBlock_length, h', List.length_cons, List.length_nil]
theorem sealBlob_length (s : State) (p : Nat) (x : Part) (d : Nat) : (sealBlob s p x d).length = 6720 := by
  simp [sealBlob, sealHead, padTo_length, sigBlock_length]
/-- An image of an empty content and its signature block. -/
def fwImage : List Byte := List.replicate 5440 0
def imageArgs : List Byte := leBytes 8 (5440 * 2 ^ 32) ++ leBytes 48 (Config.sha384 fwImage)
theorem imageArgs_digest : (cmdOf 0x0A03 1 imageArgs).arg 8 48 = Config.sha384 fwImage := by
  have h : (leBytes 8 (5440 * 2 ^ 32)).length = 8 := length_leBytes _ _
  have h3 : Config.sha384 fwImage < 256 ^ 48 := (Config.sha384Bits fwImage).isLt
  show leNat ((imageArgs.drop 8).take 48) = _
  rw [imageArgs, List.drop_left' h, List.take_of_length_le (by simp), leNat_leBytes, Nat.mod_eq_of_lt h3]
theorem imageArgs_length : (cmdOf 0x0A03 1 imageArgs).arg 4 4 = 5440 := by
  show leNat ((imageArgs.drop 4).take 4) = _
  rw [imageArgs, List.drop_append_of_le_length (by simp), List.take_append_of_le_length (by simp)]
  decide
theorem witness_SecurityAndServiceCommandsComplete :
    (let c := cmdOf 0x0A01 1 (argBytes 48 [(0, 0xFF), (4, 8192)]); let s := served 0 c inMotion; ∃ b : List Byte, b = attestReport s c.part ((c.args.drop 16).take 32) ∧ Serves s 0 0x0A01 c { partChk s 0 c with exist := c.part = 0xFF || (partOf s c.part).isSome, ready := s.rep.boot.ledger } ∧ b.length ≤ c.arg 4 4 ∧ bufferOk s 0 c.ctx (c.arg 8 8) b.length = true) ∧
    (let c := cmdOf 0x0A02 1 (argBytes 48 []); let s := served 0 c inMotion; ∃ b : List Byte, b = sealBlob s c.part part0 (draw s).1 ∧ Serves s 0 0x0A02 c (partChk s 0 c) ∧ partOf s c.part = some part0 ∧ b.length ≤ bufferRoom s 0 (c.arg 8 8) ∧ bufferOk s 0 c.ctx (c.arg 8 8) b.length = true) ∧
    (let c := cmdOf 0x0A03 1 imageArgs; let s := served 21 c { inMotion with pmp := { inMotion.pmp with image := [(0, fwImage)] }, rep := { inMotion.rep with counters := [(0, 0)] } }; Serves s 21 0x0A03 c {} ∧ fwImage = tgetD s.pmp.image c.session [] ∧ (fwImage.length = c.arg 4 4 ∧ sigLen ≤ fwImage.length ∧ fwImage.length ≤ 2 ^ 23) ∧ (rollback s 0 ≤ sgSvn (sigSplit fwImage).2 ∧ sgCounter (sigSplit fwImage).2 = 0) ∧ Config.sha384 fwImage = c.arg 8 48) ∧
    (let n := 1; let c := cmdOf 0x0A04 1 (argBytes 48 []); let s := served n c (inMotion); Serves s n 0x0A04 c (partChk s n c) ∧ (List.range 64).filter (fun k => (s.parts.keys.getD k {}).st = .free) ≠ []) ∧
    (let n := 1; let c := cmdOf 0x0A05 1 (argBytes 48 [(1, 5)]); let s := served n c ({ inMotion with parts := { inMotion.parts with keys := inMotion.parts.keys.setIfInBounds 5 { st := .issued, part := 0 } } }); Serves s n 0x0A05 c { exist := (partOf s c.part).isSome && decide (c.arg 1 1 < 64) && (s.parts.keys.getD (c.arg 1 1) {}).st != .free && (n != 0 || (s.parts.keys.getD (c.arg 1 1) {}).part = c.part), mine := c.part + 1 = n && (s.parts.keys.getD (c.arg 1 1) {}).part = c.part } ∧ (s.parts.keys.getD (c.arg 1 1) {}).st = .issued ∧ s.xlt.ctxs.any (fun x => x.2.keyslot = c.arg 1 1) = false) ∧
    (let n := 1; let c := cmdOf 0x0B01 1 (argBytes 48 [(1, 3), (2, 1)]); let s := served n c (inMotion); Serves s n 0x0B01 c { partChk s n c with gen := some c.part, mgmt := [(objRetry c.part, some (c.arg 2 1) != (partOf s c.part).map Part.retryLimit)] } ∧ c.arg 1 1 ≤ ((partOf s c.part).map Part.shadowMax).getD 0 ∧ c.arg 2 1 ≤ 3) ∧
    (let n := 21; let c := cmdOf 0x0B02 1 (argBytes 48 [(1, 3)]); let s := served n c (inMotion); Serves s n 0x0B02 c { partChk s n c with gen := some c.part } ∧ c.arg 1 1 ≤ 16) ∧
    (let n := 21; let c := cmdOf 0x0B03 1 (argBytes 48 [(2, 0x3000)]); let s := served n c (inMotion); let k := UnitKind.porter; let u := c.arg 2 2; let t := testQueue (.phys u) true c.entry (updTested (.phys u) (fun r => { r with testing := true }) s); Serves s n 0x0B03 c { ready := s.rep.boot.ledger } ∧ u = c.arg 2 2 ∧ testOf s (.phys u) = none ∧ testKind u = some k ∧ t = testQueue (.phys u) true c.entry (updTested (.phys u) (fun r => { r with testing := true }) s)) ∧
    (let n := 21; let c := cmdOf 0x0B04 1 (argBytes 48 []); let s := served n c ({ inMotion with rep := { inMotion.rep with tests := [{ id := 0, unit := .phys 0x3000, mgmt := true, since := 0, cmd := [] }] } }); let t : SelfTest := { id := 0, unit := .phys 0x3000, mgmt := true, since := 0, cmd := [] }; Serves s n 0x0B04 c { exist := s.rep.tests.any (fun t => t.id = c.arg 0 4) } ∧ s.rep.tests.find? (fun t => t.id = c.arg 0 4) = some t) ∧
    (let n := 21; let c := cmdOf 0x0B05 1 (argBytes 48 [(2, 0x3000)]); let s := served n c ({ inMotion with eng := { inMotion.eng with units := [(0x3000, { quarantined := true, passed := true })] } }); let k := UnitKind.porter; let u := c.arg 2 2; Serves s n 0x0B05 c { ready := s.rep.boot.ledger } ∧ u = c.arg 2 2 ∧ s.rep.writes.any (fun w => w.mb = some n) = false ∧ testKind u = some k ∧ (tgetD s.eng.units u {}).quarantined = true ∧ (tgetD s.eng.units u {}).passed = true) ∧
    (let n := 0; let c := cmdOf 0x0B06 1 (argBytes 48 [(16, 1)]); let s := served n c (inMotion); let es := (s.rep.ledger.drop (c.arg 4 4)).take (c.arg 16 4); Serves s n 0x0B06 c { ready := s.rep.boot.ledger } ∧ es = (s.rep.ledger.drop (c.arg 4 4)).take (c.arg 16 4) ∧ 0 < c.arg 16 4 ∧ c.arg 16 4 ≤ 4096) ∧
    (let n := 21; let c := cmdOf 0x0B07 1 (argBytes 48 [(1, 3), (2, 1)]); let s := served n c (inMotion); Serves s n 0x0B07 c { gen := some objScrub } ∧ 1 ≤ c.arg 1 1 ∧ c.arg 1 1 ≤ 168 ∧ 1 ≤ c.arg 2 1 ∧ c.arg 2 1 ≤ 15) ∧
    (let n := 21; let c := cmdOf 0x0B08 1 (argBytes 48 [(4, 10000)]); let s := served n c (inMotion); Serves s n 0x0B08 c { gen := some objWdog } ∧ 10000 ≤ c.arg 4 4 ∧ c.arg 4 4 ≤ 60000000) ∧
    (let n := 21; let c := cmdOf 0x0C01 1 (argBytes 48 [(4, 2700), (6, 1200), (8, 960), (12, 640)]); let s := served n c (inMotion); Serves s n 0x0C01 c { gen := some objPower } ∧ freqOk (c.arg 4 2) = true ∧ freqOk (c.arg 6 2) = true ∧ c.arg 6 2 ≤ c.arg 4 2 ∧ 410 ≤ c.arg 8 4 ∧ c.arg 8 4 ≤ 960 ∧ 200 ≤ c.arg 12 4 ∧ c.arg 12 4 ≤ 640) ∧
    (let n := 1; let c := cmdOf 0x0C02 1 (argBytes 48 [(8, 1)]); let s := served n c (inMotion); Serves s n 0x0C02 c { partChk s n c with gen := some c.part, mine := c.part + 1 = n && (maskCells (c.arg 8 4)).all (fun i => (partCells s c.part).contains i) } ∧ c.arg 4 2 = 0 ∨ (s.pwr.fmin ≤ c.arg 4 2 ∧ c.arg 4 2 ≤ s.pwr.fmax ∧ c.arg 4 2 % 100 = 0)) ∧
    (let n := 21; let c := cmdOf 0x0C03 1 (argBytes 48 [(2, 1)]); let s := served n c (inMotion); Serves s n 0x0C03 c { exist := decide (c.arg 1 1 < 2), gen := some (objClkout (c.arg 1 1)) } ∧ c.arg 3 1 ≤ 10 ∧ c.arg 4 1 ≤ 6) ∧
    (let n := 21; let c := cmdOf 0x0C04 1 []; let s := served n c (inMotion); Serves s n 0x0C04 c {}) ∧
    (let n := 21; let c := cmdOf 0x0D01 1 []; let s := served n c (inMotion); Serves s n 0x0D01 c {}) ∧
    (let n := 21; let c := cmdOf 0x0D02 1 (argBytes 48 [(4, 64), (8, 0x1FFF000000000000)]); let s := served n c ({ State.reset with ras := { State.reset.ras with dbgUnlocked := true } }); let x := Sa.of (BitVec.ofNat 64 (c.arg 8 8)); Serves s n 0x0D02 c { exist := decide (c.arg 0 1 < 20) } ∧ x = Sa.of (BitVec.ofNat 64 (c.arg 8 8)) ∧ cellFree s (c.arg 0 1) = true ∧ s.ras.dbgUnlocked = true ∧ x.space = 1 ∧ isOwn s x.dev = true ∧ x.off / 2 ^ 26 < 20 ∧ cellFree s (x.off / 2 ^ 26) = true ∧ x.off % 2 ^ 26 + c.arg 4 4 ≤ spadBytes s (x.off / 2 ^ 26)) ∧
    (let n := 21; let c := cmdOf 0x0D03 1 []; let s := served n c (inMotion); Serves s n 0x0D03 c {}) := by
  refine ⟨?_, ?_, ?_, ?_, ?_, ?_, ?_, ?_, ?_, ?_, ?_, ?_, ?_, ?_, ?_, ?_, ?_, ?_, ?_, ?_⟩
  · refine ⟨_, rfl, by unfold Serves; decide +kernel, ?_, rfl⟩
    have h1 : (cmdOf 0x0A01 1 (argBytes 48 [(0, 0xFF), (4, 8192)])).arg 4 4 = 8192 := by decide +kernel
    have h2 : partOf (served 0 (cmdOf 0x0A01 1 (argBytes 48 [(0, 0xFF), (4, 8192)])) inMotion) (cmdOf 0x0A01 1 (argBytes 48 [(0, 0xFF), (4, 8192)])).part = none := by decide +kernel
    rw [h1, attestReport_length, measures, h2]
    decide
  · refine ⟨_, rfl, by unfold Serves; decide +kernel, by decide +kernel, ?_, rfl⟩
    rw [sealBlob_length]; decide
  · refine ⟨⟨rfl, rfl, by decide +kernel, by decide +kernel⟩, rfl, ⟨?_, ?_, ?_⟩, ⟨?_, ?_⟩, imageArgs_digest.symm⟩
    · rw [imageArgs_length]; exact List.length_replicate
    · rw [show fwImage.length = 5440 from List.length_replicate]; decide
    · rw [show fwImage.length = 5440 from List.length_replicate]; decide
    · exact Nat.zero_le _
    · decide +kernel
  · (try unfold Serves) <;> decide +kernel
  · (try unfold Serves) <;> decide +kernel
  · (try unfold Serves) <;> decide +kernel
  · (try unfold Serves) <;> decide +kernel
  · (try unfold Serves) <;> decide +kernel
  · (try unfold Serves) <;> decide +kernel
  · (try unfold Serves) <;> decide +kernel
  · (try unfold Serves) <;> decide +kernel
  · (try unfold Serves) <;> decide +kernel
  · (try unfold Serves) <;> decide +kernel
  · (try unfold Serves) <;> decide +kernel
  · (try unfold Serves) <;> decide +kernel
  · (try unfold Serves) <;> decide +kernel
  · (try unfold Serves) <;> decide +kernel
  · (try unfold Serves) <;> decide +kernel
  · (try unfold Serves) <;> decide +kernel
  · (try unfold Serves) <;> decide +kernel

/-- A state of bring-up: both resets released, the epoch drawn, standing in a phase. -/
def booting (ph : BootPhase) : State :=
  { State.reset with rep := { State.reset.rep with epoch := 1, boot := { State.reset.rep.boot with perst := false, resetN := false, phase := ph } } }
/-- A target that meets Table 3.6. -/
def aTarget : TargetPage := { good := true, uid := 5, main := 16384, spare := 1904, pages := 4, blocks := 1, luns := 1, planes := 1 }
/-- A read of placed data on flash in progress. -/
def flashRead : TierRead := { id := 0, place := .flash 0 [], req := { who := .migration, ctx := 1, off := 0, op := .rdNc, len := 64 }, since := 0 }
def aFlashRead : State := { inMotion with store := { inMotion.store with reads := [flashRead] } }
theorem witness_BringUpRowsComplete :
    (let s : State := booting .fuse; s.rep.epoch ≠ 0 ∧ s.inBoot .fuse) ∧
    (let s : State := { booting .rom with rep := { (booting .rom).rep with counters := [(0, 1)] } }; let i := 0; s.inBoot .rom ∧ i = (if s.rep.boot.fallback then 1 - s.rep.preferred else s.rep.preferred) ∧ rollback s 0 = 1) ∧
    (let s : State := booting .broadcast; let fails : List Nat := []; s.runs ∧ s.inBoot .broadcast) ∧
    (let s : State := booting .train; let w := 4; s.trains ∧ w ≤ 4 ∧ s.rep.boot.waves.contains w = false) ∧
    (let s : State := { booting .train with rep := { (booting .train).rep with boot := { (booting .train).rep.boot with waves := [4] } } }; let c := 19; let x : Stack := {}; s.trains ∧ c < 20 ∧ s.rep.boot.waves.contains (c % 5) = true ∧ x = s.store.stks.getD c {} ∧ x.ready = false ∧ x.failed = false ∧ x.attempts = 0) ∧
    (let s : State := { booting .run with rep := { (booting .run).rep with boot := { (booting .run).rep.boot with waves := [0] } }, store := { State.reset.store with stks := State.reset.store.stks.setIfInBounds 0 { attempts := 1 } } }; let c := 0; let x : Stack := { attempts := 1 }; s.trains ∧ c < 20 ∧ s.rep.boot.waves.contains (c % 5) = true ∧ x = s.store.stks.getD c {} ∧ x.ready = false ∧ x.failed = false ∧ x.attempts ≠ 0) ∧
    (let s : State := { booting .train with rep := { (booting .train).rep with boot := { (booting .train).rep.boot with ledger := true } }, store := { State.reset.store with stks := State.reset.store.stks.setIfInBounds 19 { ready := true } } }; let c := 19; s.trains ∧ c < 20 ∧ (s.store.stks.getD c {}).ready = true ∧ s.rep.boot.ledger = true) ∧
    (let s : State := booting .train; let p := 7; let okay := true; s.trains ∧ p < 8 ∧ s.rep.boot.ports.getLsbD p = false ∧ s.rep.boot.portsFailed.getLsbD p = false) ∧
    (let s : State := booting .run; let p := 0; let okay := false; s.trains ∧ p < 8 ∧ s.rep.boot.ports.getLsbD p = false ∧ s.rep.boot.portsFailed.getLsbD p = false) ∧
    (let s : State := { booting .train with rep := { (booting .train).rep with boot := { (booting .train).rep.boot with cp := true } } }; let p := 1; released s = true ∧ (s.rep.boot.phase = .train ∨ s.rep.boot.phase = .run) ∧ p < 2 ∧ cpRuns s = true) ∧
    (let s : State := { booting .train with rep := { (booting .train).rep with ledger := [{ type := 0x0A, cause := 7, cell := 19, target := 0, detail := 5 }] } }; let ch := 19; let g := 0; let f : Flash := {}; let t : TargetPage := { good := true, uid := 5, main := 16384, spare := 1904, pages := 4, blocks := 1, luns := 1, planes := 1 }; s.trains ∧ ch < 20 ∧ g = tgetD s.rep.boot.census ch 0 ∧ f = s.store.flash.getD ch {} ∧ f.censusDone = false ∧ tget ch s.rep.boot.scan = none ∧ targetFit t = true ∧ f.geometry.getD (targetGeo t) = targetGeo t ∧ targetKnown s ch g t = true ∧ targetKnown s ch g { t with uid := 6 } = false ∧ targetFit { t with good := false } = false) ∧
    (let s : State := { booting .train with rep := { (booting .train).rep with boot := { (booting .train).rep.boot with scan := [(3, aTarget)] } } }; let ch := 3; let g := 0; let bad : List Nat := [1]; let t := aTarget; s.trains ∧ tget ch s.rep.boot.scan = some t ∧ g = tgetD s.rep.boot.census ch 0) ∧
    (let s : State := { booting .run with store := { State.reset.store with flash := State.reset.store.flash.setIfInBounds 19 { censusDone := true, admitted := 1 } } }; let ch := 19; let blocks : List Nat := [70]; let f : Flash := { censusDone := true, admitted := 1 }; s.runs ∧ ch < 20 ∧ f = s.store.flash.getD ch {} ∧ f.censusDone = true ∧ f.admitted ≠ 0) ∧
    (let s : State := aFlashRead; let id := 0; let retried := 0; let ch := 0; let k : List Nat := []; let bad := true; let r := flashRead; let t : State := flashRetry ch 0 retried (cnt (fchReg ch 0x18) 1 (readStall r (dropRead id s))); let u : State := (if 0 < retried then cnt (cellReg ch 0x498) 1 t else t); s.runs ∧ tierRead s id = some r ∧ r.place = .flash ch k ∧ needsBlock r.req.op = false ∧ t = flashRetry ch 0 retried (cnt (fchReg ch 0x18) 1 (readStall r (dropRead id s))) ∧ u = (if 0 < retried then cnt (cellReg ch 0x498) 1 t else t)) ∧
    (let s : State := { booting .run with pmp := { State.reset.pmp with links := 3, sessions := [(0, { port := 1, key := 0, lastFrame := 0 })] } }; let p := 1; p < 2 ∧ s.pmp.links.getLsbD p = true) ∧
    (let s : State := { booting .run with rep := { (booting .run).rep with boot := { (booting .run).rep.boot with mgmt := 2 } } }; let p := 1; p < 2 ∧ s.rep.boot.mgmt.getLsbD p = true ∧ s.pwr.trip = none) := by
  refine ⟨?_, ?_, ?_, ?_, ?_, ?_, ?_, ?_, ?_, ?_, ?_, ?_, ?_, ?_, ?_, ?_⟩ <;> (try unfold Serves) <;> (try unfold State.runs) <;> (try unfold State.trains) <;> (try unfold State.inBoot) <;> (try unfold State.runs) <;> decide +kernel

/-- Management's port B is up, its control processor running. -/
def managed : State :=
  { inMotion with
    rep := { inMotion.rep with boot := { inMotion.rep.boot with perst := false, resetN := false, phase := .run, cp := true, mgmt := 2 } }
    pmp := { inMotion.pmp with links := 2 } }
/-- One channel keeps the ledger, an entry is to be written. -/
def ledgered (fail : Bool) : State :=
  { inMotion with
    store := { inMotion.store with flash := inMotion.store.flash.setIfInBounds 0 { admitted := 1 } }
    rep := { inMotion.rep with
      fail := fail, ledger := [{ type := 7, cause := 1 }], writes := [{ ent := { type := 2, cause := 1 }, since := 0, mb := some 21 }]
      boot := { inMotion.rep.boot with ledger := true } } }
def aTest (st : Nat) : SelfTest := { id := 0, unit := .phys 0x3000, mgmt := true, since := 0, cmd := [], state := st }
/-- A self-test of a porter queued or running. -/
def tested (st : Nat) : State := { inMotion with rep := { inMotion.rep with tests := [aTest st] } }
theorem witness_RepairClockAndPowerRowsComplete :
    (let s : State := { booting .train with rep := { (booting .train).rep with boot := { (booting .train).rep.boot with census := (List.range 20).map (fun i => (i, 1)) } } }; let held : List Nat := []; let t : State := { s with eng := { s.eng with units := s.eng.units.map (fun u => (u.1, { u.2 with quarantined := false })) } }; let u : State := (if (ledgerChannels s).any (fun c => held.contains c) then t.rep.ledger.foldl replayEntry t else evPlatform 4 0 0 (updRep (fun r => { r with ledger := [] }) t)); s.runs ∧ s.rep.boot.ledger = false ∧ firstTargets s = true ∧ t = { s with eng := { s.eng with units := s.eng.units.map (fun u => (u.1, { u.2 with quarantined := false })) } } ∧ u = (if (ledgerChannels s).any (fun c => held.contains c) then t.rep.ledger.foldl replayEntry t else evPlatform 4 0 0 (updRep (fun r => { r with ledger := [] }) t))) ∧
    (let s : State := ledgered false; let ok : List Nat := [0]; let took : List Nat := [0]; let x : LedWrite := { ent := { type := 2, cause := 1 }, since := 0, mb := some 21 }; let rest : List LedWrite := []; s.runs ∧ s.rep.boot.ledger = true ∧ s.rep.fail = false ∧ s.rep.writes = x :: rest ∧ took = (ledgerChannels s).filter (fun c => ok.contains c) ∧ took ≠ []) ∧
    (let s : State := ledgered false; let ok : List Nat := [1]; let took : List Nat := []; let x : LedWrite := { ent := { type := 2, cause := 1 }, since := 0, mb := some 21 }; let rest : List LedWrite := []; s.runs ∧ s.rep.boot.ledger = true ∧ s.rep.fail = false ∧ s.rep.writes = x :: rest ∧ took = (ledgerChannels s).filter (fun c => ok.contains c)) ∧
    (let s : State := ledgered true; let t : State := reachWall (10 ^ 9) s; let ok : List Nat := [0]; let took : List Nat := [0]; let x : LedWrite := { ent := { type := 2, cause := 1 }, since := 0, mb := some 21 }; let rest : List LedWrite := []; s.runs ∧ s.rep.boot.ledger = true ∧ s.rep.fail = true ∧ s.rep.writes = x :: rest ∧ t = reachWall (x.since + 10 ^ 9) s ∧ took = (ledgerChannels t).filter (fun c => ok.contains c) ∧ took ≠ []) ∧
    (let s : State := ledgered true; let t : State := reachWall (10 ^ 9) s; let ok : List Nat := [1]; let took : List Nat := []; let x : LedWrite := { ent := { type := 2, cause := 1 }, since := 0, mb := some 21 }; let rest : List LedWrite := []; s.runs ∧ s.rep.boot.ledger = true ∧ s.rep.fail = true ∧ s.rep.writes = x :: rest ∧ t = reachWall (x.since + 10 ^ 9) s ∧ took = (ledgerChannels t).filter (fun c => ok.contains c)) ∧
    (let s : State := ledgered false; let ok : List Nat := [0]; let took : List Nat := [0]; let es : List LedEnt := [{ type := 0x0C, cause := 0 }, { type := 7, cause := 1 }]; s.runs ∧ s.rep.boot.ledger = true ∧ s.rep.ledger ≠ [] ∧ took = (ledgerChannels s).filter (fun c => ok.contains c) ∧ took ≠ [] ∧ es = ({ type := 0x0C, cause := 0 } : LedEnt) :: inForce s.rep.ledger) ∧
    (let s : State := { managed with rep := { managed.rep with operator := [(3, 0)] } }; let p := 1; let slot := 3; let hash := 0; let usage := 3; pmpUp s p = true ∧ slot < 4 ∧ operatorSlot s slot = 0 ∧ 0 < usage ∧ usage < 4 ∧ hash < 2 ^ 384) ∧
    (let s : State := tested 0; let t : TestUnit := .phys 0x3000; let x : SelfTest := aTest 0; s.runs ∧ testWindow s t = true ∧ testOf s t = some x ∧ x.state = 0) ∧
    (let s : State := inMotion; let t : TestUnit := .phys 0x3013; let u : State := reachWall (testDue s t) s; s.runs ∧ testWindow s t = true ∧ testOf s t = none ∧ testable s t = true ∧ testWindow u t = true) ∧
    (let s : State := tested 1; let t : TestUnit := .phys 0x3000; let fail : Option Nat := some 1; let x : SelfTest := aTest 1; s.runs ∧ testOf s t = some x ∧ x.state = 1) ∧
    (let s : State := tested 0; let u := 0x3000; let c := 19; let b := 1023; let k := UnitKind.porter; let x : SelfTest := aTest 0; s.runs ∧ testOf s (.phys u) = some x ∧ x.state = 0 ∧ (tgetD s.eng.units u {}).starved = false ∧ testKind u = some k ∧ testOf s (.bank c b) = none ∧ c < 20 ∧ b < 1024 ∧ (tgetD s.eng.units (65536 + 2048 * c + b) {}).starved = false) ∧
    (∀ i ∈ [0, 1, 2, 3, 4], let s : State := { inMotion with clk := { inMotion.clk with stable := 0x1F } }; i < 5 ∧ s.clk.stable.getLsbD i = true ∧ tget i s.clk.lostAt = none) ∧
    (let s : State := { inMotion with clk := { inMotion.clk with lostAt := [(1, 0)] } }; let n := 1; let t := 0; let u : State := reachWall (t + stabilityNs n) s; let v : State := updClk (fun c => { c with stable := c.stable ||| (1#5 <<< n), lostAt := tdel n c.lostAt, lastLoss := (n, (u.wall - t) / 1000) }) u; tget n s.clk.lostAt = some t ∧ u = reachWall (t + stabilityNs n) s ∧ v = updClk (fun c => { c with stable := c.stable ||| (1#5 <<< n), lostAt := tdel n c.lostAt, lastLoss := (n, (u.wall - t) / 1000) }) u) ∧
    (let s : State := inMotion; let cells : List DvfsObs := [{ fit := 2700, power := 0 }]; let t : State := ((List.range 20).zip cells).foldl dvfsCell s; s.runs ∧ t = ((List.range 20).zip cells).foldl dvfsCell s) ∧
    (let s : State := inMotion; let cells : List Nat := [115]; let tiles : List Nat := []; let stks : List Nat := [105]; let t : State := sensed cells tiles stks s; s.pwr.trip = none ∧ t = sensed cells tiles stks s ∧ junctionTrip cells tiles = true ∧ stackTrip stks = true ∧ junctionTrip [114] [] = false ∧ stackTrip [104] = false) ∧
    (let s : State := inMotion; s.pwr.vaux = true) ∧
    (let s : State := inMotion; s.runs) ∧
    (let s : State := inMotion; i3cUp s = true) ∧
    (let s : State := inMotion; i3cUp s = true) ∧
    (let s : State := inMotion; s.pwr.trip = none ∧ s.pwr.vaux = true ∧ s.pwr.stale = false) ∧
    (∃ (gs ts : List Nat) (t u : State), let i := 339; let s := inMotion; s.runs ∧ (i < 340 ∧ (unitRec s .core i).quarantined = false) ∧ gs = (s.drv.groups.filter (fun g => g.2.phys = i && g.2.st != .queued)).map Prod.fst ∧ ts = (s.drv.threads.filter (fun t => gs.contains t.2.group)).map Prod.fst ∧ t = ts.foldl (fun s t => faultThread t .internal 0 false s) (evUnit 6 (unitField .core i) ((coreOf s i).getD 0xFFFF) (i / 17) s) ∧ u = (if (testOf t (.phys (unitField .core i))).any (fun x => x.state = 1) then updTested (.phys (unitField .core i)) (fun r => { r with testing := false, lastTest := t.wall }) (updTest (.phys (unitField .core i)) (fun x => { x with state := 3 }) t) else t)) := by
  refine ⟨?_, ?_, ?_, ?_, ?_, ?_, ?_, ?_, ?_, ?_, ?_, ?_, ?_, ?_, ?_, ?_, ?_, ?_, ?_, ?_, ?_⟩
  · (try unfold Serves) <;> (try unfold State.runs) <;> decide +kernel
  · (try unfold Serves) <;> (try unfold State.runs) <;> decide +kernel
  · (try unfold Serves) <;> (try unfold State.runs) <;> decide +kernel
  · (try unfold Serves) <;> (try unfold State.runs) <;> decide +kernel
  · (try unfold Serves) <;> (try unfold State.runs) <;> decide +kernel
  · (try unfold Serves) <;> (try unfold State.runs) <;> decide +kernel
  · (try unfold Serves) <;> (try unfold State.runs) <;> decide +kernel
  · (try unfold Serves) <;> (try unfold State.runs) <;> decide +kernel
  · (try unfold Serves) <;> (try unfold State.runs) <;> decide +kernel
  · (try unfold Serves) <;> (try unfold State.runs) <;> decide +kernel
  · (try unfold Serves) <;> (try unfold State.runs) <;> decide +kernel
  · decide +kernel
  · (try unfold Serves) <;> (try unfold State.runs) <;> decide +kernel
  · (try unfold Serves) <;> (try unfold State.runs) <;> decide +kernel
  · (try unfold Serves) <;> (try unfold State.runs) <;> decide +kernel
  · (try unfold Serves) <;> (try unfold State.runs) <;> decide +kernel
  · (try unfold Serves) <;> (try unfold State.runs) <;> decide +kernel
  · (try unfold Serves) <;> (try unfold State.runs) <;> decide +kernel
  · (try unfold Serves) <;> (try unfold State.runs) <;> decide +kernel
  · (try unfold Serves) <;> (try unfold State.runs) <;> decide +kernel
  · exact ⟨_, _, _, _, rfl, by decide +kernel, rfl, rfl, rfl, rfl⟩

def aSession : Session := { port := 1, key := 0, lastFrame := 0 }
/-- A session of port B stands open. -/
def inSession : State := { managed with pmp := { managed.pmp with sessions := [(0, aSession)] } }
theorem witness_FatalAndManagementLinkRowsComplete :
    (∃ t, let s := inMotion; let cause := 4; let loc := 19; s.runs ∧ (s.ras.fatal = none ∧ 1 ≤ cause ∧ cause ≤ 4) ∧ t = updBoot (fun b => { b with stage := false, xlt := false, ledger := false, ports := 0, cells := 0 }) (haltDead (rasPost 0x1007 4 0xFF (leBytes 1 cause ++ leBytes 1 loc) s))) ∧
    (let s : State := { inMotion with parts := { inMotion.parts with live := [(0, { part0 with evq := { part0.evq with unsignalled := true, lastSignal := some 0 } })] } }; let p := 0; let t := 0; let q : Evq := { part0.evq with unsignalled := true, lastSignal := some 0 }; s.runs ∧ (partOf s p).map Part.evq = some q ∧ q.unsignalled = true ∧ q.lastSignal = some t) ∧
    (let s : State := { inMotion with ras := { inMotion.ras with shadow := { enable := true, log2 := 12 } } }; let gen : BitVec 32 := 1; let w : RasCfg := { enable := true, log2 := 12 }; let r : RasCfg := {}; let moved := true; s.barOpen ∧ w = s.ras.shadow ∧ r = s.ras.run ∧ moved = (w.base != r.base || w.log2 != r.log2 || (w.enable && !r.enable)) ∧ gen = s.ras.gen + 1 ∧ 6 ≤ w.log2 ∧ w.log2 ≤ 12) ∧
    (let s : State := { inMotion with ras := { inMotion.ras with shadow := { enable := true, log2 := 13 } } }; let gen : BitVec 32 := 1; let w : RasCfg := { enable := true, log2 := 13 }; let r : RasCfg := {}; let moved := true; s.barOpen ∧ w = s.ras.shadow ∧ r = s.ras.run ∧ moved = (w.base != r.base || w.log2 != r.log2 || (w.enable && !r.enable)) ∧ gen = s.ras.gen + 1 ∧ 12 < w.log2) ∧
    (let s : State := inMotion; s.barOpen) ∧
    (let s : State := inMotion; let head := 63; s.barOpen) ∧
    (∃ (d : Nat) (ack : List Byte) (t : State), let s := managed; pmpUp s 1 = true ∧ ((List.replicate 15 0).length < 16) ∧ (d, t) = draw s ∧ ack = helloAck d ([] ++ leBytes 1 0)) ∧
    (let s : State := { managed with pmp := { managed.pmp with shakes := [(1, 0, [], 0)] } }; let p := 1; let block : List Byte := []; let x : Nat × Nat × List Byte × Nat := (1, 0, [], 0); let n := s.pmp.nextSession; pmpUp s p = true ∧ s.pmp.sessions.length < 4 ∧ n = s.pmp.nextSession ∧ s.pmp.shakes = [x] ∧ x.1 = p ∧ sgKeyIdx block = x.2.1) ∧
    (let s := inSession; let f : PmpFrame := { port := 1, good := true, session := 0, seq := 1024, payload := [1] }; let x := aSession; let t := framed f x s; let first := true; let got : Tab (List Byte) := [(0, [1])]; Framed s f x ∧ (f.frag < f.frags ∧ f.frags ≤ 4096) ∧ first = (x.frags.isEmpty || x.fragMsg != f.msg || x.fragTotal != f.frags) ∧ got = tput f.frag f.payload (if first then [] else x.frags) ∧ got.length = f.frags ∧ t = framed f x s) ∧
    (let s := inSession; let f : PmpFrame := { port := 1, good := true, session := 0, seq := 2 ^ 32 - 2 }; Framed s f aSession ∧ s.pwr.trip = none) ∧
    (let s : State := { managed with pmp := { managed.pmp with shakes := [(1, 0, [], 0)] } }; let p := 1; let x : Nat × Nat × List Byte × Nat := (1, 0, [], 0); s.pmp.shakes.find? (fun h => h.1 = p) = some x) ∧
    (let s : State := { managed with pmp := { managed.pmp with sessions := [(0, { aSession with frags := [(0, [])] })] } }; let n := 0; let x : Session := { aSession with frags := [(0, [])] }; tget n s.pmp.sessions = some x ∧ x.frags ≠ []) := by
  refine ⟨?_, ?_, ?_, ?_, ?_, ?_, ?_, ?_, ?_, ?_, ?_, ?_⟩
  · exact ⟨_, rfl, by decide +kernel, rfl⟩
  · (try unfold Serves) <;> (try unfold State.barOpen) <;> (try unfold State.runs) <;> decide +kernel
  · (try unfold Serves) <;> (try unfold State.barOpen) <;> (try unfold State.runs) <;> decide +kernel
  · (try unfold Serves) <;> (try unfold State.barOpen) <;> (try unfold State.runs) <;> decide +kernel
  · (try unfold Serves) <;> (try unfold State.barOpen) <;> (try unfold State.runs) <;> decide +kernel
  · (try unfold Serves) <;> (try unfold State.barOpen) <;> (try unfold State.runs) <;> decide +kernel
  · exact ⟨_, _, _, by decide +kernel, by decide, rfl, rfl⟩
  · (try unfold Serves) <;> (try unfold State.barOpen) <;> (try unfold State.runs) <;> decide +kernel
  · exact ⟨⟨by decide +kernel, rfl, rfl, by decide +kernel, by decide, by decide, by decide, by decide⟩, by decide, by decide, by decide, by decide, rfl⟩
  · exact ⟨⟨by decide +kernel, rfl, rfl, by decide +kernel, by decide, by decide, by decide, by decide⟩, by decide +kernel⟩
  · (try unfold Serves) <;> (try unfold State.barOpen) <;> (try unfold State.runs) <;> decide +kernel
  · (try unfold Serves) <;> (try unfold State.barOpen) <;> (try unfold State.runs) <;> decide +kernel

theorem witness_TestAccessRowsComplete :
    (let s : State := { inMotion with rep := { inMotion.rep with boot := { inMotion.rep.boot with resetN := true } } }; let pins : BitVec 2944 := 0; let next : BitVec 2944 := 0; let t : State := { s with tap := { s.tap with boundary := next } }; s.pwr.vaux = true ∧ t = { s with tap := { s.tap with boundary := next } } ∧ s.rep.boot.resetN = true ∧ s.pwr.trip = none) ∧
    (let s : State := { inMotion with rep := { inMotion.rep with boot := { inMotion.rep.boot with resetN := false } } }; let pins : BitVec 2944 := 0; let next : BitVec 2944 := 0; let t : State := { s with tap := { s.tap with boundary := next } }; s.pwr.vaux = true ∧ t = { s with tap := { s.tap with boundary := next } } ∧ s.rep.boot.resetN = false) := by
  refine ⟨?_, ?_⟩ <;> (try unfold Serves) <;> decide +kernel

/-- A sound state in which a step answers next: reset, with nothing waiting. -/
theorem witness_StepKeepsSound : ∃ s t : State, s.Sound ∧ step s = .next t :=
  ⟨State.reset, _, ⟨by decide, by decide⟩, rfl⟩

/-- A command that answers next, alone and in front of another. -/
theorem witness_ExecKeepsQueue : (∃ (c : Instr) (s t : State), exec c s = .next t) ∧
    (∃ (c : Instr) (rest : List Instr) (s t : State), s.pending = c :: rest ∧ step s = .next t) :=
  ⟨⟨.mbxHeartbeat, State.reset, _, rfl⟩, ⟨.mbxHeartbeat, [.xltInvAll], { State.reset with pending := [.mbxHeartbeat, .xltInvAll] }, _, rfl, rfl⟩⟩

/-- An empty queue, with the data path running and halted. -/
theorem witness_IdleTicks : (State.reset.pending = [] ∧ State.reset.halted = false) ∧
    (({ State.reset with halted := true } : State).pending = [] ∧ ({ State.reset with halted := true } : State).halted = true) := by
  decide

/-- A state with no trip, an assertion long enough and one too short. -/
theorem witness_FullResetLeaves : (State.reset.pwr.trip = none ∧ (1000 : Nat) ≤ 1000) ∧ (999 : Nat) < 1000 := by decide

theorem exec_branch_next (t : Nat) (w : BitVec 32) (s : State) : exec (.branch t w) s = .next (dp (branch t w) s) := rfl

/-- A running thread with words of the seven instructions, and a state after one of them. -/
theorem witness_ScalarInstructionsFrame :
    (fetchedB (word 8 0) [] .none = true ∧
      (wDefined (word 0 0) = true ∧ wDefined (word 1 0) = true ∧ wDefined (word 7 0) = true ∧ wDefined (word 8 0) = true ∧
        wDefined (word 0x0E 0) = true ∧ wDefined (word 0x0F 0) = true ∧ wDefined (word 0x21 1) = true) ∧
      aThread.pois (ra (word 8 0)) = false ∧ aThread.pois (rb (word 8 0)) = false) ∧
    (∃ u, exec (.branch 0 (word 8 0)) threaded = .next u) := by
  refine ⟨⟨by decide +kernel, ⟨?_, ?_, ?_, ?_, ?_, ?_, ?_⟩, by decide +kernel, by decide +kernel⟩, _, exec_branch_next _ _ _⟩ <;>
    decide +kernel

/-- Threads whose loads, stores and atomics reach the store and the scratchpad of this device. -/
theorem witness_MemoryInstructionsFrame :
    Fetched (addressed storeSa) 0 (word2 0x18 0) (addrThread storeSa) [.r 1, .r 2] .access ∧
    Fetched (addressed spadSa) 0 (word2 0x18 0) (addrThread spadSa) [.r 1, .r 2] .access ∧
    Fetched (addressed spadSa) 0 (word2 0x14 0) (addrThread spadSa) [.r 1, .r 2] .access ∧
    Fetched (addressed spadSa) 0 (word2 0x19 0) (addrThread spadSa) [.v 1, .r 2] .access ∧
    Fetched (addressed spadSa) 0 (word2 0x1A 0) (addrThread spadSa) [.v 1, .r 2] .access ∧
    (let x := addrThread spadSa
     let u := fun w => issuing 0 w (addressed spadSa)
     route (u (word2 0x18 0)) 0 { x with insn := word2 0x18 0 } (.store 8) (effAddr x (word2 0x18 0)) = .spad 64 ∧
     route (u (word2 0x14 0)) 0 { x with insn := word2 0x14 0 } (.load 8) (effAddr x (word2 0x14 0)) = .spad 64 ∧
     route (u (word2 0x19 0)) 0 { x with insn := word2 0x19 0 } .vload (effAddr x (word2 0x19 0)) = .spad 64 ∧
     route (u (word2 0x1A 0)) 0 { x with insn := word2 0x1A 0 } .vstore (effAddr x (word2 0x1A 0)) = .spad 64) := by
  refine ⟨fetchedA_spec ?_, fetchedA_spec ?_, fetchedA_spec ?_, fetchedA_spec ?_, fetchedA_spec ?_, ?_⟩ <;> decide +kernel

/-- `withMiss` with a walk that ends at a level-3 leaf without WRITE, a write that waits on it, and a TLB entry like it. -/
def roReq : VReq :=
  { req := { who := .port 0 0, ctx := 2, off := 0, op := .wrInv, len := 64 }, ingress := 0, page := 5, write := true, since := 0 }
def roEnt : TlbEnt := { tlb := 0, ctx := 2, gen := 0, level := 1, merged := false, page := 8, target := 0, write := false }
def roMiss : Miss := { aMiss .walk 0 with reqs := [roReq] }
def readOnly : State :=
  { withMiss .walk 0 with
    xlt := { (withMiss .walk 0).xlt with misses := [(7, roMiss)], tlb := [roEnt] },
    store := { (withMiss .walk 0).store with mem := [(65536, 0x01), (65537, 0x10), (65538, 0x01), (69632, 0x03)] } }
theorem witness_WriteNeedsTheWriteBit :
    (readOnly.halted = false ∧ admits readOnly 2 0 = true ∧ ((ctxOf readOnly 2).map Ctx.translate).getD false = true ∧
      needsBlock .wrInv = true ∧ tlbFind readOnly 0 2 ((32768#57).toNat / 4096) = some roEnt ∧ roEnt.write = false) ∧
    (tget 7 readOnly.xlt.misses = some roMiss ∧ roMiss.st = .walk ∧ ctxOf readOnly roMiss.ctx = some missCtx ∧ mirrorOk readOnly 0 = true ∧
      poisoned readOnly 0 = false ∧ roMiss.genFirst.getLsbD 0 = false ∧ mirrorGen readOnly missCtx = roMiss.genFirst ∧
      older roMiss.genFirst missCtx.lastGen = false ∧ walkFrom readOnly roMiss.page 4 missCtx.root = .leaf 3 69632 3 ∧ meWrite 3 = false ∧
      roMiss.reqs = [roReq] ∧ roReq.write = true) := by
  refine ⟨by decide +kernel, by decide +kernel⟩

/-- A state with an invalidation that a register started in progress. -/
def invBusyState : State :=
  { withCtx with
    parts := { withCtx.parts with live := [(0, part0)] }
    xlt := { withCtx.xlt with invs := [{ scope := 2, ctx := 0, gen := 0, page := 0, pages := 0, waits := [], started := true, mb := none }] } }
theorem witness_InvalidationWritesWhileBusy :
    (invBusyState.barOpen ∧ invBusy invBusyState = true) ∧
    (let c := cmdOf 0x0404 1 (argBytes 48 [(2, 2), (16, 1), (20, 6)])
     let s := served 1 c invBusyState
     Serves s 1 0x0404 c (ctxChk s 1 c) ∧ invBusy s = true ∧ ctxOf s (c.arg 2 2) = some ctx2 ∧
       invGenBad ctx2 (BitVec.ofNat 32 (c.arg 20 4)) = false ∧ c.arg 1 1 = 0 ∧ c.arg 16 4 ≠ 0) ∧
    (let c := cmdOf 0x0404 1 (argBytes 48 [(1, 1), (2, 2), (20, 6)])
     let s := served 1 c invBusyState
     Serves s 1 0x0404 c (ctxChk s 1 c) ∧ c.arg 1 1 = 1 ∧ invGenBad ctx2 (BitVec.ofNat 32 (c.arg 20 4)) = false) ∧
    (let c := cmdOf 0x0404 1 (argBytes 48 [(1, 2)])
     let s := served 0 c invBusyState
     Serves s 0 0x0404 c { ready := s.rep.boot.xlt } ∧ c.arg 1 1 = 2 ∧ s.xlt.invs.any (fun i => i.mb = some 0) = false) := by
  unfold State.barOpen Serves
  refine ⟨by decide +kernel, by decide +kernel, by decide +kernel, by decide +kernel⟩

/-- `inMotion` with two resident blocks, and somewhere to evict to. -/
def picking : State :=
  { inMotion with store := { inMotion.store with
      blocks := [(1, { alloc := 65536, st := .hbm, frame := some 0, age := 3 }), (2, { alloc := 65536, st := .hbm, frame := some 0, age := 5 })]
      exts := [(1, { part := 0, backing := true, pages := [], size := 65536, huge := false, cell := 0, ctx := 2, keyslot := 4 })] } }
theorem witness_PickerChoice : picking.halted = false ∧ (partCells picking 0).all (idleWindow picking) = true ∧
    part0.q < poolUsed picking 0 + evictReserve part0 ∧ partOf picking 0 = some part0 ∧ hasBacking picking 0 = true ∧
    (pick picking 0 (fun _ => true)).map Prod.fst = some 2 := by
  refine ⟨by decide +kernel, by decide +kernel, by decide +kernel, by decide +kernel, by decide +kernel, by decide +kernel⟩

/-- Fields at the top of their ranges. -/
theorem witness_StoreAddressRoundTrip : (15 : Nat) < 16 ∧ (4095 : Nat) < 4096 ∧ (2 ^ 48 - 1 : Nat) < 2 ^ 48 := by decide

/-- The largest pattern of each format that is not NaN. -/
theorem witness_NumberFormatsRoundTrip :
    ∀ x ∈ [(fp64, 0xFFF0000000000000), (fp32, 0xFF800000), (bf16, 0xFF80), (fp16, 0xFC00), (e4m3, 0xFE), (e5m2, 0xFC), (e3m2, 63), (e2m3, 63),
      (e2m1, 15)], x.2 < 2 ^ x.1.bits ∧ x.1.decode x.2 ≠ .nan := by decide +kernel

/-- A table set of width 2 and codes of that width. -/
theorem witness_CompressedBlockRoundTrip :
    (({ w := 2, cb := [], scale := [], image := [] } : FrbTable).w ∈ [2, 4, 8]) ∧ (List.replicate 256 (3 : Nat)).length = 256 ∧
      (∀ c ∈ List.replicate 256 (3 : Nat), c < 2 ^ 2) :=
  ⟨by decide, List.length_replicate, fun c h => by rw [List.eq_of_mem_replicate h]; decide⟩

theorem witness_TallyUpdateEffect :
    Fetched (addressed syncSa) 0 (word2 0x1D 0) (addrThread syncSa) [.r 1, .r 2, .r 0] .release ∧
    (let x := addrThread syncSa
     route (issuing 0 (word2 0x1D 0) (addressed syncSa)) 0 { x with insn := word2 0x1D 0 } .tally (x.read (.r 2)) = .sync 1 ∧
     tRsvdZero (BitVec.ofNat 64 (x.read (.r 0))) = true ∧ x.pois (.r 0) = false ∧ x.pois (.r 2) = false) := by
  refine ⟨fetchedA_spec ?_, ?_⟩ <;> decide +kernel

/-- A thread with register 2 poisoned, and one whose register 3 has a reserved bit of a tally operand set. -/
def poisonThr : Thread := { aThread with rp := 4 }
def badThr : Thread := { aThread with regs := aThread.regs.set 3 (BitVec.ofNat 64 (2 ^ 48)) }
def threadedBy (x : Thread) : State := { threaded with drv := { threaded.drv with threads := [(0, x)] } }
def fetchedT (x : Thread) (w : BitVec 32) (uses : List RegId) (o : Ord) : Bool :=
  !(threadedBy x).halted && thr (threadedBy x) 0 = some x && x.st = .running
    && fetchFault (threadedBy x) x = none && wDefined w && mayIssue (threadedBy x) 0 x uses o
theorem fetchedT_spec {x : Thread} {w : BitVec 32} {uses : List RegId} {o : Ord} (h : fetchedT x w uses o = true) :
    Fetched (threadedBy x) 0 w x uses o := by
  simp only [fetchedT, Bool.and_eq_true, Bool.not_eq_true', decide_eq_true_eq] at h
  exact ⟨h.1.1.1.1.1, h.1.1.1.1.2, h.1.1.1.2, h.1.1.2, h.1.2, h.2⟩

theorem witness_ThreadFaults :
    (∀ x ∈ [poisonThr, badThr], tget x.group (threadedBy x).drv.groups = some aGroup) ∧ aGroup.stopOnFault = false ∧
    Fetched (threadedBy poisonThr) 0 (word2 8 0) poisonThr [.r 1, .r 2] .none ∧ poisonThr.pois (rb (word2 8 0)) = true ∧
    Fetched (threadedBy poisonThr) 0 (word2 0x1D 0) poisonThr [.r 1, .r 2, .r 0] .release ∧
    Fetched (threadedBy badThr) 0 (word2 0x1D 6144) badThr [.r 1, .r 2, .r 3] .release ∧
    tRsvdZero (BitVec.ofNat 64 (badThr.read (rc (word2 0x1D 6144)))) = false := by
  refine ⟨?_, ?_, fetchedT_spec ?_, ?_, fetchedT_spec ?_, fetchedT_spec ?_, ?_⟩ <;> decide +kernel

/-- Word 1 with a waiter, and line 1 with a dirty copy. -/
theorem witness_OnChipErrors :
    (∃ d : Dirty, tget 1 ({ State.reset with coh := { State.reset.coh with dirty := [(1, { data := List.replicate 64 0, poison := false })] } } : State).coh.dirty = some d
      ∧ d.data.length = 64) ∧ memWf State.reset.store.mem = true ∧ tget 1 State.reset.coh.dirty = none :=
  ⟨⟨_, rfl, List.length_replicate ..⟩, by decide, rfl⟩

end Sys2Proof.Tests
end

/-! Flush, issue, launch, vector and group rows (07_drover_threads.md, R22 to R24). -/

namespace Sys2Proof.Machine

open Sys2Proof

/-! ### Rows of the running data path -/

/-- A row of the data path answers what its operation answers, while the data path runs. -/
theorem next_of_runs {s u : State} {f : State → State} (h : s.halted = false) (hf : f s = u) :
    (Host.Outcome.next (dp f s) : Host.Outcome State Fault Refusal) = .next u := by
  rw [dp_of_runs h, hf]

/-! ### What an issued instruction finds -/

@[simp] theorem read_noted (x : Thread) (w : BitVec 32) (r : RegId) : ({ x with insn := w } : Thread).read r = x.read r := rfl
@[simp] theorem pois_noted (x : Thread) (w : BitVec 32) (r : RegId) : ({ x with insn := w } : Thread).pois r = x.pois r := rfl

/-- `insn_of_fetched` for an instruction whose opcode condition has been shown to hold. -/
theorem insn_runs {s : State} {t : Nat} {w : BitVec 32} {x : Thread} {uses : List RegId} {o : Ord} {mine : Bool}
    (h : Fetched s t w x uses o) (hm : mine = true) (body : Thread → State → State) :
    insn t w mine uses o body s = body { x with insn := w } (issuing t w s) := by
  subst hm
  exact insn_of_fetched h body

/-! ### Issue and launch (R191, R197) -/

/-- An ISSUE or LAUNCH of a checked descriptor that its target does not refuse as busy acts, and its outcome goes to rd
and TS. -/
theorem handOver_of_checked {s : State} {t fn : Nat} {w : BitVec 32} {x : Thread} {r : Status × State}
    {go : State → Thread → Nat → Nat → Status × State} (h : Fetched s t w x [ra w, rb w, rc w] .release)
    (hop : wOp w = 0x20) (hfn : wFn w = fn) (hb : x.pois (rb w) = false) (hc : x.pois (rc w) = false)
    (hd : descFault (issuing t w s) { x with insn := w } (x.read (rb w)) = none)
    (hgo : go (issuing t w s) { x with insn := w } (Sa.of (BitVec.ofNat 64 (x.read (rb w)))).off (x.read (rc w)) = r)
    (hr : r.1 ≠ .busy) :
    handOver t w fn go s =
      result t (ra w) r.1.code false (updThr t (fun x => { x with ts := BitVec.ofNat 8 r.1.code }) r.2) := by
  unfold handOver
  rw [insn_runs h (by simp [hop, hfn])]
  simp only [read_noted, pois_noted, hb, hc, hd, hgo, hr, Bool.or_self, Bool.false_eq_true, if_false]

/-- A matrix unit of the partition with room in its queue takes an issued descriptor. -/
theorem issueOut_matrix {s : State} {p n off : Nat} {entry core : Option Nat} (hn : n < 40)
    (hcell : (partCells s p).contains (n / 2) = true) (hroom : queuedAt s .matrix n p < 64) :
    issueOut s p (0x2000 + n) off entry core = (.done, enqueue .matrix n p off 0 1 entry core false s) := by
  have hkind : (0x2000 + n) / 4096 = 2 := by omega
  have hunit : (0x2000 + n) % 4096 = n := by omega
  have hrange : ¬ 65536 ≤ 0x2000 + n := by omega
  simp only [issueOut, hkind, hunit, issueTo, hrange, Nat.not_le.mpr hn, hcell, Nat.not_le.mpr hroom, decide_true,
    decide_false, Bool.or_self, Bool.true_or, Bool.not_true, Bool.and_false, Bool.false_and, Bool.false_eq_true, if_true,
    if_false]

/-! ### Vector instructions (R183) -/

/-- A vector instruction of a defined type writes its result register, poisoned as its sources are. -/
theorem vecInsn_of_fetched {s : State} {t op : Nat} {w : BitVec 32} {x : Thread} {uses : List RegId} {f : Thread → Nat → Nat}
    (h : Fetched s t w x (.v (wVd w) :: uses) .none) (hop : wOp w = op) (hty : wType w ≠ 7) :
    vecInsn t w op uses f s = result t (.v (wVd w)) (f { x with insn := w } (Config.freeNat s.fresh)) (uses.any x.pois)
      { issuing t w s with fresh := s.fresh + 1 } := by
  unfold vecInsn
  rw [insn_runs h (by simp [hop]), if_neg hty]
  rfl

/-! ### Group starts (R193) -/

/-- The group at the head of a bound core's queue starts on the lowest free contexts. -/
theorem groupStart_starts {s : State} {core i : Nat} {g : Group}
    (hq : s.drv.groups.find? (fun x => x.2.core = core && x.2.st = .queued) = some (i, g))
    (hg : tget i s.drv.groups = some g) (hbound : s.drv.unbound.contains core = false) (hn : gThreads g.desc ≠ 0)
    (hdue : s.drv.due.contains core = false) (htest : (unitRec s .core (physOf s .core core)).testing = false)
    (hfree : gThreads g.desc ≤ (ctxFree s core).length) :
    tget i (groupStart core s).drv.groups = some { g with
      st := .running, phys := physOf s .core core
      threads := ((ctxFree s core).take (gThreads g.desc)).map (fun c => core * 64 + c) } ∧
    (groupStart core s).store = s.store := by
  have hroom : ¬ ((ctxFree s core).take (gThreads g.desc)).length < gThreads g.desc := by
    rw [List.length_take]; omega
  simp only [groupStart, hq, hbound, hn, hdue, htest, hroom, Bool.or_self, Bool.false_eq_true, if_false, updGrp_drv,
    updGrp_store, tupd, hg, tget_tput_self]
  exact ⟨rfl, trivial⟩

/-- Settles O11: each row acts once its checks pass, by the lemma of the operation it shares with its kin. -/
theorem issueVectorAndGroupRowsComplete : Obligations.IssueVectorAndGroupRowsComplete := by
  unfold Obligations.IssueVectorAndGroupRowsComplete
  refine ⟨?_, ?_, ?_, ?_, ?_, ?_, ?_, ?_, ?_, ?_⟩
  · -- FLUSH_RANGE
    rintro s _ t w x hop hfn hb hc hlen hspace hown h rfl
    refine next_of_runs h.1 ?_
    unfold flushRange
    rw [insn_runs h (by simp [hop, hfn])]
    simp [hb, hc, Nat.not_lt.mpr hlen, hspace, hown, devKnown, -Nat.reducePow]
  · -- ISYNC
    intro s t w x hop hfn h
    exact next_of_runs h.1 (insn_runs h (by simp [hop, hfn]) _)
  · -- ISSUE
    rintro s _ t n w x hop hfn hb hc h rfl hd hn hunit hcell hroom
    refine next_of_runs h.1 (handOver_of_checked (r := (.done, _)) h hop hfn hb hc hd ?_ Status.noConfusion)
    rw [hunit]
    exact issueOut_matrix hn hcell hroom
  · -- LAUNCH
    rintro s _ t n w x v hop hfn hb hc h rfl hd rfl hv hbusy
    exact next_of_runs h.1 (handOver_of_checked (r := (v.1.1, v.2)) h hop hfn hb hc hd (by rw [hv]) hbusy)
  · -- vector arithmetic
    intro s t w f x hop hty hf h
    refine next_of_runs h.1 ?_
    rw [if_neg hf, List.append_nil, vecInsn_of_fetched h hop hty]
    simp
  · -- vector conversion
    intro s t w f x hop hty hf h
    refine next_of_runs h.1 ?_
    rw [if_neg hf, vecInsn_of_fetched h hop hty]
    simp
  · -- vector reduction
    intro s t w f x hop hty hf h
    refine next_of_runs h.1 ?_
    rw [if_neg hf, List.append_nil, vecInsn_of_fetched h hop hty]
    simp
  · -- GROUP_START
    intro s core i g hrun hq hg hbound hn hdue htest hfree
    exact ⟨_, next_of_runs hrun rfl, groupStart_starts hq hg hbound hn hdue htest hfree⟩
  · -- GROUP_END
    intro s i g hrun hg hst
    refine next_of_runs hrun ?_
    simp [hg, hst]
  · -- UNIT_REBIND
    intro s l hrun hdue hidle htest
    refine next_of_runs hrun ?_
    simp only [unitRebind, hdue, hidle, htest, Option.isNone_none, Bool.and_self, Bool.false_and, Bool.false_eq_true,
      if_true, if_false]

end Sys2Proof.Machine

/-! Ledger, self-test, clock and power rows (19_bringup_repair.md, 20_clocks_power_thermal.md). -/

namespace Sys2Proof.Machine

open Sys2Proof

/-! ### The ledger (R474) -/

/-- The entry at the head of the queue lands in the channels that take it, and its mailbox is answered. -/
theorem ledgerTake_landed {s : State} {ok : List Nat} {x : LedWrite} {rest : List LedWrite} (hw : s.rep.writes = x :: rest)
    (htook : (ledgerChannels s).filter (fun c => ok.contains c) ≠ []) :
    ledgerTake ok s = testReports (x.mb.elim
      (ledgerLanded x rest ((ledgerChannels s).filter (fun c => ok.contains c)) s) (fun n => complete n 0 []
        (ledgerLanded x rest ((ledgerChannels s).filter (fun c => ok.contains c)) s))) := by
  have hsome : ((ledgerChannels s).filter (fun c => ok.contains c)).isEmpty = false := by simpa using htook
  simp only [ledgerTake, hw, hsome, Bool.false_eq_true, if_false]
  cases x.mb <;> rfl

/-- With no channel to take it, the entry stays at the head of the queue and LEDGER_FAIL is raised. -/
theorem ledgerTake_failed {s : State} {ok : List Nat} {x : LedWrite} {rest : List LedWrite} (hw : s.rep.writes = x :: rest)
    (htook : (ledgerChannels s).filter (fun c => ok.contains c) = []) :
    ledgerTake ok s = evPlatform 3 0 0 (updRep (fun r =>
      { r with fail := true, writes := { x with since := s.wall } :: rest }) s) := by
  simp only [ledgerTake, hw, htook, List.isEmpty_nil, if_true]

/-! ### Self-tests (R480) -/

/-- Which logical unit a physical one carries does not depend on the units' records or the wall clock. -/
theorem logicalOf_updTested_reachWall (k : UnitKind) (i n : Nat) (t : TestUnit) (f : UnitRec → UnitRec) (s : State) :
    logicalOf (updTested t f (reachWall n s)) k i = logicalOf s k i := by
  cases k <;> rfl

/-! ### Sensors (R499) -/

/-- What a sensor reading leaves for a cell's junction, its limit, and a stack's temperature. -/
theorem sensed_readings (cells tiles stks : List Nat) (s : State) (i : Fin 20) :
    (sensed cells tiles stks s).pwr.cells[i].tj = reading cells i ∧
    (sensed cells tiles stks s).pwr.cells[i].hot =
      (decide (100 ≤ reading cells i) || (s.pwr.cells[i].hot && decide (97 ≤ reading cells i))) ∧
    (sensed cells tiles stks s).store.stks[i].temp = (reading stks i : Int) := by
  refine ⟨?_, ?_, ?_⟩
  · simp [sensed]
  · simp [sensed, hyst]
  · simp [sensed]

/-- Settles O28: the ledger rows by the two outcomes of a write, the starved self-test and the sensors by what those updates
leave, every other row by running it under its conditions. -/
theorem repairClockAndPowerRowsComplete : Obligations.RepairClockAndPowerRowsComplete := by
  unfold Obligations.RepairClockAndPowerRowsComplete
  refine ⟨?_, ?_, ?_, ?_, ?_, ?_, ?_, ?_, ?_, ?_, ?_, ?_, ?_, ?_, ?_, ?_, ?_, ?_⟩
  · -- LEDGER_MERGE
    rintro s held _ _ hrun ⟨hled, htargets⟩ rfl rfl
    refine next_of_runs hrun ?_
    simp only [ledgerMerge, hled, htargets, Bool.not_true, Bool.or_self, Bool.false_eq_true, if_false, updRep_rep]
  · -- LEDGER_WRITE
    rintro s ok _ x rest hrun ⟨hled, hfail⟩ hw rfl
    have hgo : exec (.ledgerWrite ok) s = .next (ledgerTake ok s) := next_of_runs hrun (by simp [hled, hfail])
    exact ⟨fun h => hgo.trans (congrArg _ (ledgerTake_landed hw h)),
      fun h => hgo.trans (congrArg _ (ledgerTake_failed hw h))⟩
  · -- LEDGER_RETRY
    rintro s _ ok _ x rest hrun ⟨hled, hfail⟩ hw rfl rfl
    have hgo : exec (.ledgerRetry ok) s = .next (ledgerTake ok (reachWall (x.since + 10 ^ 9) s)) :=
      next_of_runs hrun (by simp [hled, hfail, hw])
    exact ⟨fun h => hgo.trans (congrArg _ (ledgerTake_landed hw h)),
      fun h => hgo.trans (congrArg _ (ledgerTake_failed hw h))⟩
  · -- LEDGER_COMPACT
    rintro s ok _ _ hrun ⟨hled, hne⟩ rfl htook rfl
    refine next_of_runs hrun ?_
    have hsome : ((ledgerChannels s).filter (fun c => ok.contains c)).isEmpty = false := by simpa using htook
    have hheld : s.rep.ledger.isEmpty = false := by simpa using hne
    simp only [ledgerCompact, hled, hheld, hsome, Bool.not_true, Bool.or_self, Bool.false_eq_true, if_false, List.length_map,
      List.length_zip, List.length_range, min_self]
  · -- ENROL
    rintro s p slot hash usage block hup ⟨hslot, hblank⟩ ⟨hlo, hhi, hhash⟩
    refine congrArg Host.Outcome.next ?_
    simp [enrol, hup, Nat.not_le.mpr hslot, hblank, Nat.pos_iff_ne_zero.mp hlo, Nat.not_le.mpr hhi, Nat.not_le.mpr hhash,
      -Nat.reducePow]
  · -- SELFTEST_RUN
    rintro s t _ hrun hwin
    refine ⟨fun x htest hst => next_of_runs hrun ?_, ?_⟩
    · simp [selftestRun, hwin, htest, hst]
    · rintro htest hable rfl hwin'
      refine next_of_runs hrun ?_
      simp [selftestRun, hwin, htest, hable, hwin', testQueue]
  · -- SELFTEST_DONE
    rintro s t fail x hrun ⟨htest, hst⟩
    refine next_of_runs hrun ?_
    simp [selftestDone, htest, hst]
  · -- SELFTEST_STARVED
    intro s u c b k hrun
    refine ⟨fun x htest hst hnot hk => next_of_runs hrun ?_, fun htest hc hb hnot => next_of_runs hrun ?_⟩
    · simp [selftestStarved, testKey, htest, hst, hnot, hk, logicalOf_updTested_reachWall]
    · simp [selftestStarved, testKey, testable, htest, hc, hb, hnot]
  · -- CLOCK_LOSS
    rintro s n t _ ⟨hn, hstable, hheld⟩ ⟨h0, h1, h2, h3, h4⟩ rfl
    refine congrArg Host.Outcome.next ?_
    interval_cases n
    · -- XTAL_IN
      obtain rfl := h0 rfl
      simp [clockLoss, hstable, hheld]
    · -- REFCLK_SYS, whose domains halt unless they stand still already
      obtain rfl := h1 rfl
      cases hdead : s.halted <;> simp [clockLoss, hstable, hheld, hdead]
    · -- REFCLK_PCIE
      obtain rfl := h2 rfl
      simp [clockLoss, hstable, hheld]
    · -- REFCLK_SER0
      obtain rfl := h3 rfl
      simp [clockLoss, hstable, hheld]
    · -- REFCLK_SER1
      obtain rfl := h4 rfl
      simp [clockLoss, hstable, hheld]
  · -- CLOCK_RESTART
    rintro s n t _ _ hlost rfl rfl
    refine congrArg Host.Outcome.next ?_
    simp only [clockRestart, hlost]
  · -- DVFS_INTERVAL
    rintro s cells pkg logic stks _ hrun rfl
    exact next_of_runs hrun rfl
  · -- SENSOR_READ
    rintro s cells tiles stks _ htrip rfl
    refine ⟨congrArg Host.Outcome.next ?_, sensed_readings cells tiles stks s⟩
    simp [sensorRead, htrip]
  · -- RAIL_FAULT
    intro s rail ns hvaux
    constructor <;> refine congrArg Host.Outcome.next ?_ <;> simp [railFault, hvaux]
  · -- VCORE_OVERCURRENT
    intro s overI hrun
    exact next_of_runs hrun rfl
  · -- COOL_INLET
    intro s v hup
    refine congrArg Host.Outcome.next ?_
    simp [coolInlet, hup]
  · -- COOL_FLOW
    intro s v hup
    refine congrArg Host.Outcome.next ?_
    simp [coolFlow, hup]
  · -- COOLANT_STALE
    rintro s ⟨htrip, hvaux⟩ hstale
    refine congrArg Host.Outcome.next ?_
    simp [coolantStale, htrip, hvaux, hstale]
  · -- CORE_UNCORRECTABLE_FAULT
    rintro s i _ _ _ _ hrun ⟨hi, hq⟩ rfl rfl rfl rfl
    refine next_of_runs hrun ?_
    simp only [coreFault, hq, Nat.not_le.mpr hi, decide_false, Bool.or_false]

end Sys2Proof.Machine

/-! Address spaces, translation, homes, and the allocation and fabric commands (02_address_spaces.md, R26 to R58). -/

namespace Sys2Proof.Machine

open Sys2Proof

/-! ### Rows of the host and of the mailboxes -/

/-- A row of a BAR write answers what its operation answers, while BAR accesses are decoded. -/
theorem next_of_barOpen {s u : State} {f : State → State} (h : s.barOpen) (hf : f s = u) :
    (Host.Outcome.next (barWrite f s) : Host.Outcome State Fault Refusal) = .next u := by
  obtain ⟨hd3, hlost, htrip⟩ := h
  simp [barWrite, hd3, hlost, htrip, hf]

/-- A catalogue row whose common checks pass answers what its body answers. -/
theorem next_of_serves {s u : State} {n op : Nat} {c : Cmd} {chk : State → Cmd → CChk} {body : Cmd → State → State}
    (h : Serves s n op c (chk s c)) (hb : body c s = u) :
    (Host.Outcome.next (catalogue n op chk body s) : Host.Outcome State Fault Refusal) = .next u := by
  rw [catalogue_of_serves h, hb]

/-- A row's own checks: the first that holds gives the status. -/
@[simp] theorem ownChecks_cons (b : Bool) (st : Nat) (l : List (Bool × Nat)) :
    ownChecks ((b, st) :: l) = if b then some st else ownChecks l := by
  cases b <;> rfl

@[simp] theorem ownChecks_nil : ownChecks [] = none := rfl

theorem ownChecks_skip {b : Bool} {st : Nat} {l : List (Bool × Nat)} (h : b = false) :
    ownChecks ((b, st) :: l) = ownChecks l := by
  simp [h]

/-! ### Store addresses (R26, Table 2.1) -/

/-- A bit string put before another is its number shifted by the other's width, plus the other's number. -/
theorem toNat_append_eq_add {n m : Nat} (x : BitVec n) (y : BitVec m) : (x ++ y).toNat = x.toNat * 2 ^ m + y.toNat := by
  rw [BitVec.toNat_append, ← Nat.shiftLeft_add_eq_or_of_lt y.isLt, Nat.shiftLeft_eq]

/-- The number a store address is, from its fields. -/
theorem saBits_toNat (x : Sa) :
    x.bits.toNat = (x.space % 16 * 2 ^ 12 + x.dev % 4096) * 2 ^ 48 + x.off % 2 ^ 48 := by
  simp only [Sa.bits, toNat_append_eq_add, BitVec.toNat_ofNat]

/-- The three fields of a store address, as quotients and remainders of the number it is. -/
theorem saOf_fields (a : BitVec 64) :
    (Sa.of a).space = a.toNat / 2 ^ 60 ∧ (Sa.of a).dev = a.toNat / 2 ^ 48 % 4096 ∧ (Sa.of a).off = a.toNat % 2 ^ 48 := by
  have hspace : a.toNat / 2 ^ 60 < 2 ^ 4 := by have := a.isLt; omega
  simp only [Sa.of, BitVec.extractLsb'_toNat, Nat.shiftRight_eq_div_pow, pow_zero, Nat.div_one]
  exact ⟨Nat.mod_eq_of_lt hspace, trivial, trivial⟩

/-- Settles O43: an address and its fields are the same number, in both directions. -/
theorem storeAddressRoundTrip : Obligations.StoreAddressRoundTrip := by
  unfold Obligations.StoreAddressRoundTrip
  refine ⟨fun a => ?_, fun x hspace hdev hoff => ?_, saOf_fields⟩
  · obtain ⟨hspace, hdev, hoff⟩ := saOf_fields a
    refine BitVec.eq_of_toNat_eq ?_
    rw [saBits_toNat, hspace, hdev, hoff]
    have := a.isLt
    omega
  · obtain ⟨hs, hd, ho⟩ := saOf_fields x.bits
    have hbits := saBits_toNat x
    rw [Nat.mod_eq_of_lt hspace, Nat.mod_eq_of_lt hdev, Nat.mod_eq_of_lt hoff] at hbits
    obtain ⟨space, dev, off⟩ := x
    rw [hbits] at hs hd ho
    rw [Sa.mk.injEq] at *
    simp only at *
    omega

/-! ### Invalidations (R46, R47, R57) -/

/-- What the firmware queues while a register-started invalidation is in progress goes behind those there. -/
theorem invQueue_of_busy {s : State} (h : invBusy s = true) (i : Inv) :
    invQueue i s = 
      { s with xlt := { s.xlt with invs := s.xlt.invs ++ [{ i with started := false }] } } := by
  have hne : s.xlt.invs ≠ [] := by rintro hnil; simp [invBusy, hnil] at h
  simp only [invQueue, if_neg hne, updXlt]

/-- A TLB_INVALIDATE of a context's page range or of the whole context, with a GEN that is good, is queued. -/
theorem tlbInvalidate_queues {s : State} {n : Nat} {c : Cmd} {x : Ctx} (hx : ctxOf s (c.arg 2 2) = some x)
    (hgen : invGenBad x (BitVec.ofNat 32 (c.arg 20 4)) = false) (hscope : c.arg 1 1 ≤ 2)
    (hpages : c.arg 1 1 = 0 → c.arg 16 4 ≠ 0) :
    tlbInvalidate n c s = invQueue
      { scope := c.arg 1 1, ctx := c.arg 2 2, gen := BitVec.ofNat 32 (c.arg 20 4), page := c.arg 8 8 / 4096 % 2 ^ 45,
        pages := c.arg 16 4, waits := [], started := true, mb := some n } s := by
  have hsome : (c.arg 1 1 = 0 && c.arg 16 4 = 0) = false := by
    by_cases h : c.arg 1 1 = 0 <;> simp [h, hpages]
  simp only [tlbInvalidate, hx, hgen, Nat.not_lt.mpr hscope, hsome, Bool.false_eq_true, if_false]

/-- Settles O41: BUSY drops every write of XLT_INV_CTL, and the queue of invalidations is then not empty. -/
theorem invalidationWritesWhileBusy : Obligations.InvalidationWritesWhileBusy := by
  unfold Obligations.InvalidationWritesWhileBusy
  refine ⟨?_, ?_, ?_⟩
  · -- XLT_INV_CTL, of each SCOPE
    intro s ctx gen c hopen hbusy hc
    simp only [List.mem_cons, List.not_mem_nil, or_false] at hc
    obtain rfl | rfl | rfl | rfl := hc
    · exact next_of_barOpen hopen (if_pos hbusy)
    · exact next_of_barOpen hopen (if_pos hbusy)
    · exact next_of_barOpen hopen (if_pos hbusy)
    · exact next_of_barOpen hopen (if_pos hbusy)
  · -- TLB_INVALIDATE of SCOPE 0 and 1
    intro s n c x hbusy honce h hx hgen
    refine ⟨fun hscope hpages => next_of_serves (c := c) (by simpa [hscope] using h) ?_,
      fun hscope => next_of_serves (c := c) (by simpa [hscope] using h) ?_⟩
    · simp [hscope, invOnce, honce, tlbInvalidate_queues hx hgen, hpages, invQueue_of_busy hbusy]
    · simp [hscope, invOnce, honce, tlbInvalidate_queues hx hgen, invQueue_of_busy hbusy]
  · -- TLB_INVALIDATE of SCOPE 2
    intro s c hbusy honce h hscope
    refine next_of_serves (c := c) (by simpa [hscope] using h) ?_
    simp [hscope, invOnce, honce, invQueue_of_busy hbusy]

/-- An invalidation of a whole context begins: no entry of the context is left in a TLB. -/
theorem invBegin_ctx {s : State} {i : Inv} (h : i.scope = 1) :
    (∀ e ∈ (invBegin i s).xlt.tlb, e.ctx ≠ i.ctx) ∧ (invBegin i s).xlt.invs.length = s.xlt.invs.length + 1 := by
  simp [invBegin, tlbRemove, h]

/-- An invalidation of a page range begins: no entry left in a TLB covers a page of it. -/
theorem invBegin_range {s : State} {i : Inv} (h : i.scope = 0) :
    (invBegin i s).xlt.invs.length = s.xlt.invs.length + 1 ∧
      ∀ e ∈ (invBegin i s).xlt.tlb, ∀ page, i.page ≤ page → page < i.page + i.pages → e.covers i.ctx page = false := by
  refine ⟨by simp [invBegin, tlbRemove], fun e he page hlo hhi => ?_⟩
  simp only [invBegin, tlbRemove, h, updXlt_xlt, List.mem_filter] at he
  obtain ⟨-, hkept⟩ := he
  by_contra hcov
  simp only [TlbEnt.covers, Bool.not_eq_false, Bool.and_eq_true, decide_eq_true_eq] at hcov
  obtain ⟨⟨hctx, hfrom⟩, hto⟩ := hcov
  simp [hctx] at hkept
  omega

/-- An invalidation of everything begins: the TLBs are empty. -/
theorem invBegin_all {s : State} {i : Inv} (h : i.scope = 2) :
    (invBegin i s).xlt.tlb = [] ∧ (invBegin i s).xlt.invs.length = s.xlt.invs.length + 1 := by
  simp [invBegin, tlbRemove, h]

/-- A write of XLT_INV_CTL with none in progress, of SCOPE 0 or 1 and with a good GEN, begins its invalidation. -/
theorem invWrite_begins {s : State} {scope ctx : Nat} {gen : BitVec 32} {c : Ctx} (hbusy : invBusy s = false)
    (hc : ctxOf s ctx = some c) (hgen : invGenBad c gen = false) (hscope : scope < 2)
    (hlen : scope = 0 → s.xlt.invLen ≠ 0) :
    invWrite scope ctx gen s = invBegin
      { scope := scope, ctx := ctx, gen := gen, page := (s.xlt.invVa.extractLsb' 12 45).toNat, pages := s.xlt.invLen,
        waits := [], started := false, mb := none } s := by
  have hsome : (scope = 0 && s.xlt.invLen = 0) = false := by
    by_cases h : scope = 0 <;> simp [h, hlen]
  have htwo : scope ≠ 2 := by omega
  simp only [invWrite, hbusy, hc, hgen, htwo, hsome, Bool.false_eq_true, if_false]

/-- A write of XLT_INV_CTL with none in progress, of SCOPE 0 or 1, with a GEN that is odd or not newer ends INVALID_ARG. -/
theorem invWrite_badGen {s : State} {scope ctx : Nat} {gen : BitVec 32} {c : Ctx} (hbusy : invBusy s = false)
    (hc : ctxOf s ctx = some c) (hgen : invGenBad c gen = true) (hscope : scope < 2) :
    invWrite scope ctx gen s = { s with xlt := { s.xlt with invStatus := Status.invalidArg.code } } := by
  have htwo : scope ≠ 2 := by omega
  simp only [invWrite, hbusy, hc, hgen, htwo, Bool.false_eq_true, if_false, if_true, invStatus, updXlt]

/-- Settles O3: an accepted write of XLT_INV_CTL begins its invalidation, and the lemmas on `invBegin` say what that removes. -/
theorem invalidationsAndXltRegistersComplete : Obligations.InvalidationsAndXltRegistersComplete := by
  unfold Obligations.InvalidationsAndXltRegistersComplete
  refine ⟨?_, ?_, ?_, ?_, ?_, ?_, ?_⟩
  · -- XLT_INV_CTX and XLT_INV_RANGE
    intro s ctx gen c hopen hbusy hc heven hnewer
    have hgen : invGenBad c gen = false := by simp only [invGenBad, heven, hnewer, Bool.not_true, Bool.or_self]
    refine ⟨⟨_, next_of_barOpen hopen (invWrite_begins hbusy hc hgen (by decide) (absurd · (by decide))), ?_⟩,
      fun hlen => ⟨_, next_of_barOpen hopen (invWrite_begins hbusy hc hgen (by decide) (fun _ => hlen)), ?_⟩⟩
    · exact invBegin_ctx rfl
    · exact invBegin_range rfl
  · -- a GEN that is odd or not newer
    intro s ctx gen c hopen hbusy hc hbad
    have hgen : invGenBad c gen = true := by simpa only [invGenBad, Bool.or_eq_true, Bool.not_eq_true'] using hbad
    exact ⟨next_of_barOpen hopen (invWrite_badGen hbusy hc hgen (by decide)),
      next_of_barOpen hopen (invWrite_badGen hbusy hc hgen (by decide))⟩
  · -- XLT_INV_ALL and SCOPE 3
    intro s hopen hbusy
    refine ⟨⟨_, next_of_barOpen hopen (if_neg (by simp [hbusy])), ?_⟩,
      next_of_barOpen hopen (if_neg (by simp [hbusy]))⟩
    exact invBegin_all rfl
  · -- INVALIDATION_COMPLETE
    intro s i hrun hone hwaits hstart hmb
    refine ⟨fun hscope => next_of_runs hrun ?_, fun hscope => next_of_runs hrun ?_⟩
    · simp [invalidationComplete, hone, hwaits, hstart, hmb, hscope, setLastGen, invStatus, invNext, updXlt]
    · simp [invalidationComplete, hone, hwaits, hstart, hmb, Nat.not_lt.mpr hscope, invStatus, invNext, updXlt]
  · -- XLT_COMMIT
    rintro s _ hopen hown rfl htime hlo hhi
    have hcfg : xltCfgOk s.xlt.shadow = true := by simp [xltCfgOk, htime, hlo, hhi]
    refine ⟨_, next_of_barOpen hopen rfl, ?_⟩
    simp only [xltCommit, hown, hcfg, bne_self_eq_false, Bool.not_true, Bool.or_self, Bool.false_eq_true, if_false,
      updXlt_xlt, and_self]
  · -- XLT_COMMIT_ERR_CLEAR
    intro s hopen
    exact next_of_barOpen hopen rfl
  · -- XLT_MQ_HEAD
    intro s head hopen
    exact next_of_barOpen hopen rfl

/-! ### Answers at an ingress -/

@[simp] theorem emit_xlt (o : Out) (s : State) : (emit o s).xlt = s.xlt := (emit_quiet o s).xlt

@[simp] theorem emit_coh (o : Out) (s : State) : (emit o s).coh = s.coh := by
  obtain ⟨_, _, _, _, h⟩ := emit_frame o s
  rw [h]

/-- A fault answered at an ingress leaves translation and the homes as they are. -/
theorem deliver_fault_at_ingress {r : Req} {ing tag : Nat} {st : Status} (hwho : r.who = ingressWho ing tag)
    (hst : st.ok = false) (data : List Byte) (p g : Bool) (s : State) :
    (deliver r st data p g s).xlt = s.xlt ∧ (deliver r st data p g s).coh = s.coh := by
  by_cases hing : ing < 8
  · simp [deliver, hwho, ingressWho, hing, hst]
  · by_cases htier : st = .tierFailed <;> simp [deliver, hwho, ingressWho, hing, hst, htier]

/-- A translated write without the WRITE bit is answered FAULT_ACCESS (R45). -/
theorem proceed_readOnly {v : VReq} (h : v.write = true) (off : Nat) (s : State) :
    proceed v off false s = deliver v.req .faultAccess [] false false s := by
  simp [proceed, h]

/-- An admitted write to a page that an entry without WRITE translates is answered FAULT_ACCESS (R45). -/
theorem admitReq_readOnly {s : State} {ing : Nat} {r : Req} {v : BitVec 57} {e : TlbEnt} (hadm : admits s r.ctx ing = true)
    (htr : ((ctxOf s r.ctx).map Ctx.translate).getD false = true) (hwr : needsBlock r.op = true)
    (hfind : tlbFind s ing r.ctx (v.toNat / 4096) = some e) (hro : e.write = false) :
    admitReq ing r (.va v) s = deliver { r with off := v.toNat % 4096 } .faultAccess [] false false s := by
  simp only [admitReq, hadm, htr, Bool.and_self, Bool.not_true, Bool.false_eq_true, if_false, translate, hfind, hro]
  exact proceed_readOnly hwr _ s

/-! ### Walks (R40, R42) -/

/-- The walk of miss `m` of context `c` has ended with a header that is placed, readable, even, unchanged and not stale. -/
structure Walked (s : State) (m : Nat) (x : Miss) (c : Ctx) : Prop where
  miss : tget m s.xlt.misses = some x
  walking : x.st = .walk
  ctx : ctxOf s x.ctx = some c
  header : mirrorOk s c.mirrorHdr = true
  readable : poisoned s c.mirrorHdr = false
  even : x.genFirst.getLsbD 0 = false
  same : mirrorGen s c = x.genFirst
  fresh : older x.genFirst c.lastGen = false

/-- A walk that finds a leaf ends its miss with it. -/
theorem walkDone_leaf {s : State} {m l off : Nat} {x : Miss} {c : Ctx} {e : BitVec 64} (h : Walked s m x c)
    (hleaf : walkFrom s x.page 4 c.root = .leaf l off e) : walkDone m s = missDone m l off e x.genFirst s := by
  obtain ⟨hm, hst, hc, hhdr, hpois, heven, hsame, hfresh⟩ := h
  simp only [walkDone, hm, hst, hc, hhdr, hpois, heven, hsame, hfresh, hleaf, bne_self_eq_false, Bool.not_true,
    Bool.or_self, Bool.false_eq_true, if_false]

/-- A walk that finds nothing counts its miss as ready for posting. -/
theorem walkDone_none {s : State} {m : Nat} {x : Miss} {c : Ctx} (h : Walked s m x c)
    (hnone : walkFrom s x.page 4 c.root = .none) :
    walkDone m s = missToPost m (updMiss m (fun x => { x with genLast := mirrorGen s c }) s) := by
  obtain ⟨hm, hst, hc, hhdr, hpois, heven, hsame, hfresh⟩ := h
  simp only [walkDone, hm, hst, hc, hhdr, hpois, heven, hsame, hfresh, hnone, bne_self_eq_false, Bool.not_true,
    Bool.or_self, Bool.false_eq_true, if_false]

/-- Changing a pending miss. -/
theorem updMiss_of_tget {s : State} {m : Nat} {x : Miss} (hm : tget m s.xlt.misses = some x) (f : Miss → Miss) :
    updMiss m f s = { s with xlt := { s.xlt with misses := tput m (f x) s.xlt.misses } } := by
  simp only [updMiss, updXlt, tupd, hm]

/-- A miss that a walk has noted its GEN in, and whose timer runs, becomes ready for posting with the host path on. -/
theorem missToPost_posts {s : State} {m : Nat} {x : Miss} (hm : tget m s.xlt.misses = some x) (g : BitVec 32)
    (hen : s.xlt.run.enable = true) (htime : s.xlt.run.timeout ≠ 0) (hexp : missExpired s x = false) :
    missToPost m (updMiss m (fun x => { x with genLast := g }) s) =
      { s with xlt := { s.xlt with misses := tput m { x with genLast := g, st := .post } s.xlt.misses } } := by
  rw [missExpired] at hexp
  simp only [missToPost, updMiss_of_tget hm, tget_tput_self, hen, htime, missExpired, hexp, Bool.not_true, Bool.or_self,
    decide_false, Bool.false_eq_true, if_false]
  rw [updMiss_of_tget (tget_tput_self ..), tput_tput_self]

/-- A miss with one request ends at a leaf: the TLBs filled and the miss gone, the request proceeds or fails. -/
theorem missDone_single {s : State} {m l off : Nat} {x : Miss} {v : VReq} {e : BitVec 64} {gen : BitVec 32}
    (hm : tget m s.xlt.misses = some x) (hreqs : x.reqs = [v]) :
    ∃ t, missDone m l off e gen s = proceed v ((fillEntry s x.ctx gen x.page l off e x.ingress).offset v.page)
        (fillEntry s x.ctx gen x.page l off e x.ingress).write t ∧
      t.xlt.misses = tdel m s.xlt.misses ∧ t.outs = s.outs ∧ t.coh = s.coh ∧ t.store = s.store := by
  refine ⟨tlbPut (fillEntry s x.ctx gen x.page l off e x.ingress)
    (tlbPut (fillEntry s x.ctx gen x.page l off e (16 + ingressTile x.ingress)) (dropMiss m s)), ?_, ?_⟩
  · simp only [missDone, hm, hreqs, List.foldl_cons, List.foldl_nil]
  obtain ⟨_, _, htile⟩ := tlbPut_frame (fillEntry s x.ctx gen x.page l off e (16 + ingressTile x.ingress)) (dropMiss m s)
  rw [htile]
  obtain ⟨_, _, hown⟩ := tlbPut_frame (fillEntry s x.ctx gen x.page l off e x.ingress) _
  rw [hown]
  exact ⟨rfl, rfl, rfl, rfl⟩

/-- Settles O40: a TLB entry fails the write where it proceeds, and a filled entry has the WRITE bit of its leaf. -/
theorem writeNeedsTheWriteBit : Obligations.WriteNeedsTheWriteBit := by
  unfold Obligations.WriteNeedsTheWriteBit
  refine ⟨?_, ?_⟩
  · -- an entry of a TLB
    intro s ing tag ctx v op len data e hrun hing hadm htr hwr hfind hro
    refine ⟨_, next_of_runs hrun ((if_pos hing).trans (admitReq_readOnly hadm htr hwr hfind hro)), ?_⟩
    exact and_assoc.mp ⟨deliver_fault_at_ingress rfl rfl [] false false s, rfl⟩
  · -- a leaf that a walk finds
    intro s m l off x c v e hrun hm hst hc hhdr hpois heven hsame hfresh hleaf hro hreqs hwr
    obtain ⟨t, hdone, hframe⟩ := missDone_single (l := l) (off := off) (e := e) (gen := x.genFirst) hm hreqs
    refine ⟨t, next_of_runs hrun ?_, hframe⟩
    rw [walkDone_leaf ⟨hm, hst, hc, hhdr, hpois, heven, hsame, hfresh⟩ hleaf, hdone,
      fillEntry_write (walkFrom_leaf _ _ hleaf), hro, proceed_readOnly hwr]

/-! ### Posting a miss (R48) -/

/-- Signalling a vector counts nothing. -/
@[simp] theorem msi_csr (n : Nat) (s : State) : (msi n s).csr = s.csr := by
  unfold msi
  split
  · split <;> rfl
  · rfl

/-- What was sent before a vector is signalled stays sent. -/
theorem mem_msi_outs {n : Nat} {o : Out} {s : State} (h : o ∈ s.outs) : o ∈ (msi n s).outs := by
  unfold msi
  split
  · split <;> exact h
  · exact List.mem_cons_of_mem _ h

/-- A miss ready for posting, with room in the ring and the host link up, is posted. -/
theorem missPost_posts {s : State} {m : Nat} {x : Miss} (hm : tget m s.xlt.misses = some x) (hst : x.st = .post)
    (hroom : missRoom s = true) (hlink : s.host.linkUp = true) :
    missPost m s = msi s.xlt.run.vector (cnt 0x70068 1 { put (.hostWr (s.xlt.run.mqBase + s.xlt.mqTail * 32)
        (missMessage s.xlt.missId x)) s with
      xlt := { s.xlt with misses := tput m { x with st := .wait, missId := some s.xlt.missId } s.xlt.misses,
                          missId := s.xlt.missId + 1, mqTail := (s.xlt.mqTail + 1) % 2 ^ s.xlt.run.mqLog } }) := by
  simp [missPost, hm, hst, hroom, hlink, updMiss, updXlt, emit, put, tupd]

/-- Settles O2: walks, posts and ends of a miss by the lemmas above, the other rows by running them under their conditions. -/
theorem requestsWalksAndMissesComplete : Obligations.RequestsWalksAndMissesComplete := by
  unfold Obligations.RequestsWalksAndMissesComplete
  refine ⟨?_, ?_, ?_, ?_, ?_, ?_, ?_, ?_⟩
  · -- REQUEST_ADMIT
    intro s ing tag ctx a op len data hrun hing hspace hcheck
    refine next_of_runs hrun ?_
    simp only [hing, if_true, admitReq, hcheck, hspace, launchReq]
  · -- MIRROR_WALK_DONE
    intro s m x c hrun hm hst hc hhdr hpois heven hsame hfresh
    have hwalk : Walked s m x c := ⟨hm, hst, hc, hhdr, hpois, heven, hsame, hfresh⟩
    refine ⟨fun l off e hleaf => next_of_runs hrun (walkDone_leaf hwalk hleaf),
      fun hnone hen htime hexp => next_of_runs hrun ?_⟩
    rw [walkDone_none hwalk hnone, missToPost_posts hm _ hen htime hexp, hsame]
  · -- GEN_REREAD
    intro s m x c hrun hm hst hodd hc heven
    refine next_of_runs hrun ?_
    simp only [genReread, hm, hst, hodd, hc, heven, bne_self_eq_false, Bool.not_true, Bool.not_false, Bool.or_self,
      Bool.false_eq_true, if_false, if_true, updMiss_of_tget hm]
  · -- MISS_POST
    intro s m x hrun hm hst hroom hlink
    refine ⟨_, next_of_runs hrun (missPost_posts hm hst (by simpa [missRoom] using hroom) hlink), (msi_quiet ..).xlt, ?_,
      mem_msi_outs List.mem_cons_self⟩
    rw [msi_csr]
    simp [cnt, tgetD, put]
  · -- PENDING_MISS_FREED
    intro s v rest hrun hheld hroom
    refine next_of_runs hrun ?_
    simp [hheld, hroom, updXlt]
  · -- XLT_RESP, MAPPED
    intro s id m x y c hopen hfind hm hc
    refine next_of_barOpen hopen ?_
    simp [xltResp, hfind, hm, hc, updMiss_of_tget hm]
  · -- REWALK_DONE
    intro s m x c hrun hm hst hc hhdr hsame heven hfresh
    refine ⟨fun l off e hleaf => next_of_runs hrun ?_, fun hnone => next_of_runs hrun ?_⟩
    · simp only [rewalkDone, hm, hst, hc, hhdr, hsame, heven, hfresh, hleaf, bne_self_eq_false, Bool.not_true,
        Bool.or_self, Bool.false_eq_true, if_false]
    · simp only [rewalkDone, hm, hst, hc, hhdr, hsame, heven, hfresh, hnone, bne_self_eq_false, Bool.not_true,
        Bool.or_self, Bool.false_eq_true, if_false]
  · -- MISS_TIMEOUT
    intro s m x hrun hm hst
    refine next_of_runs hrun ?_
    simp [hm, hst, timer, show s.halted = false from hrun]

/-! ### Homes, fetches and evictions (R52, R75, R89, R93 to R96) -/

/-- A plain read of placed HBM data that passes its checks is answered with the home's bytes. -/
theorem serve_read_placed {r : Req} {obs : LineObs} {s : State} {base : Nat} {al : Alloc} (hop : r.op = .rdNc)
    (hfirst : homeCheck s r.ctx r.off false = none) (hlast : homeCheck s r.ctx (r.off + (r.len - 1)) false = none)
    (hcross : mayCross s r.who r.ctx r.off = true) (hal : allocAt s r.off = some (base, al)) (htier : al.tier = .hbm) :
    serve r obs s = deliver r .done (storeBytes (lineRead r.off obs s) r.off r.len)
      ((linesOf r.off r.len).any (poisoned (lineRead r.off obs s))) false (lineRead r.off obs s) := by
  have hfree : ((linesOf r.off r.len).map (fun o => (o / 64, blockers s r (o / 64)))).filter (fun x => x.2 != []) = [] := by
    have hnone : ∀ l, blockers s r l = [] := fun l => by
      unfold blockers
      cases tget l s.coh.dir <;> simp [hop]
    simp [hnone]
  have hperform : ∀ t, perform r t = deliver r .done (storeBytes t r.off r.len)
      ((linesOf r.off r.len).any (poisoned t)) false t := fun t => by simp [perform, hop]
  simp [serve, hop, needsBlock, hfirst, hlast, hcross, hal, htier, placedGate, hfree, hperform]

/-- Settles O4: the read by what `serve` does with one, every other row by running it under its conditions. -/
theorem homeFetchAndEvictionRowsComplete : Obligations.HomeFetchAndEvictionRowsComplete := by
  unfold Obligations.HomeFetchAndEvictionRowsComplete
  refine ⟨?_, ?_, ?_, ?_, ?_, ?_, ?_⟩
  · -- HOME_ACCESS
    rintro s i f obs base al s0 s1 s2 hrun hf halone hop rfl rfl rfl hfirst hlast hcross hal htier
    refine next_of_runs hrun ?_
    simp only [homeAccess, hf, halone, Bool.false_eq_true, if_false,
      serve_read_placed hop hfirst hlast hcross hal htier]
  · -- IDLE_EVICTION
    intro s p pt hrun hp hidle hfew
    refine next_of_runs hrun ?_
    simp [idleEviction, hp, hidle, hfew]
  · -- FETCH_UNIT_LANDED
    intro s b ch ts x hrun hx hlow hst hwait
    refine next_of_runs hrun ?_
    have hgood : (List.range 4).filter ([] : List Nat).contains = [] := by decide
    simp [fetchUnitLanded, nextUnit, hx, hlow, hst, hwait, flashRetry, hgood]
  · -- EVICTION_WRITE_DONE
    intro s b x hrun hx hst hown
    refine ⟨fun ch ts hlow hgc => next_of_runs hrun ?_, fun e hlow hlink => next_of_runs hrun ?_⟩
    · simp only [evictionWriteDone, hx, hst, hown, hlow, hgc, bne_self_eq_false, Bool.not_true, Bool.or_self,
        Bool.false_eq_true, if_false]
    · simp [evictionWriteDone, hx, hst, hown, hlow, hlink, updBlock, tupd]
  · -- EVICTION_WRITE_FAIL
    intro s b x hrun hx hst
    refine next_of_runs hrun ?_
    simp [evictionWriteFail, hx, hst, updBlock, tupd]
  · -- SHOOTDOWN_COMPLETE
    intro s b hrun hshoot
    exact next_of_runs hrun (if_pos hshoot)
  · -- FLASH_BUFFER_PROGRAM
    intro s u x hrun hx
    refine ⟨fun hfull => next_of_runs hrun ?_, fun hpart => ⟨_, next_of_runs hrun rfl, ?_⟩⟩
    · simp [hx, hfull]
    · simp only [hx, hpart, if_false, timer, show s.halted = false from hrun, Bool.false_eq_true]
      exact ⟨rfl, Nat.le_max_right ..⟩

/-! ### Allocations, pins, protection and windows (R53, R54, R58, R85, R90, R99, R399) -/

/-- PIN and UNPIN of a range of managed data, whose frames fit where it is pinned (R90). -/
theorem pinBody_sets {s : State} {n b : Nat} {on : Bool} {c : Cmd} {al : Alloc} (hlen : c.arg 16 8 ≠ 0)
    (hown : argOwn s c 8 = true) (hin : inAlloc s c.part (argSa c 8) (c.arg 16 8) = some (b, al)) (htier : al.tier = .managed)
    (hfit : on = true → pinnedCount s c.part + (rangeBlocks b (argSa c 8) (c.arg 16 8)).length + 64 ≤
      ((partOf s c.part).map Part.q).getD 0) :
    pinBody n on c s = complete n 0 [] (setPins b (rangeBlocks b (argSa c 8) (c.arg 16 8)) on s) := by
  have hnew := List.length_filter_le (fun b => !al.pins.contains b) (rangeBlocks b (argSa c 8) (c.arg 16 8))
  simp only [pinBody, hlen, hown, hin, if_false, if_true]
  rw [refuseOr_none]
  cases on with
  | false => simp [htier]
  | true =>
    have := hfit rfl
    simp only [ownChecks_cons, ownChecks_nil, htier, bne_self_eq_false, Bool.true_and, Bool.and_eq_true, decide_eq_true_eq,
      Bool.false_eq_true, if_false, ite_eq_right_iff, reduceCtorEq, imp_false]
    omega

/-- A window command on a segment that is unbound or the mailbox's own binds or unbinds it (R399). -/
theorem winBody_sets {s : State} {n : Nat} {c : Cmd} {v w : WinSeg} (hseg : c.arg 1 1 ≤ 15)
    (hspace : c.arg 2 1 / 2 % 4 = 0 ∨ c.arg 2 1 / 2 % 4 = 2)
    (hctx : (n = 0 ∧ c.part = 0xFF ∧ c.arg 4 2 = 1) ∨
      (n ≠ 0 ∧ (bit (c.arg 2 1) 0 = true → ctxPart s (c.arg 4 2) = some c.part)))
    (hw : w = s.host.segs.getD (c.arg 1 1) {}) (hfree : w.bound = false ∨ w.binder = n)
    (hset : v = if bit (c.arg 2 1) 0 then { w with ctx := c.arg 4 2, space := c.arg 2 1 / 2 % 4, bound := true, binder := n }
      else { w with ctx := 0, space := 0, bound := false, binder := 0 }) :
    winBody n c s =
      complete n 0 [] { s with host := { s.host with segs := s.host.segs.setIfInBounds (c.arg 1 1) v } } := by
  subst hw hset
  unfold winBody
  rw [refuseOr_none]
  refine (ownChecks_skip ?_).trans (ownChecks_skip ?_)
  · obtain ⟨rfl, hpart, hone⟩ | ⟨hn, hown⟩ := hctx
    · obtain h | h := hspace <;> simp [Nat.not_lt.mpr hseg, h, hpart, hone]
    · obtain h | h := hspace <;> simpa [Nat.not_lt.mpr hseg, h, hn] using hown
  · obtain h | h := hfree <;> simp only [h, Bool.false_and, bne_self_eq_false, Bool.and_false]

/-- Settles O21: each command passes its own checks, by the lemma of its body where it shares one. -/
theorem allocationCommandsComplete : Obligations.AllocationCommandsComplete := by
  unfold Obligations.AllocationCommandsComplete
  refine ⟨?_, ?_, ?_, ?_, ?_, ?_, ?_, ?_, ?_, ?_⟩
  · -- ALLOC
    intro s n c al h hf hne hmod hcells hfit hctx hslot hal hroom
    obtain ⟨b, t, hmake, hallocs⟩ := makeAlloc_some (s := s) (al := al) (by simpa [hal, Alloc.extent] using hroom)
    have hbits : ∀ i, bit 0 i = false := fun i => by simp [bit]
    refine ⟨b, t, hmake, hallocs, next_of_serves h ?_⟩
    subst hal
    unfold allocBody
    rw [refuseOr_none]
    · simp [hf, hbits, allocTier, hmake]
    · simp [hf, hbits, allocTier, hne, hmod, hcells, hfit, hctx, hslot]
  · -- FREE
    intro s n c a h hown ha ⟨hpart, hsize, hctx⟩ hview
    refine next_of_serves h ?_
    unfold freeBody
    rw [refuseOr_none]
    refine (ownChecks_skip ?_).trans (ownChecks_skip ?_)
    · simp [hown, ha, hpart, hsize, hctx]
    · cases hr : a.region with
      | none => simp [ha, hr]
      | some r => simp [ha, hr, hview r hr]
  · -- PIN
    intro s n c b al h hon hlen hown hin htier hfit
    exact next_of_serves h ((if_pos hon).trans (pinBody_sets hlen hown hin htier (fun _ => hfit)))
  · -- UNPIN
    intro s n c b al h hoff hlen hown hin htier
    exact next_of_serves h ((if_pos hoff).trans (pinBody_sets hlen hown hin htier (by simp)))
  · -- GSET_WRITE
    intro s n c h ⟨hpos, hle⟩ hbits
    refine next_of_serves h ?_
    unfold gsetBody
    rw [refuseOr_none]
    simp only [hbits]
    simp [Nat.pos_iff_ne_zero.mp hpos, Nat.not_lt.mpr hle]
  · -- PROT_SET
    intro s n c x h hlen hmod hoff hown hin hset
    refine next_of_serves h ?_
    simp only [protBody, hlen, hown, hin, if_false, if_true]
    rw [refuseOr_none]
    · rfl
    · obtain hz | hset := hset
      · simp [hmod, hoff, hz]
      · simp [hmod, hoff, Option.isSome_iff_ne_none.mp hset]
  · -- EVICT_RESERVE_SET
    intro s n c h hle
    refine next_of_serves h (refuseOr_none ?_)
    simp only [ownChecks_cons, ownChecks_nil, Nat.not_lt.mpr hle, decide_false, Bool.false_eq_true, if_false]
  · -- TIER_TIMEOUTS_SET
    rintro s n c _ h ⟨hpos, hle, hlo, hhi⟩ rfl
    refine next_of_serves h (refuseOr_none ?_)
    simp [Nat.pos_iff_ne_zero.mp hpos, Nat.not_lt.mpr hle, Nat.not_lt.mpr hlo, Nat.not_lt.mpr hhi]
  · -- WINDOW_BIND
    intro s n c w h hon hw ⟨hseg, hspace⟩ hctx hfree
    exact next_of_serves h ((if_pos hon).trans
      (winBody_sets hseg hspace (hctx.imp_right (And.imp_right fun hown _ => hown)) hw hfree (if_pos hon).symm))
  · -- WINDOW_UNBIND
    intro s n c w h hoff hw ⟨hseg, hspace⟩ hctx hfree
    have hunbind : ¬ bit (c.arg 2 1) 0 = true := by simp [hoff]
    exact next_of_serves h ((if_neg hunbind).trans
      (winBody_sets hseg hspace (hctx.imp_right fun hn => ⟨hn, (absurd · hunbind)⟩) hw hfree (if_neg hunbind).symm))

/-! ### Device number, routes, ports, timers and FRB (R27, R125, R150, R337 to R340, R350, R364, R371, R379 to R382) -/

/-- A PORT_STATE action on one port acts on it and notes what it leaves of a state split; a fence then waits (R338, R350). -/
theorem portCmd_single {s u : State} {n action p : Nat} {c : Cmd} {act : Nat → State → State} {wait mg : Bool}
    (h : Serves s n 0x0904 c { ready := (cmdPorts c).all (fun p => s.rep.boot.ports.getLsbD p) }) (hact : c.arg 2 1 = action)
    (hp : cmdPorts c = [p]) (hmg : (decide (action = 1) || decide (action = 3)) = mg) (hu : act p s = u) :
    portCmd n action act wait s = (if wait then fencesDone else complete n 0 [])
      (splitEnd (unitField .port p) false mg ((port u p).st != .down) u) := by
  subst hmg hu
  unfold portCmd
  rw [catalogue_of_serves h, if_pos hact]
  simp only [hp, List.foldl_cons, List.foldl_nil]
  cases wait <;> rfl

/-- Settles O25: each command passes its own checks, and a PORT_STATE acts on the one port it names. -/
theorem fabricCommandsComplete : Obligations.FabricCommandsComplete := by
  unfold Obligations.FabricCommandsComplete
  refine ⟨?_, ?_, ?_, ?_, ?_, ?_, ?_, ?_, ?_, ?_, ?_, ?_, ?_, ?_⟩
  · -- STORE_SET
    intro s n c devs h hdevs hdev hlisted hplain hfe hquiet
    refine next_of_serves h ?_
    rw [hdevs] at hfe ⊢
    unfold storeSet
    rw [refuseOr_none]
    refine (ownChecks_skip ?_).trans ((ownChecks_skip ?_).trans (ownChecks_skip ?_))
    · simp only [Nat.not_lt.mpr hdev, hlisted, hplain, decide_false, Bool.not_true, Bool.or_self]
    · obtain hfe | hfew := hfe
      · simp only [hfe, Bool.not_true, Bool.false_and]
      · simp only [Nat.not_lt.mpr hfew, decide_false, Bool.and_false]
    · obtain hsame | ⟨hports, hparts⟩ := hquiet
      · simp only [hsame, bne_self_eq_false, Bool.false_and]
      · simp only [hports, hparts, bne_self_eq_false, Bool.or_self, Bool.and_false]
  · -- ROUTE_SET
    intro s n c es h hes hgood
    refine next_of_serves h ?_
    rw [hes] at hgood ⊢
    unfold routeSet
    rw [refuseOr_none (ownChecks_skip hgood)]
  · -- PORT_CONFIG
    intro s n c h ⟨hwave, hmod, htag, hwin, hwin', hkib, hkib'⟩ ⟨hman, hman', hser, hser'⟩ htags
    refine next_of_serves h ?_
    unfold portConfig
    rw [refuseOr_none]
    refine (ownChecks_skip ?_).trans (ownChecks_skip ?_)
    · simp only [Nat.not_lt.mpr hwave, Nat.not_lt.mpr hmod, Nat.not_lt.mpr htag, Nat.not_lt.mpr hwin, Nat.not_lt.mpr hwin',
        Nat.not_lt.mpr hkib, Nat.not_lt.mpr hkib', Nat.ne_of_gt hman, Nat.not_lt.mpr hman', Nat.not_lt.mpr hser,
        Nat.not_lt.mpr hser', decide_false, Bool.or_self]
    · obtain hdown | hsame := htags
      · simp only [hdown, Bool.false_and]
      · simp only [hsame, bne_self_eq_false, Bool.and_false]
  · -- PORT_STATE, disable
    intro s n c h hact
    refine congrArg Host.Outcome.next ?_
    unfold portCmd
    rw [catalogue_of_serves h, if_pos hact]
    rfl
  · -- PORT_STATE, enable
    rintro s n c p _ u h hact hp rfl hu
    exact congrArg Host.Outcome.next (portCmd_single h hact hp rfl hu.symm)
  · -- PORT_STATE, fence
    intro s n c p u h hact hp hopen hu
    exact congrArg Host.Outcome.next (portCmd_single h hact hp rfl ((if_neg (by simp [hopen])).trans hu.symm))
  · -- PORT_STATE, unfence
    intro s n c p u h hact hp hst hu
    exact congrArg Host.Outcome.next (portCmd_single h hact hp rfl ((if_pos hst).trans hu.symm))
  · -- SYNC_MODE
    intro s n c h hmode
    refine next_of_serves h ?_
    unfold syncModeSet
    rw [refuseOr_none]
    obtain hone | ⟨hzero, hfew⟩ := hmode
    · simp [hone]
    · simp [hzero, hfew]
  · -- FABRIC_TIMERS
    intro s n c h ⟨hhold, hhold', hack, hack'⟩
    refine next_of_serves h ?_
    unfold fabricTimers
    rw [refuseOr_none]
    simp [Nat.not_lt.mpr hhold, Nat.not_lt.mpr hhold', Nat.not_lt.mpr hack, Nat.not_lt.mpr hack']
  · -- FRB_TABLE_LOAD
    rintro s n c _ i t h hlen himage rfl hnew hparse hroom
    refine next_of_serves h ?_
    cases hsig : signedOk s 3 .tables (storeBytes s (saOff (c.arg 8 8)) (c.arg 4 4)) <;>
      simp [frbTableLoad, hlen, himage, hsig, hnew, hparse, Nat.not_le.mpr hroom]
  · -- FRB_TABLE_FREE
    intro s n c h hunused
    refine next_of_serves h ?_
    unfold frbTableFree
    rw [refuseOr_none (ownChecks_skip hunused)]
  · -- FRB_STREAM_SET
    rintro s n c _ _ _ h ⟨rfl, rfl⟩ ⟨hlen, hst, hport, hfmt, hef⟩ hslot htable ⟨hown, hal, hal', hend⟩ hapart hidle rfl
    refine next_of_serves h ?_
    unfold frbStreamSet
    rw [refuseOr_none]
    · simp [hef]
    refine (ownChecks_skip ?_).trans ((ownChecks_skip ?_).trans ((ownChecks_skip hidle).trans (ownChecks_skip ?_)))
    · simp [hlen]
    · simp only [hapart, Nat.not_lt.mpr hst, Nat.not_lt.mpr hport, Nat.not_lt.mpr hfmt, hslot, hown, hal, hal',
        Option.isNone_eq_false_iff.mpr htable, Nat.not_lt.mpr hend, decide_false, bne_self_eq_false, Bool.not_true,
        Bool.or_self]
    · simp [hef]
  · -- FRB_STREAM_FREE
    intro s n c h hidle
    exact next_of_serves h (refuseOr_none (ownChecks_skip hidle))
  · -- FRB_STREAM_CLEAR
    intro s n c h hidle
    exact next_of_serves h (refuseOr_none (ownChecks_skip hidle))

end Sys2Proof.Machine

/-! Failures and upkeep of the tiers, and bring-up (03_store_tiers.md, 19_bringup_repair.md). -/

namespace Sys2Proof.Machine

open Sys2Proof

/-! ### Reset -/

/-- Settles O31: reset lists no byte of memory, and both clocks stand at zero. -/
theorem resetSound : Obligations.ResetSound := ⟨⟨by decide, by decide⟩, rfl⟩

/-! ### Timers and failures of the tiers (R79, R99, R100, R102) -/

/-- A timed event of the running data path happens once the clocks have reached its time (log 8). -/
theorem timer_of_runs {s : State} (h : s.halted = false) (due : Nat) (f : State → State) :
    timer due f s = f (reach due s) := by
  simp [timer, h]

/-- A fetch from flash whose unit has not landed is late: its block fails, and its target counts a timeout (R99). -/
theorem flashTimeout_fetch {s : State} {b unit ch : Nat} {ts : List Nat} {x : Block} (hrun : s.halted = false)
    (hx : tget b s.store.blocks = some x) (hst : x.st = .fetching) (hwait : x.waitSince = none)
    (hlow : x.lower = some (.flash ch ts)) (hmiss : x.landed.contains unit = false) :
    flashTimeout (.fetch b unit) s =
      targetTimeout ch (ts.getD unit 0) (failBlock b (reach (x.issued + s.store.flashTimeout) s)) := by
  simp only [flashTimeout, hx, hlow, hst, hwait, hmiss, timer_of_runs hrun, Option.isNone_none, decide_true,
    Bool.not_false, Bool.and_self, if_true]

/-- A fetch from a host extent is late while the link is up: its block fails, and the extent (R100). -/
theorem hostTimeout_fetch {s : State} {b unit e : Nat} {x : Block} (hrun : s.halted = false)
    (hx : tget b s.store.blocks = some x) (hst : x.st = .fetching) (hwait : x.waitSince = none)
    (hlow : x.lower = some (.host e)) (hlink : s.store.hostDownSince = none) :
    hostTimeout (.fetch b unit) s = failExtent e (failBlock b (reach (x.issued + s.store.hostTimeout) s)) := by
  simp only [hostTimeout, hx, hlow, hst, hwait, hostFrom, hlink, timer_of_runs hrun, Option.isNone_none, decide_true,
    Bool.and_self, if_true]

/-- A good completion of a host fetch lands the unit that is due, with no line poisoned (R82). -/
theorem hostReadCompletion_lands {s : State} {b e : Nat} {x : Block} (hx : tget b s.store.blocks = some x)
    (hst : x.st = .fetching) (hwait : x.waitSince = none) (hlow : x.lower = some (.host e))
    (hlink : s.host.linkUp = true) :
    hostReadCompletion (.fetch b (nextUnit x)) true [] [] s = landUnit b (nextUnit x) (poisonContent [] s) := by
  simp [hostReadCompletion, hx, hlow, hst, hwait, hlink, hostTags]

/-- Settles O5: the timeouts and the host completion by what they do with a block in fetch, every other row by running it
under its conditions. -/
theorem lowerTierFailureAndUpkeepRowsComplete : Obligations.LowerTierFailureAndUpkeepRowsComplete := by
  unfold Obligations.LowerTierFailureAndUpkeepRowsComplete
  refine ⟨?_, ?_, ?_, ?_, ?_, ?_, ?_, ?_⟩
  · -- FLASH_PROGRAM_FAIL
    intro s ch target eb hrun hch htarget hadm
    refine ⟨_, next_of_runs hrun ?_, rfl⟩
    simp only [flashProgramFail, hch, htarget, hadm, decide_true, Bool.and_self, if_true]
  · -- FLASH_TIMEOUT and HOST_TIMEOUT
    intro s b unit x hrun hx hst hwait
    exact ⟨fun ch ts hlow hmiss => next_of_runs hrun (flashTimeout_fetch hrun hx hst hwait hlow hmiss),
      fun e hlow hlink => next_of_runs hrun (hostTimeout_fetch hrun hx hst hwait hlow hlink)⟩
  · -- HOST_READ_COMPLETION
    intro s b e x hrun hx hlow hst hwait hlink
    exact next_of_runs hrun (hostReadCompletion_lands hx hst hwait hlow hlink)
  · -- GARBAGE_COLLECTION
    intro s ch moved er hrun hch hgc hidle
    have hgo : (gcState (s.store.flash.getD ch {}) = 1 && !idleWindow s ch) = false := by
      obtain h | h := eq_or_ne (gcState (s.store.flash.getD ch {})) 1
      · simp only [hidle h, Bool.not_true, Bool.and_false]
      · simp only [h, decide_false, Bool.false_and]
    refine next_of_runs hrun ?_
    simp only [garbageCollection, Nat.not_le.mpr hch, hgc, hgo, decide_false, Bool.or_self, Bool.false_eq_true, if_false]
  · -- WEAR_LEVELLING
    intro s ch eb hrun hch hspread hidle hworn
    refine next_of_runs hrun ?_
    simp only [hch, hspread, hidle, hworn, decide_true, Bool.and_self, if_true]
  · -- HBM_PATROL_SCRUB
    intro s c row line progress hrun hc hready
    refine next_of_runs hrun ?_
    simp [hbmPatrolScrub, Nat.not_le.mpr hc, hready, lineRead]
  · -- ROW_SPARE
    intro s c row hrun hc hstreak hidle
    refine ⟨fun hspare => next_of_runs hrun ?_, fun hnone => next_of_runs hrun ?_⟩
    · simp only [rowSpare, Nat.not_le.mpr hc, Nat.not_lt.mpr hstreak, hidle, hspare, decide_false, Bool.not_true,
        Bool.or_self, Bool.false_eq_true, if_false, if_true]
    · simp only [rowSpare, Nat.not_le.mpr hc, Nat.not_lt.mpr hstreak, hidle, Nat.not_lt.mpr hnone, decide_false,
        Bool.not_true, Bool.or_self, Bool.false_eq_true, if_false]
  · -- FLASH_PATROL
    intro s ch hrun hch hdone
    refine ⟨next_of_runs hrun ?_, next_of_runs hrun ?_⟩ <;>
      simp only [hch, hdone, flashRetry, Nat.lt_irrefl, decide_true, decide_false, Bool.and_self, Bool.or_self, Bool.or_false,
        Bool.false_eq_true, if_true, if_false]

/-! ### Phases of bring-up (Table 19.1) -/

/-- A step of the control processor's bring-up happens in its phase. -/
theorem inPhase_of_inBoot {s : State} {ph : BootPhase} (h : s.inBoot ph) (f : State → State) : inPhase ph f s = f s := by
  obtain ⟨hrel, hph, hxtal⟩ := h
  simp only [inPhase, hrel, hph, hxtal, decide_true, Bool.and_self, if_true]

/-- A step of the local state machines happens once the image is broadcast, while the data path runs. -/
theorem trained_of_trains {s : State} (h : s.trains) (f : State → State) : trained f s = f s := by
  obtain ⟨hrun, hrel, hph⟩ := h
  have hgo : (released s && (s.rep.boot.phase = .train || s.rep.boot.phase = .run)) = true := by
    obtain hph | hph := hph <;> simp [hrel, hph]
  rw [trained, if_pos hgo, dp_of_runs hrun]

/-- A bring-up row of the local state machines answers what its operation answers. -/
theorem next_of_trains {s u : State} {f : State → State} (h : s.trains) (hf : f s = u) :
    (Host.Outcome.next (trained f s) : Host.Outcome State Fault Refusal) = .next u := by
  rw [trained_of_trains h, hf]

/-! ### The boot image (R467) -/

/-- The slot under trial: the preferred one first, then the other. -/
def trialSlot (s : State) : Nat := if s.rep.boot.fallback then 1 - s.rep.preferred else s.rep.preferred

/-- An image that passes its checks and is not rolled back starts the control processor from the slot under trial. -/
theorem bootImageVerify_good {s : State} (h : s.inBoot .rom) {svn : Nat} (hsvn : rollback s 0 ≤ svn) :
    bootImageVerify none svn s = cpStart (updBoot (fun b => { b with slot := trialSlot s, svn := svn }) (updRep (fun r =>
      { r with images := if (tget (trialSlot s) r.images).map Prod.fst = some svn then r.images
          else tdel (trialSlot s) r.images }) s)) := by
  simp only [bootImageVerify, inPhase_of_inBoot h, Nat.not_lt.mpr hsvn, if_false]
  rfl

/-- An image older than the anti-rollback counter fails check 4. -/
theorem bootImageVerify_rolledBack {s : State} {svn : Nat} (hsvn : svn < rollback s 0) :
    bootImageVerify none svn s = bootImageVerify (some 4) svn s := by
  simp only [bootImageVerify, inPhase, hsvn, if_true]

/-- A failed check leads to the other slot, then to the boot halt. -/
theorem bootImageVerify_fails {s : State} (h : s.inBoot .rom) (k svn : Nat) :
    bootImageVerify (some k) svn s = if s.rep.boot.fallback then updBoot (fun b =>
      { b with phase := .halt, haltCheck := k % 256 }) s else updBoot (fun b => { b with fallback := true }) s := by
  simp only [bootImageVerify, inPhase_of_inBoot h]

/-! ### The census (R73, R472) -/

/-- A channel's census looks at its next target, `g`: it goes on at the channel `f`, with no scan of it under way. -/
structure Censused (s : State) (ch g : Nat) (f : Flash) : Prop where
  trains : s.trains
  channel : ch < 20
  flash : f = s.store.flash.getD ch {}
  next : g = tgetD s.rep.boot.census ch 0
  going : f.censusDone = false
  still : tget ch s.rep.boot.scan = none

/-- Where no target answers, the census goes on. -/
theorem censusTarget_none {s : State} {ch g : Nat} {f : Flash} (h : Censused s ch g f) :
    censusTarget ch g none s = censusNext ch s := by
  obtain ⟨htrains, hch, rfl, rfl, hgoing, hstill⟩ := h
  simp only [censusTarget, trained_of_trains htrains, Nat.not_le.mpr hch, hgoing, hstill, bne_self_eq_false,
    Option.isSome_none, decide_false, Bool.or_self, Bool.false_eq_true, if_false]

/-- A target that answers is refused, admitted, or scanned. -/
theorem censusTarget_some {s : State} {ch g : Nat} {f : Flash} (h : Censused s ch g f) (t : TargetPage) :
    censusTarget ch g (some t) s =
      if !targetFit t || f.geometry.getD (targetGeo t) != targetGeo t then censusNext ch (evFlash 0 ch g 0 s)
      else if targetKnown s ch g t then admitTarget ch g t s
      else updBoot (fun b => { b with scan := tput ch t b.scan }) s := by
  obtain ⟨htrains, hch, rfl, rfl, hgoing, hstill⟩ := h
  simp only [censusTarget, trained_of_trains htrains, Nat.not_le.mpr hch, hgoing, hstill, bne_self_eq_false,
    Option.isSome_none, decide_false, Bool.or_self, Bool.false_eq_true, if_false]

/-- Settles O27: each row in its phase, by the lemmas of the boot image and of the census and else by running it. -/
theorem bringUpRowsComplete : Obligations.BringUpRowsComplete := by
  unfold Obligations.BringUpRowsComplete
  refine ⟨?_, ?_, ?_, ?_, ?_, ?_, ?_, ?_, ?_, ?_, ?_, ?_, ?_, ?_⟩
  · -- FUSE_READ_DONE
    intro s hepoch hboot
    have hgo : ∀ agree parity, exec (.fuseReadDone agree parity) s = .next (if !parity then _ else _) := fun agree parity =>
      congrArg Host.Outcome.next ((if_neg hepoch).trans (inPhase_of_inBoot hboot _))
    exact ⟨hgo true true, fun a => hgo a false, hgo false true⟩
  · -- BOOT_IMAGE_VERIFY
    rintro s _ hboot rfl
    exact ⟨fun svn => ⟨fun hsvn => congrArg _ (bootImageVerify_good hboot hsvn),
      fun hsvn => congrArg _ (bootImageVerify_rolledBack hsvn)⟩,
      fun k svn => congrArg _ (bootImageVerify_fails hboot k svn.toNat)⟩
  · -- IMAGE_BROADCAST
    intro s fails hrun hboot
    exact congrArg _ ((inPhase_of_inBoot hboot _).trans (dp_of_runs hrun _))
  · -- STACK_WAVE_START
    intro s w htrains ⟨hw, hnew⟩
    refine next_of_trains htrains ?_
    simp only [Nat.not_lt.mpr hw, hnew, decide_false, Bool.or_self, Bool.false_eq_true, if_false]
  · -- STACK_TRAINING_DONE
    rintro s c _ htrains ⟨hc, hwave⟩ ⟨rfl, hready, hfailed⟩
    refine ⟨next_of_trains htrains ?_, fun hfirst => next_of_trains htrains ?_, fun hagain => next_of_trains htrains ?_⟩
    · simp only [Nat.not_le.mpr hc, hwave, hready, hfailed, decide_false, Bool.not_true, Bool.or_self, Bool.false_eq_true,
        if_false, if_true]
    · simp only [Nat.not_le.mpr hc, hwave, hready, hfailed, hfirst, decide_false, Bool.not_true, Bool.or_self,
        Bool.false_eq_true, if_false, if_true]
    · simp only [Nat.not_le.mpr hc, hwave, hready, hfailed, hagain, decide_false, Bool.not_true, Bool.or_self,
        Bool.false_eq_true, if_false]
  · -- CELL_READY
    intro s c htrains ⟨hc, hstack, hledger⟩
    refine next_of_trains htrains ?_
    simp only [Nat.not_le.mpr hc, hstack, hledger, decide_false, Bool.not_true, Bool.or_self, Bool.false_eq_true, if_false]
  · -- PORT_CALIBRATED
    intro s p okay htrains ⟨hp, hready, hfailed⟩
    refine next_of_trains htrains ?_
    simp only [Nat.not_le.mpr hp, hready, hfailed, decide_false, Bool.or_self, Bool.false_eq_true, if_false]
  · -- MGMT_PORT_READY
    intro s p ⟨hrel, hph⟩ ⟨hp, hcp⟩
    refine congrArg Host.Outcome.next (if_pos ?_)
    obtain hph | hph := hph <;> simp [hrel, hph, hp, hcp]
  · -- CENSUS_TARGET
    intro s ch g f htrains ⟨hch, hg, hf⟩ ⟨hgoing, hstill⟩
    have hcen : Censused s ch g f := ⟨htrains, hch, hf, hg, hgoing, hstill⟩
    refine ⟨congrArg _ (censusTarget_none hcen), fun t hbad => congrArg _ ((censusTarget_some hcen t).trans (if_pos ?_)),
      fun t hfit hgeo => ⟨fun hknown => congrArg _ ((censusTarget_some hcen t).trans ?_),
        fun hnew => congrArg _ ((censusTarget_some hcen t).trans ?_)⟩⟩
    · obtain hfit | hgeo := hbad
      · simp [hfit]
      · simp [hgeo]
    · simp [hfit, hgeo, hknown]
    · simp [hfit, hgeo, hnew]
  · -- ENROL_SCAN_DONE
    rintro s ch _ bad t htrains hscan rfl
    refine next_of_trains htrains ?_
    simp only [hscan]
  · -- BACKGROUND_ERASE
    rintro s ch blocks _ hrun ⟨hch, rfl⟩ ⟨hdone, hadm⟩
    refine next_of_runs hrun ?_
    simp only [backgroundErase, Nat.not_le.mpr hch, hdone, hadm, decide_false, Bool.not_true, Bool.or_self,
      Bool.false_eq_true, if_false]
  · -- FLASH_READ_DONE
    rintro s id retried ch k bad r _ _ hrun ⟨hr, hplace⟩ hread rfl rfl
    refine next_of_runs hrun ?_
    simp only [flashReadDone, hr, hplace, hread, Bool.false_eq_true, if_false]
  · -- MGMT_LINK_DOWN
    intro s p ⟨hp, hup⟩
    refine congrArg Host.Outcome.next (if_neg ?_)
    simp [Nat.not_le.mpr hp, hup]
  · -- MGMT_LINK_UP
    intro s p ⟨hp, hready⟩ htrip
    refine congrArg Host.Outcome.next (if_pos ?_)
    simp [hp, hready, htrip]

end Sys2Proof.Machine

/-! Commands of identity, partitions, security and service (17_command_catalogue.md). -/

namespace Sys2Proof.Machine

open Sys2Proof

/-! ### Own checks (R417) -/

/-- A row whose only failing check can be the one of `b` completes with that status, or goes on. -/
theorem refuseOr_only {n st : Nat} {b : Bool} {l r : List (Bool × Nat)} (hl : ownChecks l = none)
    (hr : ownChecks r = none) (go : State → State) (s : State) :
    refuseOr n (l ++ (b, st) :: r) go s = if b then complete n st [] s else go s := by
  cases b <;> simp [refuseOr, ownChecks_append, hl, hr]

/-! ### Partitions (R424 to R426, R443) -/

/-- Settles O20: each command passes its own checks; the scrub by what sweeping the key slots leaves. -/
theorem identityAndPartitionCommandsComplete : Obligations.IdentityAndPartitionCommandsComplete := by
  unfold Obligations.IdentityAndPartitionCommandsComplete
  refine ⟨?_, ?_, ?_, ?_, ?_, ?_, ?_, ?_, ?_⟩
  · -- ID_GET
    intro s n c h
    exact next_of_serves h rfl
  · -- RES_GET
    intro s n c h
    exact next_of_serves h rfl
  · -- PART_CREATE
    intro s n c h hsome ⟨hpart, hsq, hsq', hcq, hcq', hretry, hctx, hctx', hkey⟩ hnew hcells hroom hfresh hfree hvec hctxs
    refine next_of_serves h ?_
    have howned : (maskCells (c.arg 4 4)).any (fun x => (cellPart s x).isSome) = false :=
      List.any_eq_false.mpr fun x hx => by simp [(hcells x hx).1]
    have hscrub : (maskCells (c.arg 4 4)).any (fun x => s.parts.scrubbing.contains x) = false :=
      List.any_eq_false.mpr fun x hx => by simpa using (hcells x hx).2
    refine (refuseOr_only (l := [_, _, _, _, _, _, _, _]) (r := [_, _]) ?_ ?_ (partMake n c) s).trans ?_
    · simp only [ownChecks_cons, ownChecks_nil, hsome, howned, hscrub, hnew, hfresh, hfree, hsq, hsq', hcq, hcq', hctx',
        Nat.not_lt.mpr hpart, Nat.not_lt.mpr hretry, Nat.not_lt.mpr hctx, Nat.not_lt.mpr hkey, Nat.not_lt.mpr hroom,
        Option.isSome_none, bne_self_eq_false, decide_true, decide_false, Bool.and_self, Bool.not_true, Bool.or_self,
        Bool.false_eq_true, if_false]
    · simp only [ownChecks_cons, ownChecks_nil, Nat.not_lt.mpr hvec, Nat.not_le.mpr hctxs, decide_false, Bool.false_eq_true,
        if_false]
    · cases Config.sealKeysOk ((c.args.drop 48).take 1216) <;> rfl
  · -- PART_DESTROY
    intro s n c h
    exact next_of_serves h rfl
  · -- PART_GET
    intro s n c x h hx
    refine next_of_serves h ?_
    simp only [hx]
  · -- PART_QUOTA_SET
    intro s n c h hpool hfit hpins hslots
    refine next_of_serves h ?_
    have hnone : poolUsed s c.part - c.arg 4 4 = 0 := Nat.sub_eq_zero_of_le hpool
    unfold quotaSet
    rw [refuseOr_none]
    · simp only [hnone, Nat.lt_irrefl, if_false]
    refine (ownChecks_skip ?_).trans ((ownChecks_skip ?_).trans (ownChecks_skip ?_))
    · exact decide_eq_false (Nat.not_lt.mpr hfit)
    · obtain h0 | h64 := hpins
      · simp [h0]
      · simp [Nat.not_lt.mpr h64]
    · obtain hone | hfew := hslots
      · simp [hnone, hone]
      · simp [hnone, Nat.not_lt.mpr hfew]
  · -- MBX_SET
    rintro s n c _ h rfl ⟨hsq, hsq', hcq, hcq', hvec⟩ hsqMem hcqMem hapart hdb hcqTally
    refine next_of_serves h ?_
    unfold mbxSet
    rw [refuseOr_none]
    refine (ownChecks_skip ?_).trans ((ownChecks_skip ?_).trans ((ownChecks_skip ?_).trans (ownChecks_skip ?_)))
    · simp only [hsq, hsq', hcq, hcq', decide_true, Bool.and_self, Bool.not_true, Bool.or_self]
    · exact decide_eq_false (Nat.not_lt.mpr hvec)
    · obtain hafter | hbefore := hapart
      · simp [hsqMem, hcqMem, Nat.not_lt.mpr hafter]
      · simp [hsqMem, hcqMem, Nat.not_lt.mpr hbefore]
    · obtain hnone | hok := hcqTally
      · simp [hdb, hnone]
      · simp [hdb, hok]
  · -- EVQ_SET
    intro s n c h ⟨hlog, hlog', hvec⟩ hmem
    refine next_of_serves h ?_
    unfold evqSet
    rw [refuseOr_none]
    simp [Nat.not_lt.mpr hlog, Nat.not_lt.mpr hlog', Nat.not_lt.mpr hvec, hmem]
  · -- CELL_SCRUB_DONE
    intro s k hrun hk
    refine ⟨_, next_of_runs hrun (if_neg (by simp [hk])), ?_, ?_, ?_⟩
    · rw [sweepKeys_store]
    · rw [sweepKeys_sync]
      intro x hx
      simpa using (List.mem_filter.mp hx).2
    · rw [sweepKeys_store]
      intro x hx
      simpa using (List.mem_filter.mp hx).2

/-! ### Security, service and debug (R435 to R438, R447, R453, R456) -/

/-- An image as long as announced, not rolled back and of the announced digest is staged where its signature passes; the
fourth check, of the block's own counter, is left to FW_STAGE's status for a rollback (R455, R456, R467). -/
theorem fwStage_signed {s : State} {n : Nat} {c : Cmd} {img : List Byte} {x : List Byte × List Byte}
    (himg : img = tgetD s.pmp.image c.session []) (hx : x = sigSplit img) (hlen : img.length = c.arg 4 4)
    (hmin : sigLen ≤ img.length) (hmax : img.length ≤ 2 ^ 23) (hnew : rollback s 0 ≤ sgSvn x.2)
    (hcounter : sgCounter x.2 = 0) (hhash : Config.sha384 img = c.arg 8 48) :
    fwStage n c s = if ((sigChecks s 0 .mgmt x.1 x.2).zip (List.range 5)).all (fun y => y.1 || y.2 = 3) then
      complete n 0 [] { s with
        rep := { s.rep with
          images := tput (1 - s.rep.boot.slot) (sgSvn x.2, Config.sha384 x.1) s.rep.images
          preferred := 1 - s.rep.boot.slot }
        pmp := { s.pmp with image := tdel c.session s.pmp.image } }
      else complete n 0x0221 [] s := by
  subst himg hx
  have hsome : ¬ c.arg 4 4 = 0 := by rw [← hlen]; exact Nat.ne_of_gt (Nat.lt_of_lt_of_le (by decide) hmin)
  rw [hlen] at hmin hmax
  unfold fwStage
  refine (refuseOr_only (l := [_]) (r := [_, _]) ?_ ?_ _ s).trans ?_
  · simp only [ownChecks_cons, ownChecks_nil, hsome, Nat.not_lt.mpr hmax, decide_false, Bool.or_self, Bool.false_eq_true,
      if_false]
  · simp only [ownChecks_cons, ownChecks_nil, Nat.not_lt.mpr hnew, hhash, bne_self_eq_false, decide_false,
      Bool.false_eq_true, if_false]
  · simp only [hlen, hmin, hcounter, decide_true, Bool.true_and, Bool.and_true]
    cases List.all _ _ <;> rfl

/-- Writing a dump's bytes into a scratchpad leaves every byte outside them (R438). -/
theorem dbgDump_writes {s : State} {n : Nat} {c : Cmd} {x : Sa} (hx : x = Sa.of (BitVec.ofNat 64 (c.arg 8 8)))
    (hcell : cellFree s (c.arg 0 1) = true) (hdbg : s.ras.dbgUnlocked = true)
    (hspace : x.space = 1) (hown : isOwn s x.dev = true) (hat : x.off / 2 ^ 26 < 20)
    (hatFree : cellFree s (x.off / 2 ^ 26) = true) (hroom : x.off % 2 ^ 26 + c.arg 4 4 ≤ spadBytes s (x.off / 2 ^ 26)) :
    ∃ k t, k ≤ c.arg 4 4 ∧ (∀ a, a < x.off ∨ x.off + k ≤ a → byteAt t.store.spad a = byteAt s.store.spad a) ∧
      dbgDump n c s = complete n 0 (leBytes 4 k) (cnt 0x90008 1 t) := by
  subst hx
  unfold dbgDump
  rw [refuseOr_none]
  · refine ⟨(draw s).1 % (c.arg 4 4 + 1), _, Nat.le_of_lt_succ (Nat.mod_lt _ (Nat.succ_pos _)), fun a ha => ?_, rfl⟩
    exact byteAt_putBytes_other (by simpa using ha) _
  · simp only [ownChecks_cons, ownChecks_nil, hcell, hdbg, hspace, hown, hatFree, Nat.not_le.mpr hat, Nat.not_lt.mpr hroom,
      bne_self_eq_false, decide_false, Bool.not_true, Bool.or_self, Bool.false_eq_true, if_false]

/-- Settles O26: each command passes its own checks; KEYSLOT_ALLOC as some slot is free, DBG_DUMP by what it writes. -/
theorem securityAndServiceCommandsComplete : Obligations.SecurityAndServiceCommandsComplete := by
  unfold Obligations.SecurityAndServiceCommandsComplete
  refine ⟨?_, ?_, ?_, ?_, ?_, ?_, ?_, ?_, ?_, ?_, ?_, ?_, ?_, ?_, ?_, ?_, ?_, ?_, ?_, ?_⟩
  · -- ATTEST
    rintro s n c _ h rfl hlen hbuf
    refine next_of_serves h ?_
    simp only [attest, Nat.not_lt.mpr hlen, hbuf, Bool.not_true, Bool.false_eq_true, if_false]
  · -- WAYBILL_KEY_SEAL
    rintro s n c x _ h hx rfl hown hlen hbuf
    refine next_of_serves h ?_
    have hmine : (n != 0 && !ownStore s (c.arg 8 8)) = false := by
      obtain rfl | hown := hown
      · rfl
      · simp only [hown, Bool.not_true, Bool.and_false]
    simp only [keySeal, hx, hmine, Nat.not_lt.mpr hlen, hbuf, Bool.not_true, Bool.false_eq_true, if_false]
  · -- FW_STAGE
    rintro s n c _ _ h ⟨rfl, rfl⟩ ⟨hlen, hmin, hmax⟩ ⟨hnew, hcounter⟩ hhash
    exact next_of_serves h (fwStage_signed rfl rfl hlen hmin hmax hnew hcounter hhash)
  · -- KEYSLOT_ALLOC
    intro s n c h hfree
    obtain ⟨k, t, hpick⟩ := pickFree_some (s := s) hfree
    refine ⟨k, t, hpick, next_of_serves h ?_⟩
    simp only [keyAlloc, hpick]
  · -- KEYSLOT_RETIRE
    intro s n c h hissued hunused
    refine next_of_serves h ?_
    simp only [keyRetire, hissued]
    rw [if_neg (by simp), refuseOr_none]
    simp [hunused]
  · -- CHECK_SET
    intro s n c h ⟨hshadow, hretry⟩
    refine next_of_serves h ?_
    unfold checkSet
    rw [refuseOr_none]
    refine ownChecks_skip ?_
    simp only [Nat.not_lt.mpr hshadow, Nat.not_lt.mpr hretry, decide_false, Bool.or_self]
  · -- SHADOW_MAX_SET
    intro s n c h hmax
    refine next_of_serves h ?_
    unfold shadowMaxSet
    rw [refuseOr_none (ownChecks_skip (decide_eq_false (Nat.not_lt.mpr hmax)))]
  · -- SELFTEST
    rintro s n c k _ _ h rfl hidle hkind rfl
    refine next_of_serves h ?_
    unfold selftest
    rw [refuseOr_none (by simp [hidle, hkind])]
    simp only [hkind]
    cases logicalOf (testQueue (.phys (c.arg 2 2)) true c.entry
      (updTested (.phys (c.arg 2 2)) (fun r => { r with testing := true }) s)) k (c.arg 2 2 % 4096) <;> rfl
  · -- TEST_GET
    intro s n c t h hfind
    refine next_of_serves h ?_
    simp only [hfind]
  · -- QUARANTINE_LIFT
    rintro s n c k _ h rfl honce hkind ⟨hquar, hpassed⟩
    refine next_of_serves h ?_
    simp only [quarantineLift, honce, hkind, hquar, hpassed, Bool.not_true, Bool.or_self, Bool.false_eq_true, if_false]
  · -- LEDGER_READ
    rintro s n c _ h rfl ⟨hpos, hle⟩
    refine next_of_serves h ?_
    simp only [ledgerRead, Nat.not_lt.mpr hle, Nat.pos_iff_ne_zero.mp hpos, if_false]
  · -- SCRUB_SET
    intro s n c h ⟨hhour, hhour', hretry, hretry'⟩
    refine next_of_serves h ?_
    unfold scrubSet
    rw [refuseOr_none]
    refine ownChecks_skip ?_
    simp [Nat.pos_iff_ne_zero.mp hhour, Nat.not_lt.mpr hhour', Nat.pos_iff_ne_zero.mp hretry, Nat.not_lt.mpr hretry']
  · -- MBX_WDOG_SET
    intro s n c h ⟨hlo, hhi⟩
    refine next_of_serves h ?_
    unfold mbxWdogSet
    rw [refuseOr_none]
    refine ownChecks_skip ?_
    simp only [Nat.not_lt.mpr hlo, Nat.not_lt.mpr hhi, decide_false, Bool.or_self]
  · -- POWER_ENVELOPE
    intro s n c h ⟨hmax, hmin, hord⟩ ⟨hlogic, hlogic', hstack, hstack'⟩
    refine next_of_serves h ?_
    unfold powerEnvelope
    rw [refuseOr_none]
    refine ownChecks_skip ?_
    simp only [hmax, hmin, Nat.not_lt.mpr hord, Nat.not_lt.mpr hlogic, Nat.not_lt.mpr hlogic', Nat.not_lt.mpr hstack,
      Nat.not_lt.mpr hstack', decide_false, Bool.not_true, Bool.or_self]
  · -- CELL_FREQ_PIN
    intro s n c h hpin
    refine next_of_serves h ?_
    unfold cellFreqPin
    rw [refuseOr_none]
    refine ownChecks_skip ?_
    obtain hoff | ⟨hmin, hmax, hstep⟩ := hpin
    · simp [hoff]
    · simp [Nat.not_lt.mpr hmin, Nat.not_lt.mpr hmax, hstep]
  · -- CLKOUT_SET
    intro s n c h ⟨hspread, hrate⟩
    refine next_of_serves h ?_
    unfold clkoutSet
    rw [refuseOr_none]
    refine ownChecks_skip ?_
    simp only [Nat.not_lt.mpr hspread, Nat.not_lt.mpr hrate, decide_false, Bool.or_self]
  · -- POWER_GET
    intro s n c h
    exact next_of_serves h rfl
  · -- DBG_UNLOCK
    intro s n c h
    refine next_of_serves h ?_
    unfold dbgUnlock
    cases dbgToken s (c.args.drop 48) <;> rfl
  · -- DBG_DUMP
    intro s n c x h hx ⟨hcell, hdbg⟩ ⟨hspace, hown, hat, hatFree⟩ hroom
    obtain ⟨k, t, hk, hkept, hdump⟩ := dbgDump_writes (n := n) hx hcell hdbg hspace hown hat hatFree hroom
    exact ⟨k, t, hk, hkept, next_of_serves h hdump⟩
  · -- DBG_LOCK
    intro s n c h
    exact next_of_serves h rfl

end Sys2Proof.Machine

/-! Loads, stores, lanes and atomics of Drover threads (07_drover_threads.md, R117, R184 to R188). -/

namespace Sys2Proof.Machine

open Sys2Proof

/-! ### Where an access goes (Table 7.5) -/

/-- A load routed to the store issues one request to its home. -/
theorem loadAt_store {s : State} {t off sa : Nat} {x : Thread} {a : Acc} (h : route s t x a sa = .store off) (rd : RegId)
    (k : LoadKind) :
    loadAt t x a rd k sa s = nextPc t (issueLocal t [rd]
      { who := .thread t rd k, ctx := x.ctx, off := off, op := .rdS, len := a.size } s) := by
  simp only [loadAt, h]

/-- A store of `n` bytes routed to the store issues one request to their home. -/
theorem storeAt_store {s : State} {t off sa : Nat} {x : Thread} {a : Acc} (h : route s t x a sa = .store off) (n v : Nat)
    (p : Bool) :
    storeAt t x a (leBytes n v) p sa s = nextPc t (issueLocal t []
      { who := .thread t (.r 0) .d64, ctx := x.ctx, off := off, op := .wrCached, len := n, data := leBytes n v,
        poison := p } s) := by
  simp only [storeAt, h, length_leBytes]

/-- A VGATHER or VSCATTER none of whose lanes faults reaches the scratchpad at the lanes' offsets (R186). -/
theorem laneOp_of_fetched {s : State} {t : Nat} {w : BitVec 32} {x : Thread} {ld : Bool}
    (h : Fetched s t w x [.v (wA w), rb w, .v (wBits w 15 12)] .access) (hop : wOp w = 0x1B) (hreg : wA w < 16)
    (himm : wBits w 9 0 = 0) (hbase : x.pois (rb w) = false) (hidx : x.pois (.v (wBits w 15 12)) = false)
    (hlanes : laneFault (issuing t w s) t { x with insn := w }
      (if ld then .load (laneAddrs x w).1 else .store (laneAddrs x w).1) (laneAddrs x w).2 = none)
    (go : Thread → Nat → List Nat → State → State) :
    laneOp t w ld go s =
      go { x with insn := w } (laneAddrs x w).1 ((laneAddrs x w).2.map (fun a => a % 2 ^ 48)) (issuing t w s) := by
  have hnoted : laneAddrs { x with insn := w } w = laneAddrs x w := rfl
  unfold laneOp
  rw [insn_runs h (by simp [hop])]
  simp only [Nat.not_le.mpr hreg, himm, pois_noted, hbase, hidx, hnoted, hlanes, bne_self_eq_false, decide_false,
    Bool.or_self, Bool.false_eq_true, if_false]

/-- An 8-byte atomic with clean operands on a scratchpad word writes the new value and answers the old one (R117). -/
theorem atomic_spad {s : State} {t off : Nat} {w : BitVec 32} {f : AtomOp} {x : Thread}
    (h : Fetched s t w x [ra w, rb w, rc w] .release) (hop : wOp w = 0x1C) (hnarrow : wBits w 5 4 ≠ 1)
    (hbase : x.pois (rb w) = false) (hopnd : x.pois (rc w) = false) (hcmp : x.pois (ra w) = false)
    (hgoes : route (issuing t w s) t { x with insn := w } (.atomic 8) (x.read (rb w)) = .spad off) :
    atomic t w f s = result t (ra w) (leNat (bytesAt (issuing t w s).store.spad off 8))
      (tget (off / 64) (issuing t w s).store.spadPoison).isSome
      (spadStored t false (spadWrite off (leBytes 8 (atomicNew f (leNat (bytesAt (issuing t w s).store.spad off 8))
        (x.read (rc w)) (x.read (ra w)) 8)) false (issuing t w s))) := by
  unfold atomic
  simp only [hnarrow, decide_false, if_false, List.append_nil]
  rw [insn_runs h (by simp [hop])]
  rw [ra] at hcmp
  rw [rc] at hopnd
  simp only [read_noted, pois_noted, hbase, hopnd, hcmp, hgoes, Bool.false_and, Bool.and_false, Bool.or_self,
    Bool.or_false, Bool.false_eq_true, if_false, Nat.add_zero, ra, rc]

/-- Settles O9: a clean address goes where it is routed, by the lemmas of loads, stores, lanes and scratchpad atomics. -/
theorem memoryInstructionsComplete : Obligations.MemoryInstructionsComplete := by
  unfold Obligations.MemoryInstructionsComplete
  refine ⟨?_, ?_, ?_, ?_, ?_, ?_⟩
  · -- LOAD
    rintro s _ t off w x hlo hhi hb h rfl hgoes
    refine next_of_runs h.1 ((insn_runs h (by simp [hlo, hhi]) _).trans ?_)
    simp only [pois_noted, hb, Bool.false_eq_true, if_false]
    exact loadAt_store hgoes _ _
  · -- VLD
    rintro s _ t off w x hop hreg hb h rfl hgoes
    refine next_of_runs h.1 ((insn_runs h (by simp [hop]) _).trans ?_)
    simp only [Nat.not_le.mpr hreg, pois_noted, hb, Bool.false_eq_true, if_false]
    exact loadAt_store hgoes _ _
  · -- STORE
    rintro s _ t off w x hlo hhi hb h rfl hgoes
    refine next_of_runs h.1 ((insn_runs h (by simp [hlo, hhi]) _).trans ?_)
    simp only [pois_noted, hb, Bool.false_eq_true, if_false]
    exact storeAt_store hgoes _ _ _
  · -- VST
    rintro s _ t off w x hop hreg hb h rfl hgoes
    refine next_of_runs h.1 ((insn_runs h (by simp [hop]) _).trans ?_)
    simp only [Nat.not_le.mpr hreg, pois_noted, hb, Bool.false_eq_true, if_false]
    exact storeAt_store hgoes _ _ _
  · -- VGATHER and VSCATTER
    rintro s _ t w x hop hreg himm hb hidx h rfl
    exact ⟨fun hlanes => ⟨_, next_of_runs h.1 (laneOp_of_fetched (ld := true) h hop hreg himm hb hidx hlanes _)⟩,
      fun hlanes => next_of_runs h.1 (laneOp_of_fetched (ld := false) h hop hreg himm hb hidx hlanes _)⟩
  · -- ATOMIC
    rintro s _ t off w f x hop hnarrow hb hc ha h rfl hgoes
    exact next_of_runs h.1 (atomic_spad h hop hnarrow hb hc ha hgoes)

end Sys2Proof.Machine

/-! Lost agents, held beacons, posted host writes and sync waits (04_memory_model_coherence.md, 05_synchronisation.md,
R122 to R127, R145, R146, R152). -/

namespace Sys2Proof.Machine

open Sys2Proof

/-- A timed row of the data path answers what its operation answers at its time, while the data path runs. -/
theorem next_of_timer {s u : State} {due : Nat} {f : State → State} (h : s.halted = false) (hf : f (reach due s) = u) :
    (Host.Outcome.next (timer due f s) : Host.Outcome State Fault Refusal) = .next u := by
  rw [timer_of_runs h, hf]

/-- A line with one snoop out: the agent asked is lost when it has not answered 10 µs later (R127). -/
theorem snoopTimeout_single {s : State} {line : Nat} {x : Snoop} (hrun : s.halted = false)
    (hone : s.coh.snoops.filter (fun y => y.line = line) = [x]) :
    (s.coh.snoops.filter (fun y => y.line = line)).foldl (fun s y => timer (y.since + 10000) (agentLost y.port) s) s =
      agentLost x.port (reach (x.since + 10000) s) := by
  rw [hone, List.foldl_cons, List.foldl_nil, timer_of_runs hrun]

/-- A held beacon whose legs have all landed is applied, and its source learns how it ended (R124). -/
theorem beaconRelease_landed {s : State} {p id : Nat} {x : Stream} {b : Beacon} (hx : strOf s p id = some x)
    (hb : x.bcn = some b) (hlanded : beaconState s p x = some .done) :
    beaconRelease p id s =
      beaconDone p id x (applyBeacon x.ctx b.target b.opnd s).1 (applyBeacon x.ctx b.target b.opnd s).2 := by
  simp only [beaconRelease, hx, hb, hlanded, if_true]

/-- A beacon held past BEACON_HOLD is discarded, as CHECK_FAIL or as TIMEOUT, and counted (R125). -/
theorem beaconExpiry_discards {s : State} {p id : Nat} {x : Stream} {b : Beacon} (hrun : s.halted = false)
    (hx : strOf s p id = some x) (hb : x.bcn = some b) :
    ∃ st, (st = Status.timeout ∨ st = Status.checkFail) ∧ beaconExpiry p id s =
      beaconDone p id x st (cnt (cellReg (beaconCell (reach (b.since + s.sync.beaconHold) s) b.target) 0x520) 1
        (reach (b.since + s.sync.beaconHold) s)) := by
  simp only [beaconExpiry, hx, hb, timer_of_runs hrun]
  refine ⟨_, ?_, rfl⟩
  split
  · exact .inr rfl
  · exact .inl rfl

/-- A posted write with no earlier one outstanding lands, on sync targets too (R122). -/
theorem hostWrite_first {s : State} {id : Nat} {w : HeldWr}
    (hheld : s.coh.heldWr.find? (fun x => x.1.id = id) = some (w, [])) :
    hostWrite id s = landPosted w
      { s with coh := { s.coh with heldWr := s.coh.heldWr.filter (fun x => x.1.id != id) } } := by
  simp only [hostWrite, hheld, bne_self_eq_false, Bool.and_false, Bool.false_eq_true, if_false]

/-- Settles O6: each row finds its snoop, beacon, write or waiter, and its timer runs at the due time. -/
theorem agentsHostWritesAndWaitsComplete : Obligations.AgentsHostWritesAndWaitsComplete := by
  unfold Obligations.AgentsHostWritesAndWaitsComplete
  refine ⟨?_, ?_, ?_, ?_, ?_⟩
  · -- SNOOP_TIMEOUT
    intro s line x hrun hone
    exact next_of_runs hrun (congrArg resumePublish (snoopTimeout_single hrun hone))
  · -- BEACON_RELEASE and BEACON_HOLD_EXPIRY
    intro s p id x b hrun hx hb
    obtain ⟨st, hst, hdone⟩ := beaconExpiry_discards hrun hx hb
    exact ⟨fun hlanded => next_of_runs hrun (beaconRelease_landed hx hb hlanded), _, rfl, st, hst, hdone⟩
  · -- HOST_WRITE
    intro s id w hrun hheld
    exact next_of_runs hrun (hostWrite_first hheld)
  · -- WAIT_TIMEOUT and WAIT_POLL
    intro s i w hrun hw
    refine ⟨next_of_runs hrun ?_, fun hpoll hholds => next_of_runs hrun ?_⟩
    · simp only [hw, timer_of_runs hrun]
    · simp only [hw, hpoll, hholds, Bool.and_self, if_true]
  · -- FE_WAIT_TIMEOUT
    rintro s _ _ i w hrun hw rfl rfl
    refine next_of_runs hrun ?_
    simp only [hw, timer_of_runs hrun]
    rfl

end Sys2Proof.Machine

/-! Flits and link messages (13_edge_ports.md, R110, R119, R127, R342 to R348). -/

namespace Sys2Proof.Machine

open Sys2Proof

/-! ### Rows of an edge port -/

/-- A row of an edge port answers what its operation answers, while the data path runs. -/
theorem next_of_port {s u : State} {p : Nat} {f : State → State} (h : s.halted = false) (hp : p < 8) (hf : f s = u) :
    (Host.Outcome.next (dp (fun s => if p < 8 then f s else s) s) : Host.Outcome State Fault Refusal) = .next u :=
  next_of_runs h ((if_pos hp).trans hf)

/-- A message that arrives within its credits answers what its operation answers in the state that has taken it. -/
theorem next_of_heard {s u : State} {p : Nat} {k : MsgKind} {data : List Byte} {f : State → State} (h : Open s p)
    (hc : creditLeft s p k data) (hf : f (heard p k data s) = u) :
    (Host.Outcome.next (arrive p k data f s) : Host.Outcome State Fault Refusal) = .next u := by
  rw [arrive_of_open h hc, hf]

/-- The record of a port that has been changed. -/
theorem port_updPort_self {p : Nat} (hp : p < 8) (f : Port → Port) (s : State) : port (updPort p f s) p = f (port s p) := by
  simp [port, Vector.getD, hp]

/-- Taking a message leaves its port as coherent as it is. -/
theorem port_heard_coherent {s : State} {p : Nat} (hp : p < 8) (k : MsgKind) (data : List Byte) :
    (port (heard p k data s) p).coherent = (port s p).coherent := by
  rw [heard, port_updPort_self hp]

/-! ### Flits (R342 to R344) -/

/-- A flit that passes the checks of Table 13.8 is counted, moves the expected SEQ on, and its ACK and credits are taken. -/
theorem flitReceive_accepts {s : State} {p : Nat} {f : Flit} (h : Open s p) (hcrc : f.crc = true) (htype : f.ftype ≤ 3)
    (hclass : f.cclass ≤ 3) (htag : f.tag = true) (hseq : BitVec.ofNat 20 f.seq = (port s p).rxSeq)
    (hsptag : f.sptag = (port s p).cfg.sptag) :
    flitReceive p f s = flitAck p f (flitStep p f
      (if f.ftype = 0 then flitNote p f s else cnt (portReg p 0x20) 1 (flitNote p f s))) := by
  simp only [flitReceive, h.active, hcrc, Nat.not_lt.mpr htype, Nat.not_lt.mpr hclass, htag, hseq, hsptag, h.fence,
    bne_self_eq_false, decide_false, Bool.not_true, Bool.or_self, Bool.false_eq_true, if_false]

/-- With nothing to give back, what has arrived is acknowledged without credits. -/
theorem flitAckSend_noCredits {s : State} {p : Nat} (h : Open s p) (hsome : (port s p).rxCount ≠ 0)
    (hnone : (port s p).rxHeld = [0, 0, 0, 0]) :
    flitAckSend p s = emit (.ctl p 4 ((port s p).rxSeq - 1).toNat)
      (updPort p (fun x => { x with rxCount := 0, rxHeld := [0, 0, 0, 0] }) s) := by
  have hgo : ((port s p).st != .active || (port s p).rxCount = 0) = false := by simp [h.active, hsome]
  have hzero : ∀ c ∈ List.range 4, [0, 0, 0, 0].getD c 0 = 0 := by decide
  simp only [flitAckSend, hgo, Bool.false_eq_true, if_false, hnone]
  exact List.foldlRecOn (motive := fun t => t = emit _ _) _ _ rfl
    fun t ht c hc => (if_pos (hzero c hc)).trans ht

/-! ### Requests of a partner (R110, R119, R345 to R347) -/

/-- A request of the coherent agent goes to its home. -/
theorem agentReq_coherent {s : State} {p : Nat} (h : (port s p).coherent = true) (tag ctx : Nat) (a : Addr) (op : ReqOp) :
    agentReq p tag ctx a op s = linkReq p tag ctx a op [] [] s :=
  if_pos h

/-- The coherent agent gives up a line it holds in M: data of a write back lands, its entry goes, and it is answered. -/
theorem agentGives_owned {s : State} {p tag ctx off : Nat} {a : Addr} {d : Option (List Byte)} {e : DirEnt}
    (hcoh : (port s p).coherent = true) (hline : agentLine s p ctx a = some off)
    (hent : tget (off / 64) s.coh.dir = some e) (hm : e.m = true) (hown : e.owner = 0x40 + p)
    (hcheck : homeCheck s ctx off d.isSome = none) :
    agentGives p tag ctx a d s =
      emit (.link p { kind := .rspAck, tag := tag, ctx := ctx, status := 0, args := [s.parts.devNo] })
        { d.elim s (fun d => landLine off (padTo 64 d) [] false s) with
          coh := { s.coh with dir := tdel (off / 64) s.coh.dir } } := by
  simp only [agentGives, hcoh, hline, hcheck, hent, hm, hown, decide_true, Bool.and_self, Bool.not_true,
    Bool.false_eq_true, if_false, if_true]
  cases d <;> rfl

/-- A tally update that is not misused acts at its home, and the word it leaves is answered (R347). -/
theorem syncUpd_acts {s : State} {p tag ctx : Nat} {sa v : BitVec 64} (hcheck : syncCheck s p ctx sa = none)
    (hgood : tallyRefused s ((Sa.of sa).off / 8) v = false) (sub : Bool) :
    syncUpd p tag ctx sa v sub s =
      emit (.link p { kind := .rspSync, tag := tag, ctx := ctx, status := 0,
                      args := [(tallyAt (tallyApply sub ((Sa.of sa).off / 8) v ctx s) ((Sa.of sa).off / 8)).toNat] })
        (tallyApply sub ((Sa.of sa).off / 8) v ctx s) := by
  simp only [syncUpd, hcheck, hgood, Bool.false_eq_true, if_false, Status.code]

/-- A wait of a partner that passes its checks starts at its home, in monitor mode (R347). -/
theorem syncWait_starts {s : State} {p ctx : Nat} {sa : BitVec 64} (hmode : s.sync.feMode = false)
    (hcheck : syncCheck s p ctx sa = none) (tag n : Nat) (v : BitVec 64) (op : TallyOp) :
    syncWait p tag ctx sa v n op s = waitStart op ((Sa.of sa).off / 8) v (n % 2 ^ 32) ctx (.remote p tag) s := by
  simp only [syncWait, hmode, hcheck, Bool.false_eq_true, if_false]

/-- A full/empty message of an aligned line goes to its home, in full/empty mode (R347). -/
theorem feOpMsg_goes {s : State} {sa : BitVec 64} (hmode : s.sync.feMode = true) (halign : (Sa.of sa).off % 64 = 0)
    (p tag ctx n : Nat) (f : FeOp) (d : List Byte) :
    feOpMsg p tag ctx sa f n d s = linkReq p tag ctx (.sa sa) (.fe f (n % 2 ^ 32)) (padTo 64 d) [] s := by
  simp only [feOpMsg, hmode, halign, bne_self_eq_false, Bool.not_true, Bool.false_eq_true, if_false]

/-! ### Snoops and answers (R127, R345) -/

/-- A demand for an agent's copy is sent to invalidate it, or to reduce it where it is modified (R345). -/
theorem demand_asks {s : State} {p line : Nat} {e : DirEnt} {inv : Bool} (hent : tget line s.coh.dir = some e)
    (hheld : (agentsOf e).contains p = true) (hasks : (inv || e.m) = true) :
    demand p line inv s =
      snoop line [p] inv { who := .migration, ctx := 0, off := line * 64, op := .rdNc, len := 64 } s := by
  simp only [demand, hent, hheld, hasks, Bool.and_self, if_true]

/-- An answer ends what waited under its TAG, and frees the TAG. -/
theorem answer_of_tag {s : State} {p tag : Nat} {r : Remote} (htag : tget tag (port s p).tags = some r) (st : Status)
    (data : List Byte) (z : Bool) (word : Option Nat) :
    answer p tag st data z word s = remoteEnd r st data z word (freeTag p tag s) := by
  simp only [answer, htag]

/-- An agent's answer without data, for a line that no agent holds any more, serves what waited for it (R127). -/
theorem snoopAnswer_clean {s : State} {p line : Nat} {x : Snoop}
    (hout : s.coh.snoops.find? (fun x => x.line = line && x.port = p) = some x) (hnone : tget line s.coh.dir = none)
    (z : Bool) :
    snoopAnswer p line none z s = resumePublish (serveAll x.reqs { s with coh := { s.coh with
      snoops := s.coh.snoops.filter (fun y => !(y.line = line && y.port = p)) } }) := by
  simp only [snoopAnswer, hout, hnone]

/-- Settles O16: flits by what an accepted one and an acknowledgement do, each message by the lemma of its operation in the
state that has taken it. -/
theorem linkMessageRowsComplete : Obligations.LinkMessageRowsComplete := by
  unfold Obligations.LinkMessageRowsComplete
  refine ⟨?_, ?_, ?_, ?_, ?_, ?_, ?_, ?_, ?_, ?_, ?_, ?_⟩
  · -- FLIT_RECEIVE
    rintro s _ p f h hcrc htype hclass htag hseq hsptag rfl
    exact next_of_port h.runs h.port (flitReceive_accepts h hcrc htype hclass htag hseq hsptag)
  · -- RETRY
    rintro s p seq _ _ h rfl hfew rfl
    refine next_of_port h.runs h.port ?_
    simp only [retry, h.active, Nat.not_le.mpr hfew, bne_self_eq_false, Bool.false_eq_true, if_false]
  · -- KEYUPDATE
    intro s p h
    refine next_of_port h.runs h.port ?_
    simp only [keyUpdate, h.active, bne_self_eq_false, Bool.false_eq_true, if_false]
  · -- FLIT_ACK_SEND
    intro s p h hsome hnone
    exact next_of_port h.runs h.port (flitAckSend_noCredits h hsome hnone)
  · -- RD_S, RD_M and UPG_M
    intro s u p tag ctx a h hcoh
    have hreq : ∀ k op, agentReq p tag ctx a op (heard p k [] s) = linkReq p tag ctx a op [] [] (heard p k [] s) :=
      fun k op => agentReq_coherent ((port_heard_coherent h.port k []).trans hcoh) tag ctx a op
    refine ⟨?_, ?_, ?_⟩
    · rintro hc rfl
      exact next_of_heard h hc (hreq _ _)
    · rintro hc rfl
      exact next_of_heard h hc (hreq _ _)
    · rintro hc rfl
      exact next_of_heard h hc (hreq _ _)
  · -- WB and EVICT
    intro s u p tag ctx off a d e h hcoh hline hent hm hown
    refine ⟨?_, ?_⟩
    · rintro hc rfl hcheck
      exact next_of_heard h hc
        (agentGives_owned (d := some d) ((port_heard_coherent h.port _ _).trans hcoh) hline hent hm hown hcheck)
    · rintro hc rfl hcheck
      exact next_of_heard h hc
        (agentGives_owned (d := none) ((port_heard_coherent h.port _ _).trans hcoh) hline hent hm hown hcheck)
  · -- RD_NC, WR_LINE and WR_PART
    intro s u p tag ctx a d m h
    refine ⟨?_, ?_, ?_⟩
    · rintro hc rfl
      exact next_of_heard h hc rfl
    · rintro hc rfl
      exact next_of_heard h hc rfl
    · rintro hc rfl
      exact next_of_heard h hc rfl
  · -- SYNC_UPD, SYNC_RD and SYNC_WAIT
    rintro s u t p tag ctx _ sa v sub lim h rfl hcheck
    refine ⟨?_, ?_, ?_⟩
    · rintro hc rfl rfl hgood
      exact next_of_heard h hc (syncUpd_acts hcheck hgood sub)
    · rintro hc rfl
      refine next_of_heard h hc ?_
      simp only [syncRd, hcheck]
    · rintro hc rfl hmode
      exact ⟨next_of_heard h hc (syncWait_starts hmode hcheck ..), next_of_heard h hc (syncWait_starts hmode hcheck ..),
        next_of_heard h hc (syncWait_starts hmode hcheck ..)⟩
  · -- FE_OP
    rintro s _ p tag ctx sa f lim d h hc rfl hmode halign
    exact next_of_heard h hc (feOpMsg_goes hmode halign ..)
  · -- SNP_INV and SNP_SHR
    intro s p line e hrun hp hent hheld
    exact ⟨next_of_port hrun hp (demand_asks hent hheld rfl), fun hm => next_of_port hrun hp (demand_asks hent hheld hm)⟩
  · -- RSP_DATA, RSP_ACK, RSP_FAULT and RSP_SYNC
    intro s u p tag n r d z v h htag
    refine ⟨?_, ?_, ?_, ?_⟩
    · rintro hc rfl
      exact next_of_heard h hc (answer_of_tag htag ..)
    · rintro hc rfl
      exact next_of_heard h hc (answer_of_tag htag ..)
    · rintro hc rfl hbad
      exact next_of_heard h hc ((if_neg (by simp [hbad])).trans (answer_of_tag htag ..))
    · rintro hc rfl
      exact next_of_heard h hc (answer_of_tag htag ..)
  · -- RSP_SNP
    rintro s _ _ p line z x h hc rfl hout hnone rfl
    exact next_of_heard h hc (snoopAnswer_clean hout hnone z)

end Sys2Proof.Machine

/-! Caravans and Serai batches (14_caravans_serai.md, R124, R350 to R375). -/

namespace Sys2Proof.Machine

open Sys2Proof

/-! ### Carriers (R350, R352, R355) -/

/-- A logically fenced port is cut off: its lanes go idle, and fences that waited for it complete (R350). -/
theorem electricalFence_cuts {s : State} {p : Nat} (hlog : (port s p).fenceLog = true)
    (helec : (port s p).fenceElec = false) :
    electricalFence p s =
      fencesDone (updPort p (fun x => { x with fenceElec := true, width := 0 }) (leaveActive p .fenced s)) := by
  simp only [electricalFence, hlog, helec, Bool.not_true, Bool.or_self, Bool.false_eq_true, if_false]

/-- The first queued caravan of its partition starts on a port with a place free, and its first leg is read (R352). -/
theorem caravanStart_queued {s s1 : State} {u id : Nat} {o : EngOp} (ho : tget id s.eng.ops = some o)
    (hkind : o.kind = .port) (hunit : o.unit = u) (hst : o.st = .queued)
    (hfirst : s.eng.ops.any (fun x => decide (x.1 < id) && x.2.kind = .port && x.2.unit = u && x.2.part = o.part
      && x.2.st = .queued) = false)
    (hroom : carsRunning s .port u o.part < 16)
    (hs1 : s1 = updOp id (fun o => { o with st := .running, phys := u }) s) (host : Option (List Byte)) :
    caravanStart .port u id host s = nextLeg id host { s1 with car := { s1.car with
      cars := tput id
        { id := id, kind := .port, unit := u, part := o.part, ctx := 0, fclass := 0, first := o.sa, next := o.sa }
        s1.car.cars } } := by
  simp only [caravanStart, ho, hkind, hunit, hst, hfirst, Nat.not_le.mpr hroom, ← hs1, bne_self_eq_false, decide_true,
    decide_false, Bool.true_or, Bool.not_true, Bool.or_self, Bool.false_eq_true, if_false, if_true]

/-- The row of a caravan that has started goes on with its next leg (R352). -/
theorem caravanStart_started {s : State} {u id : Nat} {o : EngOp} (ho : tget id s.eng.ops = some o) (hkind : o.kind = .port)
    (hunit : o.unit = u) (hst : o.st ≠ .queued) (host : Option (List Byte)) :
    caravanStart .port u id host s = nextLeg id host s := by
  simp only [caravanStart, ho, hkind, hunit, hst, bne_self_eq_false, decide_true, Bool.true_or, Bool.not_true, Bool.or_self,
    Bool.false_eq_true, if_false]

/-- A leg that waits is sent next. -/
theorem nextLeg_waiting {s : State} {id i : Nat} {c : Caravan} (hc : carOf s id = some c)
    (hwait : (List.range c.legs.length).find? (fun i => (legAt c i).st = .waiting) = some i) (host : Option (List Byte)) :
    nextLeg id host s = sendLeg id i host s := by
  simp only [nextLeg, hc, hwait]

/-- A leg from this device's memory over an ACTIVE port is read and pushed (R355). -/
theorem sendLeg_push {s s1 : State} {id i : Nat} {c : Caravan} {r : SrcRead} (hc : carOf s id = some c)
    (hkind : c.kind = .port) (hactive : portActive s c.unit = true) (hpull : lPull s (legAt c i).desc = false)
    (hhost : lHost (legAt c i).desc = false) (hfill : lKind (legAt c i).desc ≠ 4)
    (hread : readPieces c.ctx c.part (lPieces (legAt c i).desc) (legFlush c (legAt c i).desc s) = (r, s1))
    (hok : r.res = .ok) (host : Option (List Byte)) :
    sendLeg id i host s = pushLeg c i (legAt c i) r s1 := by
  simp only [sendLeg, hc, hkind, hactive, hpull, hhost, hfill, hread, hok, decide_true, Bool.not_true, Bool.and_false,
    Bool.false_and, Bool.false_eq_true, if_false, if_true]

/-! ### Landing streams (R358, R361, R366) -/

/-- An OPEN of a free stream number with its store, context and slot in order makes the stream (R358). -/
theorem landOpen_opens {s : State} {p : Nat} {m : Msg} (hnew : strOf s p m.tag = none)
    (hown : isOwn s (Sa.of m.sa).dev = true) (hspace : (Sa.of m.sa).space = 0) (hadm : admits s m.ctx p = true)
    (hslot : holdsSlot s ((ctxPart s m.ctx).getD 20) p = true) (hplain : bit (m.args.getD 1 0) 3 = false) :
    ∃ x, landOpen p m s = { s with car := { s.car with streams := tput (strKey p m.tag) x s.car.streams } } ∧
      x.ctx = m.ctx ∧ x.kind = m.args.getD 0 0 ∧ x.flags = m.args.getD 1 0 ∧ x.len = m.args.getD 2 0 ∧
      x.dst = m.sa.toNat := by
  simp only [landOpen, hnew, hown, hspace, hadm, hslot, hplain, bne_self_eq_false, Bool.not_true, Bool.or_self,
    Bool.false_and, Bool.false_eq_true, if_false]
  exact ⟨_, rfl, rfl, rfl, rfl, rfl, rfl⟩

/-- A chunk of an open stream without FRB is kept, the lines it completes land, and it is acknowledged (R358). -/
theorem landChunk_lands {s : State} {p id : Nat} {x : Stream} (hx : strOf s p id = some x) (hopen : x.closed = none)
    (hplain : bit x.flags 3 = false) (k : Nat) (d : List Byte) (lane : Lane) :
    landChunk p id k d lane s = ackStream p id (cnt (portReg p 0x218) (min 224 d.length) (landReady p id
      (updStr p id (fun x => { x with chunks := tput k (d.take 224) x.chunks, since := s.now }) s))) := by
  simp only [landChunk, hx, Stream.open, hopen, hplain, Option.isNone_none, Bool.not_true, Bool.false_eq_true, if_false]

/-- Marks for a stream of which no line has landed are kept for the lines to come (R358). -/
theorem landPoison_ahead {s : State} {p : Nat} {m : Msg} {x : Stream} (hx : strOf s p m.tag = some x) (hnone : x.done = []) :
    landPoison p m s = updStr p m.tag (fun x => { x with poison := x.poison ++ m.args, since := s.now }) s := by
  simp only [landPoison, hx, hnone, List.filter_nil, List.foldl_nil, ite_self]

/-- The state in which stream `x` has closed as DONE: its leg's lines stand in the record of its caravan. -/
def closedDone (p id : Nat) (x : Stream) (s : State) : State :=
  let key := landKey p x.dev x.car
  let lc := tgetD s.car.land key {}
  updStr p id (fun x => { x with closed := some .done, since := s.now }) { s with car := { s.car with
    land := tput key { lc with legs := tput x.leg (x.landed + x.faulted, .done) lc.legs, dead := lc.dead.erase x.leg }
      s.car.land } }

@[simp] theorem closedDone_store (p id : Nat) (x : Stream) (s : State) : (closedDone p id x s).store = s.store := rfl

/-- A stream whose lines are all written and whose digests agree closes with FINAL to its source (R361). -/
theorem legClose_finishes {s u : State} {p id : Nat} {x : Stream} (hu : u = landReady p id s)
    (hx : strOf u p id = some x) (hopen : x.closed = none) (hfin : x.finished = true) (hfault : x.fault = none)
    (hgone : x.abandoned = none) (hagree : x.disagree = false) (hblocks : x.blocks = []) (hkind : x.kind ≠ 5)
    (hdev : x.dev ≠ u.parts.devNo) :
    legClose p id .pass s =
      emit (.link p { kind := .final, tag := id, ctx := x.ctx, status := 0
                      args := [x.landed, x.faulted, crc64 (x.out.flatMap Prod.snd), 0, 0] }) (closedDone p id x u) := by
  subst hu
  simp only [legClose, hx, Stream.open, hopen, hfin, hfault, hgone, hagree, hblocks, hkind, updStr, hdev, closedDone,
    List.any_nil, Option.isNone_none, bne_self_eq_false, reduceCtorEq, decide_false, Bool.not_true, Bool.or_self,
    Bool.false_and, Bool.false_eq_true, if_false, Status.code]

/-- A stream of another device, with no beacon held, is freed once its time has run (R366). -/
theorem streamIdle_frees {s : State} {p id : Nat} {x : Stream} (hrun : s.halted = false) (hx : strOf s p id = some x)
    (hdev : x.dev ≠ s.parts.devNo) (hbcn : x.bcn = none) :
    (streamIdle p id s).car.streams = tdel (strKey p id) s.car.streams ∧ (streamIdle p id s).store = s.store := by
  simp only [streamIdle, hx, hdev, hbcn, timer_of_runs hrun, if_false]
  split
  · exact ⟨rfl, rfl⟩
  · exact ⟨rfl, rfl⟩

/-- A pull of this device's memory that reads to its end is sent on its return stream (R355). -/
theorem pullArrives_sends {s : State} {p : Nat} {m : Msg} {r : SrcRead × State} {ps : List (Nat × Nat)}
    (hspace : (Sa.of m.sa).space = 0) (hown : isOwn s (Sa.of m.sa).dev = true) (hadm : admits s m.ctx p = true)
    (hslot : holdsSlot s ((ctxPart s m.ctx).getD 20) p = true)
    (hps : ps = (if m.args.getD 1 0 = 0 then [(m.sa.toNat, m.args.getD 0 0)]
      else (List.range (m.args.getD 0 0 / m.args.getD 1 0)).map (fun i => (m.sa.toNat + i * m.args.getD 2 0, m.args.getD 1 0))))
    (hr : r = readPieces m.ctx ((ctxPart s m.ctx).getD 20) ps s) (hok : r.1.res = .ok) :
    pullArrives p m s = cnt (portReg p 0x210) r.1.bytes.length
      ((pullMsgs (m.args.getD 3 0) m.ctx .ok r.1).foldl (fun s m => emit (.link p m) s) r.2) := by
  simp only [pullArrives, hspace, hown, hadm, hslot, ← hps, ← hr, hok, bne_self_eq_false, Bool.not_true, Bool.or_self,
    Bool.false_eq_true, if_false]

/-- A beacon is noted on its stream, and counted where it must wait (R124). -/
theorem beaconArrives_notes {s v : State} {p : Nat} {m : Msg} {x y : Stream} {b : Beacon} (hx : strOf s p m.tag = some x)
    (hb : b = { target := m.args.getD 0 0, opnd := m.args.getD 1 0, count := m.args.getD 2 0, since := s.now })
    (hv : v = updStr p m.tag (fun x => { x with bcn := some b, since := s.now }) s) (hy : strOf v p m.tag = some y) :
    beaconArrives p m s =
      if (beaconState v p y).isNone then cnt (cellReg (beaconCell v b.target) 0x518) 1 v else v := by
  subst hb
  simp only [beaconArrives, hx, ← hv, hy]

/-! ### Endings at the source (R362 to R366) -/

/-- A leg in flight that met an ending is given up ACK_TIMEOUT after it (R364). -/
theorem legTimeout_ended {s : State} {c i t n : Nat} {x : Caravan} (hrun : s.halted = false) (hx : carOf s c = some x)
    (hst : (legAt x i).st = .sent) (hkind : lKind (legAt x i).desc ≠ 7) (hev : (legAt x i).event = some (t, n)) :
    legTimeout c i s = legEnds c i (fun l => l) (reach (t + s.car.ackTimeout) s) := by
  simp only [legTimeout, hx, hst, hkind, hev, timer_of_runs hrun, bne_self_eq_false, decide_false, Bool.or_self,
    Bool.false_eq_true, if_false]

/-- A leg in flight of a port without progress for ACK_TIMEOUT ends as TIMEOUT, and is counted (R366). -/
theorem legTimeout_silent {s : State} {c i : Nat} {x : Caravan} (hrun : s.halted = false) (hx : carOf s c = some x)
    (hst : (legAt x i).st = .sent) (hkind : lKind (legAt x i).desc ≠ 7) (hev : (legAt x i).event = none)
    (hport : x.kind = .port) :
    legTimeout c i s = legEvent c i .timeout
      (cnt (portReg x.unit 0x230) 1 (reach ((legAt x i).since + s.car.ackTimeout) s)) := by
  simp only [legTimeout, hx, hst, hkind, hev, hport, timer_of_runs hrun, bne_self_eq_false, decide_false, Bool.or_self,
    Bool.false_eq_true, if_false, if_true]

/-- A FENCE that covers no caravan any more ends (R363). -/
theorem fenceDone_ends {s : State} {id : Nat} {c : Caravan} (hc : carOf s id = some c)
    (hkind : lKind (legAt c 0).desc = 7) (hst : (legAt c 0).st = .sent) (hnone : c.covers = []) :
    fenceDone id s = legEnds id 0 (fun l => { l with status := .done }) s := by
  simp only [fenceDone, hc, hkind, hst, hnone, decide_true, Bool.and_self, if_true]

/-! ### Batches (R373 to R375) -/

/-- A well-formed batch of an admitted context is performed in record order (R374). -/
theorem batchArrives_performs {s : State} {p : Nat} {m : Msg} {rs : List (Nat × Nat × Nat × List Byte)}
    (hadm : admits s m.ctx p = true) (hslot : holdsSlot s ((ctxPart s m.ctx).getD 20) p = true)
    (hrs : serParse m.data.length m.data = some rs) :
    batchArrives p m s = (rs.zip (List.range rs.length)).foldl (fun s x => batchPerform p m x.1 x.2 s)
      { s with car := { s.car with
        batches := tput (strKey p m.tag) { count := rs.length, ret := m.args.getD 2 0, ctx := m.ctx, since := s.now }
          s.car.batches } } := by
  simp only [batchArrives, hadm, hslot, hrs, Bool.not_true, Bool.false_eq_true, if_false]

/-- A batch whose every record is performed returns its results and closes (R374). -/
theorem batchFarDone_returns {s : State} {p id : Nat} {b : Batch} (hb : tget (strKey p id) s.car.batches = some b)
    (hall : b.count ≤ b.results.length) :
    batchFarDone p id s = batchEnd p id b.ctx .done ((chunksOf b.ret b.ctx (batchBytes b)).foldl
      (fun s m => emit (.link p m) s)
      (emit (.link p { kind := .batchResult, tag := b.ret, ctx := b.ctx, args := [b.count, (batchBytes b).length] })
        { s with car := { s.car with batches := tdel (strKey p id) s.car.batches } })) := by
  simp only [batchFarDone, hb, Nat.not_lt.mpr hall, if_false]

/-- Settles O17: every message acts in the state that has taken it, and every row by the lemma of its operation. -/
theorem caravanAndSeraiRowsComplete : Obligations.CaravanAndSeraiRowsComplete := by
  unfold Obligations.CaravanAndSeraiRowsComplete
  refine ⟨?_, ?_, ?_, ?_, ?_, ?_, ?_, ?_, ?_, ?_, ?_, ?_, ?_, ?_, ?_, ?_, ?_⟩
  · -- ELECTRICAL_FENCE
    intro s p hrun hp hlog helec
    exact next_of_port hrun hp (electricalFence_cuts hlog helec)
  · -- CARAVAN_START of a queued caravan
    intro s s1 u id host o hrun ho hkind hunit hst hfirst hroom hs1
    exact next_of_runs hrun (caravanStart_queued ho hkind hunit hst hfirst hroom hs1 host)
  · -- CARAVAN_START of a leg that waits
    rintro s s1 _ id i host o c _ r hrun ho hkind hunit hst hc hck rfl hwait rfl hactive hpull hhost hfill hread hok
    refine next_of_runs hrun ((caravanStart_started ho hkind hunit hst host).trans ?_)
    rw [nextLeg_waiting hc hwait, sendLeg_push hc hck hactive hpull hhost hfill hread hok]
  · -- OPEN
    rintro s _ p m h hc rfl hnew hown hspace hadm hslot hplain
    obtain ⟨x, hopens, hfields⟩ := landOpen_opens hnew hown hspace hadm hslot hplain
    exact ⟨x, next_of_heard h hc hopens, hfields⟩
  · -- PULL
    rintro s _ p m r ps h hc rfl hspace hown hadm hslot hps hr hok
    exact next_of_heard h hc (pullArrives_sends hspace hown hadm hslot hps hr hok)
  · -- DATA_FLIT
    rintro s _ p id k d lane x h hc rfl hx hopen hplain
    exact next_of_heard h hc (landChunk_lands hx hopen hplain k d lane)
  · -- CLOSE, POISON, BEACON and ABANDON
    intro s u v p m x y st b h
    refine ⟨?_, ?_, ?_, ?_⟩
    · rintro hc rfl hx
      refine next_of_heard h hc ?_
      simp only [landClose, hx]
    · rintro hc rfl hx hnone
      exact next_of_heard h hc (landPoison_ahead hx hnone)
    · rintro hc rfl hx hb hv hy
      have hnotes := beaconArrives_notes hx hb hv hy
      refine ⟨fun hst => next_of_heard h hc (hnotes.trans ?_), fun hst => next_of_heard h hc (hnotes.trans ?_)⟩
      · simp only [hst, Option.isNone_some, Bool.false_eq_true, if_false]
      · simp only [hst, Option.isNone_none, if_true]
    · rintro hc rfl hx hopen hst
      refine next_of_heard h hc ?_
      simp only [abandonArrives, hx, Stream.open, hopen, hst, Option.isNone_none, if_true]
  · -- ACK, FINAL and BCN_RESULT
    intro s u p c i m h hleg hst
    have hdone : statusOf m.status = .done := by rw [hst]; rfl
    refine ⟨?_, ?_, ?_⟩
    · rintro hc rfl
      refine next_of_heard h hc ?_
      simp only [ackArrives, hleg, hst, if_true]
    · rintro hc rfl
      refine next_of_heard h hc ?_
      simp only [finalArrives, hleg, hdone, reduceCtorEq, decide_false, Bool.or_self, Bool.false_eq_true, if_false]
    · rintro hc rfl
      refine next_of_heard h hc ?_
      simp only [bcnResult, hleg, hdone, show Status.ok .done = true from rfl, if_true]
  · -- LEG_CLOSE
    intro s u p id x hrun hu hx hopen hfin hfault hgone hagree hblocks hkind hdev
    exact ⟨_, next_of_runs hrun (legClose_finishes hu hx hopen hfin hfault hgone hagree hblocks hkind hdev),
      closedDone_store p id x u⟩
  · -- BATCH
    rintro s _ p m rs h hc rfl hadm hslot hrs
    exact next_of_heard h hc (batchArrives_performs hadm hslot hrs)
  · -- BATCH_RESULT
    rintro s _ p m b _ h hc rfl hb rfl
    refine next_of_heard h hc ?_
    simp only [batchResult, hb]
  · -- BATCH_DONE at the far port
    intro s p id b hrun hb hall
    exact next_of_runs hrun (batchFarDone_returns hb hall)
  · -- ACK_TIMEOUT of a leg
    intro s c i x hrun hx hst hkind
    exact ⟨fun t n hev => congrArg _ (legTimeout_ended hrun hx hst hkind hev),
      fun hev hport => congrArg _ (legTimeout_silent hrun hx hst hkind hev hport)⟩
  · -- ACK_TIMEOUT of a batch
    intro s b x hrun hx
    refine congrArg Host.Outcome.next ?_
    simp only [batchTimeout, hx, timer_of_runs hrun]
  · -- STREAM_IDLE_FREE
    intro s p id x hrun hx hdev hbcn
    exact ⟨_, rfl, streamIdle_frees hrun hx hdev hbcn⟩
  · -- FENCE_DONE
    intro s id c hrun hc hkind hst hnone
    exact next_of_runs hrun (fenceDone_ends hc hkind hst hnone)
  · -- SERAI_WINDOW_EXPIRY
    intro s b x hrun hx
    refine congrArg Host.Outcome.next ?_
    simp only [serExpiry, hx, timer_of_runs hrun]

end Sys2Proof.Machine

/-! Tally, wait and full/empty instructions of Drover threads (05_synchronisation.md, R138 to R145, R187, R188, R198). -/

namespace Sys2Proof.Machine

open Sys2Proof

/-! ### The checks of a tally instruction (R139, R188) -/

/-- The registers of a tally instruction whose poison faults it: SA, then operand or snapshot, then timeout. -/
def tallyUses (w : BitVec 32) : TallyOp → List RegId
  | .add | .sub => [rb w, rc w]
  | .read => [rb w]
  | .waitGe | .waitEq => [rb w, rc w, rd3 w]
  | .monitor => [rb w, ra w, rd3 w]

/-- The instruction has an operand in rs2 whose RSVD field is not zero. -/
def tallyRsvdSet (x : Thread) (w : BitVec 32) : TallyOp → Bool
  | .read | .monitor => false
  | _ => !tRsvdZero (BitVec.ofNat 64 (x.read (rc w)))

/-- A fetched tally instruction checks poison, then RSVD, and then goes to its word. -/
theorem tallyInsn_of_fetched {s : State} {t : Nat} {w : BitVec 32} {x : Thread} {op : TallyOp}
    (h : Fetched s t w x (ra w :: tallyUses w op) .release) (hop : wOp w = 0x1D) :
    tallyInsn t w op s =
      if (tallyUses w op).any x.pois then insnFault t .faultPoison 0 (issuing t w s)
      else if tallyRsvdSet x w op then insnFault t .invalidArg 0 (issuing t w s)
      else tallyGo t { x with insn := w } w op (issuing t w s) := by
  have hmine : decide (wOp w = 0x1D) = true := decide_eq_true hop
  unfold tallyInsn
  cases op <;> exact (insn_runs h hmine _).trans (by simp [tallyUses, tallyRsvdSet])

/-- With clean operands and no RSVD bit set it goes to its word. -/
theorem tallyInsn_of_clean {s : State} {t : Nat} {w : BitVec 32} {x : Thread} {op : TallyOp}
    (h : Fetched s t w x (ra w :: tallyUses w op) .release) (hop : wOp w = 0x1D)
    (hclean : (tallyUses w op).any x.pois = false) (hrsvd : tallyRsvdSet x w op = false) :
    tallyInsn t w op s = tallyGo t { x with insn := w } w op (issuing t w s) := by
  rw [tallyInsn_of_fetched h hop, hclean, hrsvd]
  rfl

/-- TALLY_ADD and TALLY_SUB, whose operands and checks are the same. -/
def updateOp (sub : Bool) : TallyOp := if sub then .sub else .add

theorem tallyUses_updateOp (w : BitVec 32) (sub : Bool) : tallyUses w (updateOp sub) = [rb w, rc w] := by cases sub <;> rfl

theorem tallyRsvdSet_updateOp (x : Thread) (w : BitVec 32) (sub : Bool) :
    tallyRsvdSet x w (updateOp sub) = !tRsvdZero (BitVec.ofNat 64 (x.read (rc w))) := by cases sub <;> rfl

/-! ### Tally instructions at a word of this device (R138, R140, R145) -/

/-- A word of this device updated for a parked thread: the operand is applied, and the thread answered the word as it then
stands. -/
def updateAt (sub : Bool) (t word : Nat) (w : BitVec 32) (x : Thread) (s : State) : State :=
  let o := BitVec.ofNat 64 (x.read (rc w))
  let v := tallyApply sub word o x.ctx (park t (ra w) s)
  threadSync t (ra w) (if tallyRefused s word o then .faultSync else .done) (some (tallyAt v word).toNat) false v

section
variable {s : State} {t word : Nat} {w : BitVec 32} {x : Thread}

theorem tallyGo_update (h : route s t x .tally (x.read (rb w)) = .sync word) (sub : Bool) :
    tallyGo t x w (updateOp sub) s = updateAt sub t word w x s := by
  cases sub <;> simp [tallyGo, updateOp, updateAt, h]

/-- TALLY_READ answers the word. -/
theorem tallyGo_read (h : route s t x .tally (x.read (rb w)) = .sync word) :
    tallyGo t x w .read s = threadSync t (ra w) .done (some (tallyAt s word).toNat) false (park t (ra w) s) := by
  simp only [tallyGo, h]

/-- A wait on a COUNT parks the thread and starts. -/
theorem tallyGo_wait {op : TallyOp} (h : route s t x .tally (x.read (rb w)) = .sync word) (hop : op = .waitGe ∨ op = .waitEq) :
    tallyGo t x w op s = waitStart op word (BitVec.ofNat 64 (x.read (rc w))) (x.read (rd3 w) % 2 ^ 32) x.ctx
      (.thread t (ra w)) (park t (ra w) s) := by
  obtain rfl | rfl := hop <;> simp [tallyGo, h]

/-- MONITOR waits on the snapshot in rd. -/
theorem tallyGo_monitor (h : route s t x .tally (x.read (rb w)) = .sync word) :
    tallyGo t x w .monitor s = waitStart .monitor word (BitVec.ofNat 64 (x.read (ra w))) (x.read (rd3 w) % 2 ^ 32) x.ctx
      (.thread t (ra w)) (park t (ra w) s) := by
  simp only [tallyGo, h, if_true]

/-- An update with clean operands and RSVD zero acts at its word. -/
theorem tallyInsn_update (h : Fetched s t w x [ra w, rb w, rc w] .release) (hop : wOp w = 0x1D)
    (hb : x.pois (rb w) = false) (hc : x.pois (rc w) = false)
    (hrsvd : tRsvdZero (BitVec.ofNat 64 (x.read (rc w))) = true)
    (hgoes : route (issuing t w s) t { x with insn := w } .tally (x.read (rb w)) = .sync word) (sub : Bool) :
    tallyInsn t w (updateOp sub) s = updateAt sub t word w { x with insn := w } (issuing t w s) := by
  refine (tallyInsn_of_clean ?_ hop ?_ ?_).trans (tallyGo_update hgoes sub)
  · rwa [tallyUses_updateOp]
  · simp [tallyUses_updateOp, hb, hc]
  · rw [tallyRsvdSet_updateOp, hrsvd]; rfl

/-! ### Full/empty instructions at a line of this device (R152) -/

/-- The request of a full/empty instruction: it carries the vector register's bytes when it writes. -/
def feReq (t : Nat) (x : Thread) (w : BitVec 32) (f : FeOp) (writes : Bool) : Req :=
  { who := .thread t (.v (wA w)) .vec, ctx := x.ctx, off := (Sa.of (BitVec.ofNat 64 (x.read (rb w)))).off,
    op := .fe f (x.read (rd3 w) % 2 ^ 32), len := 64, data := if writes then leBytes 64 (x.read (.v (wA w))) else [],
    poison := writes && x.pois (.v (wA w)) }

/-- A full/empty instruction with a clean address and timeout parks its thread and sends its request to the line's home. -/
theorem feInsn_of_fetched {off : Nat} (h : Fetched s t w x [.v (wA w), rb w, rc w, rd3 w] .release) (hop : wOp w = 0x1E)
    (hreg : wA w < 16) (hb : x.pois (rb w) = false) (hd : x.pois (rd3 w) = false)
    (hgoes : route (issuing t w s) t { x with insn := w } .fe (x.read (rb w)) = .store off) (f : FeOp) :
    feInsn t w f s = updThr t (fun x => { x with st := .parked, pc := x.pc + 4 })
      (issueLocal t [.v (wA w)] (feReq t x w f (f = .writeEf || f = .writeXf)) (issuing t w s)) := by
  unfold feInsn
  rw [insn_runs h (decide_eq_true hop)]
  simp only [Nat.not_le.mpr hreg, read_noted, pois_noted, hb, hd, hgoes, Bool.or_self, Bool.false_eq_true, if_false]
  rfl

end

/-- Settles O10: the checks pass, and each instruction acts by the lemma of its operation at its word or line. -/
theorem syncInstructionsComplete : Obligations.SyncInstructionsComplete := by
  unfold Obligations.SyncInstructionsComplete
  refine ⟨?_, ?_, ?_, ?_, ?_⟩
  · -- TALLY_ADD and TALLY_SUB
    rintro s _ t word w x hop hb hc hrsvd h rfl hgoes
    have acts := tallyInsn_update h hop hb hc hrsvd hgoes
    exact ⟨⟨_, rfl, next_of_runs h.1 (acts false)⟩, _, rfl, next_of_runs h.1 (acts true)⟩
  · -- TALLY_READ
    rintro s _ t word w x hop hb h rfl hgoes
    have clean : (tallyUses w .read).any x.pois = false := by simp [tallyUses, hb]
    exact next_of_runs h.1 ((tallyInsn_of_clean h hop clean rfl).trans (tallyGo_read hgoes))
  · -- WAIT_GE and WAIT_EQ
    rintro s _ t word w x hop hb hc hd hrsvd h rfl hgoes
    have clean : ([rb w, rc w, rd3 w]).any x.pois = false := by simp [hb, hc, hd]
    have rsvd : (!tRsvdZero (BitVec.ofNat 64 (x.read (rc w)))) = false := by rw [hrsvd]; rfl
    exact ⟨next_of_runs h.1 ((tallyInsn_of_clean (op := .waitGe) h hop clean rsvd).trans (tallyGo_wait hgoes (.inl rfl))),
      next_of_runs h.1 ((tallyInsn_of_clean (op := .waitEq) h hop clean rsvd).trans (tallyGo_wait hgoes (.inr rfl)))⟩
  · -- MONITOR
    rintro s _ t word w x hop hb ha hd h rfl hgoes
    have clean : (tallyUses w .monitor).any x.pois = false := by simp [tallyUses, hb, ha, hd]
    exact next_of_runs h.1 ((tallyInsn_of_clean h hop clean rfl).trans (tallyGo_monitor hgoes))
  · -- full/empty operations
    rintro s _ t off w x hop hreg hb hd h rfl hgoes _ rfl _ rfl
    have acts := feInsn_of_fetched h hop hreg hb hd hgoes
    exact ⟨next_of_runs h.1 (acts _), next_of_runs h.1 (acts _), next_of_runs h.1 (acts _), next_of_runs h.1 (acts _)⟩

/-! ### What an update writes (Table 5.3, R140 to R144) -/

section
variable (f : TFlag) (w : BitVec 64) (n : Nat)

/-! Setting a flag keeps the other fields; a new COUNT keeps EPOCH and the flags (R144). -/

@[simp] theorem tEpoch_set : tEpoch (f.set w) = tEpoch w := by
  cases f <;> exact (tEpoch_tWord ..).trans (Nat.mod_eq_of_lt (tEpoch_lt w))
@[simp] theorem tCount_set : tCount (f.set w) = tCount w := by
  cases f <;> exact (tCount_tWord ..).trans (Nat.mod_eq_of_lt (tCount_lt w))
@[simp] theorem tSat_set : tSat (f.set w) = (tSat w || f = .sat) := by cases f <;> simp [TFlag.set]
@[simp] theorem tUnd_set : tUnd (f.set w) = (tUnd w || f = .und) := by cases f <;> simp [TFlag.set]
@[simp] theorem tMis_set : tMis (f.set w) = (tMis w || f = .mis) := by cases f <;> simp [TFlag.set]

@[simp] theorem tEpoch_tSet : tEpoch (tSet w n) = tEpoch w := (tEpoch_tWord ..).trans (Nat.mod_eq_of_lt (tEpoch_lt w))
@[simp] theorem tCount_tSet : tCount (tSet w n) = n % 2 ^ 48 := tCount_tWord ..
@[simp] theorem tSat_tSet : tSat (tSet w n) = tSat w := tSat_tWord ..
@[simp] theorem tUnd_tSet : tUnd (tSet w n) = tUnd w := tUnd_tWord ..
@[simp] theorem tMis_tSet : tMis (tSet w n) = tMis w := tMis_tWord ..

end

/-- With RSVD zero, an operand is misused when it is checked and its EPOCH differs (R141). -/
theorem misused_iff {v o : BitVec 64} (h : tRsvdZero o = true) :
    misused v o = true ↔ tNochk o = false ∧ tEpoch o ≠ tEpoch v := by
  rw [ne_comm]
  simp [misused, h]

/-- `new` is what Table 5.3 makes of the tally word `old` for an update with operand `o`. -/
def Updated (sub : Bool) (o old new : BitVec 64) : Prop :=
  tEpoch new = tEpoch old ∧
  (if tNochk o = false ∧ tEpoch o ≠ tEpoch old then
    tMis new = true ∧ tSat new = tSat old ∧ tUnd new = tUnd old ∧ tCount new = tCount old
  else
    tMis new = tMis old ∧
    (if sub then
      tSat new = tSat old ∧ tCount new = tCount old - tCount o ∧
      tUnd new = (tUnd old || decide (tCount old < tCount o))
    else
      tUnd new = tUnd old ∧ tCount new = min (2 ^ 48 - 1) (tCount old + tCount o) ∧
      tSat new = (tSat old || decide (2 ^ 48 - 1 < tCount old + tCount o))))

/-- A misused operand sets MISF and changes nothing else (R141). -/
theorem updated_of_misused {v o : BitVec 64} (hr : tRsvdZero o = true) (h : misused v o = true) (sub : Bool) :
    Updated sub o v (tallyUpdate sub v o).1 := by
  have hnew : (tallyUpdate sub v o).1 = TFlag.mis.set v := by simp [tallyUpdate, h]
  rw [hnew]
  refine ⟨tEpoch_set .mis v, ?_⟩
  rw [if_pos ((misused_iff hr).mp h)]
  simp

/-- An addition saturates at 2^48 - 1. -/
theorem updated_add {v o : BitVec 64} (hr : tRsvdZero o = true) (h : misused v o = false) :
    Updated false o v (tallyUpdate false v o).1 := by
  have hfits : ¬ (tNochk o = false ∧ tEpoch o ≠ tEpoch v) := by rw [← misused_iff hr, h]; decide
  unfold Updated
  rw [if_neg hfits]
  by_cases hover : countMax < tCount v + tCount o
  · have hnew : (tallyUpdate false v o).1 = TFlag.sat.set (tSet v countMax) := by simp [tallyUpdate, h, hover]
    have hcap : min (2 ^ 48 - 1) (tCount v + tCount o) = 2 ^ 48 - 1 := min_eq_left hover.le
    have hsat : decide (2 ^ 48 - 1 < tCount v + tCount o) = true := decide_eq_true hover
    rw [hnew, hcap, hsat]
    simp [countMax]
  · have hnew : (tallyUpdate false v o).1 = tSet v (tCount v + tCount o) := by simp [tallyUpdate, h, hover]
    have hsum : tCount v + tCount o ≤ 2 ^ 48 - 1 := not_lt.mp hover
    have hmod : (tCount v + tCount o) % 2 ^ 48 = tCount v + tCount o := Nat.mod_eq_of_lt (by omega)
    rw [hnew, min_eq_right hsum, decide_eq_false (not_lt.mpr hsum)]
    simp [-Nat.reducePow, hmod]

/-- A subtraction stops at zero. -/
theorem updated_sub {v o : BitVec 64} (hr : tRsvdZero o = true) (h : misused v o = false) :
    Updated true o v (tallyUpdate true v o).1 := by
  have hfits : ¬ (tNochk o = false ∧ tEpoch o ≠ tEpoch v) := by rw [← misused_iff hr, h]; decide
  unfold Updated
  rw [if_neg hfits]
  by_cases hunder : tCount v < tCount o
  · have hnew : (tallyUpdate true v o).1 = TFlag.und.set (tSet v 0) := by simp [tallyUpdate, h, hunder]
    rw [hnew]
    simp [hunder, Nat.sub_eq_zero_of_le hunder.le]
  · have hnew : (tallyUpdate true v o).1 = tSet v (tCount v - tCount o) := by simp [tallyUpdate, h, hunder]
    have hmod : (tCount v - tCount o) % 2 ^ 48 = tCount v - tCount o :=
      Nat.mod_eq_of_lt ((Nat.sub_le ..).trans_lt (tCount_lt v))
    rw [hnew]
    simp [-Nat.reducePow, hunder, hmod]

theorem updated_tallyUpdate {v o : BitVec 64} (hr : tRsvdZero o = true) (sub : Bool) :
    Updated sub o v (tallyUpdate sub v o).1 := by
  cases hm : misused v o with
  | true => exact updated_of_misused hr hm sub
  | false =>
    cases sub with
    | false => exact updated_add hr hm
    | true => exact updated_sub hr hm

/-- Applying an update writes the updated word, and no other. -/
theorem tallyAt_tallyApply (sub : Bool) (word : Nat) (o : BitVec 64) (ctx : Nat) (s : State) :
    tallyAt (tallyApply sub word o ctx s) word = (tallyUpdate sub (tallyAt s word) o).1 ∧
      ∀ k, k ≠ word → tallyAt (tallyApply sub word o ctx s) k = tallyAt s k := by
  have words := tallyAt_of_sync (s := setTally word (tallyUpdate sub (tallyAt s word) o).1 s)
    (tallyApply_words sub word o ctx s)
  exact ⟨(words word).trans (tallyAt_setTally_self ..), fun k hk => (words k).trans (tallyAt_setTally_other hk ..)⟩

/-- Settles O46: the instruction acts at its word, and its word is what the update of Table 5.3 makes of it. -/
theorem tallyUpdateEffect : Obligations.TallyUpdateEffect := by
  unfold Obligations.TallyUpdateEffect
  rintro s _ t word w x _ hop hb hc rfl hrsvd h rfl hgoes sub
  -- Parking and answering the thread leave every tally word alone.
  let parked := park t (ra w) (issuing t w s)
  obtain ⟨hword, hothers⟩ := tallyAt_tallyApply sub word (BitVec.ofNat 64 (x.read (rc w))) x.ctx parked
  have hnew := updated_tallyUpdate (v := tallyAt parked word) hrsvd sub
  rw [← hword] at hnew
  have acts := next_of_runs h.1 (tallyInsn_update h hop hb hc hrsvd hgoes sub)
  refine ⟨_, Eq.trans ?_ acts, hothers, hnew⟩
  cases sub <;> rfl

/-! ### Faults of an issued instruction (R198) -/

/-- A fault of an issued instruction stops its thread and is counted by its group, and that is all they see of it. -/
theorem faulted_insnFault {s : State} {t : Nat} {w : BitVec 32} {x : Thread} {g : Group} {uses : List RegId} {o : Ord}
    (h : Fetched s t w x uses o) (hg : tget x.group s.drv.groups = some g) (hs : g.stopOnFault = false) (st : Status)
    (sa : Nat) : Faulted s (insnFault t st sa (issuing t w s)) t x g w st := by
  obtain ⟨_, hthr, hrun, _⟩ := h
  have hself : thr (issuing t w s) t = some { x with insn := w } := thr_updThr_self hthr _
  obtain ⟨y, hown, hothers, hgrp, hcount, hwords⟩ :=
    faultThread_effect hself (by simp [hrun]) hg hs st sa false
  exact ⟨hown, fun k hk => (hothers k hk).trans (thr_updThr_other hk _ s), ⟨y, hgrp, hcount⟩,
    fun k => tallyAt_of_sync hwords k⟩

/-- A branch with a poisoned operand faults (R188). -/
theorem branch_poisoned {s : State} {t : Nat} {w : BitVec 32} {x : Thread} (h : Fetched s t w x [ra w, rb w] .none)
    (hlo : 8 ≤ wOp w) (hhi : wOp w ≤ 0x0D) (hp : x.pois (ra w) = true ∨ x.pois (rb w) = true) :
    branch t w s = insnFault t .faultPoison 0 (issuing t w s) := by
  unfold branch
  rw [insn_runs h (by simp [hlo, hhi])]
  exact if_pos (Bool.or_eq_true_iff.mpr hp)

section
variable {s : State} {t : Nat} {w : BitVec 32} {x : Thread}

/-- A tally update at a poisoned address faults (R188). -/
theorem tallyInsn_poisoned (h : Fetched s t w x [ra w, rb w, rc w] .release) (hop : wOp w = 0x1D)
    (hb : x.pois (rb w) = true) (sub : Bool) :
    tallyInsn t w (updateOp sub) s = insnFault t .faultPoison 0 (issuing t w s) := by
  rw [← tallyUses_updateOp w sub] at h
  rw [tallyInsn_of_fetched h hop, if_pos (by simp [tallyUses_updateOp, hb])]

/-- A tally update with clean operands and a set RSVD field faults (R139). -/
theorem tallyInsn_rsvd (h : Fetched s t w x [ra w, rb w, rc w] .release) (hop : wOp w = 0x1D)
    (hb : x.pois (rb w) = false) (hc : x.pois (rc w) = false)
    (hrsvd : tRsvdZero (BitVec.ofNat 64 (x.read (rc w))) = false) (sub : Bool) :
    tallyInsn t w (updateOp sub) s = insnFault t .invalidArg 0 (issuing t w s) := by
  rw [← tallyUses_updateOp w sub] at h
  rw [tallyInsn_of_fetched h hop, if_neg (by simp [tallyUses_updateOp, hb, hc]),
    if_pos (by simp [tallyRsvdSet_updateOp, hrsvd])]

end

/-- Settles O47: each of them is a fault of an issued instruction. -/
theorem threadFaults : Obligations.ThreadFaults := by
  unfold Obligations.ThreadFaults
  intro s t w x g hg hs
  refine ⟨?_, ?_, ?_⟩
  · -- a branch with a poisoned operand
    intro hlo hhi h hp
    exact ⟨_, next_of_runs h.1 (branch_poisoned h hlo hhi hp), faulted_insnFault h hg hs ..⟩
  · -- a tally update at a poisoned address
    intro hop h hb
    have faults := tallyInsn_poisoned h hop hb
    exact ⟨_, next_of_runs h.1 (faults false), next_of_runs h.1 (faults true), faulted_insnFault h hg hs ..⟩
  · -- a tally update with a reserved bit set
    intro hop h hb hc hrsvd
    have faults := tallyInsn_rsvd h hop hb hc hrsvd
    exact ⟨_, next_of_runs h.1 (faults false), next_of_runs h.1 (faults true), faulted_insnFault h hg hs ..⟩

end Sys2Proof.Machine

/-! Integer, branch and control instructions of Drover threads (07_drover_threads.md, R180 to R188, R194). -/

namespace Sys2Proof.Machine

open Sys2Proof

/-! ### Where they complete (Table 7.4) -/

/-- Settles O8: a fetched word of the instruction runs its body; what is left is which branch of the body its opcode, FUNC
and clean operands take. -/
theorem scalarInstructionsComplete : Obligations.ScalarInstructionsComplete := by
  unfold Obligations.ScalarInstructionsComplete
  refine ⟨?_, ?_, ?_, ?_, ?_, ?_, ?_, ?_, ?_⟩
  · -- register integer operations
    intro s t w x hop hfn h
    have hreg : (decide (wOp w = 0) && decide (wFn w ≤ 0x17)) = true := by simp [hop]; omega
    refine next_of_runs h.1 ?_
    unfold integerOp
    simp only [hreg, if_true]
    exact insn_runs h rfl _
  · -- immediate integer operations
    intro s t w x hlo hhi h
    have hreg : (decide (wOp w = 0) && decide (wFn w ≤ 0x17)) = false := by simp; omega
    refine next_of_runs h.1 ?_
    unfold integerOp
    simp only [hreg, Bool.false_eq_true, if_false]
    exact insn_runs h (by simp [hlo, hhi]) _
  · -- MOVK
    intro s t w x hop h
    exact next_of_runs h.1 (insn_runs h (decide_eq_true hop) _)
  · -- MFTS
    intro s t w x hop hfn h
    exact next_of_runs h.1 (insn_runs h (by simp [hop, hfn]) _)
  · -- YIELD
    intro s t w x hop hfn h
    exact next_of_runs h.1 (insn_runs h (by simp [hop, hfn]) _)
  · -- HALT
    intro s t w x hop hfn h
    exact next_of_runs h.1 (insn_runs h (by simp [hop, hfn]) _)
  · -- branches
    intro s t w x hlo hhi ha hb h
    exact next_of_runs h.1 ((insn_runs h (by simp [hlo, hhi]) _).trans (if_neg (by simp [ha, hb])))
  · -- JAL
    intro s t w x hop h
    exact next_of_runs h.1 (insn_runs h (decide_eq_true hop) _)
  · -- JALR
    intro s t w x hop hb h
    exact next_of_runs h.1 ((insn_runs h (decide_eq_true hop) _).trans (if_neg (by simp [hb])))

end Sys2Proof.Machine

/-! Reset values of the registers (R200, R229, R314, R335, R351, R376, R397, R398). -/

namespace Sys2Proof.Machine

open Sys2Proof

/-! ### Where BAR0 decodes the blocks of cells, ports, flash channels and mailboxes (Table 16.4) -/

/-- Above the blocks of the whole device BAR0 decodes cells, ports and flash channels. -/
theorem csrRead_unit {a : Nat} (h : 10 ≤ a / 65536) (s : State) :
    csrRead s a =
      if 0x10 ≤ a / 65536 && a / 65536 < 0x24 && 0x400 ≤ a % 65536 then cellCsr s (a / 65536 - 0x10) (a % 65536)
      else if 0x20 ≤ a / 65536 && a / 65536 < 0x28 && a % 65536 < 0x400 then portCsr s (a / 65536 - 0x20) (a % 65536)
      else if 0x300000 ≤ a && a < 0x350000 then fchCsr s ((a - 0x300000) / 0x4000) (a % 0x4000)
      else 0 := by
  unfold csrRead
  obtain ⟨k, hk⟩ := Nat.exists_eq_add_of_le' h
  rw [hk]
  rfl

theorem csrRead_cell {c o : Nat} (hc : c < 20) (hlo : 0x400 ≤ o) (hhi : o < 0x10000) (s : State) :
    csrRead s (0x100000 + 0x10000 * c + o) = cellCsr s c o := by
  have hblock : (0x100000 + 0x10000 * c + o) / 65536 = 0x10 + c := by omega
  have hoff : (0x100000 + 0x10000 * c + o) % 65536 = o := by omega
  rw [csrRead_unit (by omega), hblock, hoff, if_pos (by simp; omega), Nat.add_sub_cancel_left]

theorem csrRead_port {p o : Nat} (hp : p < 8) (ho : o < 0x400) (s : State) :
    csrRead s (0x200000 + 0x10000 * p + o) = portCsr s p o := by
  have hblock : (0x200000 + 0x10000 * p + o) / 65536 = 0x20 + p := by omega
  have hoff : (0x200000 + 0x10000 * p + o) % 65536 = o := by omega
  rw [csrRead_unit (by omega), hblock, hoff, if_neg (by simp; omega), if_pos (by simp; omega), Nat.add_sub_cancel_left]

theorem csrRead_fch {ch o : Nat} (hc : ch < 20) (ho : o < 0x4000) (s : State) :
    csrRead s (0x300000 + 0x4000 * ch + o) = fchCsr s ch o := by
  have hoff : (0x300000 + 0x4000 * ch + o) % 0x4000 = o := by omega
  have hch : (0x300000 + 0x4000 * ch + o - 0x300000) / 0x4000 = ch := by omega
  rw [csrRead_unit (by omega), if_neg (by simp; omega), if_neg (by simp; omega), if_pos (by simp; omega), hoff, hch]

theorem csrRead_mbx {n o : Nat} (hn : n < 22) (ho : o < 256) (s : State) :
    csrRead s (0x10000 + 256 * n + o) = mbxCsr s n o := by
  have hblock : (0x10000 + 256 * n + o) / 65536 = 1 := by omega
  have hoff : (0x10000 + 256 * n + o) % 65536 = 256 * n + o := by omega
  have hmb : (256 * n + o) / 256 = n := by omega
  have hreg : (256 * n + o) % 256 = o := by omega
  unfold csrRead
  simp only [hblock, hoff]
  rw [if_pos (by omega), hmb, hreg]

/-! ### What stands behind them at reset

Nothing is counted, held, queued or bound, so every view of the state gives zero fields. -/

@[simp] theorem getD_replicate_self {α : Type} (n i : Nat) (a : α) : (Vector.replicate n a).getD i a = a := by
  show (Array.replicate n a).getD i a = a
  rw [Array.getD_eq_getD_getElem?, Array.getElem?_replicate]
  split <;> rfl

@[simp] theorem at_zero (lo : Nat) : at_ lo 0 = 0 := Nat.zero_mul _
@[simp] theorem b2n_false : b2n false = 0 := rfl
@[simp] theorem maskOf_false (n : Nat) : maskOf n (fun _ => false) = 0 := by simp [maskOf]
@[simp] theorem tempBits_zero : tempBits 0 = 0 := rfl
@[simp] theorem sat32_zero : sat32 0 = 0 := rfl

@[simp] theorem counter_reset (a : Nat) : counter State.reset a = 0 := rfl
@[simp] theorem bound_reset (v : Nat) : bound State.reset v = 0 := rfl
@[simp] theorem cycles_reset (a : Nat) : cycles State.reset a = 0 := rfl

@[simp] theorem store_reset : State.reset.store = {} := rfl
@[simp] theorem sync_reset : State.reset.sync = {} := rfl
@[simp] theorem drv_reset : State.reset.drv = {} := rfl
@[simp] theorem eng_reset : State.reset.eng = {} := rfl
@[simp] theorem dep_reset : State.reset.dep = {} := rfl
@[simp] theorem idx_reset : State.reset.idx = [] := rfl
@[simp] theorem car_reset : State.reset.car = {} := rfl

@[simp] theorem port_reset (p : Nat) : port State.reset p = {} := getD_replicate_self ..
@[simp] theorem mbxOf_reset (n : Nat) : mbxOf State.reset n = {} := getD_replicate_self ..

@[simp] theorem homeEntries_reset (c : Nat) : homeEntries State.reset c = [] := rfl
@[simp] theorem cellPart_reset (c : Nat) : cellPart State.reset c = none := rfl

/-- A register of a cell reads as zero but for the retry limit and shadow counts of CELL_CHK_CFG (Table 9.8). -/
theorem cellCsr_reset (c o : Nat) : cellCsr State.reset c o = if o = 0x900 then 0x0A0A else 0 := by
  unfold cellCsr
  split
  case h_20 hcfg _ _ _ => exact (if_neg hcfg).symm
  all_goals simp [cellStoStatus, cellStoFrames, managedFrames, placedFrames, cellCohDir, cellSynStatus, feqAt, waitersAt,
    cellDrvStatus, cellDrvLive, cellMxuStatus, runningOp, unitOps, cellChkCfg, cellPorStatus, unitUnbound, cellDepStatus,
    cellDepPages]

theorem fchCsr_reset (ch o : Nat) : fchCsr State.reset ch o = 0 := by
  unfold fchCsr
  split
  all_goals simp [gcState, runningOp, unitOps, unitUnbound]

theorem mbxCsr_reset (n o : Nat) : mbxCsr State.reset n o = 0 := by
  unfold mbxCsr
  split
  all_goals simp [mbxCfgBits, mbxStatus, mbxState]

/-- A register of a port reads as zero but for its lanes in order and its SERAI window (Tables 13.9 and 15.6). -/
theorem portCsr_reset (p o : Nat) : portCsr State.reset p o =
    if o = 0x08 then 0x0000000876543210 else if o = 0x260 then 0x640040 else 0 := by
  unfold portCsr
  split
  case h_2 | h_5 => simp only [port_reset]; decide
  case h_7 hlanes _ _ hser _ => exact ((if_neg hlanes).trans (if_neg hser)).symm
  all_goals simp [PortSt.code, serOpen]

/-- Settles O36: the device's own blocks are evaluated; a mailbox, a cell, a flash channel or a port is decoded by its
number, and reads at reset as each of its kind does. -/
theorem resetRegisters : Obligations.ResetRegisters := by
  unfold Obligations.ResetRegisters
  refine ⟨by decide +kernel, by decide +kernel, ?_, ?_, ?_, ?_⟩
  · -- mailboxes
    intro n hn o ho
    have hlt : o < 256 := by revert o; decide
    rw [csrRead_mbx hn hlt, mbxCsr_reset]
  · -- cells
    intro c hc
    refine ⟨?_, fun o ho => ?_⟩
    · rw [csrRead_cell hc (by omega) (by omega), cellCsr_reset, if_pos rfl]
    · have hin : 0x400 ≤ o ∧ o < 0x10000 ∧ o ≠ 0x900 := by revert o; decide
      obtain ⟨hlo, hhi, hcfg⟩ := hin
      rw [csrRead_cell hc hlo hhi, cellCsr_reset, if_neg hcfg]
  · -- flash channels
    intro ch hch o ho
    have hlt : o < 0x4000 := by revert o; decide
    rw [csrRead_fch hch hlt, fchCsr_reset]
  · -- ports
    intro p hp
    refine ⟨?_, ?_, fun o ho => ?_⟩
    · rw [csrRead_port hp (by omega), portCsr_reset, if_pos rfl]
    · rw [csrRead_port hp (by omega), portCsr_reset]; rfl
    · have hin : o < 0x400 ∧ o ≠ 0x08 ∧ o ≠ 0x260 := by revert o; decide
      obtain ⟨hlt, hlanes, hser⟩ := hin
      rw [csrRead_port hp hlt, portCsr_reset, if_neg hlanes, if_neg hser]

end Sys2Proof.Machine

/-! The frame of integer, branch and control instructions (07_drover_threads.md, R180, R181, R188, R198). -/

namespace Sys2Proof.Machine

open Sys2Proof

/-- What a row of the data path answers is what its operation answers, while the data path runs. -/
theorem acts_of_next {s u : State} {f : State → State} (hs : s.halted = false)
    (h : (Host.Outcome.next (dp f s) : Host.Outcome State Fault Refusal) = .next u) : f s = u :=
  Host.Outcome.next.inj ((next_of_runs hs rfl).symm.trans h)

/-! ### An instruction that only writes a register and goes on -/

/-- `u` is `s` with `rd` of thread `t` written and the thread at another pc, and maybe a free value drawn. A destination
r0 stands for none: writes to it are discarded. -/
def WritesAndGoes (t : Nat) (rd : RegId) (s u : State) : Prop :=
  ∃ (n : Nat) (f : Thread → Thread), u = updThr t f { s with fresh := n } ∧
    ∀ y, ∃ v p a, f y = { y.write rd v p with pc := a }

theorem result_writesAndGoes (t : Nat) (rd : RegId) (v : Nat) (p : Bool) (n : Nat) (s : State) :
    WritesAndGoes t rd s (result t rd v p { s with fresh := n }) :=
  ⟨n, _, updThr_updThr .., fun _ => ⟨v, p, _, rfl⟩⟩

theorem link_writesAndGoes (t : Nat) (rd : RegId) (v : Nat) (a : BitVec 64) (s : State) :
    WritesAndGoes t rd s (setPc t a (updThr t (fun y => y.write rd v false) s)) :=
  ⟨s.fresh, _, updThr_updThr .., fun _ => ⟨v, false, a, rfl⟩⟩

theorem setPc_writesAndGoes (t : Nat) (a : BitVec 64) (s : State) : WritesAndGoes t (.r 0) s (setPc t a s) :=
  ⟨s.fresh, _, rfl, fun y => ⟨0, false, a, by rw [write_r0]⟩⟩

theorem nextPc_writesAndGoes (t : Nat) (s : State) : WritesAndGoes t (.r 0) s (nextPc t s) :=
  ⟨s.fresh, _, rfl, fun y => ⟨0, false, y.pc + 4, by rw [write_r0]⟩⟩

/-- `u` is `s` but that thread `t`, which was `x`, may have noted a word, written `rd` and gone on, its cell counted an
instruction issued (R515), and a free value been drawn. -/
structure ChangesOnly (s u : State) (t : Nat) (x : Thread) (rd : RegId) : Prop where
  store : u.store = s.store
  sync : u.sync = s.sync
  coh : u.coh = s.coh
  eng : u.eng = s.eng
  outs : u.outs = s.outs
  groups : u.drv.groups = s.drv.groups
  ports : u.ports = s.ports
  parts : u.parts = s.parts
  counters : ∀ a, a ≠ cellReg (thrCell t) 0x710 → tgetD u.csr a 0 = tgetD s.csr a 0
  others : ∀ v, v ≠ t → thr u v = thr s v
  own : ∃ y, thr u t = some y ∧ y.ts = x.ts ∧ y.ctx = x.ctx ∧ y.st = x.st ∧ y.pend = x.pend ∧ y.out = x.out ∧
    ∀ r, (r ≠ rd ∨ rd = .r 0) → y.read r = x.read r ∧ y.pois r = x.pois r

theorem ChangesOnly.refl {s : State} {t : Nat} {x : Thread} (h : thr s t = some x) (rd : RegId) : ChangesOnly s s t x rd :=
  ⟨rfl, rfl, rfl, rfl, rfl, rfl, rfl, rfl, fun _ _ => rfl, fun _ _ => rfl, x, h, rfl, rfl, rfl, rfl, rfl, fun _ _ => ⟨rfl, rfl⟩⟩

/-- A write changes nothing of its thread but the register written and its poison bit. -/
theorem write_keeps (x : Thread) (rd : RegId) (v : Nat) (p : Bool) :
    (x.write rd v p).ts = x.ts ∧ (x.write rd v p).ctx = x.ctx ∧ (x.write rd v p).st = x.st ∧
      (x.write rd v p).pend = x.pend ∧ (x.write rd v p).out = x.out := by
  cases rd with
  | r n => by_cases hn : n = 0 <;> simp [Thread.write, hn]
  | v n => simp [Thread.write]

theorem changesOnly_of_writesAndGoes {s u : State} {t : Nat} {w : BitVec 32} {x : Thread} {rd : RegId}
    (hx : thr s t = some x) (h : WritesAndGoes t rd (issuing t w s) u) : ChangesOnly s u t x rd := by
  obtain ⟨n, f, rfl, hf⟩ := h
  refine ⟨rfl, rfl, rfl, rfl, rfl, rfl, rfl, rfl, fun a ha => counter_cnt_other ha ..,
    fun v hv => (thr_updThr_other hv ..).trans (thr_updThr_other hv ..), f { x with insn := w }, ?_, ?_⟩
  · exact thr_updThr_self (s := { issuing t w s with fresh := n }) (thr_updThr_self hx _) _
  · obtain ⟨v, p, a, hy⟩ := hf { x with insn := w }
    obtain ⟨hts, hctx, hst, hpend, hout⟩ := write_keeps { x with insn := w } rd v p
    rw [hy]
    refine ⟨hts, hctx, hst, hpend, hout, fun r hr => ?_⟩
    obtain hr | rfl := hr
    · exact read_write_other hr { x with insn := w } v p
    · rw [write_r0]; exact ⟨rfl, rfl⟩

/-- An instruction outside the order of memory accesses, of a running thread whose fetch does not fault and whose word is
defined, runs its body or changes nothing (R182). -/
theorem insn_changesOnly {s : State} {t : Nat} {w : BitVec 32} {x : Thread} (hs : s.halted = false) (hx : thr s t = some x)
    (hrun : x.st = .running) (hfetch : fetchFault s x = none) (hdef : wDefined w = true) {rd : RegId} {mine : Bool}
    {uses : List RegId} {body : Thread → State → State}
    (hbody : WritesAndGoes t rd (issuing t w s) (body { x with insn := w } (issuing t w s))) :
    ChangesOnly s (insn t w mine uses .none body s) t x rd := by
  by_cases hgo : mine = true ∧ mayIssue s t x uses .none = true
  · obtain ⟨hmine, hmay⟩ := hgo
    rw [insn_runs ⟨hs, hx, hrun, hfetch, hdef, hmay⟩ hmine]
    exact changesOnly_of_writesAndGoes hx hbody
  · have hstill : insn t w mine uses .none body s = s := by
      rw [not_and_or, Bool.not_eq_true, Bool.not_eq_true] at hgo
      obtain hmine | hmay := hgo
      · simp [insn, hx, hrun, hfetch, hdef, hmine]
      · simp [insn, hx, hrun, hfetch, hdef, hmay]
    rw [hstill]
    exact .refl hx rd

/-- What is written is `rd`, or nothing but the pc for an instruction without a destination. -/
theorem scalarInstruction_changesOnly {s u : State} {t : Nat} {w : BitVec 32} {x : Thread} {c : Instr}
    (hs : s.halted = false) (hx : thr s t = some x) (hrun : x.st = .running) (hfetch : fetchFault s x = none)
    (hdef : wDefined w = true)
    (hc : c ∈ [.integerOp t w, .movk t w, .mfts t w, .branch t w, .jal t w, .jalr t w, .yieldOp t w])
    (hbranch : c = .branch t w → x.pois (ra w) = false ∧ x.pois (rb w) = false)
    (hjalr : c = .jalr t w → x.pois (rb w) = false) (hu : exec c s = .next u) :
    ∃ rd, ChangesOnly s u t x rd ∧ (rd = .r 0 ∨ rd = ra w ∧ c ≠ .branch t w ∧ c ≠ .yieldOp t w) := by
  have changes := fun {rd mine uses body} =>
    insn_changesOnly (rd := rd) (mine := mine) (uses := uses) (body := body) hs hx hrun hfetch hdef
  simp only [List.mem_cons, List.not_mem_nil, or_false] at hc
  obtain rfl | rfl | rfl | rfl | rfl | rfl | rfl := hc
  · -- integer operations
    obtain rfl := acts_of_next hs hu
    refine ⟨ra w, ?_, .inr ⟨rfl, by simp⟩⟩
    unfold integerOp
    refine changes ?_
    dsimp only
    split
    · exact result_writesAndGoes ..
    · exact result_writesAndGoes ..
  · -- MOVK
    obtain rfl := acts_of_next hs hu
    exact ⟨ra w, changes (result_writesAndGoes ..), .inr ⟨rfl, by simp⟩⟩
  · -- MFTS
    obtain rfl := acts_of_next hs hu
    exact ⟨ra w, changes (result_writesAndGoes ..), .inr ⟨rfl, by simp⟩⟩
  · -- branches
    obtain ⟨ha, hb⟩ := hbranch rfl
    obtain rfl := acts_of_next hs hu
    refine ⟨.r 0, changes ?_, .inl rfl⟩
    simp only [pois_noted, ha, hb, Bool.or_self, Bool.false_eq_true, if_false]
    split
    · exact setPc_writesAndGoes ..
    · exact nextPc_writesAndGoes ..
  · -- JAL
    obtain rfl := acts_of_next hs hu
    exact ⟨ra w, changes (link_writesAndGoes ..), .inr ⟨rfl, by simp⟩⟩
  · -- JALR
    have hb := hjalr rfl
    obtain rfl := acts_of_next hs hu
    refine ⟨ra w, changes ?_, .inr ⟨rfl, by simp⟩⟩
    simp only [pois_noted, hb, Bool.false_eq_true, if_false]
    exact link_writesAndGoes ..
  · -- YIELD
    obtain rfl := acts_of_next hs hu
    exact ⟨.r 0, changes (nextPc_writesAndGoes ..), .inl rfl⟩

/-- Settles O38: each of the instructions writes its destination at most and goes on, or does nothing. -/
theorem scalarInstructionsFrame : Obligations.ScalarInstructionsFrame := by
  unfold Obligations.ScalarInstructionsFrame
  intro s u t w x c hs hx hrun hfetch hdef hc hbranch hjalr hu
  obtain ⟨rd, h, hrd⟩ := scalarInstruction_changesOnly hs hx hrun hfetch hdef hc hbranch hjalr hu
  obtain ⟨y, hy, hts, hctx, hst, hpend, hout, hregs⟩ := h.own
  refine ⟨fun a => by rw [h.store], h.store, h.sync, h.coh, h.eng, h.outs, h.groups, h.ports, h.parts, h.counters, h.others,
    y, hy, hts, hctx, hst, hpend, hout, read_r0 y, pois_r0 y, fun r hr => hregs r ?_⟩
  obtain h0 | ⟨rfl, hbr, hyield⟩ := hrd
  · exact .inr h0
  · exact .inl (hr.resolve_right (not_or.mpr ⟨hbr, hyield⟩))

end Sys2Proof.Machine

/-! The frame of loads, stores, lanes and atomics (07_drover_threads.md, R180, R184 to R188). -/

namespace Sys2Proof.Machine

open Sys2Proof

theorem Fetched.thread {s : State} {t : Nat} {w : BitVec 32} {x : Thread} {uses : List RegId} {o : Ord}
    (h : Fetched s t w x uses o) : thr s t = some x := h.2.1

/-! ### What a step of thread `t` leaves alone of the threads -/

/-- `u` has the other threads of `s`, and of thread `t` the TS, the context and every register but those in `ds`. -/
structure KeepsThreads (t : Nat) (ds : List RegId) (s u : State) : Prop where
  others : ∀ z, z ≠ t → thr u z = thr s z
  own : ∀ x, thr s t = some x → ∃ y, thr u t = some y ∧ y.ts = x.ts ∧ y.ctx = x.ctx ∧
    ∀ r, r ∉ ds → y.read r = x.read r ∧ y.pois r = x.pois r

section
variable {t : Nat} {ds : List RegId} {s u v : State}

theorem KeepsThreads.trans (h : KeepsThreads t ds s u) (h' : KeepsThreads t ds u v) : KeepsThreads t ds s v := by
  refine ⟨fun z hz => (h'.others z hz).trans (h.others z hz), fun x hx => ?_⟩
  obtain ⟨y, hy, hts, hctx, hregs⟩ := h.own x hx
  obtain ⟨y', hy', hts', hctx', hregs'⟩ := h'.own y hy
  exact ⟨y', hy', hts'.trans hts, hctx'.trans hctx, fun r hr =>
    ⟨(hregs' r hr).1.trans (hregs r hr).1, (hregs' r hr).2.trans (hregs r hr).2⟩⟩

theorem keepsThreads_of_threads (h : u.drv.threads = s.drv.threads) : KeepsThreads t ds s u := by
  have hthr : ∀ z, thr u z = thr s z := fun z => congrArg (tget z) h
  exact ⟨fun z _ => hthr z, fun x hx => ⟨x, (hthr t).trans hx, rfl, rfl, fun _ _ => ⟨rfl, rfl⟩⟩⟩

theorem keepsThreads_updThr {f : Thread → Thread}
    (hf : ∀ y, (f y).ts = y.ts ∧ (f y).ctx = y.ctx ∧ ∀ r, r ∉ ds → (f y).read r = y.read r ∧ (f y).pois r = y.pois r)
    (s : State) : KeepsThreads t ds s (updThr t f s) :=
  ⟨fun _ hz => thr_updThr_other hz f s, fun x hx => ⟨f x, thr_updThr_self hx f, hf x⟩⟩

theorem KeepsThreads.leaves {x : Thread} (h : KeepsThreads t ds s u) (hx : thr s t = some x) : LeavesThreads s u t x ds := by
  obtain ⟨y, hy, hts, hctx, hregs⟩ := h.own x hx
  exact ⟨h.others, y, hy, hts, hctx, read_r0 y, hregs⟩

end

theorem issuing_keepsThreads (t : Nat) (w : BitVec 32) (ds : List RegId) (s : State) : KeepsThreads t ds s (issuing t w s) :=
  (keepsThreads_updThr (f := fun x => { x with insn := w }) (fun _ => ⟨rfl, rfl, fun _ _ => ⟨rfl, rfl⟩⟩) s).trans
    (keepsThreads_of_threads rfl)

theorem nextPc_keepsThreads (t : Nat) (ds : List RegId) (s : State) : KeepsThreads t ds s (nextPc t s) :=
  keepsThreads_updThr (f := fun x => { x with pc := x.pc + 4 }) (fun _ => ⟨rfl, rfl, fun _ _ => ⟨rfl, rfl⟩⟩) s

theorem issued_keepsThreads (t id : Nat) (pend : List RegId) (ds : List RegId) (s : State) :
    KeepsThreads t ds s (issued t id pend s) := by
  unfold issued
  exact keepsThreads_updThr (fun y => by exact ⟨rfl, rfl, fun _ _ => ⟨rfl, rfl⟩⟩) s

theorem issueLocal_keepsThreads (t : Nat) (pend : List RegId) (r : Req) (ds : List RegId) (s : State) :
    KeepsThreads t ds s (issueLocal t pend r s) :=
  (issued_keepsThreads ..).trans (keepsThreads_of_threads rfl)

theorem result_keepsThreads (t : Nat) (rd : RegId) (v : Nat) (p : Bool) (s : State) :
    KeepsThreads t [rd] s (result t rd v p s) := by
  refine (keepsThreads_updThr (fun y => ?_) s).trans (nextPc_keepsThreads ..)
  obtain ⟨hts, hctx, -⟩ := write_keeps y rd v p
  exact ⟨hts, hctx, fun r hr => read_write_other (List.ne_of_not_mem_cons hr) y v p⟩

/-! ### A store landed in scratchpad -/

@[simp] theorem spadStored_store (t : Nat) (p : Bool) (s : State) : (spadStored t p s).store = s.store := by
  unfold spadStored; split <;> rfl

@[simp] theorem spadStored_sync (t : Nat) (p : Bool) (s : State) : (spadStored t p s).sync = s.sync := by
  unfold spadStored; split <;> rfl

@[simp] theorem spadStored_threads (t : Nat) (p : Bool) (s : State) : (spadStored t p s).drv.threads = s.drv.threads := by
  unfold spadStored; split <;> rfl

theorem spadStored_keepsThreads {s u : State} (h : u.drv = s.drv) (t : Nat) (p : Bool) (ds : List RegId) :
    KeepsThreads t ds s (spadStored t p u) :=
  keepsThreads_of_threads ((spadStored_threads ..).trans (congrArg Drover.threads h))

theorem spadLanded_keepsThreads (t off : Nat) (d : List Byte) (p : Bool) (ds : List RegId) (s : State) :
    KeepsThreads t ds s (spadStored t p (spadWrite off d p s)) :=
  spadStored_keepsThreads (s := s) (u := spadWrite off d p s) rfl t p ds

/-- Elements of `n` bytes scattered over scratchpad, in order, change only the bytes of the elements. -/
theorem scatter_frame (n : Nat) (p : Bool) (l : List (Nat × Nat)) : ∀ s u : State,
    u = l.foldl (fun s y => spadWrite y.1 (leBytes n y.2) p s) s →
    u.store.mem = s.store.mem ∧ u.sync = s.sync ∧ u.drv = s.drv ∧
      ∀ a, (∀ y ∈ l, a < y.1 ∨ y.1 + n ≤ a) → byteAt u.store.spad a = byteAt s.store.spad a := by
  induction l with
  | nil => rintro s _ rfl; exact ⟨rfl, rfl, rfl, fun _ _ => rfl⟩
  | cons y l ih =>
    intro s u hu
    obtain ⟨hmem, hsync, hdrv, hspad⟩ := ih _ u hu
    refine ⟨hmem, hsync, hdrv, fun a ha => (hspad a fun z hz => ha z (List.mem_cons_of_mem _ hz)).trans ?_⟩
    exact byteAt_putBytes_other (by simpa using ha y (List.mem_cons_self ..)) _

/-! ### What each outcome leaves alone -/

/-- From `s` to `v` an instruction of thread `t`, which was `x`, stored nothing and wrote no register but `ds`. -/
def StoresNothing (s v : State) (t : Nat) (x : Thread) (ds : List RegId) : Prop :=
  v.store = s.store ∧ v.sync = s.sync ∧ LeavesThreads s v t x ds

/-- It stored `n` bytes of `k` at `off` of scratchpad, nothing else, and wrote no register but `ds`. -/
def StoresSpad (off n k : Nat) (s v : State) (t : Nat) (x : Thread) (ds : List RegId) : Prop :=
  v.store.spad = putBytes off (leBytes n k) s.store.spad ∧
    (∀ a, a < off ∨ off + n ≤ a → byteAt v.store.spad a = byteAt s.store.spad a) ∧
    sameMemory s v ∧ v.sync = s.sync ∧ LeavesThreads s v t x ds

section
variable {s u v : State} {t off sa n k : Nat} {w : BitVec 32} {x y : Thread} {a : Acc} {ds : List RegId} {p : Bool}

theorem storesNothing_of_issuing (hx : thr s t = some x) (hstore : v.store = s.store) (hsync : v.sync = s.sync)
    (hthr : KeepsThreads t ds (issuing t w s) v) : StoresNothing s v t x ds :=
  ⟨hstore, hsync, ((issuing_keepsThreads ..).trans hthr).leaves hx⟩

theorem storesSpad_of_issuing (hx : thr s t = some x) (hstore : v.store = (spadWrite off (leBytes n k) p s).store)
    (hsync : v.sync = s.sync) (hthr : KeepsThreads t ds (issuing t w s) v) : StoresSpad off n k s v t x ds := by
  refine ⟨by rw [hstore]; rfl, fun a ha => ?_, fun a => by rw [hstore]; rfl, hsync,
    ((issuing_keepsThreads ..).trans hthr).leaves hx⟩
  rw [hstore]
  exact byteAt_putBytes_other (by simpa using ha) _

/-- A load that does not fault, from anywhere on this device, stores nothing and writes only its destination. -/
theorem loadAt_frame (h : route u t y a sa ∈ [.store off, .spad off, .sync off, .csr off]) (rd : RegId) (k : LoadKind) :
    (loadAt t y a rd k sa u).store = u.store ∧ (loadAt t y a rd k sa u).sync = u.sync ∧
      KeepsThreads t [rd] u (loadAt t y a rd k sa u) := by
  simp only [List.mem_cons, List.not_mem_nil, or_false] at h
  obtain h | h | h | h := h
  · rw [loadAt_store h]
    exact ⟨rfl, rfl, (issueLocal_keepsThreads ..).trans (nextPc_keepsThreads ..)⟩
  all_goals
    simp only [loadAt, h]
    exact ⟨rfl, rfl, result_keepsThreads ..⟩

/-- A store that goes to scratchpad or to a home of this device: stored there at once, or only requested. -/
theorem storeAt_frame (hx : thr s t = some x) (hv : storeAt t y a (leBytes n k) p sa (issuing t w s) = v) :
    (route (issuing t w s) t y a sa = .spad off → StoresSpad off n k s v t x []) ∧
    (route (issuing t w s) t y a sa = .store off → StoresNothing s v t x []) := by
  subst hv
  refine ⟨fun h => ?_, fun h => ?_⟩
  · simp only [storeAt, h]
    exact storesSpad_of_issuing (w := w) hx (spadStored_store ..) (spadStored_sync ..)
      ((spadLanded_keepsThreads ..).trans (nextPc_keepsThreads ..))
  · rw [storeAt_store h]
    exact storesNothing_of_issuing hx rfl rfl ((issueLocal_keepsThreads ..).trans (nextPc_keepsThreads ..))

end

/-- Settles O39: the access goes where it is routed (O9), and each outcome leaves alone what it does not name. -/
theorem memoryInstructionsFrame : Obligations.MemoryInstructionsFrame := by
  unfold Obligations.MemoryInstructionsFrame
  refine ⟨?_, ?_, ?_, ?_, ?_, ?_⟩
  · -- STORE
    rintro s _ v t off w x hlo hhi hb h rfl hv
    have hacts := (insn_runs h (by simp [hlo, hhi]) _).symm.trans (acts_of_next h.1 hv)
    simp only [pois_noted, hb, Bool.false_eq_true, if_false] at hacts
    exact storeAt_frame h.thread hacts
  · -- VST
    rintro s _ v t off w x hop hreg hb h rfl hv
    have hacts := (insn_runs h (by simp [hop]) _).symm.trans (acts_of_next h.1 hv)
    simp only [Nat.not_le.mpr hreg, pois_noted, hb, Bool.false_eq_true, if_false] at hacts
    exact storeAt_frame h.thread hacts
  · -- LOAD
    rintro s _ v t off w x hlo hhi hb h rfl hgoes hv
    have hacts := (insn_runs h (by simp [hlo, hhi]) _).symm.trans (acts_of_next h.1 hv)
    simp only [pois_noted, hb, Bool.false_eq_true, if_false] at hacts
    subst hacts
    obtain ⟨hstore, hsync, hthr⟩ := loadAt_frame hgoes (ra w) (loadForm (wOp w)).1
    exact storesNothing_of_issuing h.thread hstore hsync hthr
  · -- VLD
    rintro s _ v t off w x hop hreg hb h rfl hgoes hv
    have hacts := (insn_runs h (by simp [hop]) _).symm.trans (acts_of_next h.1 hv)
    simp only [Nat.not_le.mpr hreg, pois_noted, hb, Bool.false_eq_true, if_false] at hacts
    subst hacts
    obtain ⟨hstore, hsync, hthr⟩ := loadAt_frame (List.mem_append_left [.sync off, .csr off] hgoes) (.v (wA w)) .vec
    exact storesNothing_of_issuing h.thread hstore hsync hthr
  · -- ATOMIC
    rintro s _ v t off w f x hop hnarrow hb hc ha h rfl hgoes hv
    obtain rfl := (atomic_spad h hop hnarrow hb hc ha hgoes).symm.trans (acts_of_next h.1 hv)
    exact storesSpad_of_issuing (w := w) h.thread (spadStored_store ..) (spadStored_sync ..)
      ((spadLanded_keepsThreads ..).trans (result_keepsThreads ..))
  · -- VGATHER and VSCATTER
    rintro s _ v t w x hop hreg himm hb hidx h rfl
    refine ⟨fun hlanes hv => ?_, fun hlanes hv => ?_⟩
    · obtain rfl := (laneOp_of_fetched (ld := true) h hop hreg himm hb hidx hlanes _).symm.trans (acts_of_next h.1 hv)
      exact storesNothing_of_issuing h.thread rfl rfl (result_keepsThreads ..)
    · obtain rfl := (laneOp_of_fetched (ld := false) h hop hreg himm hb hidx hlanes _).symm.trans (acts_of_next h.1 hv)
      obtain ⟨hmem, hsync, hdrv, hspad⟩ := scatter_frame _ _ _ (issuing t w s) _ rfl
      have hstore : ∀ u, (nextPc t (spadStored t (x.pois (.v (wA w))) u)).store = u.store := fun u => spadStored_store ..
      have hthr := (spadStored_keepsThreads hdrv t (x.pois (.v (wA w))) []).trans (nextPc_keepsThreads ..)
      dsimp only [pois_noted, read_noted]
      refine ⟨fun a ha => ?_, fun a => ?_, (spadStored_sync ..).trans hsync,
        ((issuing_keepsThreads ..).trans hthr).leaves h.thread⟩
      · rw [hstore]
        refine hspad a fun y hy => ?_
        obtain ⟨l, hl, he⟩ := List.mem_map.mp (List.of_mem_zip hy).1
        exact he ▸ ha l hl
      · rw [hstore, hmem]
        rfl

end Sys2Proof.Machine

/-! Launch, Depot and index commands (R192, R197, R284 to R301, R315 to R321, R431 to R433). -/

namespace Sys2Proof.Machine

open Sys2Proof

/-! ### Commands on a Depot member or an index -/

/-- A command on a member of the partition answers what its body answers there. -/
theorem next_of_member {s u : State} {n op : Nat} {c : Cmd} {m : Member} {body : Cmd → Member → State → State}
    (h : Serves s n op c (depChk s n c)) (hm : memberOf s c.part (c.arg 4 4) = some m) (hb : body c m s = u) :
    (Host.Outcome.next (depKeyCmd op n body s) : Host.Outcome State Fault Refusal) = .next u :=
  next_of_serves h (by simp only [hm, hb])

/-- A command on an index of the partition answers what its body answers there. -/
theorem next_of_index {s u : State} {n op : Nat} {c : Cmd} {x : Index} {body : Cmd → Index → State → State}
    (h : Serves s n op c (idxChk s n c)) (hx : idxOf s c.part (c.arg 1 1) = some x) (hb : body c x s = u) :
    (Host.Outcome.next (idxCmd op n body s) : Host.Outcome State Fault Refusal) = .next u :=
  next_of_serves h (by simp only [hx, hb])

/-- A batch whose every entry is done completes with their number (R433). -/
theorem batchCmd_done {n count : Nat} {f : Nat → State → Option Status × State} {s t : State} (hcount : count ≠ 0)
    (h : batchGo f (List.range count) s = (none, t)) :
    batchCmd n count f s = complete n 0 (leBytes 4 count ++ leBytes 4 0) t := by
  simp only [batchCmd, hcount, h, if_false]

/-- The managed allocation of a new member's pool (R284). -/
def poolAlloc (s : State) (c : Cmd) : Alloc :=
  { size := (depParams s c).pool, tier := .managed, cells := (depParams s c).cells, near := (depParams s c).cells
    ctx := 0, part := c.part }

theorem poolAlloc_extent (s : State) (c : Cmd) : (poolAlloc s c).extent = (depParams s c).pool := Nat.mul_one _

/-- Without a map no slot names the member. -/
theorem not_mine_of_unmapped {m : Member} (h : m.mapgen = 0) (s : State) : m.mine s = fun _ => false := by
  funext i; simp [Member.mine, h]

/-- Settles O24: the common checks and the row's own pass, and what the row does finds its member, index, place or batch. -/
theorem launchDepotAndIndexCommandsComplete : Obligations.LaunchDepotAndIndexCommandsComplete := by
  unfold Obligations.LaunchDepotAndIndexCommandsComplete
  refine ⟨?_, ?_, ?_, ?_, ?_, ?_, ?_, ?_, ?_, ?_, ?_, ?_, ?_, ?_, ?_, ?_, ?_, ?_, ?_⟩
  · -- LAUNCH
    intro s n c k t hs h ⟨hpos, _⟩ hdesc hlaunch
    refine next_of_runs hs ((catalogue_of_serves h).trans ?_)
    simp only [launchCmd, Nat.pos_iff_ne_zero.mp hpos, hdesc, hlaunch, if_false]
    rfl
  · -- ISSUE
    intro s n c m hs h ⟨hm, hunit⟩ hdesc hcell hroom
    refine next_of_runs hs ((catalogue_of_serves h).trans ?_)
    simp only [issueCmd, hdesc, hunit, issueOut_matrix hm hcell hroom]
    rfl
  · -- DEPOT_CREATE
    intro s n c h hpool ⟨hok, hcells⟩ hnew ⟨hfits, hquota⟩ hroom
    obtain ⟨b, t, hb, -⟩ := makeAlloc_some (s := s) (al := poolAlloc s c) (by rwa [poolAlloc_extent])
    refine ⟨b, t, hb, next_of_serves h ?_⟩
    unfold depCreate
    rw [refuseOr_none (by simp [hpool, hok, hcells, hnew, hfits, Nat.pos_iff_ne_zero.mp hquota])]
    rw [poolAlloc] at hb
    simp only [hb]
  · -- DEPOT_MAP_SET
    intro s n c m map h hm hmap hvalid hgen
    refine next_of_serves h ?_
    unfold depMapSet
    dsimp only
    rw [← hmap, refuseOr_none]
    refine (ownChecks_skip hvalid).trans (ownChecks_skip ?_)
    simp [hm, hgen]
  · -- DEPOT_OPEN
    intro s n c a m h hm hmapped hroom
    refine next_of_member h hm ?_
    unfold depOpen
    rw [refuseOr_none]
    obtain hroom | hheld := hroom
    · simp [hmapped, Nat.not_le.mpr hroom]
    · simp [hmapped, Option.isNone_iff_eq_none, Option.isSome_iff_ne_none.mp hheld]
  · -- DEPOT_RELEASE
    intro s n c a m l h hm hl ⟨hrole, hepoch⟩
    refine next_of_member h hm ?_
    simp [depRelease, hl, hrole, hepoch]
  · -- DEPOT_ACQUIRE
    intro s n c a m h hm hmapped ⟨hlo, hhi⟩ hnone hroom
    refine next_of_member h hm ?_
    unfold depAcquire
    rw [refuseOr_none]
    simp [-Nat.reducePow, -Nat.reduceSub, hmapped, hnone, Nat.pos_iff_ne_zero.mp hlo, hhi, Nat.not_le.mpr hroom]
  · -- DEPOT_CLOSE
    intro s n c a m l h hm hl ⟨hrole, hepoch⟩
    refine next_of_member h hm ?_
    simp [depClose, hl, hrole, hepoch]
  · -- DEPOT_DESTROY
    intro s n c m h hm ⟨hleases, hmoving, hmap⟩
    refine next_of_member h hm (refuseOr_none ?_)
    simp [hleases, hmoving, not_mine_of_unmapped hmap]
  · -- DEPOT_GET
    intro s n c m h hm
    exact next_of_member h hm rfl
  · -- INDEX_CREATE
    rintro s n c _ k h rfl hcap hok hnew hfits hext hroom
    obtain ⟨ps, t, hplaced⟩ := placeAll_some k hfits hext hroom
    refine ⟨ps, t, hplaced, next_of_serves h ?_⟩
    unfold indexCreate
    rw [refuseOr_none (by simp [hcap, hok, hnew])]
    simp only [hplaced]
  · -- INDEX_DESTROY
    intro s n c x h hx hholds hidle
    refine next_of_index h hx (refuseOr_none ?_)
    rw [hidle, hholds]
    rfl
  · -- INDEX_INSERT
    intro s n c x t h hx hcount hdone
    exact next_of_index h hx (batchCmd_done hcount hdone)
  · -- INDEX_DELETE
    intro s n c x t h hx hcount hdone
    exact next_of_index h hx (batchCmd_done hcount hdone)
  · -- INDEX_LINK
    intro s n c x t h hx hcount hdone
    exact next_of_index h hx (batchCmd_done hcount hdone)
  · -- INDEX_PUBLISH
    intro s n c x h hx hlast
    exact next_of_index h hx (refuseOr_none (by simp [hlast]))
  · -- INDEX_HOLD
    intro s n c x h hx hroom ⟨hlo, hhi⟩
    refine next_of_index h hx (refuseOr_none ?_)
    simp [Nat.not_le.mpr hroom, Nat.not_lt.mpr hlo, Nat.not_lt.mpr hhi]
  · -- INDEX_RELEASE
    intro s n c x h hx hheld
    exact next_of_index h hx (refuseOr_none (by simp only [hheld]; rfl))
  · -- INDEX_STATE
    intro s n c x h hx
    exact next_of_index h hx rfl

end Sys2Proof.Machine

/-! Starts of engine operations (R215, R225, R269, R270, R281, R304, R326 to R328). -/

namespace Sys2Proof.Machine

open Sys2Proof

/-! ### A unit takes its next descriptor -/

/-- A row in which a unit takes an operation of its OP answers what the start of that operation answers. -/
theorem next_of_takes {s t : State} {k : UnitKind} {u : Nat} {o : EngOp} {mine : Nat → Bool} {total : List Byte → Nat}
    {go : EngOp → State → State} (h : Takes s k u o) (hm : mine (dOp (readDesc s o)) = true)
    (hgo : go (takenOp s k u o (total (readDesc s o))) s = t) :
    (Host.Outcome.next (dp (takeOp k u 128 mine total go) s) : Host.Outcome State Fault Refusal) = .next t :=
  next_of_runs h.runs ((takeOp_of_takes h mine total go hm).trans hgo)

/-- The operation at the head of a unit's queue names that unit. -/
theorem unit_of_head {s : State} {k : UnitKind} {u : Nat} {o : EngOp} (h : headOp s k u = some o) : o.unit = u := by
  have hmem := List.mem_of_find?_eq_some h
  simp only [unitOps, List.mem_filter, Bool.and_eq_true, decide_eq_true_eq] at hmem
  exact hmem.2.2

theorem takenOp_unit (s : State) (k : UnitKind) (u : Nat) (o : EngOp) (n : Nat) : (takenOp s k u o n).unit = o.unit := rfl

/-! ### Starts of matrix operations (R215, R225, R304) -/

/-- A validated MATMUL with a share of rows whose shadows fit runs. -/
theorem matGo_runs {o : EngOp} {s s' : State} (hcheck : matCheck o s = none)
    (hrows : (matRows o (matBody o.desc (o.unit / 2))).2 ≠ 0) (hshadow : takeShadows (matRun o s) s = some s') :
    matGo o s = updOp o.id (fun _ => matRun o s) s' := by
  unfold matGo
  rw [hcheck]
  dsimp only
  rw [if_neg hrows, hshadow]

/-- A validated EXPERT_FFN whose inputs are read and whose shadows fit runs on the tokens it counted. -/
theorem ffnGo_runs {o : EngOp} {s s1 s2 : State} {t : Nat} (hcheck : ffnCheck o s = none)
    (ht : t = min (ffnBody o.desc).tmax (ffnCount s o.ctx (ffnBody o.desc)))
    (hread : bulkOp o o.ctx (((ffnBody o.desc).tokens t ++ (ffnBody o.desc).weights).map (fun r => (r.1, r.2, false)))
      (ffnFlush o (ffnBody o.desc) t s) = (.ok, s1))
    (hshadow : takeShadows (ffnRun o t (ffnCount s o.ctx (ffnBody o.desc)) s1) s1 = some s2) :
    ffnGo o s = updOp o.id (fun _ => ffnRun o t (ffnCount s o.ctx (ffnBody o.desc)) s1) s2 := by
  subst ht
  unfold ffnGo ffnAttempt
  rw [hcheck]
  dsimp only
  rw [hread]
  dsimp only
  rw [hshadow]

/-- An ATTEND whose inputs and pages are read and whose shadows fit attends. -/
theorem attRead_runs {o : EngOp} {b : AttB} {m : Member} {s s1 s2 s3 : State}
    (hread : bulkOp o o.ctx ((b.inputs m.params).map (fun r => (r.1, r.2, false))) s = (.ok, s1))
    (hpages : bulkOp o 0 (attRanges s1 o b m) s1 = (.ok, s2))
    (hshadow : takeShadows (attRun o b m s2).1 (attRun o b m s2).2 = some s3) :
    attRead o b m s = updOp o.id (fun _ => (attRun o b m s2).1) s3 := by
  simp only [attRead, hread, hpages, hshadow]

/-- A validated ATTEND without new tokens, under a lease in force, goes on to read. -/
theorem attGo_reads {lane : Lane} {o : EngOp} {m : Member} {s : State} (hres : o.resolving = false)
    (hm : attMember s o.part (attBody o.desc).key = some m) (hcheck : attCheck o m s = none)
    (hlease : leaseCheck s m (attBody o.desc) = none) (hnew : (attBody o.desc).new = 0) :
    attGo lane o s = attRead o (attBody o.desc) m s := by
  have hsame : { o with resolving := false } = o := by rw [← hres]
  simp only [attGo, hm, hcheck, attAttempt, hlease, hsame, hnew, if_true]

/-! ### Starts of Porter operations (R269, R270, R281) -/

/-- A GATHER whose reads and rows are there and whose shadows fit runs over the rows it fetched. -/
theorem gatherAttempt_runs {o o1 : EngOp} {x : PorIn} {got : Tab GotRow} {s s1 s2 s3 : State}
    (hprep : porPrep o s = .inl (x, o1, s1)) (hrows : gatherRows x o1 s1 = (.ok, got, s2))
    (hshadow : takeShadows (gatherRun x got o1 (gatherCount x o1.unit got s2)) (gatherCount x o1.unit got s2) = some s3) :
    gatherAttempt o s = updOp o1.id (fun _ => gatherRun x got o1 (gatherCount x o1.unit got s2)) s3 := by
  simp only [gatherAttempt, porRead, hprep, hrows, hshadow]

/-- A SCATTER_ADD whose reads are there and whose shadows fit runs with its row sums. -/
theorem scatterAttempt_runs {o o1 : EngOp} {x : PorIn} {s s1 s2 : State} (hprep : porPrep o s = .inl (x, o1, s1))
    (hshadow : takeShadows (scatterBlocks (scatterRun x o1 (cnt (cellReg o1.unit 0xA28) x.b.count s1)))
      (cnt (cellReg o1.unit 0xA28) x.b.count s1) = some s2) :
    scatterAttempt o s = updOp o1.id (fun _ => scatterRun x o1 (cnt (cellReg o1.unit 0xA28) x.b.count s1)) s2 := by
  simp only [scatterAttempt, porRead, hprep, hshadow]

/-- A MOVE_ROWS whose record and list are read accepts its entries. -/
theorem moveAttempt_runs {o : EngOp} {b : PorB} {r : List Byte} {s s1 : State} (hb : b = porBody o.desc)
    (hr : r = storeBytes s (saOff b.table) 64)
    (hread : bulkOp o o.ctx (b.inputs.map (fun x => (x.1, x.2, false))) (porFlush o b (tblOf r) s) = (.ok, s1))
    (hclean : rangePoison s1 b.idx (16 * b.count) = false) : moveAttempt o s = moveRun o r s1 := by
  subst hb hr
  simp only [moveAttempt, hread, hclean, Bool.false_eq_true, if_false]

/-- A validated Porter operation is attempted. -/
theorem porGo_runs {run : EngOp → State → State} {o : EngOp} {s : State} (hcheck : porCheck o s = none) :
    porGo run o s = run o s := by
  simp only [porGo, hcheck]

/-! ### Starts of searches (R326 to R328) -/

/-- A search whose inputs are read, in range and not poisoned, and whose shadows fit, runs over its index. -/
theorem asyAttempt_runs {o : EngOp} {g : AsyObs} {b : AsyB} {x : Index} {s s1 s2 : State} (hb : b = asyBody o.desc)
    (hx : idxOf s o.part b.index = some x)
    (hread : bulkOp o o.ctx ((b.inputs x).map (fun r => (r.1, r.2, false))) (asyFlush o b x s) = (.ok, s1))
    (hclean : (b.inputs x).any (fun r => rangePoison s1 r.1 r.2) = false) (hin : inIndexBad b x s1 = none)
    (hshadow : takeShadows (asyRun o b x g s1).1 (asyRun o b x g s1).2 = some s2) :
    asyAttempt o g s = updOp o.id (fun _ => (asyRun o b x g s1).1) s2 := by
  subst hb
  simp only [asyAttempt, hx, hread, hclean, hin, hshadow, Bool.false_eq_true, if_false]

/-- A search with the version it holds while it runs (R320); a RERANK names no version (Table 12.4) and takes no hold. -/
def holding (o : EngOp) (b : AsyB) (x : Index) : EngOp :=
  { o with hold := if b.op = 0x22 then o.hold else some (idxKey o.part b.index, b.version x) }

/-- A validated search whose matrix unit, if it uses one, is bound holds the version it searches and is attempted. -/
theorem asyGo_attempts {o : EngOp} {g : AsyObs} {b : AsyB} {x : Index} {s : State} (hb : b = asyBody o.desc)
    (hcheck : asyCheck o s = none) (hx : idxOf s o.part b.index = some x)
    (hunit : b.op = 0x22 → unitUnbound s .matrix (b.munit o.unit) = false) :
    asyGo g o s = asyAttempt (holding o b x) g (updOp o.id (fun _ => holding o b x) s) := by
  subst hb
  unfold holding
  by_cases hop : (asyBody o.desc).op = 0x22
  · simp only [asyGo, hcheck, hx, hop, hunit hop, if_true, Bool.and_false, Bool.false_eq_true, if_false]
  · simp only [asyGo, hcheck, hx, hop, decide_false, Bool.false_and, Bool.false_eq_true, if_false]

/-- An Assay engine that may take a search of its OP answers what the start of the search answers. -/
theorem next_of_asyTakes {s t : State} {u : Nat} {o : EngOp} {mine : Nat → Bool} {g : AsyObs} (h : Takes s .assay u o)
    (hm : mine (dOp (readDesc s o)) = true)
    (hgo : asyGo g (takenOp s .assay u o (asyTotal s o.part u o.id (readDesc s o))) s = t) :
    (Host.Outcome.next (dp (asyTake u mine g) s) : Host.Outcome State Fault Refusal) = .next t := by
  refine next_of_runs h.runs ?_
  unfold asyTake
  rw [takeOp_of_takes h _ _ _ hm, h.head, hgo]

/-- Settles O12: each unit takes the descriptor and starts it, by the lemma of the operation's start. -/
theorem engineStartRowsComplete : Obligations.EngineStartRowsComplete := by
  unfold Obligations.EngineStartRowsComplete
  refine ⟨?_, ?_, ?_, ?_, ?_, ?_, ?_⟩
  · -- MATMUL
    rintro s s' u o _ h hffn hatt rfl hcheck hrows hshadow
    exact next_of_takes h (by simp [hffn, hatt]) (matGo_runs hcheck hrows hshadow)
  · -- EXPERT_FFN
    rintro s s1 s2 u t o _ h hop rfl hcheck ht hread hshadow
    exact next_of_takes h (by simp [hop]) (ffnGo_runs hcheck ht hread hshadow)
  · -- ATTEND
    rintro s s1 s2 s3 u lane o _ m _ h hop rfl rfl hres hm hcheck hlease hnew hread hpages hshadow
    refine next_of_runs h.runs ((takeOp_of_takes h _ _ _ (by simp [hop])).trans ?_)
    rw [h.head]
    exact (attGo_reads hres hm hcheck hlease hnew).trans (attRead_runs hread hpages hshadow)
  · -- GATHER
    rintro s s1 s2 s3 u o _ o1 x got h hscat hmove rfl hcheck hprep hrows hshadow
    exact next_of_takes h (by simp [hscat, hmove]) ((porGo_runs hcheck).trans (gatherAttempt_runs hprep hrows hshadow))
  · -- SCATTER_ADD
    rintro s s1 _ s3 u o _ o1 x h hop rfl hcheck hprep rfl hshadow
    exact next_of_takes h (by simp [hop]) ((porGo_runs hcheck).trans (scatterAttempt_runs hprep hshadow))
  · -- MOVE_ROWS
    intro s s1 u o o' b r h hop ho hcheck hb hr hread hclean
    subst ho
    exact next_of_takes h (by simp [hop]) ((porGo_runs hcheck).trans (moveAttempt_runs hb hr hread hclean))
  · -- SCAN, WALK, RERANK
    intro s s1 s2 u g o o' b x h ho hb hcheck hx hread hclean hin hshadow
    have starts (hunit : b.op = 0x22 → unitUnbound s .matrix (b.munit u) = false) :
        asyGo g (takenOp s .assay u o (asyTotal s o.part u o.id (readDesc s o))) s
          = updOp o'.id (fun _ => (asyRun o' b x g s1).1) s2 := by
      rw [asyGo_attempts hb hcheck hx (by rwa [takenOp_unit, unit_of_head h.head])]
      subst ho
      exact asyAttempt_runs hb hx hread hclean hin hshadow
    subst hb
    refine ⟨fun hwalk hrerank => ?_, fun hwalk => ?_, fun hrerank hunit => ?_⟩
    · exact next_of_asyTakes h (by simpa using ⟨hwalk, hrerank⟩) (starts fun hop => absurd hop hrerank)
    · exact next_of_asyTakes h (decide_eq_true hwalk) (starts fun hop => by omega)
    · exact next_of_asyTakes h (decide_eq_true hrerank) (starts fun _ => hunit)

end Sys2Proof.Machine

/-! Progress of engine operations: completion, row updates, moves, repair and sweeps (R213, R264, R281, R332, R333). -/

namespace Sys2Proof.Machine

open Sys2Proof

/-! ### Completion of a matrix operation (R213) -/

/-- An operation not published at its end, whose outputs may land and whose checks pass without a recheck, lands them and
ends. -/
theorem completeOp_lands {o : EngOp} {retryable : Bool} {s s' : State} (hpub : o.publish = false)
    (hland : bulkOp o o.ctx o.outRanges (dropShadows o s) = (.ok, s')) :
    completeOp o .pass {} retryable s = endOp { o with shadowed := false } (o.check != .none)
      (landAll o (cnt (cellReg (o.cell s') 0x928) 0 (cnt (cellReg (o.cell s') 0x938) 0 s'))) := by
  unfold completeOp
  dsimp only
  rw [hland]
  simp [hpub, b2n]

/-- A running matrix operation other than an ATTEND completes as every operation does. -/
theorem operationComplete_matrix {o : EngOp} {u : Nat} {lane : Lane} {sh : ShadowObs} {s : State}
    (hrun : runningOp s .matrix u = some o) (hst : o.st = .running) (hop : dOp o.desc ≠ 3) :
    operationComplete .matrix u lane sh s = completeOp o lane sh true s := by
  unfold operationComplete
  rw [hrun]
  dsimp only [matComplete]
  rw [hst, if_neg (by decide), if_neg hop]

/-! ### Row updates (R264, R270) -/

/-- The next row update of a SCATTER_ADD, whose row may be written, is no sync line and is held by no agent, goes to its
home. -/
theorem rowUpdate_routes {unit : Nat} {o : EngOp} {u : RowUpd} {rest : List RowUpd} {t : Tbl} {s s' : State}
    (hrun : runningOp s .porter unit = some o) (hst : o.st = .running) (hop : dOp o.desc = 0x11) (hrows : o.rows = u :: rest)
    (ht : t = tblOf (storeBytes s (saOff (porBody o.desc).table) 64))
    (hland : bulkOpStore o u.loc t.rb true (dropShadows o s) = (.ok, s')) (hsync : isSyncLine s' u.loc = false)
    (hshadow : s'.store.shadow = s.store.shadow) (hagents : rowAgents u.loc t.rb s' = []) :
    rowUpdate unit .pass s = routeUpd o.id o t u (updOp o.id (fun o => { o with rows := rest }) s') := by
  subst ht
  have hkept : { s' with store := { s'.store with shadow := s.store.shadow } } = s' := by rw [← hshadow]
  unfold rowUpdate
  rw [hrun]
  dsimp only
  rw [hrows]
  simp [hop, hst, hland, hkept, hsync, hagents]

/-! ### Row moves (R281) -/

/-- A snapshot that may be written at its destination lands there, and the move replays. -/
theorem moveSnapshot_lands {m : RowMove} {o : EngOp} {s s' : State} (ho : tget m.op s.eng.ops = some o)
    (hland : bulkOpStore o m.dst m.rb true s = (.ok, s')) (hsync : isSyncLine s' m.dst = false) :
    moveSnapshot m s = updMove m.id (fun m => { m with st := .replay }) (landRow o.ctx m.dst m.snap m.poison s') := by
  simp only [moveSnapshot, ho, hland, hsync, Bool.false_eq_true, if_false]

/-- A move whose source and destination agree commits: the map entry names the destination and held updates go there. -/
theorem commitMove_commits {m : RowMove} {s : State}
    (heq : crc64 (storeBytes s m.src m.rb) = crc64 (storeBytes s m.dst m.rb)) :
    commitMove m s =
      let s2 := updOp m.op (fun o => { o with rowsDone := tupd m.item (fun r => (r.1, storeBytes s m.dst m.rb)) o.rowsDone })
        (releaseHeld { m with st := .forward } (updMove m.id (fun m => { m with st := .forward, held := [], log := [] })
          (mapWrite m.ent false (m.seq + 1) m.dst s)))
      sweepMoves (cnt (cellReg (homeCell s2 m.src) 0xA40) 1 (moveResult m.op m.item Status.done.code s2)) :=
  if_pos heq

/-! ### Repair and sweeps (R332, R333) -/

/-- The oldest entry of a repair queue is worked in an idle window of its list page's channel. -/
theorem repairWork_repairs {p n : Nat} {x : Index} {e : Nat × Nat} {rest : List (Nat × Nat)} {s : State}
    (hx : idxOf s p n = some x) (hq : x.repq = e :: rest) (hidle : idleWindow s (x.chan (x.listPage e.1)) = true) :
    repairWork p n s = repairEdge p n e.1 e.2 (updIdx p n (fun x => { x with repq := rest }) s) := by
  simp only [repairWork, hx, hq, hidle, Bool.not_true, Bool.false_eq_true, if_false]

/-- The index once the lists of a channel have been swept and the channel is noted. -/
def sweptChannel (p n ch : Nat) (x : Index) (s : State) : State :=
  updIdx p n (fun x => { x with swept := x.swept ++ [ch] }) ((sweepLists x ch).foldl (fun s k =>
    ((x.listOf k).filter (fun t => t != ones32)).foldl (fun s t => repairEdge p n k t s) s) s)

/-- A sweep in progress repairs the lists of its next channel in an idle window, and after the last channel frees the slots
it began with. -/
theorem sweepChannel_sweeps {p n ch : Nat} {x y : Index} {s : State} (hx : idxOf s p n = some x)
    (hsweep : x.sweeping = true) (hch : x.channels.find? (fun c => !x.sweeping || !x.swept.contains c) = some ch)
    (hdeg : x.degree ≠ 0) (hq : x.repq = []) (hidle : idleWindow s ch = true)
    (hy : idxOf (sweptChannel p n ch x s) p n = some y) :
    sweepChannel p n s =
      if y.channels.all y.swept.contains then freeSlots y y.freeing (updIdx p n
        (fun x => { x with sweeping := false, swept := [], freeing := [], sweeps := x.sweeps + 1 }) (sweptChannel p n ch x s))
      else sweptChannel p n ch x s := by
  unfold sweptChannel at *
  simp only [hsweep, Bool.not_true] at hch
  simp only [sweepChannel, hx, hch, hdeg, hq, hidle, hsweep, hy, decide_false, bne_self_eq_false, Bool.not_true, Bool.or_self,
    Bool.false_eq_true, if_false, if_true]

/-- Settles O13: each row finds its operation, move or index as the row needs it, by the lemma of its operation. -/
theorem engineProgressRowsComplete : Obligations.EngineProgressRowsComplete := by
  unfold Obligations.EngineProgressRowsComplete
  refine ⟨?_, ?_, ?_, ?_, ?_, ?_, ?_⟩
  · -- OPERATION_COMPLETE
    intro s s' u o hs hrun hst hop hpub hland
    exact next_of_runs hs ((operationComplete_matrix hrun hst hop).trans (completeOp_lands hpub hland))
  · -- ROW_UPDATE
    intro s s' unit o u rest t hs hrun hst hop hrows _ ht hland hsync hshadow hagents
    exact next_of_runs hs (rowUpdate_routes hrun hst hop hrows ht hland hsync hshadow hagents)
  · -- MOVE_SNAPSHOT_WRITTEN
    intro s s' k m o hs hm hst ho hland hsync
    exact next_of_runs hs (by simp only [hm, hst, if_true, moveSnapshot_lands ho hland hsync])
  · -- MOVE_REPLAY
    intro s k m hs hm hst
    refine ⟨fun hlog => next_of_runs hs ?_, fun i u rest hlog hheld => next_of_runs hs ?_⟩
    · simp only [hm, hst, if_true, moveReplay, hlog]
    · simp only [hm, hst, if_true, moveReplay, hlog, hheld]
  · -- MOVE_COMMIT
    rintro s _ _ k m hs hm hst heq rfl rfl
    exact next_of_runs hs (by simp only [hm, hst, if_true, commitMove_commits heq])
  · -- REPAIR_QUEUE_WORK
    intro s p n x e rest hs hx hq hidle
    exact next_of_runs hs (repairWork_repairs hx hq hidle)
  · -- SWEEP
    rintro s _ p n ch x y hs hx hsweep hch hdeg hq hidle rfl hy
    have hswept := sweepChannel_sweeps hx hsweep hch hdeg hq hidle hy
    refine ⟨fun hmore => next_of_runs hs ?_, fun hlast => next_of_runs hs ?_⟩
    · rw [hswept, if_neg (Bool.eq_false_iff.mp hmore)]
      rfl
    · rw [hswept, if_pos hlast]
      rfl

end Sys2Proof.Machine

/-! Number formats: decoding and encoding (08_matrix_numerics.md, R205, R210). -/

namespace Sys2Proof.Machine

open Sys2Proof

/-! ### The fields of a number (Table 8.2, R205) -/

/-- The weight of the lowest exponent bit in a pattern: the hidden bit of a normal significand. -/
def Fmt.hidden (f : Fmt) : Nat := 2 ^ (f.p - 1)
/-- The exponent field of all ones. -/
def Fmt.top (f : Fmt) : Nat := 2 ^ (f.bits - f.p) - 1
/-- The mantissa field of a pattern. -/
def Fmt.mant (f : Fmt) (b : Nat) : Nat := b % 2 ^ (f.p - 1)
/-- The exponent field of a pattern. -/
def Fmt.expo (f : Fmt) (b : Nat) : Nat := b / 2 ^ (f.p - 1) % 2 ^ (f.bits - f.p)
/-- The weight of a sign. -/
def Fmt.sign (f : Fmt) (n : Bool) : Nat := if n then 2 ^ (f.bits - 1) else 0

/-- The fields of a format leave room for a sign, and its largest finite value is the one they give: the topmost exponent is
finite in a format without infinities, and there the topmost significand is NaN's in a format that has NaN. -/
def Fmt.Wf (f : Fmt) : Prop :=
  2 ≤ f.p ∧ f.p < f.bits ∧ f.maxE = f.emin + f.top - (if f.hasInf then 2 else 1) ∧
    f.maxM + (if f.hasNan && !f.hasInf then 2 else 1) = 2 ^ f.p ∧ (f.hasInf = true → 2 ≤ f.top)

/-- The formats of Table 8.2, and FP64. -/
theorem wf_of_listed : ∀ f ∈ [fp64, fp32, bf16, fp16, e4m3, e5m2, e3m2, e2m3, e2m1], f.Wf := by
  unfold Fmt.Wf
  decide

theorem Fmt.Wf.two_le_hidden {f : Fmt} (hf : f.Wf) : 2 ≤ f.hidden := Nat.le_self_pow (Nat.sub_ne_zero_of_lt hf.1) 2
theorem Fmt.Wf.two_pow_p {f : Fmt} (hf : f.Wf) : 2 ^ f.p = 2 * f.hidden := by
  rw [Fmt.hidden, ← pow_succ', Nat.sub_add_cancel (Nat.one_le_of_lt hf.1)]

theorem Fmt.mant_lt (f : Fmt) (b : Nat) : f.mant b < f.hidden := Nat.mod_lt _ (Nat.two_pow_pos _)
theorem Fmt.expo_le (f : Fmt) (b : Nat) : f.expo b ≤ f.top := Nat.le_sub_one_of_lt (Nat.mod_lt _ (Nat.two_pow_pos _))

/-- A pattern is the sum of its fields. -/
theorem Fmt.fields_sum {f : Fmt} (hf : f.Wf) {b : Nat} (hb : b < 2 ^ f.bits) :
    f.sign (bit b (f.bits - 1)) + (f.expo b * f.hidden + f.mant b) = b := by
  obtain ⟨hp, hbits, _⟩ := hf
  have hexp : 2 ^ (f.bits - 1) = 2 ^ (f.bits - f.p) * 2 ^ (f.p - 1) := by rw [← pow_add]; congr 1; omega
  have hlow : f.expo b * f.hidden + f.mant b = b % 2 ^ (f.bits - 1) := by
    rw [hexp, Nat.mul_comm (2 ^ _), Nat.mod_mul, Fmt.expo, Fmt.hidden, Fmt.mant, Nat.mul_comm, Nat.add_comm]
  have hhigh : f.sign (bit b (f.bits - 1)) = 2 ^ (f.bits - 1) * (b / 2 ^ (f.bits - 1)) := by
    have htwo : b / 2 ^ (f.bits - 1) < 2 := by
      rw [Nat.div_lt_iff_lt_mul (Nat.two_pow_pos _), ← pow_succ']
      rwa [Nat.sub_add_cancel (by omega)]
    unfold Fmt.sign bit
    interval_cases b / 2 ^ (f.bits - 1) <;> simp
  rw [hlow, hhigh, Nat.div_add_mod]

/-! ### What a pattern decodes to -/

theorem Fmt.decode_eq (f : Fmt) (b : Nat) : f.decode b =
    (if f.hasInf && f.expo b = f.top then (if f.mant b = 0 then .inf (bit b (f.bits - 1)) else .nan)
      else if !f.hasInf && f.hasNan && f.expo b = f.top && f.mant b = f.hidden - 1 then .nan
      else if f.expo b = 0 then .fin (bit b (f.bits - 1)) (f.mant b) f.emin
      else .fin (bit b (f.bits - 1)) (f.mant b + f.hidden) (f.emin + f.expo b - 1)) := rfl

/-- A pattern that is not NaN is an infinity, a subnormal number or zero, or a normal number. -/
theorem Fmt.decode_cases {f : Fmt} {b : Nat} (h : f.decode b ≠ .nan) :
    (f.hasInf = true ∧ f.expo b = f.top ∧ f.mant b = 0 ∧ f.decode b = .inf (bit b (f.bits - 1))) ∨
    (f.expo b = 0 ∧ f.decode b = .fin (bit b (f.bits - 1)) (f.mant b) f.emin) ∨
    (f.expo b ≠ 0 ∧ (f.hasInf = true → f.expo b ≠ f.top) ∧
      ((f.hasNan && !f.hasInf) = true → f.expo b = f.top → f.mant b ≠ f.hidden - 1) ∧
      f.decode b = .fin (bit b (f.bits - 1)) (f.mant b + f.hidden) (f.emin + f.expo b - 1)) := by
  rw [Fmt.decode_eq] at h ⊢
  split at h
  · next hinf =>
    simp only [Bool.and_eq_true, decide_eq_true_eq] at hinf
    split at h
    · next hm => exact .inl ⟨hinf.1, hinf.2, hm, by simp [hinf, hm]⟩
    · exact absurd rfl h
  · next hinf =>
    split at h
    · exact absurd rfl h
    · next hnan =>
      split at h
      · next hz => exact .inr (.inl ⟨hz, by rw [if_neg hinf, if_neg hnan, if_pos hz]⟩)
      · next hz =>
        refine .inr (.inr ⟨hz, ?_, ?_, by rw [if_neg hinf, if_neg hnan, if_neg hz]⟩)
        · simpa using hinf
        · simp only [Bool.and_eq_true, Bool.not_eq_true', decide_eq_true_eq] at hnan ⊢
          exact fun ⟨hn, hi⟩ he hm => hnan ⟨⟨⟨hi, hn⟩, he⟩, hm⟩

/-! ### What a value encodes to (R210) -/

theorem Fmt.encode_inf {f : Fmt} (h : f.hasInf = true) (sat n : Bool) :
    f.encode sat (.inf n) = f.sign n + f.top * f.hidden := by
  simp only [Fmt.encode, h, if_true, Fmt.sign, Fmt.top, Fmt.hidden]

theorem Fmt.encode_subnormal {f : Fmt} {n : Bool} {m : Nat} {e : Int} (hover : f.overI (.fin n m e) = false)
    (hm : m < f.hidden) (sat : Bool) : f.encode sat (.fin n m e) = f.sign n + m := by
  unfold Fmt.hidden at hm
  simp only [Fmt.encode, hover, hm, Bool.false_eq_true, if_false, if_true, Fmt.sign]

theorem Fmt.encode_normal {f : Fmt} {n : Bool} {m : Nat} {e : Int} (hover : f.overI (.fin n (m + f.hidden) e) = false)
    (sat : Bool) : f.encode sat (.fin n (m + f.hidden) e) = f.sign n + ((e - f.emin + 1).toNat * f.hidden + m) := by
  unfold Fmt.hidden at *
  simp only [Fmt.encode, hover, Bool.false_eq_true, if_false, Fmt.sign, Nat.not_lt.mpr (Nat.le_add_left _ m),
    Nat.add_sub_cancel]

/-! ### Decoded numbers are in range -/

/-- Taking a number from one at a higher power of two that is not below it leaves their difference at the lower power. -/
theorem Fv.add_neg_of_le {a b : Nat} {i j : Int} (hij : j ≤ i) (hab : b ≤ a * 2 ^ (i - j).toNat) :
    Fv.add (.fin false a i) (Fv.neg (.fin false b j)) = .fin false (a * 2 ^ (i - j).toNat - b) j := by
  simp only [Fv.neg, Fv.add, min_eq_right hij, sub_self, Int.toNat_zero, pow_zero, Nat.mul_one, Bool.not_false, if_true,
    Bool.false_eq_true, if_false, one_mul, neg_one_mul, Bool.false_and]
  generalize a * 2 ^ (i - j).toNat = c at *
  split
  · congr 1; omega
  · congr 1
    · exact decide_eq_false (by omega)
    · omega

theorem Fv.not_lt_of_le {a b : Nat} {i j : Int} (hij : j ≤ i) (hab : b ≤ a * 2 ^ (i - j).toNat) :
    Fv.lt (.fin false a i) (.fin false b j) = false := by
  simp only [Fv.lt, Fv.add_neg_of_le hij hab, Bool.false_and]

theorem Fmt.not_over {f : Fmt} {n : Bool} {m : Nat} {e : Int} (he : e ≤ f.maxE) (hm : m ≤ f.maxM * 2 ^ (f.maxE - e).toNat) :
    f.overI (.fin n m e) = false :=
  Fv.not_lt_of_le he hm

/-- A normal number that is neither an infinity's nor NaN's pattern is at most the largest finite value. -/
theorem Fmt.normal_in_range {f : Fmt} (hf : f.Wf) {n : Bool} {m ex : Nat} (hm : m < f.hidden) (hex : ex ≤ f.top)
    (hinf : f.hasInf = true → ex ≠ f.top) (hnan : (f.hasNan && !f.hasInf) = true → ex = f.top → m ≠ f.hidden - 1) :
    f.overI (.fin n (m + f.hidden) (f.emin + ex - 1)) = false := by
  have hdouble := hf.two_pow_p
  have hhidden := hf.two_le_hidden
  obtain ⟨_, _, hmaxE, hmaxM, _⟩ := hf
  have he : f.emin + ex - 1 ≤ f.maxE := by
    split at hmaxE
    · next hi => have := hinf hi; omega
    · omega
  refine Fmt.not_over he ?_
  split at hmaxM
  · next hn =>
    have hno : f.hasInf = false := Bool.not_eq_true' _ ▸ (Bool.and_eq_true_iff.mp hn).2
    rw [hno, if_neg Bool.false_ne_true] at hmaxE
    rcases Nat.eq_or_lt_of_le hex with htop | hlow
    · have := hnan hn htop
      calc m + f.hidden ≤ f.maxM := by omega
        _ ≤ f.maxM * 2 ^ _ := Nat.le_mul_of_pos_right _ (Nat.two_pow_pos _)
    · calc m + f.hidden ≤ f.maxM * 2 ^ 1 := by omega
        _ ≤ f.maxM * 2 ^ _ := Nat.mul_le_mul_left _ (Nat.pow_le_pow_right (by decide) (by omega))
  · calc m + f.hidden ≤ f.maxM := by omega
      _ ≤ f.maxM * 2 ^ _ := Nat.le_mul_of_pos_right _ (Nat.two_pow_pos _)

/-- A subnormal number is below the largest finite value. -/
theorem Fmt.subnormal_in_range {f : Fmt} (hf : f.Wf) {n : Bool} {m : Nat} (hm : m < f.hidden) :
    f.overI (.fin n m f.emin) = false := by
  have hdouble := hf.two_pow_p
  have hhidden := hf.two_le_hidden
  obtain ⟨_, hbits, hmaxE, hmaxM, htop⟩ := hf
  have hone : 2 ≤ 2 ^ (f.bits - f.p) := Nat.le_self_pow (Nat.sub_ne_zero_of_lt hbits) 2
  have he : f.emin ≤ f.maxE := by
    unfold Fmt.top at *
    split at hmaxE
    · next hi => have := htop hi; omega
    · omega
  refine Fmt.not_over he ?_
  calc m ≤ f.maxM := by split at hmaxM <;> omega
    _ ≤ f.maxM * 2 ^ _ := Nat.le_mul_of_pos_right _ (Nat.two_pow_pos _)

/-- Every pattern of a well-formed format that is not NaN is what the value it decodes to encodes to. -/
theorem Fmt.encode_decode {f : Fmt} (hf : f.Wf) {b : Nat} (hb : b < 2 ^ f.bits) (h : f.decode b ≠ .nan) (sat : Bool) :
    f.encode sat (f.decode b) = b := by
  have hsum := Fmt.fields_sum hf hb
  obtain ⟨hinf, he, hm, hd⟩ | ⟨he, hd⟩ | ⟨_, hinf, hnan, hd⟩ := Fmt.decode_cases h
  · rw [hd, Fmt.encode_inf hinf]
    rwa [he, hm, Nat.add_zero] at hsum
  · rw [hd, Fmt.encode_subnormal (Fmt.subnormal_in_range hf (f.mant_lt b)) (f.mant_lt b)]
    rwa [he, Nat.zero_mul, Nat.zero_add] at hsum
  · rw [hd, Fmt.encode_normal (Fmt.normal_in_range hf (f.mant_lt b) (f.expo_le b) hinf hnan)]
    rwa [show (f.emin + f.expo b - 1 - f.emin + 1).toNat = f.expo b by omega]

/-- Settles O44: each listed format is well formed, and a well-formed format loses no pattern but NaN's. -/
theorem numberFormatsRoundTrip : Obligations.NumberFormatsRoundTrip :=
  fun f hf _ hb hnan sat => Fmt.encode_decode (wf_of_listed f hf) hb hnan sat

end Sys2Proof.Machine

/-! Depot rows: renewals and expiry, hand-off, resolution and slots in motion (11_depot_attention.md, R284 to R300). -/

namespace Sys2Proof.Machine

open Sys2Proof

/-! ### Requests that a home decides (R292, R294) -/

/-- A home's decision on another device's request goes to the port that the request came by. -/
theorem next_of_homed {s t : State} {k : DepKind} {port : Nat} {x : DepMsg} {m : Member} {a : HomeAns} (h : Homed s x m)
    (hdo : homeDo k x s = (a, t)) :
    (Host.Outcome.next (execHomeRequest k port x s) : Host.Outcome State Fault Refusal) =
      .next (sendAnswer k (some port) x a t) :=
  next_of_runs h.runs (by rw [homeServe_of_homed h, hdo])

/-- The owner of a held key renews at its own epoch: the lease runs in full from now. -/
theorem homeDo_renew_of_owner {s : State} {x : DepMsg} {m : Member} {h : HomeEnt}
    (hm : memberOf s x.part x.depot = some m) (hh : tget x.key m.homes = some h) (hst : h.r.st = .held)
    (howner : h.r.owner = x.dev) (hpart : h.r.ownerPart = x.sender) (hepoch : h.r.epoch = x.epoch) :
    homeDo .renew x s =
      (.granted x.epoch, putHome x.part x.depot x.key { h.r with left := m.params.lease * 1000 } s) := by
  simp [homeDo, hm, hh, hst, howner, hpart, hepoch]

/-- The taker of a released key commits at the next epoch: it owns the key, and the source is told to discard. -/
theorem homeDo_commit_of_taker {s : State} {x : DepMsg} {m : Member} {h : HomeEnt}
    (hm : memberOf s x.part x.depot = some m) (hh : tget x.key m.homes = some h) (hst : h.r.st = .taking)
    (htaker : h.r.taker = x.dev) (hpart : h.r.takerPart = x.sender) (hepoch : x.epoch = h.r.epoch + 1) :
    homeDo .commit x s = (.granted x.epoch,
      tellDiscard x.depot x.key h.r.owner h.r.ownerPart (depCnt m x.key 0xB48 (putHome x.part x.depot x.key
        { epoch := x.epoch, owner := x.dev, ownerPart := x.sender, st := .held, left := m.params.lease * 1000 } s))) := by
  simp [homeDo, hm, hh, hst, htaker, hpart, hepoch]

/-! ### Leases and home records at their times (R292) -/

section Times

variable {s : State} {p d key : Nat} {m : Member} {l : Lease} {h : HomeEnt}

/-- An owner with no renewal unanswered asks the home at the renewal's time. -/
theorem renewalSend_of_owner (hrun : s.halted = false) (hm : memberOf s p d = some m) (hl : tget key m.leases = some l)
    (hrole : l.role = .owner) (hsent : l.sent = none) :
    renewalSend p d key s = askHome .renew p d key l.epoch none (updLease p d key
      (fun l' => { l' with sent := some (reach l.nextRenew s).now
                           nextRenew := (reach l.nextRenew s).now + m.params.lease * 250000 }) (reach l.nextRenew s)) := by
  simp [renewalSend, hm, hl, hrole, hsent, timer_of_runs hrun]

theorem leaseEndAt_of_owner (hrun : s.halted = false) (hm : memberOf s p d = some m) (hl : tget key m.leases = some l)
    (hrole : l.role = .owner) : leaseEndAt p d key s = leaseOver p d key (reach (m.leaseEnd l) s) := by
  simp [leaseEndAt, hm, hl, hrole, timer_of_runs hrun]

/-- A home record of a slot at rest becomes LOST when its EXPIRY reaches zero. -/
theorem homeExpiry_at_rest (hrun : s.halted = false) (hm : memberOf s p d = some m) (hh : tget key m.homes = some h)
    (hst : h.r.st ≠ .lost) (hrest : (tget (homeSlot key) m.moving).isSome = false) :
    homeExpiry p d key s = depCnt m key 0xB38 (putHome p d key { h.r with st := .lost, left := 0 }
      (reach (h.set + h.r.left * 1000) s)) := by
  simp only [homeExpiry, hm, hh, hst, hrest, timer_of_runs hrun, Option.bind_some, Option.map_some, decide_false,
    Bool.or_self, Bool.false_eq_true, if_false]

/-- A LOST home record is removed when its hold ends. -/
theorem lostHold_of_home (hrun : s.halted = false) (hm : memberOf s p d = some m) (hh : tget key m.homes = some h)
    (hst : h.r.st = .lost) (hl : tget key m.leases = none) :
    lostHold p d key s = updMem p d (fun m => { m with homes := tdel key m.homes })
      (reach (h.set + m.params.lostHold * 1000000) s) := by
  simp only [lostHold, hm, hh, hst, hl, timer_of_runs hrun, if_true]

/-! ### Hand-off and resolution at a member (R295, R297) -/

/-- A taker whose pages from another device agree with their digests and fit its pool asks the home to commit. -/
theorem copyDone_of_verified {s1 : State} {m' : Member} {ls : List (Nat × List PageCopy)} {es : Tab (List LadEnt)}
    {ns : Tab Nat} (hm : memberOf s p d = some m) (hl : tget key m.leases = some l) (hrole : l.role = .taking)
    (hcommit : l.committing = false) (hsrc : isOwn s l.src.1 = false)
    (hsame : ls.all (fun y => y.2.all (fun g => pageDigest m.params (padTo 262144 g.data) g.tokens = g.digest)) = true)
    (hland : landLayers m.params ls m s = (some (es, ns, m'), s1)) :
    copyDone p d key true ls s = askHome .commit p d key l.epoch none (updMem p d (fun m =>
      { m with used := m'.used
               leases := tput key { l with layers := es, lens := ns, committing := true, since := s1.now } m.leases }) s1) := by
  simp only [copyDone, hm, hl, hrole, hcommit, hsrc, hsame, hland, Option.bind_some, Option.map_some, bne_self_eq_false,
    Bool.or_self, Bool.not_true, Bool.false_eq_true, if_false]

/-- A released member asks the home when the hand-off's time is over. -/
theorem resolve_of_released (hrun : s.halted = false) (hm : memberOf s p d = some m) (hl : tget key m.leases = some l)
    (hrole : l.role = .released) :
    let s1 := reach (l.since + m.params.handoff * 1000) s
    resolve p d key s = askHome .resolve p d key l.epoch none (depCnt m key 0xB40
      (updMem p d (fun m => { m with resolving := tput key (tgetD m.resolving key s1.now) m.resolving }) s1)) := by
  simp [resolve, hm, hl, hrole, timer_of_runs hrun]

end Times

/-! ### Slots in motion (R299, R300) -/

/-- A record of a slot that a member receives is put at the member. -/
theorem recordsReceived_single {s : State} {p d key : Nat} {r : HomeRec} {m : Member} {v : SlotMove}
    (hm : memberOf s p d = some m) (hv : tget (homeSlot key) m.moving = some v) (hrecv : v.sending = false) :
    recordsReceived p d [(key, r)] s = putHome p d key r s := by
  simp only [recordsReceived, List.foldl_cons, List.foldl_nil, hm, hv, hrecv, Option.bind_some, Bool.false_eq_true, if_false]

/-- Settles O14: each row finds its member with the lease, record, slot or request it needs, and its timer runs at the due
time. -/
theorem depotRowsComplete : Obligations.DepotRowsComplete := by
  unfold Obligations.DepotRowsComplete
  refine ⟨?_, ?_, ?_, ?_, ?_, ?_, ?_, ?_, ?_, ?_, ?_, ?_, ?_, ?_, ?_⟩
  · -- LEASE_RENEWAL_SEND
    rintro s _ p d key m l hs hm hl hrole hsent rfl
    exact congrArg Host.Outcome.next (renewalSend_of_owner hs hm hl hrole hsent)
  · -- LEASE_RENEWAL
    intro s port x m h hx hh hst howner hpart hepoch
    exact next_of_homed hx (homeDo_renew_of_owner hx.member hh hst howner hpart hepoch)
  · -- RENEWAL_ANSWER
    intro s p d key e m hs hm
    exact next_of_runs hs (by simp only [onAnswer, hm])
  · -- LEASE_END
    intro s p d key m l hs hm hl hrole
    exact congrArg Host.Outcome.next (leaseEndAt_of_owner hs hm hl hrole)
  · -- HOME_EXPIRY
    intro s p d key m h hs hm hh hst hrest
    exact congrArg Host.Outcome.next (homeExpiry_at_rest hs hm hh hst hrest)
  · -- LOST_HOLD_EXPIRY
    intro s p d key m h hs hm hh hst hl
    exact congrArg Host.Outcome.next (lostHold_of_home hs hm hh hst hl)
  · -- HANDOFF_COPY_DONE
    intro s s1 p d key m m' l ls es ns hs hm hl hrole hcommit hsrc hsame hland
    exact next_of_runs hs (copyDone_of_verified hm hl hrole hcommit hsrc hsame hland)
  · -- HANDOFF_COMMIT
    intro s port x m h hx hh hst htaker hpart hepoch
    exact next_of_homed hx (homeDo_commit_of_taker hx.member hh hst htaker hpart hepoch)
  · -- COMMIT_ACK
    intro s p d key e m hs hm
    exact next_of_runs hs (by simp only [onAnswer, hm])
  · -- SOURCE_DISCARD
    intro s p d key m l hs hm hl hrole
    exact next_of_runs hs (by simp only [hm, hl, hrole, Option.bind_some, if_true])
  · -- RESOLVE
    rintro s _ p d key m l hs hm hl hrole rfl
    exact next_of_runs hs (resolve_of_released hs hm hl hrole)
  · -- RESOLVE_ANSWER
    intro s p d key t r m hs hm ht
    exact next_of_runs hs (by simp only [hm, ht, reduceCtorEq, if_false])
  · -- HOME_RECORDS_RECEIVED
    intro s p d key r m v hs hm hv hrecv
    exact next_of_runs hs (recordsReceived_single hm hv hrecv)
  · -- END_MARKER, RECORDS_ACKNOWLEDGED
    intro s p d i m v hs hm hv
    refine ⟨fun hrecv => next_of_runs hs ?_, fun hsend => next_of_runs hs ?_⟩
    · simp only [hm, hv, hrecv, Option.bind_some, Bool.false_eq_true, if_false]
    · simp only [hm, hv, hsend, Option.bind_some, if_true]
  · -- HELD_REQUEST_TIMEOUT
    intro s p d i m h hs hm hh
    refine congrArg Host.Outcome.next ?_
    simp only [hm, hh, timer_of_runs hs, Option.bind_some, Option.map_some]

end Sys2Proof.Machine

/-! Training, lanes and remaps of an edge port (13_edge_ports.md, R337 to R341, R343, R346). -/

namespace Sys2Proof.Machine

open Sys2Proof

/-! ### Training (Table 13.2) -/

/-- A training row answers what its operation answers, in its state. -/
theorem next_of_portTrains {s u : State} {p : Nat} {st : PortSt} {f : State → State} (h : Trains s p st) (hf : f s = u) :
    (Host.Outcome.next (dp (inState p st f) s) : Host.Outcome State Fault Refusal) = .next u :=
  next_of_runs h.runs ((inState_of_trains h f).trans hf)

/-- A training timeout goes to its next state at its time, in its state. -/
theorem next_of_stateTimeout {s : State} {p : Nat} {st : PortSt} (h : Trains s p st) (next : PortSt) (ns : Nat) :
    (Host.Outcome.next (stateTimeout p st next ns s) : Host.Outcome State Fault Refusal) =
      .next (enter p next (reach ((port s p).since + ns) s)) :=
  congrArg Host.Outcome.next (stateTimeout_of_trains h next ns)

/-- Equalisation with four lanes or more assigns them and goes on to ALIGN (R338). -/
theorem eqDone_aligns {s : State} {p : Nat} {good : List Nat} (h : 4 ≤ (usable good (port s p)).length) :
    eqDone p good s = enter p .align (updPort p (assign good) s) :=
  if_neg (Nat.not_lt.mpr h)

/-! ### Lanes (R337, R340) -/

/-- At the end of its window an ACTIVE port starts a new one, and each lane over the limit fails (R337). -/
theorem laneWindow_ends {s : State} {p : Nat} (h : Open s p) :
    laneWindow p s = ((List.range 9).filter (fun l => serOver (port s p).cfg ((port s p).win.getD l 0))).foldl
      (fun s l => laneFails p l s)
      (updPort p (fun x => { x with win := List.replicate 9 0, winAt := (reach ((port s p).winAt + 1000000) s).now })
        (reach ((port s p).winAt + 1000000) s)) := by
  simp only [laneWindow, h.active, timer_of_runs h.runs, bne_self_eq_false, Bool.false_eq_true, if_false]

/-- A working lane and the free spare change places; a port without remaps asks its module for nothing (R340). -/
theorem substitute_swaps {s : State} {p lane : Nat} (h : Open s p) (hfree : (port s p).spareUsed = false) (hlane : lane < 8)
    (hnone : (port s p).subst = none) (hremap : (port s p).cfg.remapEn = false) :
    substitute p lane s = cnt (portReg p 0x58) 1 (updPort p (fun x => { x with
      lanes := (x.lanes.set lane ((port s p).lanes.getD 8 8)).set 8 ((port s p).lanes.getD lane lane), spareUsed := true,
      subst := none, failed := x.failed ||| (1#9 <<< (port s p).lanes.getD lane lane) }) s) := by
  simp only [substitute, h.active, hfree, Nat.not_le.mpr hlane, hnone, hremap, bne_self_eq_false, decide_false, Bool.or_self,
    Bool.false_and, Bool.false_eq_true, if_false]

/-! ### Remaps (R341) -/

/-- The module's answer to the request out starts the equalisation of the spare. -/
theorem remapAnswer_accepted {s : State} {p : Nat} (hpend : (port s p).remapPend = true) :
    remapAnswer p (port s p).remapSeq 0 s = updPort p (fun x => { x with remapEq := true }) s := by
  simp only [remapAnswer, hpend, bne_self_eq_false, Bool.not_true, Bool.or_self, Bool.false_eq_true, if_false, if_true]

/-- A first request without an answer is made once more, under the next sequence number. -/
theorem remapTimeout_asksAgain {s : State} {p : Nat} (hrun : s.halted = false) (hpend : (port s p).remapPend = true)
    (heq : (port s p).remapEq = false) (htries : (port s p).remapTries = 1) :
    remapTimeout p s = remapAsk p (updPort p (fun x => { x with remapTries := 2, remapSeq := (x.remapSeq + 1) % 256 })
      (reach ((port s p).remapAt + 50000000) s)) := by
  simp only [remapTimeout, hpend, heq, htries, timer_of_runs hrun, Bool.not_true, Bool.or_self, Bool.false_eq_true, if_false,
    if_true]

/-- The remapped lane, once equalised, is the new spare. -/
theorem spareEq_restores {s : State} {p : Nat} (heq : (port s p).remapEq = true) :
    spareEq p s = cnt (portReg p 0x60) 1 (updPort p (fun x => { x with
      remapEq := false, remapPend := false, spareUsed := false, failed := x.failed &&& ~~~(1#9 <<< x.remapLane) }) s) := by
  simp only [spareEq, heq, Bool.not_true, Bool.false_eq_true, if_false]

/-- Settles O15: the training rows and timeouts by the rules of their state, the lane and remap rows by what their
operations do to the port. -/
theorem edgePortTrainingRowsComplete : Obligations.EdgePortTrainingRowsComplete := by
  unfold Obligations.EdgePortTrainingRowsComplete
  refine ⟨?_, ?_, ?_, ?_, ?_, ?_, ?_, ?_, ?_, ?_, ?_, ?_, ?_, ?_, ?_, ?_, ?_, ?_, ?_⟩
  · -- PARTNER_DETECT
    intro s p n h hlanes
    exact next_of_portTrains h (if_pos hlanes)
  · -- DETECT_TIMEOUT
    intro s p h
    exact next_of_stateTimeout h ..
  · -- EQ_DONE
    intro s p good h hgood
    exact next_of_portTrains h (eqDone_aligns hgood)
  · -- EQ_TIMEOUT
    intro s p h
    exact next_of_stateTimeout h ..
  · -- ALIGN_DONE
    intro s p h
    exact next_of_portTrains h rfl
  · -- ALIGN_TIMEOUT
    intro s p h
    exact next_of_stateTimeout h ..
  · -- LINK_AUTH_DONE
    intro s p h
    exact ⟨next_of_portTrains h rfl, next_of_portTrains h rfl⟩
  · -- AUTH_TIMEOUT
    intro s p h
    exact next_of_stateTimeout h ..
  · -- CONFIG_DONE
    rintro s _ p dev tag c h rfl htag
    exact next_of_portTrains h (if_neg (ne_true_of_eq_false (bne_eq_false_iff_eq.mpr htag)))
  · -- CONFIG_TIMEOUT
    intro s p h
    exact next_of_stateTimeout h ..
  · -- RECOVER_DONE
    intro s p good h hneed
    refine next_of_portTrains h ?_
    simp only [hneed, Bool.false_and, Bool.false_eq_true, if_false]
  · -- RECOVER_TIMEOUT
    intro s p h
    exact next_of_stateTimeout h ..
  · -- FEC_LOCK_LOSS
    intro s p h
    exact next_of_portTrains h rfl
  · -- LANE_SER_WINDOW
    rintro s _ p h rfl
    exact congrArg Host.Outcome.next ((if_pos h.port).trans (laneWindow_ends h))
  · -- CLOCK_RECOVERY_LOSS
    intro s p lane h
    exact next_of_port h.runs h.port rfl
  · -- SUBSTITUTE
    rintro s p lane _ _ h hfree hlane hnone hremap rfl rfl
    exact next_of_port h.runs h.port (substitute_swaps h hfree hlane hnone hremap)
  · -- REMAP_ANSWER
    rintro s p _ hrun hp hpend rfl
    exact next_of_port hrun hp (remapAnswer_accepted hpend)
  · -- REMAP_TIMEOUT
    intro s p hrun hp hpend heq htries
    exact congrArg Host.Outcome.next ((if_pos hp).trans (remapTimeout_asksAgain hrun hpend heq htries))
  · -- SPARE_EQ_DONE
    intro s p hrun hp heq
    exact next_of_port hrun hp (spareEq_restores heq)

end Sys2Proof.Machine

/-! Compressed blocks: what a block of given fields decodes to (15_compression.md, Table 15.3, R384, R389). -/

namespace Sys2Proof.Machine

open Sys2Proof

/-! ### The CRC fits its four bytes -/

theorem crcBit_lt {p v n : Nat} (hp : p < 2 ^ n) (hv : v < 2 ^ n) : crcBit p v < 2 ^ n := by
  have half : v / 2 < 2 ^ n := lt_of_le_of_lt (Nat.div_le_self v 2) hv
  unfold crcBit
  split
  · exact Nat.xor_lt_two_pow half hp
  · exact half

theorem crcByte_lt {p v n : Nat} (hp : p < 2 ^ n) (hn : 8 ≤ n) (hv : v < 2 ^ n) (b : Byte) : crcByte p v b < 2 ^ n := by
  have hb : b.toNat < 2 ^ n := lt_of_lt_of_le b.isLt (Nat.pow_le_pow_right (by decide) hn)
  exact List.foldlRecOn (motive := (· < 2 ^ n)) _ _ (Nat.xor_lt_two_pow hv hb) (fun _ h _ _ => crcBit_lt hp h)

theorem crc32c_lt (l : List Byte) : crc32c l < 2 ^ 32 :=
  Nat.xor_lt_two_pow
    (List.foldlRecOn (motive := (· < 2 ^ 32)) l _ (by decide) (fun _ h b _ => crcByte_lt (by decide) (by decide) h b))
    (by decide)

/-! ### The codes of a block as digits to the base 2^W -/

/-- A block's codes, packed from the lowest bit up, are the digits of a number to the base 2^W (R384). -/
theorem packed_eq_ofDigits (w : Nat) (codes : List Nat) :
    (codes.zip (List.range codes.length)).foldl (fun a c => a + c.1 * 2 ^ (w * c.2)) 0 = Nat.ofDigits (2 ^ w) codes := by
  rw [Nat.ofDigits_eq_sum_mapIdx, List.mapIdx_eq_zipIdx_map, List.zipIdx_eq_zip_range', ← List.range_eq_range',
    List.sum_eq_foldl, List.foldl_map]
  simp only [pow_mul]

theorem ofDigits_div_pow_mod {b j : Nat} {l : List Nat} (h : ∀ d ∈ l, d < b) (hj : j < l.length) :
    Nat.ofDigits b l / b ^ j % b = l[j] := by
  have hd : l[j] < b := h _ (List.getElem_mem hj)
  rw [Nat.ofDigits_div_pow_eq_ofDigits_drop j (by omega) l h, List.drop_eq_getElem_cons hj, Nat.ofDigits_cons,
    Nat.add_mul_mod_self_left, Nat.mod_eq_of_lt hd]

/-- Reading every digit of a number gives back the list it was made of. -/
theorem map_digit_ofDigits {b : Nat} {l : List Nat} (h : ∀ d ∈ l, d < b) :
    (List.range l.length).map (fun j => Nat.ofDigits b l / b ^ j % b) = l :=
  List.ext_getElem (by simp) (fun j _ hj => by simp [ofDigits_div_pow_mod h hj])

/-! ### The fields of a block (Table 15.3) -/

theorem fld_append_right (a l : List Byte) (o n : Nat) : fld (a ++ l) (a.length + o) n = fld l o n := by
  simp only [fld, List.drop_length_add_append]

theorem fld_leBytes_append (n v : Nat) (l : List Byte) : fld (leBytes n v ++ l) 0 n = v % 256 ^ n := by
  rw [fld, List.drop_zero, List.take_left' (length_leBytes n v), leNat_leBytes]

/-- The header before the CRC: SEL, BFLAGS and BNUM. -/
def frbHead (sel flags k : Nat) : List Byte := leBytes 1 sel ++ leBytes 1 flags ++ leBytes 2 (k % 65536)

@[simp] theorem length_frbHead (sel flags k : Nat) : (frbHead sel flags k).length = 4 := by simp [frbHead]

/-- The CODES field of 256 codes of `w` bits. -/
def frbBody (w : Nat) (codes : List Nat) : List Byte := leBytes (32 * w) (Nat.ofDigits (2 ^ w) codes)

@[simp] theorem length_frbBody (w : Nat) (codes : List Nat) : (frbBody w codes).length = 32 * w := length_leBytes ..

theorem frbBytes_eq {codes : List Nat} (hlen : codes.length = 256) (w sel flags k : Nat) :
    frbBytes w sel flags k codes =
      frbHead sel flags k ++ (leBytes 4 (crc32c (frbHead sel flags k ++ frbBody w codes)) ++ frbBody w codes) := by
  rw [frbBody, ← packed_eq_ofDigits, hlen, ← List.append_assoc]
  rfl

/-- CODES holds all the codes: nothing of the last one is cut off. -/
theorem leNat_frbBody {w : Nat} {codes : List Nat} (hw : w ≠ 0) (hlen : codes.length = 256) (hc : ∀ c ∈ codes, c < 2 ^ w) :
    leNat (frbBody w codes) = Nat.ofDigits (2 ^ w) codes := by
  have hroom : (256 : Nat) ^ (32 * w) = (2 ^ w) ^ codes.length :=
    calc (256 : Nat) ^ (32 * w) = 2 ^ (8 * (32 * w)) := (pow_mul 2 8 (32 * w)).symm
      _ = 2 ^ (w * codes.length) := congrArg (2 ^ ·) (by rw [hlen]; omega)
      _ = (2 ^ w) ^ codes.length := pow_mul ..
  rw [frbBody, leNat_leBytes, hroom, Nat.mod_eq_of_lt (Nat.ofDigits_lt_base_pow_length (Nat.one_lt_two_pow hw) hc)]

section Fields

variable (sel flags k : Nat) (l : List Byte)

theorem fld_sel : fld (frbHead sel flags k ++ l) 0 1 = sel % 256 := by
  rw [frbHead, List.append_assoc, List.append_assoc]
  exact fld_leBytes_append 1 sel _

theorem fld_flags : fld (frbHead sel flags k ++ l) 1 1 = flags % 256 := by
  rw [frbHead, List.append_assoc, List.append_assoc]
  exact (fld_append_right (leBytes 1 sel) _ 0 1).trans (fld_leBytes_append 1 flags _)

theorem fld_bnum : fld (frbHead sel flags k ++ l) 2 2 = k % 65536 := by
  rw [frbHead, List.append_assoc]
  exact (fld_append_right (leBytes 1 sel ++ leBytes 1 flags) _ 0 2).trans
    ((fld_leBytes_append 2 _ l).trans (Nat.mod_mod k 65536))

theorem fld_crc (v : Nat) : fld (frbHead sel flags k ++ (leBytes 4 v ++ l)) 4 4 = v % 2 ^ 32 :=
  (fld_append_right (frbHead sel flags k) _ 0 4).trans (fld_leBytes_append 4 v l)

end Fields

/-! ### Decoding -/

/-- The bytes of one decoded value: a quiet NaN in a NONFIN block, the value of its code otherwise (R385, R386). -/
def frbElem (t : FrbTable) (sfmt sel flags c : Nat) : List Byte :=
  leBytes (frbEs sfmt) (if bit flags 1 then (frbFmt sfmt).nanBits else (frbFmt sfmt).encode false (frbValue t sfmt sel c))

/-- A block whose CRC is its own is damaged by its number or its flags alone; otherwise each of its codes decodes to the
value of that code. -/
theorem frbDecode_frbBytes {t : FrbTable} {codes : List Nat} (hw : t.w ≠ 0) (hlen : codes.length = 256)
    (hc : ∀ c ∈ codes, c < 2 ^ t.w) (sfmt sel flags j k : Nat) :
    frbDecode t sfmt j (frbBytes t.w sel flags k codes) =
      if k % 65536 ≠ j % 65536 ∨ 4 ≤ flags % 256 then none
      else some (bit (flags % 256) 0, codes.flatMap (frbElem t sfmt (sel % 256) (flags % 256))) := by
  have hdigits := map_digit_ofDigits hc
  rw [hlen] at hdigits
  conv_rhs => rw [← hdigits, List.flatMap_map]
  set body := frbBody t.w codes with hbody
  set crc := crc32c (frbHead sel flags k ++ body) with hcrc
  set b := frbHead sel flags k ++ (leBytes 4 crc ++ body) with hb
  have hsize : b.length = frbC t.w := by simp [hb, hbody, frbC]; omega
  have htake : b.take 4 = frbHead sel flags k := List.take_left' (length_frbHead ..)
  have hdrop : b.drop 8 = body := by
    rw [hb, ← List.append_assoc]
    exact List.drop_left' (by simp)
  have hown : fld b 4 4 = crc := (fld_crc ..).trans (Nat.mod_eq_of_lt (crc32c_lt _))
  rw [frbBytes_eq hlen, frbDecode, ← hbody, ← hcrc, ← hb, ← hsize, List.take_length, htake, hdrop, hown, ← hcrc, hb,
    fld_sel, fld_flags, fld_bnum, leNat_frbBody hw hlen hc]
  simp [frbElem, pow_mul]

/-- Settles O45: a block's CRC is its own and its codes are the digits of its CODES field, so decoding turns on its number
and its flags alone. -/
theorem compressedBlockRoundTrip : Obligations.CompressedBlockRoundTrip := by
  unfold Obligations.CompressedBlockRoundTrip
  intro t sfmt sel flags k codes hw hsel hlen hc
  have hw0 : t.w ≠ 0 := by rintro h; simp [h] at hw
  have decode := fun j => frbDecode_frbBytes hw0 hlen hc sfmt sel flags j k
  refine ⟨fun hf => ?_, fun j hj => ?_, fun hlow hhigh => ?_⟩
  · have hflags : flags % 256 = flags := Nat.mod_eq_of_lt (by omega)
    rw [decode, hflags, Nat.mod_eq_of_lt hsel, if_neg (by omega)]
    rfl
  · rw [decode, if_pos (.inl (Ne.symm hj))]
  · rw [decode, Nat.mod_eq_of_lt hhigh, if_pos (.inr hlow)]

end Sys2Proof.Machine

/-! Resets and what they leave (16_host_port_mailboxes.md, R394, R413, R414, R465, R499, R525, R528). -/

namespace Sys2Proof.Machine

open Sys2Proof

/-! ### Reset sources (R413, R499) -/

/-- With no trip standing, an accepted reset source resets the device, and then does what it does besides. -/
theorem resetFrom_of_noTrip {s : State} (h : s.pwr.trip = none) (f : State → State) : resetFrom f s = f (fullReset s) := by
  simp [resetFrom, h]

/-- PERST# and RESET_N reset the device when they are asserted for 1 µs, and note only that they are asserted. -/
theorem assert_resets {s : State} {w : Nat} (hw : 1000 ≤ w) (h : s.pwr.trip = none) :
    exec (.perstAssert w) s = .next (updBoot (fun b => { b with perst := true }) (fullReset s)) ∧
      exec (.resetNAssert w) s = .next (updBoot (fun b => { b with resetN := true }) (fullReset s)) :=
  have go (f : State → State) : (if w < 1000 then s else resetFrom f s) = f (fullReset s) :=
    (if_neg (Nat.not_lt.mpr hw)).trans (resetFrom_of_noTrip h f)
  ⟨congrArg Host.Outcome.next (go _), congrArg Host.Outcome.next (go _)⟩

/-! ### What a full reset keeps (R414) -/

/-- The units recorded after a full reset are the quarantined ones, each with its quarantine alone. -/
theorem mem_fullReset_units {s : State} {y : Nat × UnitRec} :
    y ∈ (fullReset s).eng.units ↔ ∃ x ∈ s.eng.units, x.2.quarantined = true ∧ y = (x.1, unitKept x.2) := by
  simp only [fullReset, List.mem_filter, List.mem_map]
  constructor
  · rintro ⟨⟨x, hx, rfl⟩, hq⟩
    exact ⟨x, hx, hq, rfl⟩
  · rintro ⟨x, hx, hq, rfl⟩
    exact ⟨⟨x, hx, rfl⟩, hq⟩

theorem fullReset_wear (s : State) (ch : Nat) :
    ((fullReset s).store.flash.getD ch {}).wear = (s.store.flash.getD ch {}).wear := by
  obtain h | h := Nat.lt_or_ge ch 20
  · simp [fullReset, flashKept, Vector.getD, h]
  · simp [fullReset, Vector.getD, Nat.not_lt.mpr h]

/-- Settles O37: a full reset by its parts, the quarantined units and the erase counts by what survives of each record. -/
theorem fullResetLeaves : Obligations.FullResetLeaves := by
  unfold Obligations.FullResetLeaves
  intro s w
  refine ⟨fun hw => ⟨congrArg Host.Outcome.next (if_pos hw), congrArg Host.Outcome.next (if_pos hw)⟩,
    fun hw htrip c hc => ?_⟩
  obtain ⟨f, hexec, hfused⟩ :
      ∃ f : Boot → Boot, exec c s = .next (updBoot f (fullReset s)) ∧ ∀ b, (f b).fused = b.fused := by
    obtain ⟨hperst, hresetN⟩ := assert_resets hw htrip
    simp only [List.mem_cons, List.not_mem_nil, or_false] at hc
    obtain rfl | rfl := hc
    · exact ⟨_, hperst, fun _ => rfl⟩
    · exact ⟨_, hresetN, fun _ => rfl⟩
  refine ⟨_, hexec, rfl, rfl, rfl, rfl, rfl, rfl, rfl, rfl, rfl, rfl, rfl, rfl, rfl, rfl, rfl, rfl, rfl, rfl, rfl, rfl, rfl,
    hfused _, rfl, rfl, fun x hx hq => ?_, fun y hy => ?_, fullReset_wear s⟩
  · exact ⟨_, mem_fullReset_units.mpr ⟨x, hx, hq, rfl⟩, rfl, hq⟩
  · obtain ⟨x, hx, hq, rfl⟩ := mem_fullReset_units.mp hy
    exact ⟨hq, x, hx, rfl, hq⟩

/-! ### The end of a reset (R414, R465) -/

/-- With every source released and no trip, bring-up takes its reference: it notes the time, BIFUR and a non-zero epoch. -/
theorem reference_of_released {s : State} (hperst : s.rep.boot.perst = false) (hresetN : s.rep.boot.resetN = false)
    (htrip : s.pwr.trip = none) (b : Bool) : ∃ (e : Nat) (c : Clk), e ≠ 0 ∧ reference b s = { s with
      fresh := s.fresh + 1, clk := c, host := { s.host with bifur := b }
      rep := { s.rep with epoch := e, boot := { s.rep.boot with ref := s.wall } } } := by
  refine ⟨_, _, Nat.succ_ne_zero _, if_neg ?_⟩
  simp [hperst, hresetN, htrip]

/-- Settles O19: the sources and their ends by the two lemmas on them, the VAUX rows by running them. -/
theorem resetRowsComplete : Obligations.ResetRowsComplete := by
  unfold Obligations.ResetRowsComplete
  refine ⟨fun s w hw htrip => assert_resets hw htrip, ?_, ?_, ?_, ?_, ?_⟩
  · -- HOT_RESET
    intro s b h htrip hperst hresetN hlink
    have hup : ((h = 0 && s.host.linkUp) || (h = 1 && s.host.linkUp1)) = true := by simpa using hlink
    obtain ⟨e, c, he, href⟩ := reference_of_released (s := fullReset s) hperst hresetN htrip b
    exact ⟨_, congrArg Host.Outcome.next ((if_pos hup).trans ((resetFrom_of_noTrip htrip _).trans href)),
      rfl, rfl, rfl, rfl, rfl, rfl, rfl, he⟩
  · -- RESET_N_RELEASE
    intro s b htrip hvaux hperst hresetN
    obtain ⟨e, c, he, href⟩ := reference_of_released (s := { updBoot (fun b => { b with resetN := false }) s with
      tap := { s.tap with ir := 0x01 } }) hperst rfl htrip b
    exact ⟨_, congrArg Host.Outcome.next ((if_pos (by simp [hvaux, hresetN])).trans href), rfl, rfl, rfl, rfl, he, rfl⟩
  · -- PERST_RELEASE
    intro s b htrip hvaux hperst hresetN
    obtain ⟨e, c, he, href⟩ := reference_of_released (s := updBoot (fun b => { b with perst := false }) s) rfl hresetN htrip b
    exact ⟨_, congrArg Host.Outcome.next ((if_pos (by simp [hvaux, hperst])).trans href), rfl, rfl, rfl, rfl, he, rfl⟩
  · -- VAUX_IN_REGULATION
    intro s a hvaux ha
    refine congrArg Host.Outcome.next ?_
    simp only [hvaux, Nat.mod_eq_of_lt ha, Bool.false_eq_true, if_false]
  · -- VAUX_LOSS
    exact fun s => ⟨_, rfl, rfl, rfl, rfl, rfl, rfl, rfl⟩

end Sys2Proof.Machine

/-! Fatal errors, event queues and management sessions (21_errors_ras.md, 18_partitions_security.md, R459, R460, R462, R504
to R517). -/

namespace Sys2Proof.Machine

open Sys2Proof

/-! ### Event queues (R510, R512) -/

/-- Records left without a signal are signalled 1 µs after the last one. -/
theorem eventSignal_due {s : State} {p t : Nat} {q : Evq} (hrun : s.halted = false)
    (hq : (partOf s p).map Part.evq = some q) (hun : q.unsignalled = true) (hlast : q.lastSignal = some t) :
    eventSignal p s = evqSignal p (reach (t + 1000) s) := by
  simp only [eventSignal, hq, hun, hlast, timer_of_runs hrun]

/-- The sizes of a RAS ring may come into force (R512, R517). -/
def RasCfg.Fits (w : RasCfg) : Prop := w.enable = true → 6 ≤ w.log2 ∧ w.log2 ≤ 12

theorem RasCfg.fits_iff {w : RasCfg} :
    w.Fits ↔ (w.enable && (decide (w.log2 < 6) || decide (12 < w.log2))) = false := by
  cases h : w.enable <;> simp [RasCfg.Fits, h]

/-- A commit of the next generation, its sizes in range, puts the ring in force; a ring that moves starts empty. -/
theorem rasCommit_next {s : State} {gen : BitVec 32} (hgen : gen = s.ras.gen + 1) (hfits : s.ras.shadow.Fits) {moved : Bool}
    (hmoved : moved = (s.ras.shadow.base != s.ras.run.base || s.ras.shadow.log2 != s.ras.run.log2 ||
      (s.ras.shadow.enable && !s.ras.run.enable))) :
    rasCommit gen s = rasLost { s with ras := { s.ras with
      run := s.ras.shadow, gen := gen, tail := if moved then 0 else s.ras.tail, head := if moved then 0 else s.ras.head } } := by
  simp only [rasCommit, hgen, bne_self_eq_false, RasCfg.fits_iff.mp hfits, Bool.or_self, Bool.false_eq_true, if_false, ← hmoved]
  cases moved <;> rfl

/-- Any other commit raises the error bit, and nothing else. -/
theorem rasCommit_refused {s : State} {gen : BitVec 32} (h : gen ≠ s.ras.gen + 1 ∨ ¬ s.ras.shadow.Fits) :
    rasCommit gen s = { s with ras := { s.ras with err := true } } := by
  refine if_pos ?_
  obtain hgen | hfits := h
  · rw [bne_iff_ne.mpr hgen, Bool.true_or]
  · rw [RasCfg.fits_iff, Bool.not_eq_false] at hfits
    rw [hfits, Bool.or_true]

/-! ### Handshakes and sessions (R459) -/

/-- A HELLO below the limit of 16 a second is answered with the device's half, which joins the port's handshakes. -/
theorem hello_answers {s : State} {p keyIdx : Nat} {payload : List Byte} {recent : List Nat} (hup : pmpUp s p = true)
    (hrecent : recent = (tgetD s.pmp.hellos p []).filter (fun t => decide (s.wall < t + 1000000000)))
    (hfew : recent.length < 16) : hello p keyIdx payload s =
      put (.pmp 0 0x02 (helloAck (draw s).1 (payload ++ leBytes 1 keyIdx))) (updPmp (fun x => { x with
        hellos := tput p (s.wall :: recent) x.hellos
        shakes := x.shakes ++ [(p, keyIdx, payload ++ leBytes 1 keyIdx ++
          helloAck (draw s).1 (payload ++ leBytes 1 keyIdx), s.wall)] }) (draw s).2) := by
  simp only [hello, hup, ← hrecent, Nat.not_le.mpr hfew, Bool.not_true, Bool.false_eq_true, if_false]

/-- With one handshake under way, AUTH by its key opens a session where the signature over the transcript verifies. -/
theorem auth_single {s : State} {p : Nat} {block : List Byte} {x : Nat × Nat × List Byte × Nat} (hup : pmpUp s p = true)
    (hfew : s.pmp.sessions.length < 4) (hone : s.pmp.shakes = [x]) (hport : x.1 = p) (hkey : sgKeyIdx block = x.2.1) :
    auth p block s = if (sigFails s 3 .mgmt x.2.2.1 block).isNone then
      put (.pmp s.pmp.nextSession 0x04 []) (updPmp (fun m => { m with
        shakes := []
        sessions := tput s.pmp.nextSession { port := p
                                             key := Config.derive 4 [s.pmp.nextSession, Config.sha384 (x.2.2.1 ++ block)]
                                             lastFrame := s.wall } m.sessions
        nextSession := s.pmp.nextSession + 1 }) s) else s := by
  cases hsig : (sigFails s 3 .mgmt x.2.2.1 block).isNone <;>
    simp [auth, hup, Nat.not_le.mpr hfew, hone, hport, hkey, hsig, updPmp]

/-! ### Messages of a session (R460) -/

section Fragments

variable {s : State} {f : PmpFrame} {x : Session} {first : Bool} {got : Tab (List Byte)}
  (hx : tget f.session s.pmp.sessions = some x) (hfrag : f.frag < f.frags) (hfrags : f.frags ≤ 4096)
  (hfirst : first = (x.frags.isEmpty || x.fragMsg != f.msg || x.fragTotal != f.frags))
  (hgot : got = tput f.frag f.payload (if first then [] else x.frags))

include hx hfrag hfrags hfirst hgot

/-- The fragment that makes a message whole hands it on, once. -/
theorem pmpMessage_whole (hwhole : got.length = f.frags) (go : List Byte → State → State) :
    pmpMessage f go s =
      go (got.flatMap Prod.snd) (updSession f.session (fun x => { x with frags := [], fragTotal := 0 }) s) := by
  simp [pmpMessage, hx, Nat.ne_zero_of_lt hfrag, Nat.not_lt.mpr hfrags, Nat.not_le.mpr hfrag, ← hfirst, ← hgot, hwhole]

/-- Until then the fragments are held, and the first sets the time they are held from. -/
theorem pmpMessage_part (hpart : got.length ≠ f.frags) (go : List Byte → State → State) :
    pmpMessage f go s = updSession f.session (fun y => { y with
      frags := got, fragTotal := f.frags, fragMsg := f.msg, fragSince := if first then s.wall else y.fragSince }) s := by
  simp [pmpMessage, hx, Nat.ne_zero_of_lt hfrag, Nat.not_lt.mpr hfrags, Nat.not_le.mpr hfrag, ← hfirst, ← hgot, hpart]

end Fragments

/-- A row that carries a frame answers what it carries does to the state that has noted the frame. -/
theorem next_of_framed {s u : State} {f : PmpFrame} {x : Session} {go : State → State} (h : Framed s f x)
    (hgo : go (framed f x s) = u) :
    (Host.Outcome.next (pmpFrame f go s) : Host.Outcome State Fault Refusal) = .next u := by
  rw [pmpFrame_of_framed h, hgo]

/-- Settles O29: each row by what its operation does under the row's conditions, a frame's on the state that has noted it. -/
theorem fatalAndManagementLinkRowsComplete : Obligations.FatalAndManagementLinkRowsComplete := by
  unfold Obligations.FatalAndManagementLinkRowsComplete
  refine ⟨?_, ?_, ?_, ?_, ?_, ?_, ?_, ?_, ?_, ?_, ?_⟩
  · -- FATAL_ERROR
    rintro s cause loc _ hrun ⟨hnone, hlo, hhi⟩ rfl
    refine congrArg Host.Outcome.next (if_neg ?_)
    have hruns : s.halted = false := hrun
    simp [hruns, hnone, Nat.ne_zero_of_lt hlo, hhi]
  · -- EVENT_SIGNAL
    rintro s p t q hrun hq ⟨hun, hlast⟩
    exact congrArg Host.Outcome.next (eventSignal_due hrun hq hun hlast)
  · -- RAS_COMMIT
    rintro s gen _ _ moved hopen ⟨rfl, rfl⟩ hmoved
    refine ⟨fun hgen hfits => next_of_barOpen hopen (rasCommit_next hgen hfits hmoved),
      fun hbad => next_of_barOpen hopen (rasCommit_refused (hbad.imp_right ?_))⟩
    rintro ⟨hen, hlog⟩ hfits
    have := hfits hen
    omega
  · -- RAS_COMMIT_ERR_CLEAR
    exact fun s hopen => next_of_barOpen hopen rfl
  · -- RAS_Q_HEAD
    exact fun s head hopen => next_of_barOpen hopen rfl
  · -- HELLO
    rintro s p keyIdx d payload _ recent t hup ⟨hrecent, hfew⟩ hdraw hack
    obtain ⟨rfl, rfl⟩ := Prod.mk.inj hdraw
    rw [hack]
    exact congrArg Host.Outcome.next (hello_answers hup hrecent hfew)
  · -- AUTH
    rintro s p block x _ hup ⟨hfew, rfl⟩ ⟨hone, hport, hkey⟩
    exact congrArg Host.Outcome.next (auth_single hup hfew hone hport hkey)
  · -- CMD and IMAGE
    rintro s f x _ got first hf ⟨hfrag, hfrags⟩ rfl hfirst hgot
    have hx := session_of_framed hf
    refine ⟨fun hwhole => ?_, fun hpart i hi => ?_⟩
    · exact ⟨next_of_framed hf (pmpMessage_whole hx hfrag hfrags hfirst hgot hwhole _),
        next_of_framed hf (pmpMessage_whole hx hfrag hfrags hfirst hgot hwhole _)⟩
    · obtain rfl | rfl := hi
      · exact next_of_framed hf (pmpMessage_part hx hfrag hfrags hfirst hgot hpart _)
      · exact next_of_framed hf (pmpMessage_part hx hfrag hfrags hfirst hgot hpart _)
  · -- KEEPALIVE, CLOSE and FULL_RESET
    rintro s f x _ hf rfl
    exact ⟨next_of_framed hf rfl, next_of_framed hf rfl,
      fun htrip b => next_of_framed hf (resetFrom_of_noTrip (s := framed f x s) htrip _)⟩
  · -- HANDSHAKE_TIMEOUT
    intro s p x hfind
    refine congrArg Host.Outcome.next ?_
    simp only [handshakeTimeout, hfind]
  · -- SESSION_TIMEOUT and FRAGMENT_TIMEOUT
    intro s n x hx
    refine ⟨congrArg Host.Outcome.next ?_, fun hfrags => congrArg Host.Outcome.next ?_⟩
    · simp only [sessionTimeout, hx]
    · simp only [fragmentTimeout, hx, List.isEmpty_eq_false_iff.mpr hfrags, Bool.false_eq_true, if_false]

end Sys2Proof.Machine

/-! The host port, MB0 and the PCIe link (16_host_port_mailboxes.md, R393 to R414, R462). -/

namespace Sys2Proof.Machine

open Sys2Proof

theorem mbxOf_updMbx_self {n : Nat} (hn : n < 22) (f : Mbx → Mbx) (s : State) : mbxOf (updMbx n f s) n = f (mbxOf s n) := by
  simp [mbxOf, updMbx, Vector.getD, hn]

/-! ### The store window (R399, R400) -/

section Window

variable {s : State} {off : Nat} (hoff : off < 2 ^ 36) (hbound : (winSeg s off).bound = true)
  (hcheck : winCheck s (winSeg s off) (Sa.of (winSa (winSeg s off) off)) = none)

include hoff hbound hcheck

/-- A read in a bound segment that passes its checks reads a tally word at once, or is launched to its home. -/
theorem bar4Read_checked {tag len : Nat} (hrun : s.halted = false) (hd3 : s.host.d3hot = false) (htrip : s.pwr.trip = none)
    (hlen : len ≠ 0) (hpage : off % 4096 + len ≤ 4096) {x : Sa} (hx : x = Sa.of (winSa (winSeg s off) off)) :
    bar4Read tag off len s =
      if x.space = 2 then
        if syncShape x len then emit (.cpl tag 0 false (leBytes 8 (tallyAt s (x.off / 8)).toNat)) s
        else emit (.cpl tag 4 false []) s
      else launchReq { who := .host tag, ctx := (winSeg s off).ctx, off := x.off, op := .rdNc, len := len } none s := by
  subst hx
  simp only [bar4Read, hcheck, Nat.not_le.mpr hoff, hlen, Nat.not_lt.mpr hpage, hrun, hd3, htrip, hbound, decide_false,
    Option.isSome_none, Bool.not_true, Bool.or_self, Bool.false_eq_true, if_false]

/-- A write in a bound segment that passes its checks joins the writes that wait for their landing, its lines noted. -/
theorem bar4Write_checked {d : List Byte} {z : Bool} (hrun : s.halted = false) (hd : d ≠ [])
    (hpage : off % 4096 + d.length ≤ 4096) : ∃ l, bar4Write off d z s = { s with coh := { s.coh with
      nextReq := s.coh.nextReq + 1, posted := l
      heldWr := s.coh.heldWr ++ [({ id := s.coh.nextReq, ctx := (winSeg s off).ctx, sa := winSa (winSeg s off) off
                                    data := d, poison := z }, s.coh.posted)] } } := by
  simp only [bar4Write, hcheck, Nat.not_le.mpr hoff, hd, Nat.not_lt.mpr hpage, hrun, hbound, decide_false,
    Bool.not_true, Bool.or_self, Bool.false_eq_true, if_false]
  exact ⟨_, rfl⟩

end Window

/-! ### Register writes (R397) -/

/-- An aligned write of 4 or 8 bytes to a register gives it the value `w` that the bytes written and its old value make. -/
theorem registerWrite_writes {s : State} {o off size old v w : Nat} (hopen : s.barOpen) (hrun : s.halted = false)
    (hsize : size = 4 ∨ size = 8) (hplace : off % size = 0) (ho : off / 8 * 8 = o) (hold : rwValue s o = some old)
    (hw : (if size = 8 then v % 2 ^ 64 else if off % 8 = 0 then old / 2 ^ 32 * 2 ^ 32 + v % 2 ^ 32
      else v % 2 ^ 32 * 2 ^ 32 + old % 2 ^ 32) = w) : exec (.registerWrite 0 off size v) s = .next (rwWrite o w s) := by
  obtain ⟨hd3, hlost, htrip⟩ := hopen
  have hshape : ((size != 4 && size != 8) || off % size != 0) = false := by obtain rfl | rfl := hsize <;> simp [hplace]
  refine congrArg Host.Outcome.next ((if_neg (by simp [hd3, htrip])).trans ?_)
  simp only [regWrite, hshape, hrun, ho, hold, hw, Bool.false_and, Bool.false_eq_true, if_false]

/-! ### Mailbox 0 (R405 to R411, R462) -/

/-- MB0's ring is the driver's own: the CP finds no overrun there. -/
theorem mbxLook_zero (s : State) : mbxLook 0 s = s := by simp [mbxLook]

/-- An entry on MB0 that passes its checks becomes MB0's command, with the argument bytes it carries. -/
theorem mbxTake_direct {s : State} {e : List Byte} {blk : Option (List Byte)}
    (hseq : fld e 2 2 = (mbxOf s 0).consumed % 65536) (hctx : fld e 4 2 = 1) (hop : opAccepted (fld e 0 2) 0 = true)
    (hform : entryFormOk e = true) (hdirect : bit (fld e 6 1) 0 = false)
    (hargs : argReserved (fld e 0 2) ((e.drop 16).take 48) = false) :
    mbxTake 0 e blk false 0 s = updMbx 0 (fun m => { m with
      consumed := m.consumed + 1
      run := some { entry := e, args := (e.drop 16).take 48, since := s.wall, session := 0 } })
        { cnt (mbxReg 0 0x38) 1 s with host := { s.host with lastMb := 0 } } := by
  simp [mbxTake, entryCtxOk, Cmd.op, Cmd.ctx, hseq, hctx, hop, hform, hdirect, hargs]

/-- The CP takes MB0's entry when it is its turn, a command may start and the link is up. -/
theorem commandFetch_zero {s : State} {b e : List Byte} {blk : Option (List Byte)} {z : Bool} (hnext : mbxNext s = some 0)
    (hfew : cmdsRunning s < 4) (hcp : cpRuns s = true) (hlink : s.host.linkUp = true)
    (he : e = padTo 64 b) : commandFetch 0 b blk z s = mbxTake 0 e blk z 0 s := by
  simp [commandFetch, mbxLook_zero, he, hnext, Nat.not_le.mpr hfew, hcp, hlink]

/-- The sizes of MB0's rings may come into force (R411). -/
def MbxCfg.Fits (w : MbxCfg) : Prop := w.enable = true → 4 ≤ w.sqLog ∧ w.sqLog ≤ 12 ∧ 4 ≤ w.cqLog ∧ w.cqLog ≤ 12

theorem MbxCfg.fits_iff {w : MbxCfg} : w.Fits ↔ (w.enable &&
    (decide (w.sqLog < 4) || decide (12 < w.sqLog) || decide (w.cqLog < 4) || decide (12 < w.cqLog))) = false := by
  cases h : w.enable <;> simp [MbxCfg.Fits, h, and_assoc]

/-- A commit of the next generation, its sizes in range, puts MB0's shadow copy in force. -/
theorem mbxCommit_next {s : State} {gen : BitVec 32} (hgen : gen = (mbxOf s 0).gen + 1) (hfits : (mbxOf s 0).shadow.Fits) :
    (mbxOf (mbxCommit gen s) 0).cfg = (mbxOf s 0).shadow ∧ (mbxOf (mbxCommit gen s) 0).gen = gen := by
  subst hgen
  simp only [mbxCommit, bne_self_eq_false, MbxCfg.fits_iff.mp hfits, Bool.or_self, Bool.false_eq_true, if_false,
    mbxOf_updMbx_self (by decide : 0 < 22)]
  split <;> exact ⟨rfl, rfl⟩

/-- A command that runs longer than MBX_WDOG wedges its mailbox. -/
theorem mbxWdog_wedges {s : State} {mb : Nat} {c : Cmd} (hcp : cpRuns s = true) (hc : (mbxOf s mb).run = some c)
    (hw : (mbxOf s mb).wedged = false) :
    mbxWdog mb s = evPlatform 5 mb 0 (updMbx mb (fun m => { m with wedged := true })
      (reachWall (c.since + s.host.wdog * 1000) s)) := by
  simp only [mbxWdog, hc, hw, hcp, Bool.not_true, Bool.or_self, Bool.false_eq_true, if_false]

/-! ### The PCIe link (R394, R408, R413) -/

/-- The link goes down: the time is noted, and memory stays. -/
theorem hostLinkDown_zero {s : State} (h : s.host.linkUp = true) :
    (hostLinkDown 0 s).host.linkUp = false ∧ (hostLinkDown 0 s).store = { s.store with hostDownSince := some s.now } := by
  simp [hostLinkDown, h]

/-- The link in L0: host accesses stall no longer (R100), and MB0 is ready where the CP is (Table 19.1). -/
def linkTrained (s : State) : State :=
  updBoot (fun b => { b with mb0 := b.mb0 || b.cp })
    { updHost (fun h => { h with linkUp := true }) s with store := { s.store with hostDownSince := none } }

/-- The link comes up, with no completion held back for it: MB0's wait ends and what waited goes on. -/
theorem hostLinkUp_zero {s : State} (hfused : s.rep.boot.fused = true) (htrip : s.pwr.trip = none)
    (hclk : tget 2 s.clk.lostAt = none) (hdown : s.host.linkUp = false) (hheld : (mbxOf s 0).held = none) :
    hostLinkUp 0 s = settle (rasLost (reissueHost
      (updMbx 0 (fun m => { m with hostwait := false, held := none }) (linkTrained s)))) := by
  have hgo : ¬ (!s.rep.boot.fused || s.pwr.trip.isSome || (tget 2 s.clk.lostAt).isSome) = true := by
    simp [hfused, htrip, hclk]
  refine (if_neg hgo).trans ((if_pos rfl).trans ((if_neg (by simp [hdown])).trans ?_))
  dsimp only
  split
  · next hsome => exact nomatch hheld.symm.trans hsome
  · rfl

/-- Settles O18: each row by what its operation does once the access, the entry or the link is as the row asks. -/
theorem hostPortAndMailboxRowsComplete : Obligations.HostPortAndMailboxRowsComplete := by
  unfold Obligations.HostPortAndMailboxRowsComplete
  refine ⟨?_, ?_, ?_, ?_, ?_, ?_, ?_, ?_, ?_, ?_, ?_, ?_, ?_⟩
  · -- BAR4_READ
    rintro s tag off len _ x hrun hd3 htrip hoff hlen hpage rfl hbound hx hcheck
    have hread := bar4Read_checked (tag := tag) hoff hbound (hx ▸ hcheck) hrun hd3 htrip hlen hpage hx
    exact ⟨fun hspace hshape => congrArg Host.Outcome.next (hread.trans ((if_pos hspace).trans (if_pos hshape))),
      fun hspace => congrArg Host.Outcome.next (hread.trans (if_neg hspace))⟩
  · -- BAR4_WRITE
    rintro s off d z _ _ hopen hrun hoff hd hpage rfl hbound rfl hcheck
    obtain ⟨l, hwrite⟩ := bar4Write_checked (z := z) hoff hbound hcheck hrun hd hpage
    exact ⟨_, next_of_barOpen hopen hwrite, rfl, rfl, rfl⟩
  · -- WIN_SEG
    intro s n v hopen hrun hn
    have hruns : s.halted = false := hrun
    exact next_of_barOpen hopen (if_pos (by simp [hn, hruns]))
  · -- REGISTER_WRITE
    intro s o v old hopen hrun ho hold
    exact ⟨registerWrite_writes hopen hrun (.inr rfl) ho (by omega) hold (if_pos rfl),
      registerWrite_writes hopen hrun (.inl rfl) (by omega) (by omega) hold ((if_neg (by decide)).trans (if_pos ho)),
      registerWrite_writes hopen hrun (.inl rfl) (by omega) (by omega) hold ((if_neg (by decide)).trans (if_neg (by omega)))⟩
  · -- DB_SQ, DB_CQ and DOORBELL_WAKE
    intro s mb v hopen
    exact ⟨next_of_barOpen hopen (if_pos rfl), next_of_barOpen hopen (if_pos rfl),
      fun hmb => ⟨next_of_barOpen hopen (if_neg hmb), next_of_barOpen hopen (if_neg hmb)⟩, next_of_barOpen hopen rfl⟩
  · -- COMMAND_FETCH
    intro s u b e blk c hnext hfew hcp hlink he hseq hctx hop hform hdirect _ hargs hu hc
    rw [hc, hu]
    exact congrArg Host.Outcome.next
      ((commandFetch_zero hnext hfew hcp hlink he).trans (mbxTake_direct hseq hctx hop hform hdirect hargs))
  · -- MBX_COMMIT
    intro s gen hopen hgen hfits
    exact ⟨_, next_of_barOpen hopen rfl, mbxCommit_next hgen hfits⟩
  · -- MBX_COMMIT_ERR_CLEAR
    exact fun s hopen => next_of_barOpen hopen rfl
  · -- MBX_HEARTBEAT
    exact fun s hcp => congrArg Host.Outcome.next (if_pos hcp)
  · -- MBX_WDOG_EXPIRY
    exact fun s mb c hcp hc hw => congrArg Host.Outcome.next (mbxWdog_wedges hcp hc hw)
  · -- HOST_LINK_DOWN
    refine fun s => ⟨fun hup => ?_, rfl⟩
    obtain ⟨hlink, hstore⟩ := hostLinkDown_zero hup
    exact ⟨_, rfl, hlink, by rw [hstore], by rw [hstore]⟩
  · -- HOST_LINK_UP
    intro s hfused htrip hclk
    refine ⟨fun hdown hheld => ?_, fun hbifur => congrArg Host.Outcome.next ?_⟩
    · exact ⟨_, rfl, rfl, congrArg Host.Outcome.next (hostLinkUp_zero hfused htrip hclk hdown hheld)⟩
    · simp [hostLinkUp, hfused, htrip, hclk, hbifur]
  · -- CONFIG_SPACE_ACCESS
    intro s tag d hready
    constructor <;> refine congrArg Host.Outcome.next (if_neg ?_) <;> simp [hready]

end Sys2Proof.Machine

/-! What a step does with the queue, memory's form and the clocks, whatever the command
(95_what_each_step_holds.md, R487). -/

namespace Sys2Proof.Machine

open Sys2Proof

/-! ### The queue and the clocks -/

/-- Settles O1: `step` takes the queue apart and hands its rest to `exec`. -/
theorem stepRunsTheFrontCommand : Obligations.StepRunsTheFrontCommand :=
  fun _ _ _ => rfl

theorem step_nil {s : State} (h : s.pending = []) : step s = .next s.tick := by
  unfold step; rw [h]

theorem step_cons {s : State} {c : Instr} {rest : List Instr} (h : s.pending = c :: rest) :
    step s = exec c { s with pending := rest } := by
  unfold step; rw [h]

/-- A running data path ticks with the wall clock. -/
theorem tick_running {s : State} (h : s.halted = false) : s.tick = { s with now := s.now + 1, wall := s.wall + 1 } := by
  simp [State.tick, reachWall, h]

/-- A halted data path lets the wall clock tick alone. -/
theorem tick_halted {s : State} (h : s.halted = true) : s.tick = { s with wall := s.wall + 1 } := by
  simp [State.tick, reachWall, h]

/-- Settles O35: an empty queue ticks, with the data path's clock where it is not halted. -/
theorem idleTicks : Obligations.IdleTicks :=
  fun _ hempty =>
    ⟨fun hrun => (step_nil hempty).trans (congrArg _ (tick_running hrun)),
      fun hhalt => (step_nil hempty).trans (congrArg _ (tick_halted hhalt))⟩

/-! ### What every command keeps -/

/-- No arm of `exec` ends in a fault or a refusal. -/
theorem exec_next (c : Instr) (s : State) : ∃ t, exec c s = .next t := by
  cases c <;> exact ⟨_, rfl⟩

/-- Settles O34: each command's meaning is a next state (log 7). -/
theorem everyCommandAnswersNext : Obligations.EveryCommandAnswersNext := exec_next

/-- Every command keeps memory's canonical form, the clocks' order and the queue: one law per row of the table. -/
theorem exec_keeps {sA s : State} (c : Instr) (h : Keeps sA s) : ∀ t, exec c s = .next t → Keeps sA t :=
  match c with
  | .requestAdmit .. => execRequestAdmit_keeps h
  | .mirrorWalkDone .. => execMirrorWalkDone_keeps h
  | .genReread .. => execGenReread_keeps h
  | .missPost .. => execMissPost_keeps h
  | .pendingMissFreed => execPendingMissFreed_keeps h
  | .xltResp .. => execXltResp_keeps h
  | .rewalkDone .. => execRewalkDone_keeps h
  | .missTimeout .. => execMissTimeout_keeps h
  | .xltInvRange .. => execXltInvRange_keeps h
  | .xltInvCtx .. => execXltInvCtx_keeps h
  | .xltInvAll => execXltInvAll_keeps h
  | .xltInvRejected => execXltInvRejected_keeps h
  | .invalidationComplete => execInvalidationComplete_keeps h
  | .xltCommit .. => execXltCommit_keeps h
  | .xltCommitErrClear => execXltCommitErrClear_keeps h
  | .xltMqHead .. => execXltMqHead_keeps h
  | .homeAccess .. => execHomeAccess_keeps h
  | .idleEviction .. => execIdleEviction_keeps h
  | .fetchUnitLanded .. => execFetchUnitLanded_keeps h
  | .evictionWriteDone .. => execEvictionWriteDone_keeps h
  | .evictionWriteFail .. => execEvictionWriteFail_keeps h
  | .shootdownComplete .. => execShootdownComplete_keeps h
  | .flashBufferProgram .. => execFlashBufferProgram_keeps h
  | .flashProgramFail .. => execFlashProgramFail_keeps h
  | .flashTimeout .. => execFlashTimeout_keeps h
  | .hostTimeout .. => execHostTimeout_keeps h
  | .hostReadCompletion .. => execHostReadCompletion_keeps h
  | .garbageCollection .. => execGarbageCollection_keeps h
  | .wearLevelling .. => execWearLevelling_keeps h
  | .hbmPatrolScrub .. => execHbmPatrolScrub_keeps h
  | .rowSpare .. => execRowSpare_keeps h
  | .flashPatrol .. => execFlashPatrol_keeps h
  | .snoopTimeout .. => execSnoopTimeout_keeps h
  | .beaconRelease .. => execBeaconRelease_keeps h
  | .beaconHoldExpiry .. => execBeaconHoldExpiry_keeps h
  | .hostWrite .. => execHostWrite_keeps h
  | .waitTimeout .. => execWaitTimeout_keeps h
  | .waitPoll .. => execWaitPoll_keeps h
  | .feWaitTimeout .. => execFeWaitTimeout_keeps h
  | .pulse .. => execPulse_keeps h
  | .windowClose => execWindowClose_keeps h
  | .periodReport .. => execPeriodReport_keeps h
  | .entryStart .. => execEntryStart_keeps h
  | .entryDeadline .. => execEntryDeadline_keeps h
  | .ptmRefresh .. => execPtmRefresh_keeps h
  | .stgCommit .. => execStgCommit_keeps h
  | .stgCommitErrClear => execStgCommitErrClear_keeps h
  | .integerOp .. => execIntegerOp_keeps h
  | .movk .. => execMovk_keeps h
  | .mfts .. => execMfts_keeps h
  | .branch .. => execBranch_keeps h
  | .jal .. => execJal_keeps h
  | .jalr .. => execJalr_keeps h
  | .loadOp .. => execLoad_keeps h
  | .storeOp .. => execStore_keeps h
  | .vld .. => execVld_keeps h
  | .vst .. => execVst_keeps h
  | .vgather .. => execVgather_keeps h
  | .vscatter .. => execVscatter_keeps h
  | .atomicOp .. => execAtomic_keeps h
  | .tallyAdd .. => execTallyAdd_keeps h
  | .tallySub .. => execTallySub_keeps h
  | .tallyRead .. => execTallyRead_keeps h
  | .waitGe .. => execWaitGe_keeps h
  | .waitEq .. => execWaitEq_keeps h
  | .monitor .. => execMonitor_keeps h
  | .writeEf .. => execWriteEf_keeps h
  | .readFe .. => execReadFe_keeps h
  | .readFf .. => execReadFf_keeps h
  | .writeXf .. => execWriteXf_keeps h
  | .flushRange .. => execFlushRange_keeps h
  | .isync .. => execIsync_keeps h
  | .issueOp .. => execIssue_keeps h
  | .launchOp .. => execLaunch_keeps h
  | .haltOp .. => execHalt_keeps h
  | .yieldOp .. => execYield_keeps h
  | .vectorArith .. => execVectorArith_keeps h
  | .vectorConvert .. => execVectorConvert_keeps h
  | .vectorReduce .. => execVectorReduce_keeps h
  | .groupStart .. => execGroupStart_keeps h
  | .groupEnd .. => execGroupEnd_keeps h
  | .unitRebind .. => execUnitRebind_keeps h
  | .matmul .. => execMatmul_keeps h
  | .expertFfn .. => execExpertFfn_keeps h
  | .attend .. => execAttend_keeps h
  | .operationComplete .. => execOperationComplete_keeps h
  | .gather .. => execGather_keeps h
  | .scatterAdd .. => execScatterAdd_keeps h
  | .moveRows .. => execMoveRows_keeps h
  | .rowUpdate .. => execRowUpdate_keeps h
  | .moveSnapshotWritten .. => execMoveSnapshotWritten_keeps h
  | .moveReplay .. => execMoveReplay_keeps h
  | .moveCommit .. => execMoveCommit_keeps h
  | .scan .. => execScan_keeps h
  | .walk .. => execWalk_keeps h
  | .rerank .. => execRerank_keeps h
  | .repairQueueWork .. => execRepairQueueWork_keeps h
  | .sweep .. => execSweep_keeps h
  | .leaseRenewalSend .. => execLeaseRenewalSend_keeps h
  | .leaseRenewal .. => execLeaseRenewal_keeps h
  | .renewalAnswer .. => execRenewalAnswer_keeps h
  | .leaseEnd .. => execLeaseEnd_keeps h
  | .homeExpiry .. => execHomeExpiry_keeps h
  | .lostHoldExpiry .. => execLostHoldExpiry_keeps h
  | .handoffCopyDone .. => execHandoffCopyDone_keeps h
  | .handoffCommit .. => execHandoffCommit_keeps h
  | .commitAck .. => execCommitAck_keeps h
  | .sourceDiscard .. => execSourceDiscard_keeps h
  | .resolve .. => execResolve_keeps h
  | .resolveAnswer .. => execResolveAnswer_keeps h
  | .homeRecordsReceived .. => execHomeRecordsReceived_keeps h
  | .endMarker .. => execEndMarker_keeps h
  | .recordsAcknowledged .. => execRecordsAcknowledged_keeps h
  | .heldRequestTimeout .. => execHeldRequestTimeout_keeps h
  | .partnerDetect .. => execPartnerDetect_keeps h
  | .detectTimeout .. => execDetectTimeout_keeps h
  | .eqDone .. => execEqDone_keeps h
  | .eqTimeout .. => execEqTimeout_keeps h
  | .alignDone .. => execAlignDone_keeps h
  | .alignTimeout .. => execAlignTimeout_keeps h
  | .linkAuthDone .. => execLinkAuthDone_keeps h
  | .authTimeout .. => execAuthTimeout_keeps h
  | .configDone .. => execConfigDone_keeps h
  | .configTimeout .. => execConfigTimeout_keeps h
  | .recoverDone .. => execRecoverDone_keeps h
  | .recoverTimeout .. => execRecoverTimeout_keeps h
  | .laneSerWindow .. => execLaneSerWindow_keeps h
  | .clockRecoveryLoss .. => execClockRecoveryLoss_keeps h
  | .substitute .. => execSubstitute_keeps h
  | .remapAnswer .. => execRemapAnswer_keeps h
  | .remapTimeout .. => execRemapTimeout_keeps h
  | .spareEqDone .. => execSpareEqDone_keeps h
  | .flitReceive .. => execFlitReceive_keeps h
  | .retry .. => execRetry_keeps h
  | .keyupdate .. => execKeyupdate_keeps h
  | .flitAckSend .. => execFlitAckSend_keeps h
  | .rdS .. => execRdS_keeps h
  | .rdM .. => execRdM_keeps h
  | .upgM .. => execUpgM_keeps h
  | .wb .. => execWb_keeps h
  | .evict .. => execEvict_keeps h
  | .rdNc .. => execRdNc_keeps h
  | .wrLine .. => execWrLine_keeps h
  | .wrPart .. => execWrPart_keeps h
  | .syncUpd .. => execSyncUpd_keeps h
  | .syncRd .. => execSyncRd_keeps h
  | .syncWait .. => execSyncWait_keeps h
  | .feOp .. => execFeOp_keeps h
  | .snpInv .. => execSnpInv_keeps h
  | .snpShr .. => execSnpShr_keeps h
  | .rspData .. => execRspData_keeps h
  | .rspAck .. => execRspAck_keeps h
  | .rspSnp .. => execRspSnp_keeps h
  | .rspFault .. => execRspFault_keeps h
  | .rspSync .. => execRspSync_keeps h
  | .electricalFence .. => execElectricalFence_keeps h
  | .caravanStart .. => execCaravanStart_keeps h
  | .openStream .. => execOpen_keeps h
  | .pull .. => execPull_keeps h
  | .dataFlit .. => execDataFlit_keeps h
  | .close .. => execClose_keeps h
  | .poison .. => execPoison_keeps h
  | .beacon .. => execBeacon_keeps h
  | .ack .. => execAck_keeps h
  | .legClose .. => execLegClose_keeps h
  | .final .. => execFinal_keeps h
  | .abandon .. => execAbandon_keeps h
  | .bcnResult .. => execBcnResult_keeps h
  | .batch .. => execBatch_keeps h
  | .batchResult .. => execBatchResult_keeps h
  | .batchDone .. => execBatchDone_keeps h
  | .ackTimeout .. => execAckTimeout_keeps h
  | .streamIdleFree .. => execStreamIdleFree_keeps h
  | .fenceDone .. => execFenceDone_keeps h
  | .seraiWindowExpiry .. => execSeraiWindowExpiry_keeps h
  | .bar4Read .. => execBar4Read_keeps h
  | .bar4Write .. => execBar4Write_keeps h
  | .winSeg .. => execWinSeg_keeps h
  | .registerWrite .. => execRegisterWrite_keeps h
  | .dbSq .. => execDbSq_keeps h
  | .dbCq .. => execDbCq_keeps h
  | .doorbellWake .. => execDoorbellWake_keeps h
  | .commandFetch .. => execCommandFetch_keeps h
  | .mbxCommit .. => execMbxCommit_keeps h
  | .mbxCommitErrClear => execMbxCommitErrClear_keeps h
  | .mbxHeartbeat => execMbxHeartbeat_keeps h
  | .mbxWdogExpiry .. => execMbxWdogExpiry_keeps h
  | .hostLinkDown .. => execHostLinkDown_keeps h
  | .hostLinkUp .. => execHostLinkUp_keeps h
  | .perstAssert .. => execPerstAssert_keeps h
  | .resetNAssert .. => execResetNAssert_keeps h
  | .hotReset .. => execHotReset_keeps h
  | .idGet .. => execIdGet_keeps h
  | .resGet .. => execResGet_keeps h
  | .partCreate .. => execPartCreate_keeps h
  | .partDestroy .. => execPartDestroy_keeps h
  | .cellScrubDone .. => execCellScrubDone_keeps h
  | .partGet .. => execPartGet_keeps h
  | .partQuotaSet .. => execPartQuotaSet_keeps h
  | .mbxSet .. => execMbxSet_keeps h
  | .evqSet .. => execEvqSet_keeps h
  | .alloc .. => execAlloc_keeps h
  | .free .. => execFree_keeps h
  | .pin .. => execPin_keeps h
  | .unpin .. => execUnpin_keeps h
  | .gsetWrite .. => execGsetWrite_keeps h
  | .protSet .. => execProtSet_keeps h
  | .extentCreate .. => execExtentCreate_keeps h
  | .extentRevoke .. => execExtentRevoke_keeps h
  | .revocationDrainEnd .. => execRevocationDrainEnd_keeps h
  | .extentDestroy .. => execExtentDestroy_keeps h
  | .evictReserveSet .. => execEvictReserveSet_keeps h
  | .tierTimeoutsSet .. => execTierTimeoutsSet_keeps h
  | .windowBind .. => execWindowBind_keeps h
  | .windowUnbind .. => execWindowUnbind_keeps h
  | .regionOpen .. => execRegionOpen_keeps h
  | .regionClose .. => execRegionClose_keeps h
  | .regionBegin .. => execRegionBegin_keeps h
  | .regionPublish .. => execRegionPublish_keeps h
  | .regionAbort .. => execRegionAbort_keeps h
  | .regionCloseAll .. => execRegionCloseAll_keeps h
  | .ctxCreate .. => execCtxCreate_keeps h
  | .ctxSet .. => execCtxSet_keeps h
  | .ctxDestroy .. => execCtxDestroy_keeps h
  | .tlbInvalidateRange .. => execTlbInvalidateRange_keeps h
  | .tlbInvalidateCtx .. => execTlbInvalidateCtx_keeps h
  | .tlbInvalidateAll .. => execTlbInvalidateAll_keeps h
  | .stageConfig .. => execStageConfig_keeps h
  | .tollCommit .. => execTollCommit_keeps h
  | .tollGet .. => execTollGet_keeps h
  | .itinLoad .. => execItinLoad_keeps h
  | .itinStart .. => execItinStart_keeps h
  | .itinStop .. => execItinStop_keeps h
  | .tallyInit .. => execTallyInit_keeps h
  | .stageGet .. => execStageGet_keeps h
  | .launchCmd .. => execLaunchCmd_keeps h
  | .issueCmd .. => execIssueCmd_keeps h
  | .depotCreate .. => execDepotCreate_keeps h
  | .depotMapSet .. => execDepotMapSet_keeps h
  | .depotOpen .. => execDepotOpen_keeps h
  | .depotRelease .. => execDepotRelease_keeps h
  | .depotAcquire .. => execDepotAcquire_keeps h
  | .depotClose .. => execDepotClose_keeps h
  | .depotDestroy .. => execDepotDestroy_keeps h
  | .depotGet .. => execDepotGet_keeps h
  | .indexCreate .. => execIndexCreate_keeps h
  | .indexDestroy .. => execIndexDestroy_keeps h
  | .indexInsert .. => execIndexInsert_keeps h
  | .indexDelete .. => execIndexDelete_keeps h
  | .indexLink .. => execIndexLink_keeps h
  | .indexPublish .. => execIndexPublish_keeps h
  | .indexHold .. => execIndexHold_keeps h
  | .indexRelease .. => execIndexRelease_keeps h
  | .indexState .. => execIndexState_keeps h
  | .storeSet .. => execStoreSet_keeps h
  | .routeSet .. => execRouteSet_keeps h
  | .portConfig .. => execPortConfig_keeps h
  | .portDisable .. => execPortDisable_keeps h
  | .portEnable .. => execPortEnable_keeps h
  | .portFence .. => execPortFence_keeps h
  | .portUnfence .. => execPortUnfence_keeps h
  | .syncMode .. => execSyncMode_keeps h
  | .fabricTimers .. => execFabricTimers_keeps h
  | .frbTableLoad .. => execFrbTableLoad_keeps h
  | .frbTableFree .. => execFrbTableFree_keeps h
  | .frbStreamSet .. => execFrbStreamSet_keeps h
  | .frbStreamFree .. => execFrbStreamFree_keeps h
  | .frbStreamClear .. => execFrbStreamClear_keeps h
  | .attest .. => execAttest_keeps h
  | .waybillKeySeal .. => execWaybillKeySeal_keeps h
  | .fwStage .. => execFwStage_keeps h
  | .keyslotAlloc .. => execKeyslotAlloc_keeps h
  | .keyslotRetire .. => execKeyslotRetire_keeps h
  | .checkSet .. => execCheckSet_keeps h
  | .shadowMaxSet .. => execShadowMaxSet_keeps h
  | .selftest .. => execSelftest_keeps h
  | .testGet .. => execTestGet_keeps h
  | .quarantineLift .. => execQuarantineLift_keeps h
  | .ledgerRead .. => execLedgerRead_keeps h
  | .scrubSet .. => execScrubSet_keeps h
  | .mbxWdogSet .. => execMbxWdogSet_keeps h
  | .powerEnvelope .. => execPowerEnvelope_keeps h
  | .cellFreqPin .. => execCellFreqPin_keeps h
  | .clkoutSet .. => execClkoutSet_keeps h
  | .powerGet .. => execPowerGet_keeps h
  | .dbgUnlock .. => execDbgUnlock_keeps h
  | .dbgDump .. => execDbgDump_keeps h
  | .dbgLock .. => execDbgLock_keeps h
  | .fuseReadDone .. => execFuseReadDone_keeps h
  | .bootImageVerify .. => execBootImageVerify_keeps h
  | .imageBroadcast .. => execImageBroadcast_keeps h
  | .stackWaveStart .. => execStackWaveStart_keeps h
  | .stackTrainingDone .. => execStackTrainingDone_keeps h
  | .cellReady .. => execCellReady_keeps h
  | .portCalibrated .. => execPortCalibrated_keeps h
  | .mgmtPortReady .. => execMgmtPortReady_keeps h
  | .censusTarget .. => execCensusTarget_keeps h
  | .enrolScanDone .. => execEnrolScanDone_keeps h
  | .backgroundErase .. => execBackgroundErase_keeps h
  | .ledgerMerge .. => execLedgerMerge_keeps h
  | .ledgerWrite .. => execLedgerWrite_keeps h
  | .ledgerRetry .. => execLedgerRetry_keeps h
  | .ledgerCompact .. => execLedgerCompact_keeps h
  | .selftestRun .. => execSelftestRun_keeps h
  | .selftestDone .. => execSelftestDone_keeps h
  | .selftestStarved .. => execSelftestStarved_keeps h
  | .clockLoss .. => execClockLoss_keeps h
  | .clockRestart .. => execClockRestart_keeps h
  | .dvfsInterval .. => execDvfsInterval_keeps h
  | .sensorRead .. => execSensorRead_keeps h
  | .railFault .. => execRailFault_keeps h
  | .vauxLoss => execVauxLoss_keeps h
  | .coolInlet .. => execCoolInlet_keeps h
  | .coolFlow .. => execCoolFlow_keeps h
  | .coolantStale => execCoolantStale_keeps h
  | .fatalError .. => execFatalError_keeps h
  | .eventSignal .. => execEventSignal_keeps h
  | .rasCommit .. => execRasCommit_keeps h
  | .rasCommitErrClear => execRasCommitErrClear_keeps h
  | .rasQHead .. => execRasQHead_keeps h
  | .hello .. => execHello_keeps h
  | .auth .. => execAuth_keeps h
  | .cmd .. => execCmd_keeps h
  | .image .. => execImage_keeps h
  | .keepalive .. => execKeepalive_keeps h
  | .fullReset .. => execFullReset_keeps h
  | .pmpClose .. => execPmpClose_keeps h
  | .enrol .. => execEnrol_keeps h
  | .handshakeTimeout .. => execHandshakeTimeout_keeps h
  | .sessionTimeout .. => execSessionTimeout_keeps h
  | .fragmentTimeout .. => execFragmentTimeout_keeps h
  | .idcode => execIdcode_keeps h
  | .samplePreload .. => execSamplePreload_keeps h
  | .extest .. => execExtest_keeps h
  | .clamp => execClamp_keeps h
  | .highz => execHighz_keeps h
  | .extestPulse .. => execExtestPulse_keeps h
  | .extestTrain .. => execExtestTrain_keeps h
  | .bypass => execBypass_keeps h
  | .resetNRelease .. => execResetNRelease_keeps h
  | .perstRelease .. => execPerstRelease_keeps h
  | .vauxInRegulation .. => execVauxInRegulation_keeps h
  | .fecLockLoss .. => execFecLockLoss_keeps h
  | .mgmtLinkDown .. => execMgmtLinkDown_keeps h
  | .mgmtLinkUp .. => execMgmtLinkUp_keeps h
  | .configSpaceAccess .. => execConfigSpaceAccess_keeps h
  | .coreUncorrectableFault .. => execCoreUncorrectableFault_keeps h
  | .vcoreOvercurrent .. => execVcoreOvercurrent_keeps h
  | .testLogicReset => execTestLogicReset_keeps h
  | .flashReadDone .. => execFlashReadDone_keeps h
  | .ptmContextExpiry => execPtmContextExpiry_keeps h

/-- Settles O33: a command keeps the queue it is given, and a step gives it the rest. -/
theorem execKeepsQueue : Obligations.ExecKeepsQueue := by
  unfold Obligations.ExecKeepsQueue
  have hexec (c : Instr) (s t : State) (he : exec c s = .next t) : t.pending = s.pending :=
    (exec_keeps c (Keeps.refl s) t he).queue
  refine ⟨hexec, fun c rest s t hfront hstep => ?_⟩
  rw [step_cons hfront] at hstep
  exact hexec c { s with pending := rest } t hstep

/-! ### Soundness -/

/-- What keeps memory's form and the clocks' order keeps a state sound. -/
theorem Keeps.sound {s t : State} (h : Keeps s t) (hs : s.Sound) : t.Sound := ⟨h.mem hs.mem, h.clock hs.clock⟩

/-- Which commands wait is no part of soundness. -/
theorem State.Sound.withPending {s : State} (h : s.Sound) (rest : List Instr) : State.Sound { s with pending := rest } :=
  ⟨h.mem, h.clock⟩

/-- Settles O32: a tick keeps memory and the clocks' order, and so does whichever command stands in front. -/
theorem stepKeepsSound : Obligations.StepKeepsSound := by
  intro s t hs hstep
  match hp : s.pending with
  | [] =>
    obtain rfl : s.tick = t := Host.Outcome.next.inj ((step_nil hp).symm.trans hstep)
    exact (reachWall_keeps (Keeps.refl s)).sound hs
  | c :: rest =>
    rw [step_cons hp] at hstep
    exact (exec_keeps c (Keeps.refl _) t hstep).sound (hs.withPending rest)

end Sys2Proof.Machine

/-! How errors of on-chip storage are contained (21_errors_ras.md, R505; 19_bringup_repair.md, R479). -/

namespace Sys2Proof.Machine

open Sys2Proof

/-! ### A dirty copy written home -/

/-- Data written as poisoned marks its line (R69). -/
theorem poisoned_landLine (off : Nat) (d : List Byte) (m : List Bool) (s : State) :
    poisoned (landLine off d m true s) off = true :=
  congrArg Option.isSome (tget_tput_self (content s off / 64) () s.store.poison)

/-- What was written reads back from the home's copy. -/
theorem homeBytes_landLine {off n : Nat} {d : List Byte} {p : Bool} {s : State} (hn : d.length = n)
    (h : memWf s.store.mem = true) : homeBytes (landLine off d [] p s) off n = d :=
  hn ▸ bytesAt_putBytes h

/-- Bytes outside the written range stay. -/
theorem byteAt_landLine_other {off a : Nat} {d : List Byte} {p : Bool} {s : State}
    (h : a < content s off ∨ content s off + d.length ≤ a) :
    byteAt (landLine off d [] p s).store.mem a = byteAt s.store.mem a :=
  byteAt_putBytes_other h _

/-- An error in a dirty copy sends it home as poisoned and drops every copy (R505). -/
theorem sramError_copy_dirty {s : State} {line : Nat} {d : Dirty} (h : tget line s.coh.dirty = some d) :
    sramError (.copy line) s = dropCopies line (landLine (line * 64) d.data [] true s) := by
  simp only [sramError, h]

/-- A clean copy is read again from its home. -/
theorem sramError_copy_clean {s : State} {line : Nat} (h : tget line s.coh.dirty = none) :
    sramError (.copy line) s = s := by
  simp only [sramError, h]

/-! ### A lost tally word -/

/-- A lost tally word reads as EPOCH 0 with its three flags. -/
theorem tallyAt_tallyLost_self (word : Nat) (s : State) : tallyAt (tallyLost word s) word = 0x000E000000000000 :=
  (tallyAt_of_sync (tallyLost_effect word s).1 word).trans (tallyAt_setTally_self ..)

/-- Losing a tally word leaves every other word. -/
theorem tallyAt_tallyLost_other {word k : Nat} (h : k ≠ word) (s : State) :
    tallyAt (tallyLost word s) k = tallyAt s k :=
  (tallyAt_of_sync (tallyLost_effect word s).1 k).trans (tallyAt_setTally_other h ..)

/-! ### A retired bank -/

/-- Retiring a bank counts it among its cell's retired banks. -/
theorem banks_bankRetire (cause c b : Nat) (s : State) :
    tgetD (bankRetire cause c b s).rep.banks c 0 = tgetD s.rep.banks c 0 + 1 :=
  congrArg (Option.getD · 0) (tget_tput_self ..)

/-- Settles O48: each kind of error by what its containment writes. -/
theorem onChipErrors : Obligations.OnChipErrors := by
  unfold Obligations.OnChipErrors
  refine ⟨?_, ?_, ?_, ?_, ?_⟩
  · -- a tally word
    rintro s _ word rfl
    exact ⟨tallyAt_tallyLost_self word s, fun k hk => tallyAt_tallyLost_other hk s, (tallyLost_effect word s).2⟩
  · -- a scratchpad line
    rintro s _ off rfl
    exact ⟨congrArg Option.isSome (tget_tput_self (off / 64) () s.store.spadPoison), rfl⟩
  · -- a dirty copy
    rintro s _ line d hdirty hlen rfl
    rw [sramError_copy_dirty hdirty]
    exact ⟨poisoned_landLine (line * 64) d.data [] s, tget_tdel_self line s.coh.dirty,
      homeBytes_landLine hlen, fun a ha => byteAt_landLine_other (by rwa [hlen])⟩
  · -- a clean copy
    exact fun s line hclean => sramError_copy_clean hclean
  · -- a bank
    rintro s _ cause c n rfl
    rw [spadBytes, banks_bankRetire]

end Sys2Proof.Machine

/-! The test access port (22_electrical_package.md, R526 to R528). -/

namespace Sys2Proof.Machine

open Sys2Proof

/-- Powered, in reset and untripped, an instruction is selected and acts (R528). -/
theorem tapRun_full {s : State} (hvaux : s.pwr.vaux = true) (hreset : s.rep.boot.resetN = true) (htrip : s.pwr.trip = none)
    (code : Nat) (go : State → State) : tapRun code go s = go (updTap (fun t => { t with ir := code }) s) := by
  simp [tapRun, tapFull, hvaux, hreset, htrip]

/-- Powered, but out of reset or tripped, an instruction acts as BYPASS (R528). -/
theorem tapRun_bypass {s : State} (hvaux : s.pwr.vaux = true) (h : s.rep.boot.resetN = false ∨ s.pwr.trip ≠ none)
    (code : Nat) (go : State → State) :
    (Host.Outcome.next (tapRun code go s) : Host.Outcome State Fault Refusal) = execBypass s := by
  have hfull : tapFull s = false := by
    rcases h with h | h
    · simp [tapFull, h]
    · simp [tapFull, Option.isNone_eq_false_iff.mpr (Option.isSome_iff_ne_none.mpr h)]
  simp [tapRun, execBypass, hvaux, hfull]

/-- Settles O30: each instruction acts in full or as BYPASS by the condition of R528. -/
theorem testAccessRowsComplete : Obligations.TestAccessRowsComplete := by
  unfold Obligations.TestAccessRowsComplete
  refine ⟨?_, fun s => rfl⟩
  rintro s pins next _ hvaux rfl
  refine ⟨congrArg _ (if_pos hvaux), congrArg _ (if_pos hvaux), fun hreset htrip => ?_, fun h i hi => ?_⟩
  · -- in full
    have full (code : Nat) (go : State → State) :
        (Host.Outcome.next (tapRun code go s) : Host.Outcome State Fault Refusal) =
          .next (go (updTap (fun t => { t with ir := code }) s)) :=
      congrArg _ (tapRun_full hvaux hreset htrip code go)
    exact ⟨full _ _, full _ _, full _ _, full _ _, full _ _, full _ _⟩
  · -- as BYPASS
    simp only [List.mem_cons, List.not_mem_nil, or_false] at hi
    rcases hi with rfl | rfl | rfl | rfl | rfl | rfl <;> exact tapRun_bypass hvaux h _ _

end Sys2Proof.Machine
